-- ==== Sys2Proof/Config.lean ====
section
/-! DEFINITION. What the spec leaves open and what the factory fixes: free values (constants with no body, so that no
proof can lean on a value of theirs), and the functions whose algorithm the spec names and does not give
(SHAKE256, XMSS^MT, ML-KEM-1024, AES). -/

namespace Sys2Proof.Config

/-- Free values, indexed by State.freeCtr (log entry 2). -/
opaque free : Nat → BitVec 64
/-- Random words of the RoT's random source (R139), indexed by State.rndCtr. -/
opaque rotRandom : Nat → BitVec 64
/-- What a line reads as when it is read with another key than the one that wrote it (R68, R69, R104):
key that wrote, key that reads, address, stored byte. -/
opaque garble : Nat → Nat → Nat → BitVec 8 → BitVec 8
/-- The steps by which an approximate operation may miss the truncated result (R154, R265): operation, operand bits. -/
opaque approx : Nat → Nat → Nat
/-- Results the spec does not state (R154, R265): operation, operand bits. -/
opaque openResult : Nat → Nat → BitVec 32
/-- SHAKE256 with an output of n bytes (R19). -/
opaque shake256 : Nat → Bytes → Bytes
/-- XMSS^MT signature of a key's leaf over a message (R409): key, leaf, message. -/
opaque xmssSign : Nat → Nat → Bytes → Bytes
/-- Whether an image, token or package verifies under a named key: key, bytes. -/
opaque sigOk : Nat → Bytes → Bool
/-- The secret an ML-KEM-1024 ciphertext decapsulates to (R428): key, ciphertext. -/
opaque kemDecaps : Nat → Bytes → Bytes
/-- Authenticated decryption: key bytes, nonce, associated data, ciphertext, tag. None when the tag does not verify. -/
opaque aeadOpen : Bytes → Bytes → Bytes → Bytes → Bytes → Option Bytes
/-- Authenticated encryption: key bytes, nonce, associated data, plaintext; answers ciphertext and tag. -/
opaque aeadSeal : Bytes → Bytes → Bytes → Bytes → Bytes × Bytes
/-- HKDF or other derivation of named key material: label, input. -/
opaque kdf : Nat → Bytes → Bytes
/-- Factory values of the object dictionary (R6, R22, R459): index, subindex. -/
opaque factory : Nat → Nat → Bytes
/-- Fields of a VNF's registers, whose layout the spec does not give (R332, R333): field number, the eight words. -/
opaque vnfField : Nat → List Nat → Nat
/-- What a row repair leaves in a line that was uncorrectable (R451): address. -/
opaque repaired : Nat → BitVec 8
/-- The identity that a provisioned BMP PSK carries, whose layout the spec does not give (R474). -/
opaque pskId : Bytes → Bytes
/-- Name of a dictionary entry, and the first major version that holds it, of which the spec lists none (R469, R485). -/
opaque odName : Nat → Nat → Bytes
opaque odSince : Nat → Nat → Nat

end Sys2Proof.Config
end

