-- ==== Sys2Proof/Syntax.lean ====
section
/-! DEFINITION. The commands of the block: one constructor of Instr for each row of spec/opcode_table.json, with the
operands the rule of the row gives it. -/

namespace Sys2Proof

/-- Roles (R20) and the sequencer complex, which writes some tile registers itself (R142). -/
inductive Role where
  | host
  | operator
  | tenant (p : Nat)
  | rot
  | vendor
  | seq
  deriving DecidableEq, Repr

/-- The units that hold a service epoch (R47). -/
inductive UnitId where
  | tile (t : Nat)
  | nme (s : Nat)
  | drl (n : Nat)
  deriving DecidableEq, Repr

/-- Format V of an instruction word (R150). -/
structure FmtV where
  pred : Nat := 0
  pneg : Bool := false
  vd   : Nat := 0
  va   : Nat := 0
  vb   : Nat := 0
  vc   : Nat := 0
  ts   : Nat := 0
  td   : Nat := 0
  rm   : Nat := 0
  sat  : Bool := false
  pd   : Nat := 0
  slot : Nat := 0
  negA : Bool := false
  negB : Bool := false
  absA : Bool := false
  deriving DecidableEq, Repr

/-- Format I (R150). -/
structure FmtI where
  pred : Nat := 0
  pneg : Bool := false
  vd   : Nat := 0
  va   : Nat := 0
  pd   : Nat := 0
  imm  : Nat := 0
  deriving DecidableEq, Repr

/-- Format B (R150). The offsets are signed, in instruction words. -/
structure FmtB where
  pred   : Nat := 0
  pneg   : Bool := false
  rpcOff : Int := 0
  tgtOff : Int := 0
  deriving DecidableEq, Repr

/-- Format M (R150). -/
structure FmtM where
  pred   : Nat := 0
  pneg   : Bool := false
  vd     : Nat := 0
  va     : Nat := 0
  vb     : Nat := 0
  space  : Nat := 0
  size   : Nat := 2
  order  : Nat := 0
  scope  : Nat := 0
  aop    : Nat := 0
  far    : Bool := false
  offset : Int := 0
  deriving DecidableEq, Repr

/-- Format T (R150). -/
structure FmtT where
  pred   : Nat := 0
  pneg   : Bool := false
  va     : Nat := 0
  vb     : Nat := 0
  f1     : Nat := 0
  f2     : Nat := 0
  axis   : Bool := false
  src    : Nat := 0
  bsc    : Bool := false
  zero   : Bool := false
  rm     : Nat := 0
  sat    : Bool := false
  slot   : Nat := 0
  mMinus1 : Nat := 0
  accRow : Nat := 0
  scl    : Bool := false
  deriving DecidableEq, Repr

/-- Operands of an update-program instruction (R264). Sources 0–15 name r0–r15, 16–31 name c0–c15. -/
structure NmeArgs where
  rd : Nat := 0
  sa : Nat := 0
  sb : Nat := 0
  sc : Nat := 0
  deriving DecidableEq, Repr

/-- An Ethernet frame: its bytes from the destination address to the end of its payload, without SecTAG, ICV and FCS; whether its FCS is
right and its MACsec tag verifies under the association it names; that association and its packet number (R326, R327). -/
structure Frame where
  bytes    : Bytes := []
  fcsOk    : Bool := true
  authOk   : Bool := true
  an       : Nat := 0
  pn       : Nat := 0
  deriving DecidableEq, Repr

/-- The base header of an Aedian Transport packet (R334) and its connection at the receiver. -/
structure AtHdr where
  version : Nat := 3
  ackReq  : Bool := false
  release : Bool := false
  retx    : Bool := false
  incarn  : Nat := 0
  conn    : Nat := 0
  psn     : Nat := 0
  ack     : Nat := 0
  ce      : Bool := false       -- the IP header carries CE (R345)
  path    : Nat := 0
  deriving DecidableEq, Repr

/-- The payload of HELLO and HELLO_ACK (R343). -/
structure HelloBody where
  minVer     : Nat := 2
  maxVer     : Nat := 3
  maxPayload : Nat := 8192
  window     : Nat := 256
  npaths     : Nat := 1
  incarn     : Nat := 0
  features   : Nat := 0
  senderConn : Nat := 0
  senderPkg  : Nat := 0
  deriving DecidableEq, Repr

/-- An operation given to an AT engine to send (R335). -/
inductive AtOp where
  | write (va : Nat) (release : Bool) (data : Bytes)
  | readReq (va len reqId : Nat)
  | atomic (va aop size operand newVal : Nat)
  | drl (bytes : Bytes)
  | nme (bytes : Bytes)
  deriving DecidableEq, Repr

/-- A reduction header (R357). -/
structure RedHdr where
  nf          : Bool := false
  qValid      : Bool := false
  digestValid : Bool := false
  q           : Word32 := 0
  step        : Nat := 0
  gsig        : Nat := 0
  digest      : Nat := 0
  deriving DecidableEq, Repr

/-- The extension of a Derailleur message (R373) with its reduction header when it has one. -/
structure DrlMsg where
  collId    : Nat := 0
  step      : Nat := 0
  seg       : Nat := 0
  senderPos : Nat := 0
  hdr       : Option RedHdr := none
  payload   : Bytes := []
  deriving DecidableEq, Repr

/-- What a coherent request carries of its access: the part_id and key_gen of its page entry (R69), and of a core's access its hart and
the Svpbmt type of its page, 0 PMA, 1 NC, 2 IO (R66). -/
structure ReqTag where
  part : Nat := 0
  gen  : Nat := 0
  hart : Option Nat := none
  pbmt : Nat := 0
  deriving DecidableEq, Repr

/-- The write that a core's RD_OWN or UPGRADE is for, performed in the H-die cache once the line is held in M (R105). -/
inductive CoreWr where
  | none
  | store (off : Nat) (data : Bytes)
  | amo (off size aop operand newVal : Nat)
  deriving DecidableEq, Repr

/-- A PCIe peer request (R390). -/
inductive PeerOp where
  | read (len : Nat)
  /-- `ro`: the Relaxed Ordering attribute (R114). -/
  | write (data : Bytes) (mask : List Bool) (ro : Bool)
  | fetchAdd (size operand : Nat)
  | swap (size operand : Nat)
  | cas (size expected newVal : Nat)
  deriving DecidableEq, Repr

/-- The doors of the object dictionary with the session or channel a message came through (16). -/
inductive Door where
  | dtls (session : Nat)
  | i3c
  | chan (c : Nat)
  deriving DecidableEq, Repr

/-- The header of a BMP request (R465). -/
structure BmpHdr where
  door    : Door
  seq     : Nat := 0
  odMajor : Nat := 2
  deriving DecidableEq, Repr

/-- Where a PPR command goes: an HBM4 stack or a DDR5 channel (R449). -/
inductive MemCtl where
  | hbm (s : Nat)
  | ddr (ch : Nat)
  deriving DecidableEq, Repr

/-- What a patrol scrub of one line found (R449, R450). -/
inductive ScrubResult where
  | clean | corrected | uncorrectable
  deriving DecidableEq, Repr

/-- The reference clocks (R495). -/
inductive RefClk where
  | pcie (r : Nat) | eth (n : Nat) | sys
  deriving DecidableEq, Repr

/-- The commands, in the order of spec/opcode_table.json. -/
inductive Instr where
  -- 00, 01: the package, islands, the time base, the step boundary
  | absentTileAccess (t off : Nat) (write : Bool)
  | islandWake (u : UnitId)
  | tbAdj (v : Word64)
  | slewDone
  | tbIncrWrite (v : Word64)
  | replicaRealign (node disagreeNs : Nat)
  | ppsInEdge (rising : Bool)
  | ppsMissing
  | ppsOutPulse
  | ppsOutEnd
  | tbSourceLost
  | sendReady (n : Nat)
  | ready (n : Nat)
  | tBBroadcast (n : Nat)
  | stepBoundary (n : Nat)
  | tandemCtrlWrite (role : Role) (v : Word32)
  | unitReinit (u : UnitId) (imageOk : Bool)
  -- 02: translation and the core-reset domain
  | transCtxWrite (role : Role) (attr : Bool) (c : Nat) (v : Word64)
  | transInval (role : Role) (v : Word64)
  | transInvalDone
  | catRootWrite (role : Role) (v : Word64)
  | lockedAccessRetry (i : Nat)
  | coreResetGraceful (role : Role)
  | coreResetForced (role : Role)
  | coreFlushDone
  | coreBoot (imageDigest : Nat)
  -- 03: coherence
  | rdShared (agent line : Nat) (tag : ReqTag := {})
  | rdOwn (agent line : Nat) (tag : ReqTag := {}) (wr : CoreWr := .none)
  | upgrade (agent line : Nat) (tag : ReqTag := {}) (wr : CoreWr := .none)
  | rdOnce (agent line : Nat) (tag : ReqTag := {}) (clean : Bool := false)
  | wrFull (agent line : Nat) (data : Bytes) (tag : ReqTag := {})
  | wrPartial (agent line : Nat) (mask : List Bool) (data : Bytes) (tag : ReqTag := {})
  | atomicReq (agent pa size aop operand newVal : Nat) (tag : ReqTag := {})
  | watchReq (agent line : Nat) (tag : ReqTag := {})
  | presenceSetAck (stack region : Nat)
  | snpShared (agent line : Nat)
  | snpInv (agent line : Nat)
  | snpOnce (agent line : Nat)
  | snpAck (agent line : Nat)
  | snpData (agent line : Nat)
  | grantMsg (agent line : Nat)
  | dataMsg (agent line : Nat)
  | complete (agent line : Nat)
  | conflictQueueAccept (line : Nat)
  | retryQueueGrant (line : Nat)
  | cacheEvict (agent line : Nat)
  | wb (agent line : Nat)
  | evictClean (agent line : Nat)
  | wbAck (agent line : Nat)
  | memReadDone (line : Nat) (outcome : ScrubResult)
  | memWriteAck (line : Nat)
  | tileRngKeyWrite (role : Role) (t : Nat) (key : Word64)
  -- 05: TTIS, executed by group g of package tile t
  | nop (t g : Nat) (w : FmtI)
  | reservedOpcode (t g : Nat) (op : Nat) (w : FmtI)
  | bra (t g : Nat) (w : FmtB)
  | exit (t g : Nat) (w : FmtI)
  | s2r (t g : Nat) (w : FmtI)
  | flgclr (t g : Nat) (w : FmtI)
  | vote (t g : Nat) (w : FmtV)
  | fadd (t g : Nat) (w : FmtV)
  | fsub (t g : Nat) (w : FmtV)
  | fmul (t g : Nat) (w : FmtV)
  | ffma (t g : Nat) (w : FmtV)
  | fmin (t g : Nat) (w : FmtV)
  | fmax (t g : Nat) (w : FmtV)
  | fcmp (t g : Nat) (w : FmtV)
  | fdiv (t g : Nat) (w : FmtV)
  | fsqrt (t g : Nat) (w : FmtV)
  | frcp (t g : Nat) (w : FmtV)
  | frsq (t g : Nat) (w : FmtV)
  | fexp2 (t g : Nat) (w : FmtV)
  | flog2 (t g : Nat) (w : FmtV)
  | ftanh (t g : Nat) (w : FmtV)
  | iadd (t g : Nat) (w : FmtV)
  | isub (t g : Nat) (w : FmtV)
  | imul (t g : Nat) (w : FmtV)
  | imad (t g : Nat) (w : FmtV)
  | and (t g : Nat) (w : FmtV)
  | or (t g : Nat) (w : FmtV)
  | xor (t g : Nat) (w : FmtV)
  | shl (t g : Nat) (w : FmtV)
  | shr (t g : Nat) (w : FmtV)
  | sar (t g : Nat) (w : FmtV)
  | imin (t g : Nat) (w : FmtV)
  | imax (t g : Nat) (w : FmtV)
  | icmp (t g : Nat) (w : FmtV)
  | sel (t g : Nat) (w : FmtV)
  | movi (t g : Nat) (w : FmtI)
  | shfl (t g : Nat) (w : FmtV)
  | cvt (t g : Nat) (w : FmtV)
  | cvts (t g : Nat) (w : FmtV)
  | xlut (t g : Nat) (w : FmtV)
  | xszp (t g : Nat) (w : FmtV)
  | ld (t g : Nat) (w : FmtM)
  | st (t g : Nat) (w : FmtM)
  | atom (t g : Nat) (w : FmtM)
  | watch (t g : Nat) (w : FmtM)
  | dma (t g : Nat) (w : FmtT)
  | mload (t g : Nat) (w : FmtT)
  | mswap (t g : Nat) (w : FmtT)
  | mstream (t g : Nat) (w : FmtT)
  | mdrain (t g : Nat) (w : FmtT)
  | mzero (t g : Nat) (w : FmtT)
  | sbind (t g : Nat) (w : FmtV)
  | sget (t g : Nat) (w : FmtV)
  | amax (t g : Nat) (w : FmtV)
  | bscale (t g : Nat) (w : FmtV)
  | rand (t g : Nat) (w : FmtV)
  | srctx (t g : Nat) (w : FmtV)
  | ppush (t g : Nat) (w : FmtT)
  | ppop (t g : Nat) (w : FmtT)
  | fence (t g : Nat) (w : FmtM)
  | bar (t g : Nat) (w : FmtI)
  | waitq (t g : Nat) (w : FmtI)
  | wwait (t g : Nat) (w : FmtI)
  | wwaitTimeout (t g : Nat)
  -- 04, 05, 07, 10: tile-level units, laps, jobs, folds
  | arrayQueueStart (t : Nat)
  | arrayOpDone (t : Nat)
  | dmaDescStart (t ch : Nat)
  | dmaDescDone (t ch : Nat)
  | lapDispatch (t : Nat)
  | lapStart (t : Nat)
  | lapEnd (t : Nat)
  | sbindComplete (t slot : Nat)
  | jobLastLapEnd (n j : Nat)
  | reconversionDone (n j : Nat)
  | jobComplete (n j : Nat)
  | validationFold (role : Role) (d : Nat)
  | fold (s d : Nat)
  -- 08: Pannier
  | ppushStart (t : Nat)
  | ppushDone (t : Nat)
  | ppopDone (t : Nat)
  | spillStart (n s : Nat)
  | prefetchFillStart (n s : Nat)
  | demandFillStart (n s : Nat)
  | moveDone (n s : Nat)
  | panClear (role : Role) (n : Nat) (v : Word32)
  | panSizesWrite (role : Role) (n : Nat) (v : Word64)
  | panEnable (role : Role) (n : Nat) (v : Word32)
  -- 09: NME
  | nmeProgWrite (role : Role) (s bank i : Nat) (v : Word64)
  | progCommit (role : Role) (s : Nat)
  | sweep (n sq : Nat)
  | sweepPhaseN (s : Nat)
  | sweepMrDone (s : Nat)
  | sweepBarrier (d : Nat)
  | sweepShardUpdate (s : Nat)
  | prefoldRequest (s tid : Nat)
  | sweepPrefold (s : Nat)
  | sweepShardDerive (s : Nat)
  | sweepPhaseX (s : Nat)
  | sweepCommit (s : Nat)
  | repairReq (s shard step : Nat) (die : Nat := 0) (h : Option AtHdr := none)
  | repairData (s shard step off : Nat) (data : Bytes) (h : Option AtHdr := none)
  | repairEnd (s shard step crc : Nat) (h : Option AtHdr := none)
  | repairNak (s shard step reason : Nat) (h : Option AtHdr := none)
  | repairRetry (s shard : Nat)
  | nmeNop (s op : Nat)
  | nmeEnd (s : Nat)
  | nmeMov (s : Nat) (a : NmeArgs)
  | nmeAdd (s : Nat) (a : NmeArgs)
  | nmeSub (s : Nat) (a : NmeArgs)
  | nmeMul (s : Nat) (a : NmeArgs)
  | nmeFma (s : Nat) (a : NmeArgs)
  | nmeFnma (s : Nat) (a : NmeArgs)
  | nmeDiv (s : Nat) (a : NmeArgs)
  | nmeSqrt (s : Nat) (a : NmeArgs)
  | nmeRsq (s : Nat) (a : NmeArgs)
  | nmeExp2 (s : Nat) (a : NmeArgs)
  | nmeLog2 (s : Nat) (a : NmeArgs)
  | nmeMin (s : Nat) (a : NmeArgs)
  | nmeMax (s : Nat) (a : NmeArgs)
  | nmeAbs (s : Nat) (a : NmeArgs)
  | nmeNeg (s : Nat) (a : NmeArgs)
  | nmeSign (s : Nat) (a : NmeArgs)
  | nmeClamp (s : Nat) (a : NmeArgs)
  | nmeSelge (s : Nat) (a : NmeArgs)
  | rekeyGo (role : Role) (s : Nat) (v : Word64)
  | rekeyChunkDone (mc : Bool) (s : Nat)
  | rekeyPageDone (mc : Bool) (s : Nat)
  | mcRekeyGo (role : Role) (m : Nat) (v : Word64)
  -- 10: command streams
  | streamEnable (role : Role) (n sq : Nat) (v : Word32)
  | streamDisable (role : Role) (n sq : Nat)
  | haltClear (role : Role) (n sq : Nat)
  | entryFetch (n sq : Nat)
  | nopEntry (n sq : Nat)
  | jobEntryStart (n sq : Nat)
  | mbBegin (n sq : Nat)
  | mbRoundStart (n m : Nat)
  | waitEntry (n sq : Nat)
  | waitTimeout (n w : Nat)
  | stepEnd (n sq : Nat)
  -- 11: Ethernet ports and Aedian Transport
  | linkDown (p l : Nat) (corr : Nat := 0) (unc : Nat := 0)
  | linkUp (p l : Nat)
  | retrainTimeout (p : Nat)
  | portRetrain (role : Role) (p : Nat)
  | portModeWrite (role : Role) (p mode : Nat)
  | frameRx (p l : Nat) (f : Frame) (corr : Nat := 0) (unc : Nat := 0)
  | frameTx (p l cls : Nat) (f : Frame)
  | pfcRepeat (p l c : Nat)
  | pfcRx (p l mask : Nat) (quanta : List Nat)
  | pfcPauseExpiry (p l c : Nat)
  | pfcWatchdog (p l c : Nat)
  | pfcWdEnd (p l c : Nat)
  | sakInstall (p l an : Nat)
  | sakRetire (p l an : Nat)
  | mkaLifetimeExpiry (p l : Nat)
  | vnfEnable (role : Role) (v : Nat)
  | vnfTxPoll (v : Nat)
  | vnfItrExpiry (v : Nat)
  | atEnable (role : Role) (n : Nat)
  | connOpen (role : Role) (n conn : Nat)
  | connClose (role : Role) (n conn : Nat)
  | connReset (role : Role) (n conn : Nat)
  | atOpIssue (n conn issuer : Nat) (op : AtOp)
  | atWrite (n : Nat) (h : AtHdr) (va : Nat) (data : Bytes)
  | readReq (n : Nat) (h : AtHdr) (va len reqId : Nat)
  | readResp (n : Nat) (h : AtHdr) (reqId off code : Nat) (data : Bytes)
  | atAtomic (n : Nat) (h : AtHdr) (va aop size operand newVal : Nat)
  | atomicResp (n : Nat) (h : AtHdr) (reqPsn code : Nat) (old : Word64)
  | atAck (n : Nat) (h : AtHdr) (sack : List (Nat × Nat))
  | atNak (n : Nat) (h : AtHdr) (psn code : Nat)
  | cnp (n : Nat) (h : AtHdr)
  | rateIncreaseTimer (n conn : Nat)
  | alphaDecayTimer (n conn : Nat)
  | ackTimer (n conn : Nat)
  | rtoExpiry (n conn : Nat)
  | hello (n conn : Nat) (b : HelloBody)
  | helloAck (n conn : Nat) (b : HelloBody)
  | helloNak (n conn code : Nat)
  | helloTimer (n conn : Nat)
  -- 12: Derailleur
  | drlEnable (role : Role) (n : Nat) (v : Word32)
  | routeWindowWrite (role : Role) (n : Nat) (slotWin : Bool) (i off width : Nat) (v : Word64)
  | routeCommit (role : Role) (n : Nat)
  | routeSaveDone (n : Nat)
  | allReduce (n sq : Nat)
  | reduceScatter (n sq : Nat)
  | allGather (n sq : Nat)
  | allToAll (n sq : Nat)
  | dispatch (n sq : Nat)
  | combine (n sq : Nat)
  | gradDispatch (n sq : Nat)
  | gradCombine (n sq : Nat)
  | verdict (n sq : Nat)
  | digest (n sq : Nat)
  | collStartInstant (n coll : Nat)
  | stageReserve (n coll : Nat)
  | verdictTerm (n fromDie : Nat)
  | verdictResult (n : Nat)
  | drlCount (n : Nat) (m : DrlMsg) (h : Option AtHdr := none)
  | drlAllow (n : Nat) (m : DrlMsg) (h : Option AtHdr := none)
  | drlRow (n : Nat) (m : DrlMsg) (h : Option AtHdr := none)
  | drlPart (n : Nat) (m : DrlMsg) (h : Option AtHdr := none)
  | drlData (n : Nat) (m : DrlMsg) (h : Option AtHdr := none)
  | drlResult (n : Nat) (m : DrlMsg) (h : Option AtHdr := none)
  | drlEnd (n : Nat) (m : DrlMsg) (h : Option AtHdr := none)
  | drlAbort (n : Nat) (m : DrlMsg) (h : Option AtHdr := none)
  | drlTimeout (n coll : Nat)
  -- 13: interrupts, IOMMU, PCIe
  | imsicMsi (pa size : Nat) (data : Word32)
  | peerRequest (m rid addr : Nat) (ideT : Bool) (op : PeerOp)
  | iommuDtInval (role : Role) (m : Nat) (v : Word32)
  | iommuDtInvalDone (m : Nat)
  | pcieRecoveryEnter (r l : Nat)
  | pcieRecoveryExit (r l : Nat)
  | pcieLinkDown (r l : Nat)
  | pcieLinkUp (r l speed width : Nat) (flit cxl : Bool)
  -- 14: security mailbox commands (mailbox i, seq), attestation, Chainring cells
  | attest (i seq : Nat) (nonce : Nat) (scope : Nat) (signOk : Bool := true)
  | partCreate (i seq p mask : Nat) (seed : Option Word64) (ctxMask : Word64) (ranges : List (Nat × Nat)) (pairOk : Bool := true)
  | partTeardown (i seq p : Nat)
  | bindHart (i seq p m : Nat) (harts : Word64) (va len : Nat)
  | grant (i seq p base size : Nat)
  | keyRotate (i seq p : Nat)
  | rekeyStart (i seq p : Nat) (mc : Bool) (unit ctx desc : Nat)
  | keyRelease (i seq p slot : Nat) (reportDigest : Nat) (ct wrapped tag : Bytes)
  | huskLoad (i seq p slot ctx : Nat) (header : Bytes) (chunks : List (Nat × Nat × Nat))
  | tdispAdmit (i seq p rid port : Nat) (accepted : Bool) (measurement : Bytes)
  | tdispStart (i seq p rid : Nat)
  | fwStage (i seq cls dieMask : Nat) (image : Bytes)
  | fwActivate (i seq node : Nat)
  | provision (i seq kind idx : Nat) (secret : Bytes)
  | configWrite (i seq p addr value width : Nat)
  | zeroise (i seq : Nat)
  | debugUnlock (i seq : Nat) (token : Bytes)
  | unknownMboxCommand (i seq cmd : Nat)
  | mboxResponse (i : Nat)
  | selfTestPeriodic (pass : Bool)
  | crCellRx (node k : Nat) (tagOk : Bool) (cell : Bytes)
  | crLinkRekey (node k : Nat)
  -- 15: faults, recovery, repair
  | faultEvent (node b src : Nat) (detail : Nat)
  | fltForce (role : Role) (node b : Nat) (mask : Word32)
  | fltIsolate (role : Role) (node b : Nat)
  | fltRestore (role : Role) (node b : Nat) (pass : Bool)
  | fltReset (role : Role) (node b : Nat) (pass : Bool)
  | quietPeriodEnd (node b : Nat) (pass : Bool)
  | fltRecoveryClear (role : Role) (node b : Nat) (v : Word64)
  | recentWindowExpiry (node b : Nat)
  | fltNvSave
  | patrolScrub (pa : Nat) (found : ScrubResult) (pch bank row : Nat)
  | rowRepair (role : Role) (c : MemCtl) (v : Word64)
  | rowRepairDone (c : MemCtl)
  | powerfailAssert
  | sagSaveDone
  | powerfailRelease
  -- 16: BMP and the object dictionary, I3C, in-band channels
  | read (h : BmpHdr) (index sub off len : Nat)
  | write (h : BmpHdr) (index sub : Nat) (final useDefault : Bool) (off : Nat) (data : Bytes)
  | describe (h : BmpHdr) (index sub : Nat)
  | next (h : BmpHdr) (index sub : Nat)
  | heartbeat (h : BmpHdr)
  | mboxSubmit (h : BmpHdr) (final : Bool) (off : Nat) (data : Bytes)
  | mboxFetch (h : BmpHdr) (off len : Nat)
  | subscribe (h : BmpHdr) (on : Bool)
  | badMessage (h : BmpHdr)
  | dtlsHandshake (pskId : Bytes) (finishedOk rateOk : Bool)
  | sessionIdleTimeout (session : Nat)
  | i3cPrivateWrite (bytes : Bytes) (crc : Word32)
  | i3cPrivateRead
  | entdaa (addr : Nat)
  | setdasa (static addr : Nat)
  | setnewda (addr : Nat)
  | rstdaa
  | enec (events : Nat)
  | disec (events : Nat)
  | getpid
  | getbcr
  | getdcr
  | getstatus
  | getmwl
  | getmrl
  | setmwl (n : Nat)
  | setmrl (n : Nat)
  | rstact (action : Nat)
  | odcGo (hart c : Nat)
  | mgmtWatchdog
  -- 17, 18: power, clocks, start-up, pins
  | powerSample (mw mainMv auxMv : Nat)
  | tempSample (s : Nat) (centiC : Int)
  | gearRequest (role : Role) (gear : Nat)
  | ivrTrip (node : Nat)
  | mainInputLoss
  | mainInputRestore
  | refclkLoss (c : RefClk)
  | refclkReturn (c : RefClk) (trueNs : Word64)
  | resetNAssert
  | packageReset
  | startupStepDone (ok : Bool) (info : List Nat)
  -- 00 to 18: writes with no row of their own, islands, boots, windows, Acorn links, pins, NV, TDISP
  | regWrite (role : Role) (pa width : Nat) (v : Word64) (node : Nat := 8)
  | islandSleep (u : UnitId)
  | coreBootDone
  | windowAccess (agent pa : Nat) (write : Bool) (len : Nat) (data : Bytes)
  | acornLinkDown
  | acornLinkRestore
  | saveDeadline
  | auxInputLoss
  | auxInputApply
  | nvCommitDone (ok : Bool)
  | tdispLeaveRun (rid : Nat)
  deriving DecidableEq, Repr

end Sys2Proof
end

