-- ==== Sys2Proof/Machine/Tab.lean ====
section
/-! DEFINITION. Sparse tables of the state: a finite map from natural keys, kept in rising order of its keys. An entry
that is not there reads as the default the reader names. -/

namespace Sys2Proof.Machine

/-- A sparse table. -/
structure Tab (α : Type) where
  rows : List (Nat × α) := []
  deriving DecidableEq, Repr

variable {α β : Type}

def Tab.lookIn (k : Nat) : List (Nat × α) → Option α
  | [] => none
  | (k', v) :: r => if k' = k then some v else Tab.lookIn k r

/-- Puts k ↦ v in front of the first greater key and drops every older row of k. -/
def Tab.putIn (k : Nat) (v : α) : List (Nat × α) → List (Nat × α)
  | [] => [(k, v)]
  | (k', v') :: r => if k' < k then (k', v') :: Tab.putIn k v r
                     else if k' = k then (k, v) :: r
                     else (k, v) :: (k', v') :: r

def Tab.at? (t : Tab α) (k : Nat) : Option α := Tab.lookIn k t.rows
def Tab.atD (t : Tab α) (k : Nat) (d : α) : α := (t.at? k).getD d
def Tab.put (t : Tab α) (k : Nat) (v : α) : Tab α := ⟨Tab.putIn k v t.rows⟩
def Tab.del (t : Tab α) (k : Nat) : Tab α := ⟨t.rows.filter (fun p => p.1 != k)⟩
def Tab.has (t : Tab α) (k : Nat) : Bool := (t.at? k).isSome
/-- Keeps the rows that satisfy p. -/
def Tab.keep (t : Tab α) (p : Nat → α → Bool) : Tab α := ⟨t.rows.filter (fun r => p r.1 r.2)⟩
def Tab.mapVals (t : Tab α) (f : Nat → α → α) : Tab α := ⟨t.rows.map (fun r => (r.1, f r.1 r.2))⟩
def Tab.keys (t : Tab α) : List Nat := t.rows.map (·.1)
def Tab.count (t : Tab α) (p : Nat → α → Bool) : Nat := (t.rows.filter (fun r => p r.1 r.2)).length
def Tab.empty : Tab α := ⟨[]⟩
def Tab.upd (t : Tab α) (k : Nat) (d : α) (f : α → α) : Tab α := t.put k (f (t.atD k d))

/-- Puts x before the first element that is not below it. -/
def insertBy {α : Type} (le : α → α → Bool) (x : α) : List α → List α
  | [] => [x]
  | y :: r => if le x y then x :: y :: r else y :: insertBy le x r
/-- A list in the order le, equal elements as they came. -/
def sortBy {α : Type} (le : α → α → Bool) (l : List α) : List α := l.foldr (insertBy le) []

end Sys2Proof.Machine
end

