-- ==== Sys2Proof/Machine/Mem.lean ====
section
/-! DEFINITION. Memory as data: (address, byte) pairs, addresses strictly rising, no pair equal to what an unlisted
address reads as. One list holds every memory of the package: HBM4, DDR5, CXL.mem and the Pod and tile-store windows,
each byte under its physical address (R50). Byte order is little-endian (R17). -/

namespace Sys2Proof.Machine

/-- What a byte reads as that nothing has written: DESIGN CHOICE, log entry 3. The spec gives no contents. -/
def Mem.unlisted : Byte := 0

abbrev Mem := List Host.Cell

/-- The canonical form: addresses strictly rising above `lo`, and no byte equal to the unlisted one. -/
def Mem.wfFrom (lo : Nat) : Mem → Bool
  | [] => true
  | (a, b) :: m => decide (lo ≤ a) && (b != Mem.unlisted) && Mem.wfFrom (a + 1) m

def Mem.wf (m : Mem) : Bool := Mem.wfFrom 0 m

def Mem.get (a : Nat) : Mem → Byte
  | [] => Mem.unlisted
  | (a', b) :: m => if a' = a then b else if a < a' then Mem.unlisted else Mem.get a m

/-- Lists byte b at a, or unlists a when b is the unlisted byte. -/
def Mem.cons (a : Nat) (b : Byte) (m : Mem) : Mem := if b = Mem.unlisted then m else (a, b) :: m

def Mem.put (a : Nat) (b : Byte) : Mem → Mem
  | [] => Mem.cons a b []
  | (a', b') :: m => if a' < a then (a', b') :: Mem.put a b m
                     else if a' = a then Mem.cons a b m
                     else Mem.cons a b ((a', b') :: m)

def Mem.putBytes (m : Mem) (a : Nat) : Bytes → Mem
  | [] => m
  | b :: bs => Mem.putBytes (Mem.put a b m) (a + 1) bs

def Mem.getBytes (m : Mem) (a : Nat) : Nat → Bytes
  | 0 => []
  | n + 1 => Mem.get a m :: Mem.getBytes m (a + 1) n

/-- Drops every listed byte that p picks, so that it reads as the unlisted one. -/
def Mem.clear (m : Mem) (p : Nat → Bool) : Mem := m.filter (fun c => !p c.1)

/-- The number a byte string spells, first byte least significant (R17). -/
def leVal : Bytes → Nat
  | [] => 0
  | b :: bs => b.toNat + 256 * leVal bs

/-- n bytes of v, least significant first (R17). -/
def leBytes : Nat → Nat → Bytes
  | 0, _ => []
  | n + 1, v => BitVec.ofNat 8 v :: leBytes n (v / 256)

/-- The number a byte string spells in network byte order (R17). -/
def beVal (bs : Bytes) : Nat := leVal bs.reverse
def beBytes (n v : Nat) : Bytes := (leBytes n v).reverse

/-- Bytes o … o + n − 1 of a string; bytes past its end read as 0. -/
def sliceB (bs : Bytes) (o n : Nat) : Bytes :=
  let t := (bs.drop o).take n
  t ++ List.replicate (n - t.length) 0
/-- The little-endian field of n bytes at offset o. -/
def fieldB (bs : Bytes) (o n : Nat) : Nat := leVal (sliceB bs o n)
/-- bs with v's n bytes at offset o. -/
def setFieldB (bs : Bytes) (o n v : Nat) : Bytes := sliceB bs 0 o ++ leBytes n v ++ bs.drop (o + n)
/-- bs with the bytes d at offset o. -/
def setSliceB (bs : Bytes) (o : Nat) (d : Bytes) : Bytes := sliceB bs 0 o ++ d ++ bs.drop (o + d.length)
def zerosB (n : Nat) : Bytes := List.replicate n 0

/-- Bits hi … lo of a number. -/
def bitsN (v hi lo : Nat) : Nat := (v / 2 ^ lo) % 2 ^ (hi + 1 - lo)
def bitN (v i : Nat) : Bool := (v / 2 ^ i) % 2 == 1
/-- v with bits hi … lo replaced by f. -/
def setBitsN (v hi lo f : Nat) : Nat :=
  v - bitsN v hi lo * 2 ^ lo + (f % 2 ^ (hi + 1 - lo)) * 2 ^ lo
def bN (b : Bool) : Nat := if b then 1 else 0
def ceilDiv (a b : Nat) : Nat := (a + b - 1) / b
/-- a rounded up to a multiple of b. -/
def roundUp (a b : Nat) : Nat := ceilDiv a b * b
/-- The two's complement value of the low w bits. -/
def sgnN (w v : Nat) : Int := let u := v % 2 ^ w; if u < 2 ^ (w - 1) then u else (u : Int) - 2 ^ w
/-- The low w bits of an integer. -/
def uN (w : Nat) (v : Int) : Nat := (v % (2 ^ w : Int)).toNat
def minList (l : List Nat) : Option Nat := l.foldl (fun a x => match a with | none => some x | some y => some (min x y)) none
def maxList (l : List Nat) : Nat := l.foldl max 0

end Sys2Proof.Machine
end

