-- ==== Sys2Proof/Machine/Fp.lean ====
section
/-! DEFINITION. Number formats and conversion (spec/06): exact values, the one rounding step of R192 and R193, the
conversion sequence of R194 to R197, and the arithmetic of R154 and R265 on exact values. Group flags are a number whose
bits R183 gives. -/

namespace Sys2Proof.Machine

/-- A value of a float format: NaN, an infinity, or (−1)^neg · m · 2^e (zero keeps its sign, R189). -/
inductive FV where
  | nan
  | inf (neg : Bool)
  | fin (neg : Bool) (m : Nat) (e : Int)
  deriving DecidableEq, Repr

namespace Fl
/-- Group flags (R183). -/
abbrev nv : Nat := 1
abbrev dz : Nat := 2
abbrev of : Nat := 4
abbrev uf : Nat := 8
abbrev sat : Nat := 16
abbrev fz : Nat := 32
abbrev nf : Nat := 64
end Fl

def flOr (a b : Nat) : Nat := Nat.lor a b

/-- A float format (R187): exponent bits, fraction bits, bias, and the kind of its top exponent:
0 infinities and NaNs, 1 one NaN code (E4M3), 2 finite values only. -/
structure Fmt where
  eb : Nat
  mb : Nat
  bias : Int
  top : Nat
  deriving DecidableEq, Repr

/-- Types 0 to 7 (R151, R187); anything else as FP32. -/
def fmtOf (t : Nat) : Fmt :=
  match t with
  | 1 => ⟨8, 7, 127, 0⟩
  | 2 => ⟨5, 10, 15, 0⟩
  | 3 => ⟨4, 3, 7, 1⟩
  | 4 => ⟨5, 2, 15, 0⟩
  | 5 => ⟨3, 2, 3, 2⟩
  | 6 => ⟨2, 3, 1, 2⟩
  | 7 => ⟨2, 1, 1, 2⟩
  | _ => ⟨8, 23, 127, 0⟩

/-- Width in bits of an element of type t (R190); register slots are those of R151. -/
def typeBits (t : Nat) : Nat :=
  match t with
  | 0 => 32 | 1 => 16 | 2 => 16 | 3 => 8 | 4 => 8 | 5 => 6 | 6 => 6 | 7 => 4 | 8 => 8 | 9 => 4 | 10 => 32 | _ => 8
def slotBits (t : Nat) : Nat := if typeBits t = 6 then 8 else typeBits t
def isFloatType (t : Nat) : Bool := t ≤ 7
def isIntType (t : Nat) : Bool := t == 8 || t == 9 || t == 10
/-- Largest finite magnitude of a float type as m · 2^e. -/
def maxFin (t : Nat) : Nat × Int :=
  let f := fmtOf t
  let emax : Int := if f.top = 0 then 2 ^ f.eb - 2 - f.bias else 2 ^ f.eb - 1 - f.bias
  let m : Nat := if f.top = 1 then 2 ^ (f.mb + 1) - 2 else 2 ^ (f.mb + 1) - 1
  (m, emax - f.mb)

def intMax (t : Nat) : Int := if t = 8 then 127 else if t = 9 then 7 else 2 ^ 31 - 1
def intMin (t : Nat) : Int := if t = 8 then -128 else if t = 9 then -8 else -(2 ^ 31)

/-- The value a float encoding stands for (R187). -/
def decFloat (t v : Nat) : FV :=
  let f := fmtOf t
  let neg := bitN v (f.eb + f.mb)
  let e := bitsN v (f.eb + f.mb - 1) f.mb
  let m := v % 2 ^ f.mb
  if f.top = 0 && e = 2 ^ f.eb - 1 then (if m = 0 then .inf neg else .nan)
  else if f.top = 1 && e = 2 ^ f.eb - 1 && m = 2 ^ f.mb - 1 then .nan
  else if e = 0 then .fin neg m (1 - f.bias - f.mb)
  else .fin neg (m + 2 ^ f.mb) ((e : Int) - f.bias - f.mb)

/-- The value of an encoding of any type of R151: integers are exact, E8M0 is a power of two (R191). -/
def decType (t v : Nat) : FV :=
  if t ≤ 7 then decFloat t v
  else if t = 11 then (if v % 256 = 255 then .nan else .fin false 1 ((v % 256 : Nat) - 127))
  else let i := sgnN (typeBits t) v; .fin (i < 0) i.natAbs 0

/-- Subnormal in its own format (R198). -/
def isSubnormal (t v : Nat) : Bool :=
  let f := fmtOf t
  t ≤ 7 && bitsN v (f.eb + f.mb - 1) f.mb = 0 && v % 2 ^ f.mb ≠ 0

/-- The positive canonical NaN (R188); types without NaN have none and give 0. -/
def nanOf (t : Nat) : Nat :=
  match t with
  | 0 => 0x7FC00000 | 1 => 0x7FC0 | 2 => 0x7E00 | 3 => 0x7F | 4 => 0x7E | 11 => 0xFF | _ => 0
def signBit (t : Nat) (neg : Bool) : Nat := if neg then 2 ^ (typeBits t - 1) else 0
def infOf (t : Nat) (neg : Bool) : Nat := let f := fmtOf t; signBit t neg + (2 ^ f.eb - 1) * 2 ^ f.mb
def maxFinOf (t : Nat) (neg : Bool) : Nat :=
  let f := fmtOf t
  signBit t neg + (if f.top = 0 then (2 ^ f.eb - 1) * 2 ^ f.mb - 1 else if f.top = 1 then 2 ^ (f.eb + f.mb) - 2
    else 2 ^ (f.eb + f.mb) - 1)

/-- Exponent of the leading bit of m · 2^e, for m ≠ 0. -/
def leadExp (m : Nat) (e : Int) : Int := (Nat.log2 m : Nat) + e

/-- The rounding step of R192 and R193 on the magnitude m · 2^e at the grid 2^q: the multiple of the grid chosen, and
whether it was rounded away from zero. `rm` is the encoding of R152 and `u` the 16 random bits of SR. -/
def roundMag (neg : Bool) (m : Nat) (e q : Int) (rm u : Nat) : Nat × Bool :=
  if q ≤ e then (m * 2 ^ (e - q).toNat, false) else
  let sh := (q - e).toNat
  let k := m / 2 ^ sh
  let r := m % 2 ^ sh
  let up : Bool :=
    if r = 0 then false
    else match rm with
      | 0 => 2 * r > 2 ^ sh || (2 * r = 2 ^ sh && k % 2 = 1)
      | 1 => false
      | 2 => neg
      | 3 => !neg
      | _ => r * 65536 / 2 ^ sh + u % 65536 ≥ 65536
  (if up then k + 1 else k, up)

/-- m · 2^e ≤ m' · 2^e'. -/
def magLe (m : Nat) (e : Int) (m' : Nat) (e' : Int) : Bool :=
  if e ≤ e' then m ≤ m' * 2 ^ (e' - e).toNat else m * 2 ^ (e - e').toNat ≤ m'

/-- The encoding of k · 2^q, a value of format t that does not exceed its largest finite value, q on its grid. -/
def encodeMag (t : Nat) (neg : Bool) (k : Nat) (q : Int) : Nat :=
  let f := fmtOf t
  if k = 0 then signBit t neg
  else
    let lead := leadExp k q
    let emin : Int := 1 - f.bias
    if lead < emin then signBit t neg + (if q ≤ emin - f.mb then k / 2 ^ (emin - f.mb - q).toNat else k * 2 ^ (q - (emin - f.mb)).toNat)
    else
      let qq := lead - f.mb
      let mant := if qq ≤ q then k * 2 ^ (q - qq).toNat else k / 2 ^ (qq - q).toNat
      signBit t neg + (lead + f.bias).toNat * 2 ^ f.mb + mant % 2 ^ f.mb

/-- Steps 5 to 7 of R194 for a float target: rounds m · 2^e (m ≠ 0) into type t and answers the bits and the flags of
R195. `ftz`: the unit flushes subnormal results (R198). -/
def roundFloat (t : Nat) (neg : Bool) (m : Nat) (e : Int) (rm u : Nat) (sat ftz : Bool) : Nat × Nat :=
  let f := fmtOf t
  let emin : Int := 1 - f.bias
  let q : Int := max (leadExp m e) emin - f.mb
  let k := (roundMag neg m e q rm u).1
  let (mm, me) := maxFin t
  if !magLe k q mm me then
    if f.top = 2 then (maxFinOf t neg, Fl.sat)
    else if sat then (maxFinOf t neg, Fl.sat)
    else if f.top = 1 then (nanOf t, Fl.of)
    else
      let toInf := match rm with
        | 0 => true | 1 => false | 2 => neg | 3 => !neg | _ => true
      (if toInf then infOf t neg else maxFinOf t neg, Fl.of)
  else
    let sub := k = 0 || leadExp k q < emin
    let b := encodeMag t neg k q
    if sub then
      if ftz && k ≠ 0 then (signBit t neg, flOr Fl.uf Fl.fz) else (b, Fl.uf)
    else (b, 0)

/-- R195 and R196 for an integer target: rounds to the units and clamps. -/
def roundInt (t : Nat) (neg : Bool) (m : Nat) (e : Int) (rm u : Nat) : Nat × Nat :=
  let (k, _) := roundMag neg m e 0 rm u
  let v : Int := if neg then -(k : Int) else k
  if v > intMax t then (uN (typeBits t) (intMax t), Fl.sat)
  else if v < intMin t then (uN (typeBits t) (intMin t), Fl.sat)
  else (uN (typeBits t) v, 0)

/-- R197: conversion into E8M0 of m · 2^e, m ≠ 0. -/
def roundE8M0 (m : Nat) (e : Int) (rm : Nat) : Nat × Nat :=
  let l := Nat.log2 m
  let k : Int := (l : Int) + e
  let one := m = 2 ^ l
  let twice := 2 * m            -- compares m / 2^l with 1.5
  let c : Int :=
    if rm = 1 || rm = 2 then k
    else if rm = 3 then (if one then k else k + 1)
    else if twice < 3 * 2 ^ l then k
    else if twice > 3 * 2 ^ l then k + 1
    else if (k + 127) % 2 = 0 then k else k + 1
  if c < -127 then (0, Fl.uf) else if c > 127 then (0xFE, Fl.sat) else ((c + 127).toNat, 0)

/-- The conversion sequence of R194 from an exact value on (steps 1 and 4 to 7). -/
def convFV (x : FV) (td rm u : Nat) (sat ftz : Bool) : Nat × Nat :=
  match x with
  | .nan =>
    if td = 5 || td = 6 || td = 7 then (0, Fl.nv) else if isIntType td then (0, Fl.nv) else (nanOf td, 0)
  | .inf neg =>
    if td = 11 then (0xFF, Fl.nv)
    else if isIntType td then (uN (typeBits td) (if neg then intMin td else intMax td), Fl.sat)
    else if (fmtOf td).top = 2 then (maxFinOf td neg, Fl.sat)
    else if sat then (maxFinOf td neg, Fl.sat)
    else if (fmtOf td).top = 1 then (nanOf td, Fl.nv)
    else (infOf td neg, 0)
  | .fin neg m e =>
    if td = 11 then (if m = 0 then (0, Fl.uf) else roundE8M0 m e rm)
    else if isIntType td then roundInt td neg m e rm u
    else if m = 0 then (signBit td neg, 0)
    else roundFloat td neg m e rm u sat ftz

/-- Reads an operand of type t, flushing a subnormal one when `daz` (R194 step 2). -/
def readFV (t v : Nat) (daz : Bool) : FV × Nat :=
  if daz && isSubnormal t v then (.fin (bitN v (typeBits t - 1)) 0 0, Fl.fz) else (decType t v, 0)

/-- CVT (R166): type ts to td. -/
def convBits (ts td v rm u : Nat) (sat daz ftz : Bool) : Nat × Nat :=
  let (x, f1) := readFV ts v daz
  let (b, f2) := convFV x td rm u sat ftz
  (b, flOr f1 f2)

/-! ### Exact arithmetic -/

def FV.isNan : FV → Bool | .nan => true | _ => false
def FV.isZero : FV → Bool | .fin _ m _ => m == 0 | _ => false
def FV.neg : FV → Bool | .nan => false | .inf n => n | .fin n _ _ => n
def FV.negate : FV → FV | .nan => .nan | .inf n => .inf (!n) | .fin n m e => .fin (!n) m e
def FV.abs : FV → FV | .nan => .nan | .inf _ => .inf false | .fin _ m e => .fin false m e
def FV.isFin : FV → Bool | .fin .. => true | _ => false

/-- Exact sum of finite values; the sign of a zero sum follows IEEE 754-2019 (R189): −0 only from two negative zeros,
or from an exact cancellation when rounding toward −∞. -/
def addFin (n1 : Bool) (m1 : Nat) (e1 : Int) (n2 : Bool) (m2 : Nat) (e2 : Int) (rm : Nat) : FV :=
  let e := min e1 e2
  let a := m1 * 2 ^ (e1 - e).toNat
  let b := m2 * 2 ^ (e2 - e).toNat
  let x : Int := (if n1 then -(a : Int) else a) + (if n2 then -(b : Int) else b)
  if x = 0 then
    (if m1 = 0 && m2 = 0 && n1 == n2 then .fin n1 0 0 else .fin (rm = 2) 0 0)
  else .fin (x < 0) x.natAbs e

/-- Sum with its invalid flag: NaN propagates, opposite infinities give NaN. -/
def addFV (x y : FV) (rm : Nat) : FV × Nat :=
  match x, y with
  | .nan, _ => (.nan, 0)
  | _, .nan => (.nan, 0)
  | .inf a, .inf b => if a = b then (.inf a, 0) else (.nan, Fl.nv)
  | .inf a, .fin .. => (.inf a, 0)
  | .fin .., .inf b => (.inf b, 0)
  | .fin a m e, .fin b m' e' => (addFin a m e b m' e' rm, 0)

def mulFV (x y : FV) : FV × Nat :=
  match x, y with
  | .nan, _ => (.nan, 0)
  | _, .nan => (.nan, 0)
  | .inf a, .inf b => (.inf (a != b), 0)
  | .inf a, .fin b m _ => if m = 0 then (.nan, Fl.nv) else (.inf (a != b), 0)
  | .fin a m _, .inf b => if m = 0 then (.nan, Fl.nv) else (.inf (a != b), 0)
  | .fin a m e, .fin b m' e' => (.fin (a != b) (m * m') (e + e'), 0)

/-- Bits of quotient and root that are formed before the sticky bit; more than any target keeps. -/
def extraBits : Nat := 320

/-- Quotient, exact or with a sticky last bit, so that one rounding of it is a correct rounding of the quotient.
A finite non-zero value by zero is an infinity with dz (R183). -/
def divFV (x y : FV) : FV × Nat :=
  match x, y with
  | .nan, _ => (.nan, 0)
  | _, .nan => (.nan, 0)
  | .inf _, .inf _ => (.nan, Fl.nv)
  | .inf a, .fin b _ _ => (.inf (a != b), 0)
  | .fin a _ _, .inf b => (.fin (a != b) 0 0, 0)
  | .fin a m e, .fin b m' e' =>
    if m' = 0 then (if m = 0 then (.nan, Fl.nv) else (.inf (a != b), Fl.dz))
    else
      let n := m * 2 ^ extraBits
      (.fin (a != b) (2 * (n / m') + (if n % m' = 0 then 0 else 1)) (e - e' - extraBits - 1), 0)

/-- Integer square root, bit i downward. -/
def isqrtFrom (n : Nat) : Nat → Nat → Nat
  | 0, r => if (r + 1) * (r + 1) ≤ n then r + 1 else r
  | i + 1, r => isqrtFrom n i (if (r + 2 ^ (i + 1)) * (r + 2 ^ (i + 1)) ≤ n then r + 2 ^ (i + 1) else r)
def isqrt (n : Nat) : Nat := isqrtFrom n (Nat.log2 n / 2 + 1) 0

/-- Square root, with a sticky last bit when it is not exact. −0 gives −0. -/
def sqrtFV (x : FV) : FV × Nat :=
  match x with
  | .nan => (.nan, 0)
  | .inf true => (.nan, Fl.nv)
  | .inf false => (.inf false, 0)
  | .fin n m e =>
    if m = 0 then (.fin n 0 0, 0)
    else if n then (.nan, Fl.nv)
    else
      let sh := if (e - extraBits) % 2 = 0 then extraBits else extraBits + 1
      let v := m * 2 ^ sh
      let r := isqrt v
      (.fin false (2 * r + (if r * r = v then 0 else 1)) ((e - sh) / 2 - 1), 0)

/-- A fused x · y + z, exact before its one rounding. -/
def fmaFV (x y z : FV) (rm : Nat) : FV × Nat :=
  let (p, f) := mulFV x y
  if f ≠ 0 then (.nan, if z.isNan then 0 else Fl.nv)
  else addFV p z rm

/-- Rounds an arithmetic result into FP32 (R154): one rounding, then the flush mode of the unit. -/
def outF32 (r : FV × Nat) (rm : Nat) (sat ftz : Bool) : Nat × Nat :=
  let (b, f) := convFV r.1 0 rm 0 sat ftz
  (b, flOr r.2 f)

/-- x < y of the extended reals, for non-NaN values; −0 and +0 compare equal. -/
def ltFV (x y : FV) : Bool :=
  match x, y with
  | .nan, _ => false
  | _, .nan => false
  | .inf a, .inf b => a && !b
  | .inf a, .fin .. => a
  | .fin .., .inf b => !b
  | .fin a m e, .fin b m' e' =>
    let lo := min e e'
    let u : Int := m * 2 ^ (e - lo).toNat
    let v : Int := m' * 2 ^ (e' - lo).toNat
    decide ((if a then -u else u) < (if b then -v else v))
def eqFV (x y : FV) : Bool := !x.isNan && !y.isNan && !ltFV x y && !ltFV y x

/-- IEEE 754-2019 minimum: NaN propagates, −0 < +0. -/
def minFV (x y : FV) : FV :=
  if x.isNan || y.isNan then .nan
  else if ltFV x y then x else if ltFV y x then y else if x.neg then x else y
def maxFV (x y : FV) : FV :=
  if x.isNan || y.isNan then .nan
  else if ltFV x y then y else if ltFV y x then x else if x.neg then y else x

/-- FCMP conditions (R154). -/
def fcmp (cond : Nat) (x y : FV) : Bool :=
  let un := x.isNan || y.isNan
  match cond with
  | 0 => eqFV x y
  | 1 => un || !eqFV x y
  | 2 => ltFV x y
  | 3 => !un && !ltFV y x
  | 4 => ltFV y x
  | 5 => !un && !ltFV x y
  | 6 => !un
  | _ => un

/-! ### Approximate operations

Each answers an exact enclosure of its result: a value truncated toward zero in FP32 and whether it is exact. The bits
the device gives lie within the bound of R154 or R265 about it; which of them is a free function of the operand. -/

/-- Fixed-point working precision of 2^x, log₂ and tanh. -/
def fixP : Nat := 192

/-- 2^(2^−i) in fixed point, by repeated square roots from 2. -/
def rootTab : Nat → Nat → List Nat
  | 0, _ => []
  | n + 1, r => let r' := isqrt (r * 2 ^ fixP); r' :: rootTab n r'

/-- 2^f for a fixed-point fraction f < 1 of fixP bits, over its leading bits. -/
def exp2Frac (f : Nat) : Nat :=
  (rootTab 96 (2 * 2 ^ fixP)).zipIdx.foldl
    (fun acc p => if bitN f (fixP - 1 - p.2) then acc * p.1 / 2 ^ fixP else acc) (2 ^ fixP)

/-- 2^x for a signed fixed-point x of fixP fraction bits. -/
def exp2Fix (x : Int) : FV :=
  let n := x / (2 ^ fixP : Int)
  .fin false (exp2Frac (x % (2 ^ fixP : Int)).toNat) (n - fixP)

/-- A finite value in signed fixed point, truncated. -/
def toFix (neg : Bool) (m : Nat) (e : Int) : Int :=
  let s := e + fixP
  let a : Nat := if 0 ≤ s then m * 2 ^ s.toNat else m / 2 ^ (-s).toNat
  if neg then -(a : Int) else a

/-- log₂ of a mantissa in [1, 2) in fixed point, bit by bit by squaring. -/
def log2Bits : Nat → Nat → Nat → Nat
  | 0, _, acc => acc
  | n + 1, y, acc =>
    let y2 := y * y / 2 ^ fixP
    if y2 ≥ 2 * 2 ^ fixP then log2Bits n (y2 / 2) (2 * acc + 1) else log2Bits n y2 (2 * acc)

def log2Fix (m : Nat) (e : Int) : Int :=
  let l := Nat.log2 m
  let y := m * 2 ^ fixP / 2 ^ l
  ((l : Int) + e) * 2 ^ 96 + log2Bits 96 y 0

/-- log₂ e in fixed point. -/
def log2eFix : Nat :=
  0x171547652b82fe1777d0ffda0d23a7d11d6aef551bad2b4b1 * 2 ^ fixP / 2 ^ 192

/-- tanh of a positive finite value. -/
def tanhFV (m : Nat) (e : Int) : FV :=
  if leadExp m e < -12 then
    -- x − x³/3 + 2x⁵/15
    let x := m * 2 ^ extraBits
    let e' := e - extraBits
    let q := m * m
    let d1 : FV := .fin true (x * q / 3) (e' + 2 * e)
    let d2 : FV := .fin false (2 * (x * q * q) / 15) (e' + 4 * e)
    (addFV (addFV (.fin false x e') d1 0).1 d2 0).1
  else
    let x := if leadExp m e > 6 then (64 * 2 ^ fixP : Int) else toFix false m e
    match exp2Fix (2 * x * log2eFix / 2 ^ fixP) with
    | .fin _ a ae =>
      let num := addFV (.fin false a ae) (.fin true 1 0) 0
      let den := addFV (.fin false a ae) (.fin false 1 0) 0
      (divFV num.1 den.1).1
    | v => v

/-- Which of the values within `ulps` of the result an approximate operation gives: op and the operand's bits name the
free choice. The truncated result and its neighbours within the bound are the candidates. -/
def approxOut (op bits ulps : Nat) (r : FV × Nat) (exact : Bool) (ftz : Bool) : Nat × Nat :=
  match r.1 with
  | .fin neg m e =>
    if m = 0 then (signBit 0 neg, r.2) else
    let (b, f) := convFV (.fin neg m e) 0 1 0 false false
    if f &&& Fl.of ≠ 0 then (infOf 0 neg, flOr r.2 Fl.of) else
    let back := decFloat 0 b
    let isEx := exact && eqFV back (.fin neg m e)
    let c := Config.approx op bits
    let mag := b % 2 ^ 31
    let pick := if isEx then mag + c % (2 * ulps + 1) - min mag ulps else mag + 1 + c % (2 * ulps) - min (mag + 1) ulps
    let v := signBit 0 neg + min pick 0x7F800000
    let out := decFloat 0 v
    let small := out.isZero || isSubnormal 0 v
    if pick ≥ 0x7F800000 then (infOf 0 neg, flOr r.2 Fl.of)
    else if small then (if ftz && !out.isZero then (signBit 0 neg, flOr r.2 (flOr Fl.uf Fl.fz)) else (v, flOr r.2 Fl.uf))
    else (v, r.2)
  | x => let (b, f) := convFV x 0 0 0 false false; (b, flOr r.2 f)

/-- A result the spec does not state: free, but its NaN is the canonical one (R188) and its subnormals follow the flush mode (R198). -/
def openOut (op bits : Nat) (ftz : Bool) : Nat × Nat :=
  let v := (Config.openResult op bits).toNat
  if (decFloat 0 v).isNan then (nanOf 0, 0)
  else if ftz && isSubnormal 0 v then (signBit 0 (bitN v 31), Fl.fz) else (v, 0)
/-- Operation numbers of the free choices: the opcodes of R154, which the NME's operations share (R265). -/
def fApprox (op : Nat) (x : FV) (bits : Nat) (ulps : Nat) (ftz : Bool) : Nat × Nat :=
  let o := op % 256
  let open' : Nat × Nat := openOut op bits ftz
  match x with
  | .nan => (nanOf 0, 0)
  | .inf neg =>
    if neg && (o = 0x1A || o = 0x1C) then (nanOf 0, Fl.nv) else open'
  | .fin neg m e =>
    if o = 0x19 then
      if m = 0 then (infOf 0 neg, Fl.dz)
      else approxOut op bits ulps (divFV (.fin false 1 0) x) (m = 2 ^ Nat.log2 m) ftz
    else if o = 0x1A then
      if m = 0 then open' else if neg then (nanOf 0, Fl.nv)
      else
        let r := sqrtFV (.fin false m e)
        approxOut op bits ulps (divFV (.fin false 1 0) r.1) (m = 2 ^ Nat.log2 m && e % 2 = 0) ftz
    else if o = 0x1B then
      if m = 0 then approxOut op bits ulps (.fin false 1 0, 0) true ftz
      else if leadExp m e > 10 then
        (if neg then approxOut op bits ulps (.fin false 1 (-1000), 0) false ftz else (infOf 0 false, Fl.of))
      else approxOut op bits ulps (exp2Fix (toFix neg m e), 0) (0 ≤ e || m % 2 ^ (-e).toNat = 0) ftz
    else if o = 0x1C then
      if m = 0 then open' else if neg then (nanOf 0, Fl.nv)
      else
        let l := log2Fix m e
        approxOut op bits ulps (.fin (l < 0) l.natAbs (-96), 0) (m = 2 ^ Nat.log2 m) ftz
    else
      if m = 0 then (signBit 0 neg, 0)
      else
        let r := tanhFV m e
        approxOut op bits ulps ((if neg then r.negate else r), 0) false ftz

end Sys2Proof.Machine
end

