-- ==== Sys2Proof/Machine/Regs.lean ====
section
/-! DEFINITION. Every MMIO register that the register tables of spec/ give the package: its name, its fields with their
access codes and reset values (R10 to R13), and where it lies (R14, R514 and the block bases of each chapter).
A register with several copies (per die, tile, context, stream, and so on) is one name with an index. -/

namespace Sys2Proof.Machine

/-- The register names, in the order of the chapters. -/
inductive Reg where
  -- spec/01_dies_islands_time.md
  | TB_CTRL
  | TB_STATUS
  | TB_TIME
  | TB_INCR
  | TB_ADJ
  | TB_PPS_CAPTURE
  | DIE_TIME
  | STEP_NUMBER
  | STEP_LAST_TIME
  | STEP_LEAD
  | STEP_CTRL
  | TANDEM_CTRL
  | TANDEM_STATUS
  | TANDEM_LATE
  | PKG_EPOCH
  | PKG_EPOCH_STATUS
  -- spec/02_address_space_and_ordering.md
  | MEMMAP_STATUS
  | DDR_TOP
  | HOLE_ADDR
  | HOLE_COUNT
  | TRANS_ROOT
  | TRANS_ATTR
  | TRANS_INVAL
  | TRANS_STATUS
  | TRANS_FAULT_ADDR
  | CAT_ROOT
  | HCR_MEM_STATUS
  -- spec/03_coherence.md
  | HA_STATUS
  | HA_OCCUPANCY
  | HA_RETRY_COUNT
  | HA_RETRY_MAX
  | HA_LOST_DIRTY
  -- spec/04_tile_and_matrix_array.md
  | TILE_ID
  | TILE_CTRL
  | TILE_STATUS
  | TILE_UNIT_EPOCH
  | TILE_RNG_CTRL
  | TILE_RNG_KEY
  | TILE_RNG_LANE
  | TILE_CYCLES
  | TILE_ARRAY_CYCLES
  | TILE_FW_UNITS
  | TILE_BANK_STALLS
  -- spec/05_tile_instruction_set.md
  | TILE_ERR_PC
  | TILE_ERR_INFO
  | TILE_ERR_ADDR
  | TILE_ERR_AUX
  -- spec/06_number_formats.md
  | TILE_NUM_CTRL
  | TILE_NUM_STATUS
  -- spec/07_training_numerics.md
  | NUM_TABLE_BASE
  | NUM_TABLE_COUNT
  | NUM_STATUS
  | NUM_VERDICT
  | NUM_NF_ORIGIN
  | NUM_SKIP_COUNT
  | NUM_COLD_COUNT
  | NUM_EXTRA_COUNT
  | NUM_SHADOW_ALERTS
  | NUM_WIDE_COUNT
  | NUM_ZERO_COUNT
  | NUM_SHADOW_LAST
  | NUM_SHADOW_METRIC
  | NUM_ZERO_LAST
  -- spec/08_backward_pass_and_activations.md
  | PAN_CTRL
  | PAN_RING_BASE
  | PAN_SEED_BASE
  | PAN_SIZES
  | PAN_CMD
  | PAN_STATUS
  | PAN_PUSH_WAITS
  | PAN_FILL_WAITS
  | PAN_SPILL_LINES
  | PAN_FILL_LINES
  | PAN_TOP
  | PAN_END
  | PAN_BOTTOM
  | PAN_INFO
  -- spec/09_near_memory_engine.md
  | NME_ID
  | NME_CTRL
  | NME_STATUS
  | NME_FLAGS
  | NME_UNIT_EPOCH
  | NME_PROG_CTRL
  | NME_PROG_ENTRIES_0
  | NME_PROG_ENTRIES_1
  | NME_SWEEP_ERR_ADDR
  | NME_SWEEP_BLOCKS
  | NME_CLAMP_FALLBACK
  | NME_DIGEST_MISMATCH
  | NME_DIGEST_LAST
  | NME_REKEY_CTRL
  | NME_REKEY_PAGES
  | NME_PROG
  -- spec/10_command_streams.md
  | SEQ_STATUS
  | SEQ_TILE_MAP_0
  | SEQ_TILE_MAP_1
  | SEQ_TILE_MAP_2
  | SEQ_WAKES
  | SEQ_LAPS
  | SEQ_STREAM_BASE
  | SEQ_STREAM_CTRL
  | SEQ_STREAM_STATUS
  | SEQ_STREAM_HEAD
  | SEQ_MSI_ADDR
  | SEQ_MSI_DATA
  -- spec/11_ethernet_ports_and_aedian_transport.md
  | PORT_CTRL
  | PORT_STATUS
  | PORT_PFC_WD
  | PORT_CLASS
  | LINK_TX_FRAMES
  | LINK_RX_FRAMES
  | LINK_FEC_CORRECTED
  | LINK_FEC_UNCORRECTED
  | LINK_RX_DROP
  | LINK_RX_UNMATCHED
  | LINK_PFC_XOFF_TX
  | LINK_PFC_XOFF_RX
  | LINK_ECN_MARKED
  | LINK_MACSEC_INVALID
  | LINK_MACSEC_REKEY
  | LINK_LINK_DOWNS
  | LINK_PTP_TS_LOST
  | AT_CTRL
  | AT_CONN_BASE
  | AT_CONN_COUNT
  | AT_ADDR_BASE
  | AT_RETX_BASE
  | AT_RETX_SIZE
  | AT_CONN_CMD
  | AT_STATUS
  | AT_CONN_FAILS
  | AT_RETX_PKTS
  | AT_CNP_RX
  | AT_BAD_PKTS
  -- spec/12_derailleur_experts_and_collectives.md
  | DRL_CTRL
  | DRL_STATUS
  | DRL_RT_CTRL
  | DRL_RT_SAVE
  | DRL_STAGE_BASE
  | DRL_STAGE_SIZE
  | DRL_DELIV_BASE
  | DRL_ROUTE_FAULT
  | DRL_UNIT_EPOCH
  | DRL_ERR_ADDR
  | DRL_ROWS_SENT
  | DRL_COLL_DONE
  | DRL_DROPPED
  | DRL_LATE_STARTS
  | DRL_BAD_MSGS
  -- spec/13_host_cores_ddr5_and_pcie.md
  | HCR_CTRL
  | HCR_STATUS
  | CORE_PART
  | MC_CFG
  | MC_CAP
  | MC_STATUS
  -- spec/15_faults_recovery_and_service.md
  | MC_ERR_ADDR
  | MC_ERR_INFO
  | MC_UE_COUNT
  | MC_CE_COUNT
  | MC_PPR_CMD
  -- spec/13_host_cores_ddr5_and_pcie.md
  | MC_REKEY_CTRL
  | MC_REKEY_PAGES
  | PCIE_CTRL
  | PCIE_LINK
  | PCIE_LOST
  | IOMMU_DT_BASE
  | IOMMU_FAULT
  | IOMMU_FAULT_ADDR
  | IOMMU_FAULT_COUNT
  | IOMMU_DT_INVAL
  | IOMMU_SEAL
  -- spec/14_security_and_attestation.md
  | ROT_STATUS
  | ROT_ATT_LEAF
  | ROT_ID_LEAF
  | MBOX_CTRL
  | MBOX_STATUS
  | MBOX_MSI_ADDR
  | MBOX_MSI_DATA
  | MBOX_DENIED
  | CR_LINK_STATUS
  | CR_TX_CTR
  | CR_RX_CTR
  -- spec/15_faults_recovery_and_service.md
  | FLT_STATUS
  | FLT_MASK
  | FLT_FORCE
  | FLT_CMD
  | FLT_COUNT
  | FLT_CLASS
  | FLT_MSI_ADDR
  | FLT_MSI_DATA
  | FLT_RECOVERY
  | FLT_LAST_TIME
  | FLT_QUIET_LEFT
  | HBM_ERR_ADDR
  | HBM_ERR_INFO
  | HBM_UE_COUNT
  | HBM_CE_COUNT
  | HBM_PPR_CMD
  | POD_ERR_ADDR
  | POD_ERR_INFO
  | POD_UE_COUNT
  | POD_CE_COUNT
  -- spec/16_bunus_management_and_object_dictionary.md
  | MGMT_STATUS
  | MGMT_HS_FAILS
  | ODC_CTRL
  | ODC_STATUS
  | ODC_MSI_ADDR
  | ODC_MSI_DATA
  | ODC_DENIED
  -- spec/17_power_clocks_startup.md
  | PWR_GEAR
  | PWR_GEAR_REQ
  | PWR_STATUS
  | PWR_INPUT
  | PWR_ENERGY
  | PWR_START
  | PWR_TILE_CLK
  | PWR_CLUSTER
  | PWR_TEMP
  deriving DecidableEq, Repr

/-- Access codes (R11). RWL does not occur in any table. -/
inductive Acc where
  | RO | RW | W1C | W1S | WO
  deriving DecidableEq, Repr

/-- One field of a register: its name's place [hi:lo], access and reset value (R10 to R12). -/
structure Fld where
  reg   : Reg
  hi    : Nat
  lo    : Nat
  acc   : Acc
  reset : Nat
  deriving DecidableEq, Repr

namespace F

/-- TB_CTRL.source -/
abbrev TB_CTRL_source : Fld := ⟨.TB_CTRL, 1, 0, .RW, 0⟩
/-- TB_CTRL.pps_out_en -/
abbrev TB_CTRL_pps_out_en : Fld := ⟨.TB_CTRL, 2, 2, .RW, 0⟩
/-- TB_CTRL.pps_in_edge -/
abbrev TB_CTRL_pps_in_edge : Fld := ⟨.TB_CTRL, 3, 3, .RW, 0⟩
/-- TB_CTRL.pps_out_width -/
abbrev TB_CTRL_pps_out_width : Fld := ⟨.TB_CTRL, 15, 8, .RW, 100⟩
/-- TB_STATUS.locked -/
abbrev TB_STATUS_locked : Fld := ⟨.TB_STATUS, 0, 0, .RO, 0⟩
/-- TB_STATUS.holdover -/
abbrev TB_STATUS_holdover : Fld := ⟨.TB_STATUS, 1, 1, .RO, 0⟩
/-- TB_STATUS.stepped -/
abbrev TB_STATUS_stepped : Fld := ⟨.TB_STATUS, 2, 2, .W1C, 0⟩
/-- TB_STATUS.slewing -/
abbrev TB_STATUS_slewing : Fld := ⟨.TB_STATUS, 3, 3, .RO, 0⟩
/-- TB_STATUS.pps_missing -/
abbrev TB_STATUS_pps_missing : Fld := ⟨.TB_STATUS, 4, 4, .W1C, 0⟩
/-- TB_STATUS.replica_fault -/
abbrev TB_STATUS_replica_fault : Fld := ⟨.TB_STATUS, 5, 5, .W1C, 0⟩
/-- TB_TIME.time -/
abbrev TB_TIME_time : Fld := ⟨.TB_TIME, 63, 0, .RO, 0⟩
/-- TB_INCR.incr -/
abbrev TB_INCR_incr : Fld := ⟨.TB_INCR, 63, 0, .RW, 171798691840⟩
/-- TB_ADJ.adj -/
abbrev TB_ADJ_adj : Fld := ⟨.TB_ADJ, 63, 0, .WO, 0⟩
/-- TB_PPS_CAPTURE.capture -/
abbrev TB_PPS_CAPTURE_capture : Fld := ⟨.TB_PPS_CAPTURE, 63, 0, .RO, 0⟩
/-- DIE_TIME.time -/
abbrev DIE_TIME_time : Fld := ⟨.DIE_TIME, 63, 0, .RO, 0⟩
/-- STEP_NUMBER.number -/
abbrev STEP_NUMBER_number : Fld := ⟨.STEP_NUMBER, 63, 0, .RO, 0⟩
/-- STEP_LAST_TIME.t_b -/
abbrev STEP_LAST_TIME_t_b : Fld := ⟨.STEP_LAST_TIME, 63, 0, .RO, 0⟩
/-- STEP_LEAD.lead_ns -/
abbrev STEP_LEAD_lead_ns : Fld := ⟨.STEP_LEAD, 31, 0, .RW, 2000⟩
/-- STEP_CTRL.c_die_mask -/
abbrev STEP_CTRL_c_die_mask : Fld := ⟨.STEP_CTRL, 7, 0, .RO, 0⟩
/-- TANDEM_CTRL.group_mask -/
abbrev TANDEM_CTRL_group_mask : Fld := ⟨.TANDEM_CTRL, 7, 0, .RW, 0⟩
/-- TANDEM_CTRL.enable -/
abbrev TANDEM_CTRL_enable : Fld := ⟨.TANDEM_CTRL, 8, 8, .RW, 0⟩
/-- TANDEM_STATUS.locked -/
abbrev TANDEM_STATUS_locked : Fld := ⟨.TANDEM_STATUS, 7, 0, .RO, 0⟩
/-- TANDEM_STATUS.late -/
abbrev TANDEM_STATUS_late : Fld := ⟨.TANDEM_STATUS, 8, 8, .W1C, 0⟩
/-- TANDEM_STATUS.member_lost -/
abbrev TANDEM_STATUS_member_lost : Fld := ⟨.TANDEM_STATUS, 9, 9, .W1C, 0⟩
/-- TANDEM_LATE.count -/
abbrev TANDEM_LATE_count : Fld := ⟨.TANDEM_LATE, 31, 0, .RO, 0⟩
/-- TANDEM_LATE.overflow -/
abbrev TANDEM_LATE_overflow : Fld := ⟨.TANDEM_LATE, 32, 32, .W1C, 0⟩
/-- PKG_EPOCH.epoch -/
abbrev PKG_EPOCH_epoch : Fld := ⟨.PKG_EPOCH, 31, 0, .RO, 1⟩
/-- PKG_EPOCH_STATUS.overflow -/
abbrev PKG_EPOCH_STATUS_overflow : Fld := ⟨.PKG_EPOCH_STATUS, 0, 0, .RO, 0⟩
/-- MEMMAP_STATUS.hbm_mode -/
abbrev MEMMAP_STATUS_hbm_mode : Fld := ⟨.MEMMAP_STATUS, 1, 0, .RO, 0⟩
/-- MEMMAP_STATUS.ddr_mode -/
abbrev MEMMAP_STATUS_ddr_mode : Fld := ⟨.MEMMAP_STATUS, 2, 2, .RO, 0⟩
/-- DDR_TOP.top -/
abbrev DDR_TOP_top : Fld := ⟨.DDR_TOP, 51, 0, .RO, 2199023255552⟩
/-- HOLE_ADDR.addr -/
abbrev HOLE_ADDR_addr : Fld := ⟨.HOLE_ADDR, 51, 0, .RO, 0⟩
/-- HOLE_ADDR.agent_die -/
abbrev HOLE_ADDR_agent_die : Fld := ⟨.HOLE_ADDR, 55, 52, .RO, 0⟩
/-- HOLE_COUNT.count -/
abbrev HOLE_COUNT_count : Fld := ⟨.HOLE_COUNT, 31, 0, .RO, 0⟩
/-- HOLE_COUNT.overflow -/
abbrev HOLE_COUNT_overflow : Fld := ⟨.HOLE_COUNT, 32, 32, .W1C, 0⟩
/-- TRANS_ROOT.enable -/
abbrev TRANS_ROOT_enable : Fld := ⟨.TRANS_ROOT, 0, 0, .RW, 0⟩
/-- TRANS_ROOT.root -/
abbrev TRANS_ROOT_root : Fld := ⟨.TRANS_ROOT, 51, 12, .RW, 0⟩
/-- TRANS_ATTR.part_id -/
abbrev TRANS_ATTR_part_id : Fld := ⟨.TRANS_ATTR, 3, 0, .RW, 0⟩
/-- TRANS_ATTR.open_access -/
abbrev TRANS_ATTR_open_access : Fld := ⟨.TRANS_ATTR, 5, 4, .RW, 0⟩
/-- TRANS_INVAL.ctx -/
abbrev TRANS_INVAL_ctx : Fld := ⟨.TRANS_INVAL, 5, 0, .RW, 0⟩
/-- TRANS_INVAL.range -/
abbrev TRANS_INVAL_range : Fld := ⟨.TRANS_INVAL, 7, 6, .RW, 0⟩
/-- TRANS_INVAL.all_ctx -/
abbrev TRANS_INVAL_all_ctx : Fld := ⟨.TRANS_INVAL, 8, 8, .RW, 0⟩
/-- TRANS_INVAL.va -/
abbrev TRANS_INVAL_va : Fld := ⟨.TRANS_INVAL, 47, 12, .RW, 0⟩
/-- TRANS_INVAL.busy -/
abbrev TRANS_INVAL_busy : Fld := ⟨.TRANS_INVAL, 63, 63, .RO, 0⟩
/-- TRANS_STATUS.first_fault -/
abbrev TRANS_STATUS_first_fault : Fld := ⟨.TRANS_STATUS, 2, 0, .W1C, 0⟩
/-- TRANS_STATUS.fault_ctx -/
abbrev TRANS_STATUS_fault_ctx : Fld := ⟨.TRANS_STATUS, 8, 3, .RO, 0⟩
/-- TRANS_STATUS.inval_overrun -/
abbrev TRANS_STATUS_inval_overrun : Fld := ⟨.TRANS_STATUS, 9, 9, .W1C, 0⟩
/-- TRANS_STATUS.reserved_encoding -/
abbrev TRANS_STATUS_reserved_encoding : Fld := ⟨.TRANS_STATUS, 10, 10, .W1C, 0⟩
/-- TRANS_FAULT_ADDR.va -/
abbrev TRANS_FAULT_ADDR_va : Fld := ⟨.TRANS_FAULT_ADDR, 63, 0, .RO, 0⟩
/-- CAT_ROOT.enable -/
abbrev CAT_ROOT_enable : Fld := ⟨.CAT_ROOT, 0, 0, .RW, 0⟩
/-- CAT_ROOT.key_gen -/
abbrev CAT_ROOT_key_gen : Fld := ⟨.CAT_ROOT, 5, 4, .RW, 0⟩
/-- CAT_ROOT.root -/
abbrev CAT_ROOT_root : Fld := ⟨.CAT_ROOT, 51, 16, .RW, 0⟩
/-- HCR_MEM_STATUS.discarded -/
abbrev HCR_MEM_STATUS_discarded : Fld := ⟨.HCR_MEM_STATUS, 31, 0, .RO, 0⟩
/-- HCR_MEM_STATUS.overflow -/
abbrev HCR_MEM_STATUS_overflow : Fld := ⟨.HCR_MEM_STATUS, 32, 32, .W1C, 0⟩
/-- HCR_MEM_STATUS.flush_active -/
abbrev HCR_MEM_STATUS_flush_active : Fld := ⟨.HCR_MEM_STATUS, 33, 33, .RO, 0⟩
/-- HA_STATUS.dir_corrected -/
abbrev HA_STATUS_dir_corrected : Fld := ⟨.HA_STATUS, 0, 0, .W1C, 0⟩
/-- HA_STATUS.dir_rebuilt -/
abbrev HA_STATUS_dir_rebuilt : Fld := ⟨.HA_STATUS, 1, 1, .W1C, 0⟩
/-- HA_STATUS.lost_dirty -/
abbrev HA_STATUS_lost_dirty : Fld := ⟨.HA_STATUS, 2, 2, .W1C, 0⟩
/-- HA_OCCUPANCY.valid -/
abbrev HA_OCCUPANCY_valid : Fld := ⟨.HA_OCCUPANCY, 21, 0, .RO, 0⟩
/-- HA_OCCUPANCY.pinned -/
abbrev HA_OCCUPANCY_pinned : Fld := ⟨.HA_OCCUPANCY, 53, 32, .RO, 0⟩
/-- HA_RETRY_COUNT.count -/
abbrev HA_RETRY_COUNT_count : Fld := ⟨.HA_RETRY_COUNT, 31, 0, .RO, 0⟩
/-- HA_RETRY_COUNT.overflow -/
abbrev HA_RETRY_COUNT_overflow : Fld := ⟨.HA_RETRY_COUNT, 32, 32, .W1C, 0⟩
/-- HA_RETRY_MAX.max_ns -/
abbrev HA_RETRY_MAX_max_ns : Fld := ⟨.HA_RETRY_MAX, 31, 0, .RO, 0⟩
/-- HA_RETRY_MAX.clear -/
abbrev HA_RETRY_MAX_clear : Fld := ⟨.HA_RETRY_MAX, 32, 32, .WO, 0⟩
/-- HA_LOST_DIRTY.count -/
abbrev HA_LOST_DIRTY_count : Fld := ⟨.HA_LOST_DIRTY, 31, 0, .RO, 0⟩
/-- HA_LOST_DIRTY.overflow -/
abbrev HA_LOST_DIRTY_overflow : Fld := ⟨.HA_LOST_DIRTY, 32, 32, .W1C, 0⟩
/-- TILE_ID.tile -/
abbrev TILE_ID_tile : Fld := ⟨.TILE_ID, 7, 0, .RO, 0⟩
/-- TILE_ID.die -/
abbrev TILE_ID_die : Fld := ⟨.TILE_ID, 10, 8, .RO, 0⟩
/-- TILE_ID.pkg_tile -/
abbrev TILE_ID_pkg_tile : Fld := ⟨.TILE_ID, 21, 11, .RO, 0⟩
/-- TILE_ID.enabled -/
abbrev TILE_ID_enabled : Fld := ⟨.TILE_ID, 22, 22, .RO, 1⟩
/-- TILE_CTRL.fw_enable -/
abbrev TILE_CTRL_fw_enable : Fld := ⟨.TILE_CTRL, 0, 0, .RW, 1⟩
/-- TILE_STATUS.state -/
abbrev TILE_STATUS_state : Fld := ⟨.TILE_STATUS, 2, 0, .RO, 1⟩
/-- TILE_STATUS.stale -/
abbrev TILE_STATUS_stale : Fld := ⟨.TILE_STATUS, 3, 3, .RO, 0⟩
/-- TILE_STATUS.reserved_encoding -/
abbrev TILE_STATUS_reserved_encoding : Fld := ⟨.TILE_STATUS, 4, 4, .W1C, 0⟩
/-- TILE_STATUS.groups_live -/
abbrev TILE_STATUS_groups_live : Fld := ⟨.TILE_STATUS, 11, 5, .RO, 0⟩
/-- TILE_UNIT_EPOCH.epoch -/
abbrev TILE_UNIT_EPOCH_epoch : Fld := ⟨.TILE_UNIT_EPOCH, 31, 0, .RO, 0⟩
/-- TILE_RNG_CTRL.counter_mode -/
abbrev TILE_RNG_CTRL_counter_mode : Fld := ⟨.TILE_RNG_CTRL, 0, 0, .RO, 0⟩
/-- TILE_RNG_CTRL.keyed -/
abbrev TILE_RNG_CTRL_keyed : Fld := ⟨.TILE_RNG_CTRL, 1, 1, .RO, 0⟩
/-- TILE_RNG_KEY.key -/
abbrev TILE_RNG_KEY_key : Fld := ⟨.TILE_RNG_KEY, 63, 0, .WO, 0⟩
/-- TILE_RNG_LANE.lane -/
abbrev TILE_RNG_LANE_lane : Fld := ⟨.TILE_RNG_LANE, 5, 0, .RW, 0⟩
/-- TILE_CYCLES.count -/
abbrev TILE_CYCLES_count : Fld := ⟨.TILE_CYCLES, 63, 0, .RO, 0⟩
/-- TILE_ARRAY_CYCLES.count -/
abbrev TILE_ARRAY_CYCLES_count : Fld := ⟨.TILE_ARRAY_CYCLES, 63, 0, .RO, 0⟩
/-- TILE_FW_UNITS.count -/
abbrev TILE_FW_UNITS_count : Fld := ⟨.TILE_FW_UNITS, 63, 0, .RO, 0⟩
/-- TILE_BANK_STALLS.count -/
abbrev TILE_BANK_STALLS_count : Fld := ⟨.TILE_BANK_STALLS, 31, 0, .RO, 0⟩
/-- TILE_BANK_STALLS.overflow -/
abbrev TILE_BANK_STALLS_overflow : Fld := ⟨.TILE_BANK_STALLS, 32, 32, .W1C, 0⟩
/-- TILE_ERR_PC.pc -/
abbrev TILE_ERR_PC_pc : Fld := ⟨.TILE_ERR_PC, 63, 0, .RO, 0⟩
/-- TILE_ERR_INFO.status -/
abbrev TILE_ERR_INFO_status : Fld := ⟨.TILE_ERR_INFO, 7, 0, .RO, 0⟩
/-- TILE_ERR_INFO.group -/
abbrev TILE_ERR_INFO_group : Fld := ⟨.TILE_ERR_INFO, 13, 8, .RO, 0⟩
/-- TILE_ERR_INFO.thread -/
abbrev TILE_ERR_INFO_thread : Fld := ⟨.TILE_ERR_INFO, 18, 14, .RO, 0⟩
/-- TILE_ERR_INFO.unit -/
abbrev TILE_ERR_INFO_unit : Fld := ⟨.TILE_ERR_INFO, 21, 19, .RO, 0⟩
/-- TILE_ERR_ADDR.addr -/
abbrev TILE_ERR_ADDR_addr : Fld := ⟨.TILE_ERR_ADDR, 63, 0, .RO, 0⟩
/-- TILE_ERR_AUX.count -/
abbrev TILE_ERR_AUX_count : Fld := ⟨.TILE_ERR_AUX, 31, 0, .RO, 0⟩
/-- TILE_ERR_AUX.overflow -/
abbrev TILE_ERR_AUX_overflow : Fld := ⟨.TILE_ERR_AUX, 32, 32, .W1C, 0⟩
/-- TILE_NUM_CTRL.vec_daz -/
abbrev TILE_NUM_CTRL_vec_daz : Fld := ⟨.TILE_NUM_CTRL, 0, 0, .RO, 0⟩
/-- TILE_NUM_CTRL.vec_ftz -/
abbrev TILE_NUM_CTRL_vec_ftz : Fld := ⟨.TILE_NUM_CTRL, 1, 1, .RO, 0⟩
/-- TILE_NUM_CTRL.arr_wide_ftz -/
abbrev TILE_NUM_CTRL_arr_wide_ftz : Fld := ⟨.TILE_NUM_CTRL, 2, 2, .RO, 0⟩
/-- TILE_NUM_STATUS.arr_in_fz -/
abbrev TILE_NUM_STATUS_arr_in_fz : Fld := ⟨.TILE_NUM_STATUS, 0, 0, .RO, 0⟩
/-- TILE_NUM_STATUS.arr_out_fz -/
abbrev TILE_NUM_STATUS_arr_out_fz : Fld := ⟨.TILE_NUM_STATUS, 1, 1, .RO, 0⟩
/-- TILE_NUM_STATUS.arr_sat -/
abbrev TILE_NUM_STATUS_arr_sat : Fld := ⟨.TILE_NUM_STATUS, 2, 2, .RO, 0⟩
/-- TILE_NUM_STATUS.arr_of -/
abbrev TILE_NUM_STATUS_arr_of : Fld := ⟨.TILE_NUM_STATUS, 3, 3, .RO, 0⟩
/-- TILE_NUM_STATUS.arr_nv -/
abbrev TILE_NUM_STATUS_arr_nv : Fld := ⟨.TILE_NUM_STATUS, 4, 4, .RO, 0⟩
/-- TILE_NUM_STATUS.table_inexact -/
abbrev TILE_NUM_STATUS_table_inexact : Fld := ⟨.TILE_NUM_STATUS, 5, 5, .RO, 0⟩
/-- NUM_TABLE_BASE.enable -/
abbrev NUM_TABLE_BASE_enable : Fld := ⟨.NUM_TABLE_BASE, 0, 0, .RW, 0⟩
/-- NUM_TABLE_BASE.shadow_en -/
abbrev NUM_TABLE_BASE_shadow_en : Fld := ⟨.NUM_TABLE_BASE, 1, 1, .RW, 1⟩
/-- NUM_TABLE_BASE.verdict_en -/
abbrev NUM_TABLE_BASE_verdict_en : Fld := ⟨.NUM_TABLE_BASE, 2, 2, .RW, 1⟩
/-- NUM_TABLE_BASE.base -/
abbrev NUM_TABLE_BASE_base : Fld := ⟨.NUM_TABLE_BASE, 51, 8, .RW, 0⟩
/-- NUM_TABLE_COUNT.count -/
abbrev NUM_TABLE_COUNT_count : Fld := ⟨.NUM_TABLE_COUNT, 24, 0, .RW, 0⟩
/-- NUM_STATUS.id_range -/
abbrev NUM_STATUS_id_range : Fld := ⟨.NUM_STATUS, 0, 0, .W1C, 0⟩
/-- NUM_STATUS.fold_busy -/
abbrev NUM_STATUS_fold_busy : Fld := ⟨.NUM_STATUS, 1, 1, .RO, 0⟩
/-- NUM_STATUS.cold_consume -/
abbrev NUM_STATUS_cold_consume : Fld := ⟨.NUM_STATUS, 2, 2, .W1C, 0⟩
/-- NUM_STATUS.reserved_encoding -/
abbrev NUM_STATUS_reserved_encoding : Fld := ⟨.NUM_STATUS, 3, 3, .W1C, 0⟩
/-- NUM_VERDICT.local_nf -/
abbrev NUM_VERDICT_local_nf : Fld := ⟨.NUM_VERDICT, 0, 0, .RO, 0⟩
/-- NUM_VERDICT.last_verdict -/
abbrev NUM_VERDICT_last_verdict : Fld := ⟨.NUM_VERDICT, 1, 1, .RO, 0⟩
/-- NUM_VERDICT.skipped_step -/
abbrev NUM_VERDICT_skipped_step : Fld := ⟨.NUM_VERDICT, 63, 32, .RO, 0⟩
/-- NUM_NF_ORIGIN.tensor -/
abbrev NUM_NF_ORIGIN_tensor : Fld := ⟨.NUM_NF_ORIGIN, 23, 0, .RO, 0⟩
/-- NUM_NF_ORIGIN.pkg_tile -/
abbrev NUM_NF_ORIGIN_pkg_tile : Fld := ⟨.NUM_NF_ORIGIN, 34, 24, .RO, 0⟩
/-- NUM_NF_ORIGIN.valid -/
abbrev NUM_NF_ORIGIN_valid : Fld := ⟨.NUM_NF_ORIGIN, 35, 35, .W1C, 0⟩
/-- NUM_NF_ORIGIN.step -/
abbrev NUM_NF_ORIGIN_step : Fld := ⟨.NUM_NF_ORIGIN, 63, 36, .RO, 0⟩
/-- NUM_SKIP_COUNT.count -/
abbrev NUM_SKIP_COUNT_count : Fld := ⟨.NUM_SKIP_COUNT, 31, 0, .RO, 0⟩
/-- NUM_SKIP_COUNT.overflow -/
abbrev NUM_SKIP_COUNT_overflow : Fld := ⟨.NUM_SKIP_COUNT, 32, 32, .W1C, 0⟩
/-- NUM_COLD_COUNT.count -/
abbrev NUM_COLD_COUNT_count : Fld := ⟨.NUM_COLD_COUNT, 31, 0, .RO, 0⟩
/-- NUM_COLD_COUNT.overflow -/
abbrev NUM_COLD_COUNT_overflow : Fld := ⟨.NUM_COLD_COUNT, 32, 32, .W1C, 0⟩
/-- NUM_EXTRA_COUNT.count -/
abbrev NUM_EXTRA_COUNT_count : Fld := ⟨.NUM_EXTRA_COUNT, 31, 0, .RO, 0⟩
/-- NUM_EXTRA_COUNT.overflow -/
abbrev NUM_EXTRA_COUNT_overflow : Fld := ⟨.NUM_EXTRA_COUNT, 32, 32, .W1C, 0⟩
/-- NUM_SHADOW_ALERTS.count -/
abbrev NUM_SHADOW_ALERTS_count : Fld := ⟨.NUM_SHADOW_ALERTS, 31, 0, .RO, 0⟩
/-- NUM_SHADOW_ALERTS.overflow -/
abbrev NUM_SHADOW_ALERTS_overflow : Fld := ⟨.NUM_SHADOW_ALERTS, 32, 32, .W1C, 0⟩
/-- NUM_WIDE_COUNT.count -/
abbrev NUM_WIDE_COUNT_count : Fld := ⟨.NUM_WIDE_COUNT, 31, 0, .RO, 0⟩
/-- NUM_WIDE_COUNT.overflow -/
abbrev NUM_WIDE_COUNT_overflow : Fld := ⟨.NUM_WIDE_COUNT, 32, 32, .W1C, 0⟩
/-- NUM_ZERO_COUNT.count -/
abbrev NUM_ZERO_COUNT_count : Fld := ⟨.NUM_ZERO_COUNT, 31, 0, .RO, 0⟩
/-- NUM_ZERO_COUNT.overflow -/
abbrev NUM_ZERO_COUNT_overflow : Fld := ⟨.NUM_ZERO_COUNT, 32, 32, .W1C, 0⟩
/-- NUM_SHADOW_LAST.tensor -/
abbrev NUM_SHADOW_LAST_tensor : Fld := ⟨.NUM_SHADOW_LAST, 23, 0, .RO, 0⟩
/-- NUM_SHADOW_LAST.pkg_tile -/
abbrev NUM_SHADOW_LAST_pkg_tile : Fld := ⟨.NUM_SHADOW_LAST, 34, 24, .RO, 0⟩
/-- NUM_SHADOW_LAST.err_hit -/
abbrev NUM_SHADOW_LAST_err_hit : Fld := ⟨.NUM_SHADOW_LAST, 35, 35, .RO, 0⟩
/-- NUM_SHADOW_LAST.sat_hit -/
abbrev NUM_SHADOW_LAST_sat_hit : Fld := ⟨.NUM_SHADOW_LAST, 36, 36, .RO, 0⟩
/-- NUM_SHADOW_LAST.flush_hit -/
abbrev NUM_SHADOW_LAST_flush_hit : Fld := ⟨.NUM_SHADOW_LAST, 37, 37, .RO, 0⟩
/-- NUM_SHADOW_METRIC.err -/
abbrev NUM_SHADOW_METRIC_err : Fld := ⟨.NUM_SHADOW_METRIC, 31, 0, .RO, 0⟩
/-- NUM_SHADOW_METRIC.sat_frac -/
abbrev NUM_SHADOW_METRIC_sat_frac : Fld := ⟨.NUM_SHADOW_METRIC, 47, 32, .RO, 0⟩
/-- NUM_SHADOW_METRIC.flush_frac -/
abbrev NUM_SHADOW_METRIC_flush_frac : Fld := ⟨.NUM_SHADOW_METRIC, 63, 48, .RO, 0⟩
/-- NUM_ZERO_LAST.tensor -/
abbrev NUM_ZERO_LAST_tensor : Fld := ⟨.NUM_ZERO_LAST, 23, 0, .RO, 0⟩
/-- NUM_ZERO_LAST.proposal -/
abbrev NUM_ZERO_LAST_proposal : Fld := ⟨.NUM_ZERO_LAST, 31, 24, .RO, 0⟩
/-- PAN_CTRL.enable -/
abbrev PAN_CTRL_enable : Fld := ⟨.PAN_CTRL, 0, 0, .RW, 0⟩
/-- PAN_CTRL.ctx -/
abbrev PAN_CTRL_ctx : Fld := ⟨.PAN_CTRL, 6, 1, .RW, 0⟩
/-- PAN_RING_BASE.base -/
abbrev PAN_RING_BASE_base : Fld := ⟨.PAN_RING_BASE, 47, 21, .RW, 0⟩
/-- PAN_SEED_BASE.base -/
abbrev PAN_SEED_BASE_base : Fld := ⟨.PAN_SEED_BASE, 47, 21, .RW, 0⟩
/-- PAN_SIZES.ring_mib -/
abbrev PAN_SIZES_ring_mib : Fld := ⟨.PAN_SIZES, 15, 0, .RW, 16⟩
/-- PAN_SIZES.wmark_mib -/
abbrev PAN_SIZES_wmark_mib : Fld := ⟨.PAN_SIZES, 31, 16, .RW, 12⟩
/-- PAN_SIZES.prefetch_mib -/
abbrev PAN_SIZES_prefetch_mib : Fld := ⟨.PAN_SIZES, 47, 32, .RW, 4⟩
/-- PAN_SIZES.seed_mib -/
abbrev PAN_SIZES_seed_mib : Fld := ⟨.PAN_SIZES, 63, 48, .RW, 0⟩
/-- PAN_CMD.stack -/
abbrev PAN_CMD_stack : Fld := ⟨.PAN_CMD, 7, 0, .RW, 0⟩
/-- PAN_CMD.all -/
abbrev PAN_CMD_all : Fld := ⟨.PAN_CMD, 8, 8, .RW, 0⟩
/-- PAN_CMD.clear -/
abbrev PAN_CMD_clear : Fld := ⟨.PAN_CMD, 9, 9, .WO, 0⟩
/-- PAN_STATUS.full -/
abbrev PAN_STATUS_full : Fld := ⟨.PAN_STATUS, 0, 0, .W1C, 0⟩
/-- PAN_STATUS.left_over -/
abbrev PAN_STATUS_left_over : Fld := ⟨.PAN_STATUS, 1, 1, .W1C, 0⟩
/-- PAN_STATUS.lost -/
abbrev PAN_STATUS_lost : Fld := ⟨.PAN_STATUS, 2, 2, .W1C, 0⟩
/-- PAN_STATUS.mover_fault -/
abbrev PAN_STATUS_mover_fault : Fld := ⟨.PAN_STATUS, 3, 3, .W1C, 0⟩
/-- PAN_STATUS.clear_refused -/
abbrev PAN_STATUS_clear_refused : Fld := ⟨.PAN_STATUS, 4, 4, .W1C, 0⟩
/-- PAN_STATUS.clamped -/
abbrev PAN_STATUS_clamped : Fld := ⟨.PAN_STATUS, 5, 5, .W1C, 0⟩
/-- PAN_STATUS.busy -/
abbrev PAN_STATUS_busy : Fld := ⟨.PAN_STATUS, 6, 6, .RO, 0⟩
/-- PAN_PUSH_WAITS.count -/
abbrev PAN_PUSH_WAITS_count : Fld := ⟨.PAN_PUSH_WAITS, 31, 0, .RO, 0⟩
/-- PAN_PUSH_WAITS.overflow -/
abbrev PAN_PUSH_WAITS_overflow : Fld := ⟨.PAN_PUSH_WAITS, 32, 32, .W1C, 0⟩
/-- PAN_FILL_WAITS.count -/
abbrev PAN_FILL_WAITS_count : Fld := ⟨.PAN_FILL_WAITS, 31, 0, .RO, 0⟩
/-- PAN_FILL_WAITS.overflow -/
abbrev PAN_FILL_WAITS_overflow : Fld := ⟨.PAN_FILL_WAITS, 32, 32, .W1C, 0⟩
/-- PAN_SPILL_LINES.count -/
abbrev PAN_SPILL_LINES_count : Fld := ⟨.PAN_SPILL_LINES, 63, 0, .RO, 0⟩
/-- PAN_FILL_LINES.count -/
abbrev PAN_FILL_LINES_count : Fld := ⟨.PAN_FILL_LINES, 63, 0, .RO, 0⟩
/-- PAN_TOP.top -/
abbrev PAN_TOP_top : Fld := ⟨.PAN_TOP, 39, 0, .RO, 0⟩
/-- PAN_END.end -/
abbrev PAN_END_end : Fld := ⟨.PAN_END, 39, 0, .RO, 0⟩
/-- PAN_BOTTOM.bottom -/
abbrev PAN_BOTTOM_bottom : Fld := ⟨.PAN_BOTTOM, 39, 0, .RO, 0⟩
/-- PAN_INFO.frames -/
abbrev PAN_INFO_frames : Fld := ⟨.PAN_INFO, 31, 0, .RO, 0⟩
/-- PAN_INFO.held -/
abbrev PAN_INFO_held : Fld := ⟨.PAN_INFO, 32, 32, .RO, 0⟩
/-- PAN_INFO.holder -/
abbrev PAN_INFO_holder : Fld := ⟨.PAN_INFO, 43, 33, .RO, 0⟩
/-- PAN_INFO.move -/
abbrev PAN_INFO_move : Fld := ⟨.PAN_INFO, 45, 44, .RO, 0⟩
/-- NME_ID.stack -/
abbrev NME_ID_stack : Fld := ⟨.NME_ID, 3, 0, .RO, 0⟩
/-- NME_ID.die -/
abbrev NME_ID_die : Fld := ⟨.NME_ID, 6, 4, .RO, 0⟩
/-- NME_CTRL.ftz -/
abbrev NME_CTRL_ftz : Fld := ⟨.NME_CTRL, 0, 0, .RO, 0⟩
/-- NME_CTRL.rekey_share -/
abbrev NME_CTRL_rekey_share : Fld := ⟨.NME_CTRL, 14, 8, .RW, 25⟩
/-- NME_STATUS.sweep_active -/
abbrev NME_STATUS_sweep_active : Fld := ⟨.NME_STATUS, 0, 0, .RO, 0⟩
/-- NME_STATUS.rekey_active -/
abbrev NME_STATUS_rekey_active : Fld := ⟨.NME_STATUS, 1, 1, .RO, 0⟩
/-- NME_STATUS.stale -/
abbrev NME_STATUS_stale : Fld := ⟨.NME_STATUS, 2, 2, .RO, 0⟩
/-- NME_STATUS.reserved_encoding -/
abbrev NME_STATUS_reserved_encoding : Fld := ⟨.NME_STATUS, 3, 3, .W1C, 0⟩
/-- NME_STATUS.prog_write_refused -/
abbrev NME_STATUS_prog_write_refused : Fld := ⟨.NME_STATUS, 4, 4, .W1C, 0⟩
/-- NME_STATUS.phase -/
abbrev NME_STATUS_phase : Fld := ⟨.NME_STATUS, 11, 8, .RO, 0⟩
/-- NME_STATUS.last_status -/
abbrev NME_STATUS_last_status : Fld := ⟨.NME_STATUS, 19, 12, .RO, 0⟩
/-- NME_FLAGS.nv -/
abbrev NME_FLAGS_nv : Fld := ⟨.NME_FLAGS, 0, 0, .W1C, 0⟩
/-- NME_FLAGS.dz -/
abbrev NME_FLAGS_dz : Fld := ⟨.NME_FLAGS, 1, 1, .W1C, 0⟩
/-- NME_FLAGS.of -/
abbrev NME_FLAGS_of : Fld := ⟨.NME_FLAGS, 2, 2, .W1C, 0⟩
/-- NME_FLAGS.fz -/
abbrev NME_FLAGS_fz : Fld := ⟨.NME_FLAGS, 3, 3, .W1C, 0⟩
/-- NME_FLAGS.nf_master -/
abbrev NME_FLAGS_nf_master : Fld := ⟨.NME_FLAGS, 4, 4, .W1C, 0⟩
/-- NME_UNIT_EPOCH.epoch -/
abbrev NME_UNIT_EPOCH_epoch : Fld := ⟨.NME_UNIT_EPOCH, 31, 0, .RO, 0⟩
/-- NME_PROG_CTRL.active -/
abbrev NME_PROG_CTRL_active : Fld := ⟨.NME_PROG_CTRL, 0, 0, .RO, 0⟩
/-- NME_PROG_CTRL.commit -/
abbrev NME_PROG_CTRL_commit : Fld := ⟨.NME_PROG_CTRL, 1, 1, .W1S, 0⟩
/-- NME_PROG_ENTRIES_0.entries -/
abbrev NME_PROG_ENTRIES_0_entries : Fld := ⟨.NME_PROG_ENTRIES_0, 63, 0, .RW, 0⟩
/-- NME_PROG_ENTRIES_1.entries -/
abbrev NME_PROG_ENTRIES_1_entries : Fld := ⟨.NME_PROG_ENTRIES_1, 63, 0, .RW, 0⟩
/-- NME_SWEEP_ERR_ADDR.va -/
abbrev NME_SWEEP_ERR_ADDR_va : Fld := ⟨.NME_SWEEP_ERR_ADDR, 63, 0, .RO, 0⟩
/-- NME_SWEEP_BLOCKS.count -/
abbrev NME_SWEEP_BLOCKS_count : Fld := ⟨.NME_SWEEP_BLOCKS, 63, 0, .RO, 0⟩
/-- NME_CLAMP_FALLBACK.count -/
abbrev NME_CLAMP_FALLBACK_count : Fld := ⟨.NME_CLAMP_FALLBACK, 31, 0, .RO, 0⟩
/-- NME_CLAMP_FALLBACK.overflow -/
abbrev NME_CLAMP_FALLBACK_overflow : Fld := ⟨.NME_CLAMP_FALLBACK, 32, 32, .W1C, 0⟩
/-- NME_DIGEST_MISMATCH.count -/
abbrev NME_DIGEST_MISMATCH_count : Fld := ⟨.NME_DIGEST_MISMATCH, 31, 0, .RO, 0⟩
/-- NME_DIGEST_MISMATCH.overflow -/
abbrev NME_DIGEST_MISMATCH_overflow : Fld := ⟨.NME_DIGEST_MISMATCH, 32, 32, .W1C, 0⟩
/-- NME_DIGEST_LAST.shard -/
abbrev NME_DIGEST_LAST_shard : Fld := ⟨.NME_DIGEST_LAST, 15, 0, .RO, 0⟩
/-- NME_DIGEST_LAST.step -/
abbrev NME_DIGEST_LAST_step : Fld := ⟨.NME_DIGEST_LAST, 47, 16, .RO, 0⟩
/-- NME_DIGEST_LAST.held -/
abbrev NME_DIGEST_LAST_held : Fld := ⟨.NME_DIGEST_LAST, 48, 48, .RO, 0⟩
/-- NME_REKEY_CTRL.ctx -/
abbrev NME_REKEY_CTRL_ctx : Fld := ⟨.NME_REKEY_CTRL, 5, 0, .RW, 0⟩
/-- NME_REKEY_CTRL.go -/
abbrev NME_REKEY_CTRL_go : Fld := ⟨.NME_REKEY_CTRL, 6, 6, .W1S, 0⟩
/-- NME_REKEY_CTRL.desc -/
abbrev NME_REKEY_CTRL_desc : Fld := ⟨.NME_REKEY_CTRL, 47, 8, .RW, 0⟩
/-- NME_REKEY_PAGES.count -/
abbrev NME_REKEY_PAGES_count : Fld := ⟨.NME_REKEY_PAGES, 63, 0, .RO, 0⟩
/-- NME_PROG.word -/
abbrev NME_PROG_word : Fld := ⟨.NME_PROG, 31, 0, .RW, 0⟩
/-- SEQ_STATUS.ready_sent -/
abbrev SEQ_STATUS_ready_sent : Fld := ⟨.SEQ_STATUS, 0, 0, .RO, 0⟩
/-- SEQ_STATUS.reserved_encoding -/
abbrev SEQ_STATUS_reserved_encoding : Fld := ⟨.SEQ_STATUS, 1, 1, .W1C, 0⟩
/-- SEQ_STATUS.jobs_active -/
abbrev SEQ_STATUS_jobs_active : Fld := ⟨.SEQ_STATUS, 14, 8, .RO, 0⟩
/-- SEQ_TILE_MAP_0.map -/
abbrev SEQ_TILE_MAP_0_map : Fld := ⟨.SEQ_TILE_MAP_0, 63, 0, .RO, 0⟩
/-- SEQ_TILE_MAP_1.map -/
abbrev SEQ_TILE_MAP_1_map : Fld := ⟨.SEQ_TILE_MAP_1, 63, 0, .RO, 0⟩
/-- SEQ_TILE_MAP_2.map -/
abbrev SEQ_TILE_MAP_2_map : Fld := ⟨.SEQ_TILE_MAP_2, 15, 0, .RO, 0⟩
/-- SEQ_WAKES.count -/
abbrev SEQ_WAKES_count : Fld := ⟨.SEQ_WAKES, 31, 0, .RO, 0⟩
/-- SEQ_WAKES.overflow -/
abbrev SEQ_WAKES_overflow : Fld := ⟨.SEQ_WAKES, 32, 32, .W1C, 0⟩
/-- SEQ_LAPS.count -/
abbrev SEQ_LAPS_count : Fld := ⟨.SEQ_LAPS, 63, 0, .RO, 0⟩
/-- SEQ_STREAM_BASE.scb -/
abbrev SEQ_STREAM_BASE_scb : Fld := ⟨.SEQ_STREAM_BASE, 47, 6, .RW, 0⟩
/-- SEQ_STREAM_CTRL.enable -/
abbrev SEQ_STREAM_CTRL_enable : Fld := ⟨.SEQ_STREAM_CTRL, 0, 0, .RW, 0⟩
/-- SEQ_STREAM_CTRL.ctx -/
abbrev SEQ_STREAM_CTRL_ctx : Fld := ⟨.SEQ_STREAM_CTRL, 6, 1, .RW, 0⟩
/-- SEQ_STREAM_CTRL.step_bound -/
abbrev SEQ_STREAM_CTRL_step_bound : Fld := ⟨.SEQ_STREAM_CTRL, 7, 7, .RW, 1⟩
/-- SEQ_STREAM_CTRL.halt_on_error -/
abbrev SEQ_STREAM_CTRL_halt_on_error : Fld := ⟨.SEQ_STREAM_CTRL, 8, 8, .RW, 1⟩
/-- SEQ_STREAM_CTRL.priority -/
abbrev SEQ_STREAM_CTRL_priority : Fld := ⟨.SEQ_STREAM_CTRL, 10, 9, .RW, 0⟩
/-- SEQ_STREAM_CTRL.ring_log2 -/
abbrev SEQ_STREAM_CTRL_ring_log2 : Fld := ⟨.SEQ_STREAM_CTRL, 15, 11, .RW, 10⟩
/-- SEQ_STREAM_STATUS.armed -/
abbrev SEQ_STREAM_STATUS_armed : Fld := ⟨.SEQ_STREAM_STATUS, 0, 0, .RO, 0⟩
/-- SEQ_STREAM_STATUS.halted -/
abbrev SEQ_STREAM_STATUS_halted : Fld := ⟨.SEQ_STREAM_STATUS, 1, 1, .W1C, 0⟩
/-- SEQ_STREAM_STATUS.tail_error -/
abbrev SEQ_STREAM_STATUS_tail_error : Fld := ⟨.SEQ_STREAM_STATUS, 2, 2, .W1C, 0⟩
/-- SEQ_STREAM_STATUS.last_status -/
abbrev SEQ_STREAM_STATUS_last_status : Fld := ⟨.SEQ_STREAM_STATUS, 15, 8, .RO, 0⟩
/-- SEQ_STREAM_HEAD.head -/
abbrev SEQ_STREAM_HEAD_head : Fld := ⟨.SEQ_STREAM_HEAD, 63, 0, .RO, 0⟩
/-- SEQ_MSI_ADDR.addr -/
abbrev SEQ_MSI_ADDR_addr : Fld := ⟨.SEQ_MSI_ADDR, 51, 2, .RW, 0⟩
/-- SEQ_MSI_DATA.data -/
abbrev SEQ_MSI_DATA_data : Fld := ⟨.SEQ_MSI_DATA, 31, 0, .RW, 0⟩
/-- PORT_CTRL.mode -/
abbrev PORT_CTRL_mode : Fld := ⟨.PORT_CTRL, 1, 0, .RW, 0⟩
/-- PORT_CTRL.retrain -/
abbrev PORT_CTRL_retrain : Fld := ⟨.PORT_CTRL, 2, 2, .W1S, 0⟩
/-- PORT_CTRL.retrain_max -/
abbrev PORT_CTRL_retrain_max : Fld := ⟨.PORT_CTRL, 15, 8, .RW, 50⟩
/-- PORT_CTRL.pfc_en -/
abbrev PORT_CTRL_pfc_en : Fld := ⟨.PORT_CTRL, 23, 16, .RW, 0⟩
/-- PORT_STATUS.link_up -/
abbrev PORT_STATUS_link_up : Fld := ⟨.PORT_STATUS, 7, 0, .RO, 0⟩
/-- PORT_STATUS.secure -/
abbrev PORT_STATUS_secure : Fld := ⟨.PORT_STATUS, 15, 8, .RO, 0⟩
/-- PORT_STATUS.retraining -/
abbrev PORT_STATUS_retraining : Fld := ⟨.PORT_STATUS, 16, 16, .RO, 0⟩
/-- PORT_STATUS.retrain_timeout -/
abbrev PORT_STATUS_retrain_timeout : Fld := ⟨.PORT_STATUS, 17, 17, .W1C, 0⟩
/-- PORT_STATUS.pfc_wd -/
abbrev PORT_STATUS_pfc_wd : Fld := ⟨.PORT_STATUS, 18, 18, .W1C, 0⟩
/-- PORT_PFC_WD.wd_ms -/
abbrev PORT_PFC_WD_wd_ms : Fld := ⟨.PORT_PFC_WD, 15, 0, .RW, 100⟩
/-- PORT_CLASS.xoff_kib -/
abbrev PORT_CLASS_xoff_kib : Fld := ⟨.PORT_CLASS, 11, 0, .RW, 512⟩
/-- PORT_CLASS.xon_kib -/
abbrev PORT_CLASS_xon_kib : Fld := ⟨.PORT_CLASS, 23, 12, .RW, 384⟩
/-- PORT_CLASS.headroom_kib -/
abbrev PORT_CLASS_headroom_kib : Fld := ⟨.PORT_CLASS, 35, 24, .RW, 640⟩
/-- PORT_CLASS.ecn_kib -/
abbrev PORT_CLASS_ecn_kib : Fld := ⟨.PORT_CLASS, 47, 36, .RW, 256⟩
/-- LINK_TX_FRAMES.count -/
abbrev LINK_TX_FRAMES_count : Fld := ⟨.LINK_TX_FRAMES, 63, 0, .RO, 0⟩
/-- LINK_RX_FRAMES.count -/
abbrev LINK_RX_FRAMES_count : Fld := ⟨.LINK_RX_FRAMES, 63, 0, .RO, 0⟩
/-- LINK_FEC_CORRECTED.count -/
abbrev LINK_FEC_CORRECTED_count : Fld := ⟨.LINK_FEC_CORRECTED, 63, 0, .RO, 0⟩
/-- LINK_FEC_UNCORRECTED.count -/
abbrev LINK_FEC_UNCORRECTED_count : Fld := ⟨.LINK_FEC_UNCORRECTED, 31, 0, .RO, 0⟩
/-- LINK_FEC_UNCORRECTED.overflow -/
abbrev LINK_FEC_UNCORRECTED_overflow : Fld := ⟨.LINK_FEC_UNCORRECTED, 32, 32, .W1C, 0⟩
/-- LINK_RX_DROP.count -/
abbrev LINK_RX_DROP_count : Fld := ⟨.LINK_RX_DROP, 31, 0, .RO, 0⟩
/-- LINK_RX_DROP.overflow -/
abbrev LINK_RX_DROP_overflow : Fld := ⟨.LINK_RX_DROP, 32, 32, .W1C, 0⟩
/-- LINK_RX_UNMATCHED.count -/
abbrev LINK_RX_UNMATCHED_count : Fld := ⟨.LINK_RX_UNMATCHED, 31, 0, .RO, 0⟩
/-- LINK_RX_UNMATCHED.overflow -/
abbrev LINK_RX_UNMATCHED_overflow : Fld := ⟨.LINK_RX_UNMATCHED, 32, 32, .W1C, 0⟩
/-- LINK_PFC_XOFF_TX.count -/
abbrev LINK_PFC_XOFF_TX_count : Fld := ⟨.LINK_PFC_XOFF_TX, 31, 0, .RO, 0⟩
/-- LINK_PFC_XOFF_TX.overflow -/
abbrev LINK_PFC_XOFF_TX_overflow : Fld := ⟨.LINK_PFC_XOFF_TX, 32, 32, .W1C, 0⟩
/-- LINK_PFC_XOFF_RX.count -/
abbrev LINK_PFC_XOFF_RX_count : Fld := ⟨.LINK_PFC_XOFF_RX, 31, 0, .RO, 0⟩
/-- LINK_PFC_XOFF_RX.overflow -/
abbrev LINK_PFC_XOFF_RX_overflow : Fld := ⟨.LINK_PFC_XOFF_RX, 32, 32, .W1C, 0⟩
/-- LINK_ECN_MARKED.count -/
abbrev LINK_ECN_MARKED_count : Fld := ⟨.LINK_ECN_MARKED, 63, 0, .RO, 0⟩
/-- LINK_MACSEC_INVALID.count -/
abbrev LINK_MACSEC_INVALID_count : Fld := ⟨.LINK_MACSEC_INVALID, 31, 0, .RO, 0⟩
/-- LINK_MACSEC_INVALID.overflow -/
abbrev LINK_MACSEC_INVALID_overflow : Fld := ⟨.LINK_MACSEC_INVALID, 32, 32, .W1C, 0⟩
/-- LINK_MACSEC_REKEY.count -/
abbrev LINK_MACSEC_REKEY_count : Fld := ⟨.LINK_MACSEC_REKEY, 31, 0, .RO, 0⟩
/-- LINK_MACSEC_REKEY.overflow -/
abbrev LINK_MACSEC_REKEY_overflow : Fld := ⟨.LINK_MACSEC_REKEY, 32, 32, .W1C, 0⟩
/-- LINK_LINK_DOWNS.count -/
abbrev LINK_LINK_DOWNS_count : Fld := ⟨.LINK_LINK_DOWNS, 31, 0, .RO, 0⟩
/-- LINK_LINK_DOWNS.overflow -/
abbrev LINK_LINK_DOWNS_overflow : Fld := ⟨.LINK_LINK_DOWNS, 32, 32, .W1C, 0⟩
/-- LINK_PTP_TS_LOST.count -/
abbrev LINK_PTP_TS_LOST_count : Fld := ⟨.LINK_PTP_TS_LOST, 31, 0, .RO, 0⟩
/-- LINK_PTP_TS_LOST.overflow -/
abbrev LINK_PTP_TS_LOST_overflow : Fld := ⟨.LINK_PTP_TS_LOST, 32, 32, .W1C, 0⟩
/-- AT_CTRL.enable -/
abbrev AT_CTRL_enable : Fld := ⟨.AT_CTRL, 0, 0, .RW, 0⟩
/-- AT_CONN_BASE.pa -/
abbrev AT_CONN_BASE_pa : Fld := ⟨.AT_CONN_BASE, 51, 0, .RW, 0⟩
/-- AT_CONN_COUNT.count -/
abbrev AT_CONN_COUNT_count : Fld := ⟨.AT_CONN_COUNT, 16, 0, .RW, 0⟩
/-- AT_ADDR_BASE.pa -/
abbrev AT_ADDR_BASE_pa : Fld := ⟨.AT_ADDR_BASE, 51, 0, .RW, 0⟩
/-- AT_RETX_BASE.pa -/
abbrev AT_RETX_BASE_pa : Fld := ⟨.AT_RETX_BASE, 51, 0, .RW, 0⟩
/-- AT_RETX_SIZE.mib -/
abbrev AT_RETX_SIZE_mib : Fld := ⟨.AT_RETX_SIZE, 15, 0, .RW, 64⟩
/-- AT_CONN_CMD.conn -/
abbrev AT_CONN_CMD_conn : Fld := ⟨.AT_CONN_CMD, 15, 0, .RW, 0⟩
/-- AT_CONN_CMD.op -/
abbrev AT_CONN_CMD_op : Fld := ⟨.AT_CONN_CMD, 17, 16, .RW, 0⟩
/-- AT_CONN_CMD.busy -/
abbrev AT_CONN_CMD_busy : Fld := ⟨.AT_CONN_CMD, 31, 31, .RO, 0⟩
/-- AT_STATUS.open_refused -/
abbrev AT_STATUS_open_refused : Fld := ⟨.AT_STATUS, 0, 0, .W1C, 0⟩
/-- AT_STATUS.retx_full -/
abbrev AT_STATUS_retx_full : Fld := ⟨.AT_STATUS, 1, 1, .W1C, 0⟩
/-- AT_CONN_FAILS.count -/
abbrev AT_CONN_FAILS_count : Fld := ⟨.AT_CONN_FAILS, 31, 0, .RO, 0⟩
/-- AT_CONN_FAILS.overflow -/
abbrev AT_CONN_FAILS_overflow : Fld := ⟨.AT_CONN_FAILS, 32, 32, .W1C, 0⟩
/-- AT_RETX_PKTS.count -/
abbrev AT_RETX_PKTS_count : Fld := ⟨.AT_RETX_PKTS, 63, 0, .RO, 0⟩
/-- AT_CNP_RX.count -/
abbrev AT_CNP_RX_count : Fld := ⟨.AT_CNP_RX, 63, 0, .RO, 0⟩
/-- AT_BAD_PKTS.count -/
abbrev AT_BAD_PKTS_count : Fld := ⟨.AT_BAD_PKTS, 31, 0, .RO, 0⟩
/-- AT_BAD_PKTS.overflow -/
abbrev AT_BAD_PKTS_overflow : Fld := ⟨.AT_BAD_PKTS, 32, 32, .W1C, 0⟩
/-- DRL_CTRL.enable -/
abbrev DRL_CTRL_enable : Fld := ⟨.DRL_CTRL, 0, 0, .RW, 0⟩
/-- DRL_CTRL.timeout -/
abbrev DRL_CTRL_timeout : Fld := ⟨.DRL_CTRL, 15, 8, .RW, 100⟩
/-- DRL_STATUS.stale -/
abbrev DRL_STATUS_stale : Fld := ⟨.DRL_STATUS, 0, 0, .RO, 0⟩
/-- DRL_STATUS.reserved_encoding -/
abbrev DRL_STATUS_reserved_encoding : Fld := ⟨.DRL_STATUS, 1, 1, .W1C, 0⟩
/-- DRL_STATUS.route_fault -/
abbrev DRL_STATUS_route_fault : Fld := ⟨.DRL_STATUS, 2, 2, .W1C, 0⟩
/-- DRL_STATUS.rt_write_refused -/
abbrev DRL_STATUS_rt_write_refused : Fld := ⟨.DRL_STATUS, 3, 3, .W1C, 0⟩
/-- DRL_STATUS.stage_wait -/
abbrev DRL_STATUS_stage_wait : Fld := ⟨.DRL_STATUS, 4, 4, .RO, 0⟩
/-- DRL_STATUS.step_nf -/
abbrev DRL_STATUS_step_nf : Fld := ⟨.DRL_STATUS, 5, 5, .RO, 0⟩
/-- DRL_STATUS.sat -/
abbrev DRL_STATUS_sat : Fld := ⟨.DRL_STATUS, 6, 6, .W1C, 0⟩
/-- DRL_STATUS.rt_save_fault -/
abbrev DRL_STATUS_rt_save_fault : Fld := ⟨.DRL_STATUS, 7, 7, .W1C, 0⟩
/-- DRL_STATUS.active -/
abbrev DRL_STATUS_active : Fld := ⟨.DRL_STATUS, 12, 8, .RO, 0⟩
/-- DRL_RT_CTRL.active -/
abbrev DRL_RT_CTRL_active : Fld := ⟨.DRL_RT_CTRL, 0, 0, .RO, 0⟩
/-- DRL_RT_CTRL.commit -/
abbrev DRL_RT_CTRL_commit : Fld := ⟨.DRL_RT_CTRL, 1, 1, .W1S, 0⟩
/-- DRL_RT_SAVE.pa -/
abbrev DRL_RT_SAVE_pa : Fld := ⟨.DRL_RT_SAVE, 51, 20, .RW, 0⟩
/-- DRL_STAGE_BASE.pa -/
abbrev DRL_STAGE_BASE_pa : Fld := ⟨.DRL_STAGE_BASE, 51, 0, .RW, 0⟩
/-- DRL_STAGE_SIZE.mib -/
abbrev DRL_STAGE_SIZE_mib : Fld := ⟨.DRL_STAGE_SIZE, 15, 0, .RW, 256⟩
/-- DRL_DELIV_BASE.pa -/
abbrev DRL_DELIV_BASE_pa : Fld := ⟨.DRL_DELIV_BASE, 51, 0, .RW, 0⟩
/-- DRL_ROUTE_FAULT.layer -/
abbrev DRL_ROUTE_FAULT_layer : Fld := ⟨.DRL_ROUTE_FAULT, 5, 0, .RO, 0⟩
/-- DRL_ROUTE_FAULT.expert -/
abbrev DRL_ROUTE_FAULT_expert : Fld := ⟨.DRL_ROUTE_FAULT, 15, 8, .RO, 0⟩
/-- DRL_ROUTE_FAULT.valid -/
abbrev DRL_ROUTE_FAULT_valid : Fld := ⟨.DRL_ROUTE_FAULT, 16, 16, .W1C, 0⟩
/-- DRL_ROUTE_FAULT.step -/
abbrev DRL_ROUTE_FAULT_step : Fld := ⟨.DRL_ROUTE_FAULT, 63, 32, .RO, 0⟩
/-- DRL_UNIT_EPOCH.epoch -/
abbrev DRL_UNIT_EPOCH_epoch : Fld := ⟨.DRL_UNIT_EPOCH, 31, 0, .RO, 0⟩
/-- DRL_ERR_ADDR.va -/
abbrev DRL_ERR_ADDR_va : Fld := ⟨.DRL_ERR_ADDR, 63, 0, .RO, 0⟩
/-- DRL_ROWS_SENT.count -/
abbrev DRL_ROWS_SENT_count : Fld := ⟨.DRL_ROWS_SENT, 63, 0, .RO, 0⟩
/-- DRL_COLL_DONE.count -/
abbrev DRL_COLL_DONE_count : Fld := ⟨.DRL_COLL_DONE, 63, 0, .RO, 0⟩
/-- DRL_DROPPED.count -/
abbrev DRL_DROPPED_count : Fld := ⟨.DRL_DROPPED, 31, 0, .RO, 0⟩
/-- DRL_DROPPED.overflow -/
abbrev DRL_DROPPED_overflow : Fld := ⟨.DRL_DROPPED, 32, 32, .W1C, 0⟩
/-- DRL_LATE_STARTS.count -/
abbrev DRL_LATE_STARTS_count : Fld := ⟨.DRL_LATE_STARTS, 31, 0, .RO, 0⟩
/-- DRL_LATE_STARTS.overflow -/
abbrev DRL_LATE_STARTS_overflow : Fld := ⟨.DRL_LATE_STARTS, 32, 32, .W1C, 0⟩
/-- DRL_BAD_MSGS.count -/
abbrev DRL_BAD_MSGS_count : Fld := ⟨.DRL_BAD_MSGS, 31, 0, .RO, 0⟩
/-- DRL_BAD_MSGS.overflow -/
abbrev DRL_BAD_MSGS_overflow : Fld := ⟨.DRL_BAD_MSGS, 32, 32, .W1C, 0⟩
/-- HCR_CTRL.reset_req -/
abbrev HCR_CTRL_reset_req : Fld := ⟨.HCR_CTRL, 0, 0, .W1S, 0⟩
/-- HCR_CTRL.forced -/
abbrev HCR_CTRL_forced : Fld := ⟨.HCR_CTRL, 1, 1, .RW, 0⟩
/-- HCR_STATUS.count -/
abbrev HCR_STATUS_count : Fld := ⟨.HCR_STATUS, 15, 0, .RO, 0⟩
/-- HCR_STATUS.overflow -/
abbrev HCR_STATUS_overflow : Fld := ⟨.HCR_STATUS, 16, 16, .W1C, 0⟩
/-- HCR_STATUS.last_forced -/
abbrev HCR_STATUS_last_forced : Fld := ⟨.HCR_STATUS, 17, 17, .RO, 0⟩
/-- CORE_PART.part -/
abbrev CORE_PART_part : Fld := ⟨.CORE_PART, 3, 0, .RO, 0⟩
/-- MC_CFG.dimm_type -/
abbrev MC_CFG_dimm_type : Fld := ⟨.MC_CFG, 1, 0, .RO, 0⟩
/-- MC_CFG.dpc2 -/
abbrev MC_CFG_dpc2 : Fld := ⟨.MC_CFG, 2, 2, .RO, 0⟩
/-- MC_CFG.ranks -/
abbrev MC_CFG_ranks : Fld := ⟨.MC_CFG, 15, 8, .RO, 0⟩
/-- MC_CFG.mts -/
abbrev MC_CFG_mts : Fld := ⟨.MC_CFG, 31, 16, .RO, 0⟩
/-- MC_CAP.installed_gib -/
abbrev MC_CAP_installed_gib : Fld := ⟨.MC_CAP, 15, 0, .RO, 0⟩
/-- MC_CAP.mapped_gib -/
abbrev MC_CAP_mapped_gib : Fld := ⟨.MC_CAP, 31, 16, .RO, 0⟩
/-- MC_STATUS.trained -/
abbrev MC_STATUS_trained : Fld := ⟨.MC_STATUS, 0, 0, .RO, 0⟩
/-- MC_STATUS.held_out -/
abbrev MC_STATUS_held_out : Fld := ⟨.MC_STATUS, 1, 1, .RO, 0⟩
/-- MC_ERR_ADDR.pa -/
abbrev MC_ERR_ADDR_pa : Fld := ⟨.MC_ERR_ADDR, 51, 0, .RO, 0⟩
/-- MC_ERR_INFO.valid -/
abbrev MC_ERR_INFO_valid : Fld := ⟨.MC_ERR_INFO, 0, 0, .W1C, 0⟩
/-- MC_ERR_INFO.write -/
abbrev MC_ERR_INFO_write : Fld := ⟨.MC_ERR_INFO, 1, 1, .RO, 0⟩
/-- MC_ERR_INFO.scrub -/
abbrev MC_ERR_INFO_scrub : Fld := ⟨.MC_ERR_INFO, 2, 2, .RO, 0⟩
/-- MC_ERR_INFO.pch -/
abbrev MC_ERR_INFO_pch : Fld := ⟨.MC_ERR_INFO, 13, 8, .RO, 0⟩
/-- MC_ERR_INFO.bank -/
abbrev MC_ERR_INFO_bank : Fld := ⟨.MC_ERR_INFO, 18, 14, .RO, 0⟩
/-- MC_ERR_INFO.row -/
abbrev MC_ERR_INFO_row : Fld := ⟨.MC_ERR_INFO, 37, 20, .RO, 0⟩
/-- MC_UE_COUNT.count -/
abbrev MC_UE_COUNT_count : Fld := ⟨.MC_UE_COUNT, 31, 0, .RO, 0⟩
/-- MC_UE_COUNT.overflow -/
abbrev MC_UE_COUNT_overflow : Fld := ⟨.MC_UE_COUNT, 32, 32, .W1C, 0⟩
/-- MC_CE_COUNT.count -/
abbrev MC_CE_COUNT_count : Fld := ⟨.MC_CE_COUNT, 63, 0, .RO, 0⟩
/-- MC_PPR_CMD.pch -/
abbrev MC_PPR_CMD_pch : Fld := ⟨.MC_PPR_CMD, 5, 0, .RW, 0⟩
/-- MC_PPR_CMD.bank -/
abbrev MC_PPR_CMD_bank : Fld := ⟨.MC_PPR_CMD, 10, 6, .RW, 0⟩
/-- MC_PPR_CMD.row -/
abbrev MC_PPR_CMD_row : Fld := ⟨.MC_PPR_CMD, 29, 12, .RW, 0⟩
/-- MC_PPR_CMD.go -/
abbrev MC_PPR_CMD_go : Fld := ⟨.MC_PPR_CMD, 30, 30, .W1S, 0⟩
/-- MC_PPR_CMD.result -/
abbrev MC_PPR_CMD_result : Fld := ⟨.MC_PPR_CMD, 33, 32, .RO, 0⟩
/-- MC_REKEY_CTRL.ctx -/
abbrev MC_REKEY_CTRL_ctx : Fld := ⟨.MC_REKEY_CTRL, 5, 0, .RW, 0⟩
/-- MC_REKEY_CTRL.go -/
abbrev MC_REKEY_CTRL_go : Fld := ⟨.MC_REKEY_CTRL, 6, 6, .W1S, 0⟩
/-- MC_REKEY_CTRL.desc -/
abbrev MC_REKEY_CTRL_desc : Fld := ⟨.MC_REKEY_CTRL, 47, 8, .RW, 0⟩
/-- MC_REKEY_PAGES.count -/
abbrev MC_REKEY_PAGES_count : Fld := ⟨.MC_REKEY_PAGES, 63, 0, .RO, 0⟩
/-- PCIE_CTRL.bifurc -/
abbrev PCIE_CTRL_bifurc : Fld := ⟨.PCIE_CTRL, 1, 0, .RO, 0⟩
/-- PCIE_LINK.speed -/
abbrev PCIE_LINK_speed : Fld := ⟨.PCIE_LINK, 2, 0, .RO, 0⟩
/-- PCIE_LINK.width -/
abbrev PCIE_LINK_width : Fld := ⟨.PCIE_LINK, 7, 3, .RO, 0⟩
/-- PCIE_LINK.up -/
abbrev PCIE_LINK_up : Fld := ⟨.PCIE_LINK, 8, 8, .RO, 0⟩
/-- PCIE_LINK.flit -/
abbrev PCIE_LINK_flit : Fld := ⟨.PCIE_LINK, 9, 9, .RO, 0⟩
/-- PCIE_LINK.cxl -/
abbrev PCIE_LINK_cxl : Fld := ⟨.PCIE_LINK, 10, 10, .RO, 0⟩
/-- PCIE_LINK.recovery -/
abbrev PCIE_LINK_recovery : Fld := ⟨.PCIE_LINK, 11, 11, .RO, 0⟩
/-- PCIE_LINK.down_event -/
abbrev PCIE_LINK_down_event : Fld := ⟨.PCIE_LINK, 12, 12, .W1C, 0⟩
/-- PCIE_LOST.count -/
abbrev PCIE_LOST_count : Fld := ⟨.PCIE_LOST, 31, 0, .RO, 0⟩
/-- PCIE_LOST.overflow -/
abbrev PCIE_LOST_overflow : Fld := ⟨.PCIE_LOST, 32, 32, .W1C, 0⟩
/-- IOMMU_DT_BASE.enable -/
abbrev IOMMU_DT_BASE_enable : Fld := ⟨.IOMMU_DT_BASE, 0, 0, .RW, 0⟩
/-- IOMMU_DT_BASE.pa -/
abbrev IOMMU_DT_BASE_pa : Fld := ⟨.IOMMU_DT_BASE, 51, 12, .RW, 0⟩
/-- IOMMU_FAULT.first_fault -/
abbrev IOMMU_FAULT_first_fault : Fld := ⟨.IOMMU_FAULT, 2, 0, .W1C, 0⟩
/-- IOMMU_FAULT.write -/
abbrev IOMMU_FAULT_write : Fld := ⟨.IOMMU_FAULT, 3, 3, .RO, 0⟩
/-- IOMMU_FAULT.rid -/
abbrev IOMMU_FAULT_rid : Fld := ⟨.IOMMU_FAULT, 19, 4, .RO, 0⟩
/-- IOMMU_FAULT_ADDR.addr -/
abbrev IOMMU_FAULT_ADDR_addr : Fld := ⟨.IOMMU_FAULT_ADDR, 63, 0, .RO, 0⟩
/-- IOMMU_FAULT_COUNT.count -/
abbrev IOMMU_FAULT_COUNT_count : Fld := ⟨.IOMMU_FAULT_COUNT, 31, 0, .RO, 0⟩
/-- IOMMU_FAULT_COUNT.overflow -/
abbrev IOMMU_FAULT_COUNT_overflow : Fld := ⟨.IOMMU_FAULT_COUNT, 32, 32, .W1C, 0⟩
/-- IOMMU_DT_INVAL.rid -/
abbrev IOMMU_DT_INVAL_rid : Fld := ⟨.IOMMU_DT_INVAL, 15, 0, .RW, 0⟩
/-- IOMMU_DT_INVAL.all -/
abbrev IOMMU_DT_INVAL_all : Fld := ⟨.IOMMU_DT_INVAL, 16, 16, .RW, 0⟩
/-- IOMMU_DT_INVAL.go -/
abbrev IOMMU_DT_INVAL_go : Fld := ⟨.IOMMU_DT_INVAL, 17, 17, .W1S, 0⟩
/-- IOMMU_SEAL.rid -/
abbrev IOMMU_SEAL_rid : Fld := ⟨.IOMMU_SEAL, 15, 0, .RO, 0⟩
/-- IOMMU_SEAL.part -/
abbrev IOMMU_SEAL_part : Fld := ⟨.IOMMU_SEAL, 19, 16, .RO, 0⟩
/-- IOMMU_SEAL.valid -/
abbrev IOMMU_SEAL_valid : Fld := ⟨.IOMMU_SEAL, 20, 20, .RO, 0⟩
/-- ROT_STATUS.ready -/
abbrev ROT_STATUS_ready : Fld := ⟨.ROT_STATUS, 0, 0, .RO, 0⟩
/-- ROT_STATUS.approved -/
abbrev ROT_STATUS_approved : Fld := ⟨.ROT_STATUS, 1, 1, .RO, 0⟩
/-- ROT_STATUS.error -/
abbrev ROT_STATUS_error : Fld := ⟨.ROT_STATUS, 2, 2, .RO, 0⟩
/-- ROT_STATUS.debug_unlocked -/
abbrev ROT_STATUS_debug_unlocked : Fld := ⟨.ROT_STATUS, 3, 3, .RO, 0⟩
/-- ROT_STATUS.att_exhausted -/
abbrev ROT_STATUS_att_exhausted : Fld := ⟨.ROT_STATUS, 4, 4, .RO, 0⟩
/-- ROT_STATUS.id_exhausted -/
abbrev ROT_STATUS_id_exhausted : Fld := ⟨.ROT_STATUS, 5, 5, .RO, 0⟩
/-- ROT_ATT_LEAF.next -/
abbrev ROT_ATT_LEAF_next : Fld := ⟨.ROT_ATT_LEAF, 39, 0, .RO, 0⟩
/-- ROT_ID_LEAF.next -/
abbrev ROT_ID_LEAF_next : Fld := ⟨.ROT_ID_LEAF, 39, 0, .RO, 0⟩
/-- MBOX_CTRL.go -/
abbrev MBOX_CTRL_go : Fld := ⟨.MBOX_CTRL, 0, 0, .W1S, 0⟩
/-- MBOX_STATUS.done -/
abbrev MBOX_STATUS_done : Fld := ⟨.MBOX_STATUS, 0, 0, .W1C, 0⟩
/-- MBOX_STATUS.result -/
abbrev MBOX_STATUS_result : Fld := ⟨.MBOX_STATUS, 15, 8, .RO, 0⟩
/-- MBOX_STATUS.resp_len -/
abbrev MBOX_STATUS_resp_len : Fld := ⟨.MBOX_STATUS, 31, 16, .RO, 0⟩
/-- MBOX_MSI_ADDR.addr -/
abbrev MBOX_MSI_ADDR_addr : Fld := ⟨.MBOX_MSI_ADDR, 51, 2, .RW, 0⟩
/-- MBOX_MSI_DATA.data -/
abbrev MBOX_MSI_DATA_data : Fld := ⟨.MBOX_MSI_DATA, 31, 0, .RW, 0⟩
/-- MBOX_DENIED.count -/
abbrev MBOX_DENIED_count : Fld := ⟨.MBOX_DENIED, 31, 0, .RO, 0⟩
/-- MBOX_DENIED.overflow -/
abbrev MBOX_DENIED_overflow : Fld := ⟨.MBOX_DENIED, 32, 32, .W1C, 0⟩
/-- CR_LINK_STATUS.keyed -/
abbrev CR_LINK_STATUS_keyed : Fld := ⟨.CR_LINK_STATUS, 0, 0, .RO, 0⟩
/-- CR_LINK_STATUS.auth_fail -/
abbrev CR_LINK_STATUS_auth_fail : Fld := ⟨.CR_LINK_STATUS, 1, 1, .W1C, 0⟩
/-- CR_LINK_STATUS.peer -/
abbrev CR_LINK_STATUS_peer : Fld := ⟨.CR_LINK_STATUS, 7, 4, .RO, 0⟩
/-- CR_TX_CTR.ctr -/
abbrev CR_TX_CTR_ctr : Fld := ⟨.CR_TX_CTR, 63, 0, .RO, 0⟩
/-- CR_RX_CTR.ctr -/
abbrev CR_RX_CTR_ctr : Fld := ⟨.CR_RX_CTR, 63, 0, .RO, 0⟩
/-- FLT_STATUS.src -/
abbrev FLT_STATUS_src : Fld := ⟨.FLT_STATUS, 31, 0, .W1C, 0⟩
/-- FLT_STATUS.class_max -/
abbrev FLT_STATUS_class_max : Fld := ⟨.FLT_STATUS, 33, 32, .RO, 0⟩
/-- FLT_STATUS.state -/
abbrev FLT_STATUS_state : Fld := ⟨.FLT_STATUS, 35, 34, .RO, 0⟩
/-- FLT_STATUS.escalated -/
abbrev FLT_STATUS_escalated : Fld := ⟨.FLT_STATUS, 36, 36, .W1C, 0⟩
/-- FLT_STATUS.selftest_fail -/
abbrev FLT_STATUS_selftest_fail : Fld := ⟨.FLT_STATUS, 37, 37, .W1C, 0⟩
/-- FLT_MASK.src_mask -/
abbrev FLT_MASK_src_mask : Fld := ⟨.FLT_MASK, 31, 0, .RW, 0⟩
/-- FLT_MASK.state_mask -/
abbrev FLT_MASK_state_mask : Fld := ⟨.FLT_MASK, 32, 32, .RW, 1⟩
/-- FLT_FORCE.src -/
abbrev FLT_FORCE_src : Fld := ⟨.FLT_FORCE, 31, 0, .WO, 0⟩
/-- FLT_CMD.op -/
abbrev FLT_CMD_op : Fld := ⟨.FLT_CMD, 1, 0, .RW, 0⟩
/-- FLT_CMD.go -/
abbrev FLT_CMD_go : Fld := ⟨.FLT_CMD, 2, 2, .W1S, 0⟩
/-- FLT_CMD.result -/
abbrev FLT_CMD_result : Fld := ⟨.FLT_CMD, 10, 8, .RO, 0⟩
/-- FLT_COUNT.count -/
abbrev FLT_COUNT_count : Fld := ⟨.FLT_COUNT, 31, 0, .RO, 0⟩
/-- FLT_COUNT.overflow -/
abbrev FLT_COUNT_overflow : Fld := ⟨.FLT_COUNT, 32, 32, .W1C, 0⟩
/-- FLT_CLASS.class -/
abbrev FLT_CLASS_class : Fld := ⟨.FLT_CLASS, 63, 0, .RO, 0⟩
/-- FLT_MSI_ADDR.addr -/
abbrev FLT_MSI_ADDR_addr : Fld := ⟨.FLT_MSI_ADDR, 51, 2, .RW, 0⟩
/-- FLT_MSI_DATA.data -/
abbrev FLT_MSI_DATA_data : Fld := ⟨.FLT_MSI_DATA, 31, 0, .RW, 0⟩
/-- FLT_RECOVERY.count -/
abbrev FLT_RECOVERY_count : Fld := ⟨.FLT_RECOVERY, 15, 0, .RO, 0⟩
/-- FLT_RECOVERY.auto -/
abbrev FLT_RECOVERY_auto : Fld := ⟨.FLT_RECOVERY, 16, 16, .RO, 1⟩
/-- FLT_RECOVERY.recent -/
abbrev FLT_RECOVERY_recent : Fld := ⟨.FLT_RECOVERY, 20, 17, .RO, 0⟩
/-- FLT_RECOVERY.failed_tests -/
abbrev FLT_RECOVERY_failed_tests : Fld := ⟨.FLT_RECOVERY, 22, 21, .RO, 0⟩
/-- FLT_RECOVERY.overflow -/
abbrev FLT_RECOVERY_overflow : Fld := ⟨.FLT_RECOVERY, 23, 23, .RO, 0⟩
/-- FLT_LAST_TIME.time -/
abbrev FLT_LAST_TIME_time : Fld := ⟨.FLT_LAST_TIME, 63, 0, .RO, 0⟩
/-- FLT_QUIET_LEFT.ms -/
abbrev FLT_QUIET_LEFT_ms : Fld := ⟨.FLT_QUIET_LEFT, 31, 0, .RO, 0⟩
/-- HBM_ERR_ADDR.pa -/
abbrev HBM_ERR_ADDR_pa : Fld := ⟨.HBM_ERR_ADDR, 51, 0, .RO, 0⟩
/-- HBM_ERR_INFO.valid -/
abbrev HBM_ERR_INFO_valid : Fld := ⟨.HBM_ERR_INFO, 0, 0, .W1C, 0⟩
/-- HBM_ERR_INFO.write -/
abbrev HBM_ERR_INFO_write : Fld := ⟨.HBM_ERR_INFO, 1, 1, .RO, 0⟩
/-- HBM_ERR_INFO.scrub -/
abbrev HBM_ERR_INFO_scrub : Fld := ⟨.HBM_ERR_INFO, 2, 2, .RO, 0⟩
/-- HBM_ERR_INFO.pch -/
abbrev HBM_ERR_INFO_pch : Fld := ⟨.HBM_ERR_INFO, 13, 8, .RO, 0⟩
/-- HBM_ERR_INFO.bank -/
abbrev HBM_ERR_INFO_bank : Fld := ⟨.HBM_ERR_INFO, 18, 14, .RO, 0⟩
/-- HBM_ERR_INFO.row -/
abbrev HBM_ERR_INFO_row : Fld := ⟨.HBM_ERR_INFO, 37, 20, .RO, 0⟩
/-- HBM_UE_COUNT.count -/
abbrev HBM_UE_COUNT_count : Fld := ⟨.HBM_UE_COUNT, 31, 0, .RO, 0⟩
/-- HBM_UE_COUNT.overflow -/
abbrev HBM_UE_COUNT_overflow : Fld := ⟨.HBM_UE_COUNT, 32, 32, .W1C, 0⟩
/-- HBM_CE_COUNT.count -/
abbrev HBM_CE_COUNT_count : Fld := ⟨.HBM_CE_COUNT, 63, 0, .RO, 0⟩
/-- HBM_PPR_CMD.pch -/
abbrev HBM_PPR_CMD_pch : Fld := ⟨.HBM_PPR_CMD, 5, 0, .RW, 0⟩
/-- HBM_PPR_CMD.bank -/
abbrev HBM_PPR_CMD_bank : Fld := ⟨.HBM_PPR_CMD, 10, 6, .RW, 0⟩
/-- HBM_PPR_CMD.row -/
abbrev HBM_PPR_CMD_row : Fld := ⟨.HBM_PPR_CMD, 29, 12, .RW, 0⟩
/-- HBM_PPR_CMD.go -/
abbrev HBM_PPR_CMD_go : Fld := ⟨.HBM_PPR_CMD, 30, 30, .W1S, 0⟩
/-- HBM_PPR_CMD.result -/
abbrev HBM_PPR_CMD_result : Fld := ⟨.HBM_PPR_CMD, 33, 32, .RO, 0⟩
/-- POD_ERR_ADDR.offset -/
abbrev POD_ERR_ADDR_offset : Fld := ⟨.POD_ERR_ADDR, 29, 0, .RO, 0⟩
/-- POD_ERR_INFO.valid -/
abbrev POD_ERR_INFO_valid : Fld := ⟨.POD_ERR_INFO, 0, 0, .W1C, 0⟩
/-- POD_ERR_INFO.write -/
abbrev POD_ERR_INFO_write : Fld := ⟨.POD_ERR_INFO, 1, 1, .RO, 0⟩
/-- POD_ERR_INFO.scrub -/
abbrev POD_ERR_INFO_scrub : Fld := ⟨.POD_ERR_INFO, 2, 2, .RO, 0⟩
/-- POD_ERR_INFO.window -/
abbrev POD_ERR_INFO_window : Fld := ⟨.POD_ERR_INFO, 3, 3, .RO, 0⟩
/-- POD_ERR_INFO.requester -/
abbrev POD_ERR_INFO_requester : Fld := ⟨.POD_ERR_INFO, 18, 8, .RO, 0⟩
/-- POD_UE_COUNT.count -/
abbrev POD_UE_COUNT_count : Fld := ⟨.POD_UE_COUNT, 31, 0, .RO, 0⟩
/-- POD_UE_COUNT.overflow -/
abbrev POD_UE_COUNT_overflow : Fld := ⟨.POD_UE_COUNT, 32, 32, .W1C, 0⟩
/-- POD_CE_COUNT.count -/
abbrev POD_CE_COUNT_count : Fld := ⟨.POD_CE_COUNT, 31, 0, .RO, 0⟩
/-- POD_CE_COUNT.overflow -/
abbrev POD_CE_COUNT_overflow : Fld := ⟨.POD_CE_COUNT, 32, 32, .W1C, 0⟩
/-- MGMT_STATUS.ready -/
abbrev MGMT_STATUS_ready : Fld := ⟨.MGMT_STATUS, 0, 0, .RO, 0⟩
/-- MGMT_STATUS.sessions -/
abbrev MGMT_STATUS_sessions : Fld := ⟨.MGMT_STATUS, 3, 1, .RO, 0⟩
/-- MGMT_STATUS.i3c_addressed -/
abbrev MGMT_STATUS_i3c_addressed : Fld := ⟨.MGMT_STATUS, 4, 4, .RO, 0⟩
/-- MGMT_STATUS.i3c_addr -/
abbrev MGMT_STATUS_i3c_addr : Fld := ⟨.MGMT_STATUS, 11, 5, .RO, 0⟩
/-- MGMT_HS_FAILS.count -/
abbrev MGMT_HS_FAILS_count : Fld := ⟨.MGMT_HS_FAILS, 31, 0, .RO, 0⟩
/-- MGMT_HS_FAILS.overflow -/
abbrev MGMT_HS_FAILS_overflow : Fld := ⟨.MGMT_HS_FAILS, 32, 32, .W1C, 0⟩
/-- ODC_CTRL.go -/
abbrev ODC_CTRL_go : Fld := ⟨.ODC_CTRL, 0, 0, .W1S, 0⟩
/-- ODC_STATUS.done -/
abbrev ODC_STATUS_done : Fld := ⟨.ODC_STATUS, 0, 0, .W1C, 0⟩
/-- ODC_STATUS.status -/
abbrev ODC_STATUS_status : Fld := ⟨.ODC_STATUS, 15, 8, .RO, 0⟩
/-- ODC_STATUS.resp_len -/
abbrev ODC_STATUS_resp_len : Fld := ⟨.ODC_STATUS, 31, 16, .RO, 0⟩
/-- ODC_MSI_ADDR.addr -/
abbrev ODC_MSI_ADDR_addr : Fld := ⟨.ODC_MSI_ADDR, 51, 2, .RW, 0⟩
/-- ODC_MSI_DATA.data -/
abbrev ODC_MSI_DATA_data : Fld := ⟨.ODC_MSI_DATA, 31, 0, .RW, 0⟩
/-- ODC_DENIED.count -/
abbrev ODC_DENIED_count : Fld := ⟨.ODC_DENIED, 31, 0, .RO, 0⟩
/-- ODC_DENIED.overflow -/
abbrev ODC_DENIED_overflow : Fld := ⟨.ODC_DENIED, 32, 32, .W1C, 0⟩
/-- PWR_GEAR.gear -/
abbrev PWR_GEAR_gear : Fld := ⟨.PWR_GEAR, 1, 0, .RO, 1⟩
/-- PWR_GEAR.requested -/
abbrev PWR_GEAR_requested : Fld := ⟨.PWR_GEAR, 3, 2, .RO, 1⟩
/-- PWR_GEAR.pending -/
abbrev PWR_GEAR_pending : Fld := ⟨.PWR_GEAR, 4, 4, .RO, 0⟩
/-- PWR_GEAR_REQ.gear -/
abbrev PWR_GEAR_REQ_gear : Fld := ⟨.PWR_GEAR_REQ, 1, 0, .RW, 1⟩
/-- PWR_GEAR_REQ.go -/
abbrev PWR_GEAR_REQ_go : Fld := ⟨.PWR_GEAR_REQ, 2, 2, .W1S, 0⟩
/-- PWR_STATUS.main_good -/
abbrev PWR_STATUS_main_good : Fld := ⟨.PWR_STATUS, 0, 0, .RO, 0⟩
/-- PWR_STATUS.aux_good -/
abbrev PWR_STATUS_aux_good : Fld := ⟨.PWR_STATUS, 1, 1, .RO, 0⟩
/-- PWR_STATUS.powerfail -/
abbrev PWR_STATUS_powerfail : Fld := ⟨.PWR_STATUS, 2, 2, .RO, 0⟩
/-- PWR_STATUS.throttle_power -/
abbrev PWR_STATUS_throttle_power : Fld := ⟨.PWR_STATUS, 3, 3, .RO, 0⟩
/-- PWR_STATUS.throttle_thermal -/
abbrev PWR_STATUS_throttle_thermal : Fld := ⟨.PWR_STATUS, 4, 4, .W1C, 0⟩
/-- PWR_STATUS.cap_breach -/
abbrev PWR_STATUS_cap_breach : Fld := ⟨.PWR_STATUS, 5, 5, .W1C, 0⟩
/-- PWR_INPUT.main_mv -/
abbrev PWR_INPUT_main_mv : Fld := ⟨.PWR_INPUT, 15, 0, .RO, 0⟩
/-- PWR_INPUT.aux_mv -/
abbrev PWR_INPUT_aux_mv : Fld := ⟨.PWR_INPUT, 31, 16, .RO, 0⟩
/-- PWR_INPUT.main_w -/
abbrev PWR_INPUT_main_w : Fld := ⟨.PWR_INPUT, 47, 32, .RO, 0⟩
/-- PWR_ENERGY.uj -/
abbrev PWR_ENERGY_uj : Fld := ⟨.PWR_ENERGY, 63, 0, .RO, 0⟩
/-- PWR_START.stage -/
abbrev PWR_START_stage : Fld := ⟨.PWR_START, 3, 0, .RO, 0⟩
/-- PWR_START.fail -/
abbrev PWR_START_fail : Fld := ⟨.PWR_START, 7, 4, .RO, 0⟩
/-- PWR_TILE_CLK.mhz -/
abbrev PWR_TILE_CLK_mhz : Fld := ⟨.PWR_TILE_CLK, 10, 0, .RO, 1200⟩
/-- PWR_CLUSTER.mhz -/
abbrev PWR_CLUSTER_mhz : Fld := ⟨.PWR_CLUSTER, 11, 0, .RO, 2000⟩
/-- PWR_CLUSTER.max_mhz -/
abbrev PWR_CLUSTER_max_mhz : Fld := ⟨.PWR_CLUSTER, 23, 12, .RW, 3000⟩
/-- PWR_TEMP.centi_c -/
abbrev PWR_TEMP_centi_c : Fld := ⟨.PWR_TEMP, 15, 0, .RO, 0⟩

end F

/-- The fields of each register; a bit in none of them is reserved (R13). -/
def Reg.fields : Reg → List Fld
  | .TB_CTRL => [F.TB_CTRL_source, F.TB_CTRL_pps_out_en, F.TB_CTRL_pps_in_edge, F.TB_CTRL_pps_out_width]
  | .TB_STATUS => [F.TB_STATUS_locked, F.TB_STATUS_holdover, F.TB_STATUS_stepped, F.TB_STATUS_slewing, F.TB_STATUS_pps_missing, F.TB_STATUS_replica_fault]
  | .TB_TIME => [F.TB_TIME_time]
  | .TB_INCR => [F.TB_INCR_incr]
  | .TB_ADJ => [F.TB_ADJ_adj]
  | .TB_PPS_CAPTURE => [F.TB_PPS_CAPTURE_capture]
  | .DIE_TIME => [F.DIE_TIME_time]
  | .STEP_NUMBER => [F.STEP_NUMBER_number]
  | .STEP_LAST_TIME => [F.STEP_LAST_TIME_t_b]
  | .STEP_LEAD => [F.STEP_LEAD_lead_ns]
  | .STEP_CTRL => [F.STEP_CTRL_c_die_mask]
  | .TANDEM_CTRL => [F.TANDEM_CTRL_group_mask, F.TANDEM_CTRL_enable]
  | .TANDEM_STATUS => [F.TANDEM_STATUS_locked, F.TANDEM_STATUS_late, F.TANDEM_STATUS_member_lost]
  | .TANDEM_LATE => [F.TANDEM_LATE_count, F.TANDEM_LATE_overflow]
  | .PKG_EPOCH => [F.PKG_EPOCH_epoch]
  | .PKG_EPOCH_STATUS => [F.PKG_EPOCH_STATUS_overflow]
  | .MEMMAP_STATUS => [F.MEMMAP_STATUS_hbm_mode, F.MEMMAP_STATUS_ddr_mode]
  | .DDR_TOP => [F.DDR_TOP_top]
  | .HOLE_ADDR => [F.HOLE_ADDR_addr, F.HOLE_ADDR_agent_die]
  | .HOLE_COUNT => [F.HOLE_COUNT_count, F.HOLE_COUNT_overflow]
  | .TRANS_ROOT => [F.TRANS_ROOT_enable, F.TRANS_ROOT_root]
  | .TRANS_ATTR => [F.TRANS_ATTR_part_id, F.TRANS_ATTR_open_access]
  | .TRANS_INVAL => [F.TRANS_INVAL_ctx, F.TRANS_INVAL_range, F.TRANS_INVAL_all_ctx, F.TRANS_INVAL_va, F.TRANS_INVAL_busy]
  | .TRANS_STATUS => [F.TRANS_STATUS_first_fault, F.TRANS_STATUS_fault_ctx, F.TRANS_STATUS_inval_overrun, F.TRANS_STATUS_reserved_encoding]
  | .TRANS_FAULT_ADDR => [F.TRANS_FAULT_ADDR_va]
  | .CAT_ROOT => [F.CAT_ROOT_enable, F.CAT_ROOT_key_gen, F.CAT_ROOT_root]
  | .HCR_MEM_STATUS => [F.HCR_MEM_STATUS_discarded, F.HCR_MEM_STATUS_overflow, F.HCR_MEM_STATUS_flush_active]
  | .HA_STATUS => [F.HA_STATUS_dir_corrected, F.HA_STATUS_dir_rebuilt, F.HA_STATUS_lost_dirty]
  | .HA_OCCUPANCY => [F.HA_OCCUPANCY_valid, F.HA_OCCUPANCY_pinned]
  | .HA_RETRY_COUNT => [F.HA_RETRY_COUNT_count, F.HA_RETRY_COUNT_overflow]
  | .HA_RETRY_MAX => [F.HA_RETRY_MAX_max_ns, F.HA_RETRY_MAX_clear]
  | .HA_LOST_DIRTY => [F.HA_LOST_DIRTY_count, F.HA_LOST_DIRTY_overflow]
  | .TILE_ID => [F.TILE_ID_tile, F.TILE_ID_die, F.TILE_ID_pkg_tile, F.TILE_ID_enabled]
  | .TILE_CTRL => [F.TILE_CTRL_fw_enable]
  | .TILE_STATUS => [F.TILE_STATUS_state, F.TILE_STATUS_stale, F.TILE_STATUS_reserved_encoding, F.TILE_STATUS_groups_live]
  | .TILE_UNIT_EPOCH => [F.TILE_UNIT_EPOCH_epoch]
  | .TILE_RNG_CTRL => [F.TILE_RNG_CTRL_counter_mode, F.TILE_RNG_CTRL_keyed]
  | .TILE_RNG_KEY => [F.TILE_RNG_KEY_key]
  | .TILE_RNG_LANE => [F.TILE_RNG_LANE_lane]
  | .TILE_CYCLES => [F.TILE_CYCLES_count]
  | .TILE_ARRAY_CYCLES => [F.TILE_ARRAY_CYCLES_count]
  | .TILE_FW_UNITS => [F.TILE_FW_UNITS_count]
  | .TILE_BANK_STALLS => [F.TILE_BANK_STALLS_count, F.TILE_BANK_STALLS_overflow]
  | .TILE_ERR_PC => [F.TILE_ERR_PC_pc]
  | .TILE_ERR_INFO => [F.TILE_ERR_INFO_status, F.TILE_ERR_INFO_group, F.TILE_ERR_INFO_thread, F.TILE_ERR_INFO_unit]
  | .TILE_ERR_ADDR => [F.TILE_ERR_ADDR_addr]
  | .TILE_ERR_AUX => [F.TILE_ERR_AUX_count, F.TILE_ERR_AUX_overflow]
  | .TILE_NUM_CTRL => [F.TILE_NUM_CTRL_vec_daz, F.TILE_NUM_CTRL_vec_ftz, F.TILE_NUM_CTRL_arr_wide_ftz]
  | .TILE_NUM_STATUS => [F.TILE_NUM_STATUS_arr_in_fz, F.TILE_NUM_STATUS_arr_out_fz, F.TILE_NUM_STATUS_arr_sat, F.TILE_NUM_STATUS_arr_of, F.TILE_NUM_STATUS_arr_nv, F.TILE_NUM_STATUS_table_inexact]
  | .NUM_TABLE_BASE => [F.NUM_TABLE_BASE_enable, F.NUM_TABLE_BASE_shadow_en, F.NUM_TABLE_BASE_verdict_en, F.NUM_TABLE_BASE_base]
  | .NUM_TABLE_COUNT => [F.NUM_TABLE_COUNT_count]
  | .NUM_STATUS => [F.NUM_STATUS_id_range, F.NUM_STATUS_fold_busy, F.NUM_STATUS_cold_consume, F.NUM_STATUS_reserved_encoding]
  | .NUM_VERDICT => [F.NUM_VERDICT_local_nf, F.NUM_VERDICT_last_verdict, F.NUM_VERDICT_skipped_step]
  | .NUM_NF_ORIGIN => [F.NUM_NF_ORIGIN_tensor, F.NUM_NF_ORIGIN_pkg_tile, F.NUM_NF_ORIGIN_valid, F.NUM_NF_ORIGIN_step]
  | .NUM_SKIP_COUNT => [F.NUM_SKIP_COUNT_count, F.NUM_SKIP_COUNT_overflow]
  | .NUM_COLD_COUNT => [F.NUM_COLD_COUNT_count, F.NUM_COLD_COUNT_overflow]
  | .NUM_EXTRA_COUNT => [F.NUM_EXTRA_COUNT_count, F.NUM_EXTRA_COUNT_overflow]
  | .NUM_SHADOW_ALERTS => [F.NUM_SHADOW_ALERTS_count, F.NUM_SHADOW_ALERTS_overflow]
  | .NUM_WIDE_COUNT => [F.NUM_WIDE_COUNT_count, F.NUM_WIDE_COUNT_overflow]
  | .NUM_ZERO_COUNT => [F.NUM_ZERO_COUNT_count, F.NUM_ZERO_COUNT_overflow]
  | .NUM_SHADOW_LAST => [F.NUM_SHADOW_LAST_tensor, F.NUM_SHADOW_LAST_pkg_tile, F.NUM_SHADOW_LAST_err_hit, F.NUM_SHADOW_LAST_sat_hit, F.NUM_SHADOW_LAST_flush_hit]
  | .NUM_SHADOW_METRIC => [F.NUM_SHADOW_METRIC_err, F.NUM_SHADOW_METRIC_sat_frac, F.NUM_SHADOW_METRIC_flush_frac]
  | .NUM_ZERO_LAST => [F.NUM_ZERO_LAST_tensor, F.NUM_ZERO_LAST_proposal]
  | .PAN_CTRL => [F.PAN_CTRL_enable, F.PAN_CTRL_ctx]
  | .PAN_RING_BASE => [F.PAN_RING_BASE_base]
  | .PAN_SEED_BASE => [F.PAN_SEED_BASE_base]
  | .PAN_SIZES => [F.PAN_SIZES_ring_mib, F.PAN_SIZES_wmark_mib, F.PAN_SIZES_prefetch_mib, F.PAN_SIZES_seed_mib]
  | .PAN_CMD => [F.PAN_CMD_stack, F.PAN_CMD_all, F.PAN_CMD_clear]
  | .PAN_STATUS => [F.PAN_STATUS_full, F.PAN_STATUS_left_over, F.PAN_STATUS_lost, F.PAN_STATUS_mover_fault, F.PAN_STATUS_clear_refused, F.PAN_STATUS_clamped, F.PAN_STATUS_busy]
  | .PAN_PUSH_WAITS => [F.PAN_PUSH_WAITS_count, F.PAN_PUSH_WAITS_overflow]
  | .PAN_FILL_WAITS => [F.PAN_FILL_WAITS_count, F.PAN_FILL_WAITS_overflow]
  | .PAN_SPILL_LINES => [F.PAN_SPILL_LINES_count]
  | .PAN_FILL_LINES => [F.PAN_FILL_LINES_count]
  | .PAN_TOP => [F.PAN_TOP_top]
  | .PAN_END => [F.PAN_END_end]
  | .PAN_BOTTOM => [F.PAN_BOTTOM_bottom]
  | .PAN_INFO => [F.PAN_INFO_frames, F.PAN_INFO_held, F.PAN_INFO_holder, F.PAN_INFO_move]
  | .NME_ID => [F.NME_ID_stack, F.NME_ID_die]
  | .NME_CTRL => [F.NME_CTRL_ftz, F.NME_CTRL_rekey_share]
  | .NME_STATUS => [F.NME_STATUS_sweep_active, F.NME_STATUS_rekey_active, F.NME_STATUS_stale, F.NME_STATUS_reserved_encoding, F.NME_STATUS_prog_write_refused, F.NME_STATUS_phase, F.NME_STATUS_last_status]
  | .NME_FLAGS => [F.NME_FLAGS_nv, F.NME_FLAGS_dz, F.NME_FLAGS_of, F.NME_FLAGS_fz, F.NME_FLAGS_nf_master]
  | .NME_UNIT_EPOCH => [F.NME_UNIT_EPOCH_epoch]
  | .NME_PROG_CTRL => [F.NME_PROG_CTRL_active, F.NME_PROG_CTRL_commit]
  | .NME_PROG_ENTRIES_0 => [F.NME_PROG_ENTRIES_0_entries]
  | .NME_PROG_ENTRIES_1 => [F.NME_PROG_ENTRIES_1_entries]
  | .NME_SWEEP_ERR_ADDR => [F.NME_SWEEP_ERR_ADDR_va]
  | .NME_SWEEP_BLOCKS => [F.NME_SWEEP_BLOCKS_count]
  | .NME_CLAMP_FALLBACK => [F.NME_CLAMP_FALLBACK_count, F.NME_CLAMP_FALLBACK_overflow]
  | .NME_DIGEST_MISMATCH => [F.NME_DIGEST_MISMATCH_count, F.NME_DIGEST_MISMATCH_overflow]
  | .NME_DIGEST_LAST => [F.NME_DIGEST_LAST_shard, F.NME_DIGEST_LAST_step, F.NME_DIGEST_LAST_held]
  | .NME_REKEY_CTRL => [F.NME_REKEY_CTRL_ctx, F.NME_REKEY_CTRL_go, F.NME_REKEY_CTRL_desc]
  | .NME_REKEY_PAGES => [F.NME_REKEY_PAGES_count]
  | .NME_PROG => [F.NME_PROG_word]
  | .SEQ_STATUS => [F.SEQ_STATUS_ready_sent, F.SEQ_STATUS_reserved_encoding, F.SEQ_STATUS_jobs_active]
  | .SEQ_TILE_MAP_0 => [F.SEQ_TILE_MAP_0_map]
  | .SEQ_TILE_MAP_1 => [F.SEQ_TILE_MAP_1_map]
  | .SEQ_TILE_MAP_2 => [F.SEQ_TILE_MAP_2_map]
  | .SEQ_WAKES => [F.SEQ_WAKES_count, F.SEQ_WAKES_overflow]
  | .SEQ_LAPS => [F.SEQ_LAPS_count]
  | .SEQ_STREAM_BASE => [F.SEQ_STREAM_BASE_scb]
  | .SEQ_STREAM_CTRL => [F.SEQ_STREAM_CTRL_enable, F.SEQ_STREAM_CTRL_ctx, F.SEQ_STREAM_CTRL_step_bound, F.SEQ_STREAM_CTRL_halt_on_error, F.SEQ_STREAM_CTRL_priority, F.SEQ_STREAM_CTRL_ring_log2]
  | .SEQ_STREAM_STATUS => [F.SEQ_STREAM_STATUS_armed, F.SEQ_STREAM_STATUS_halted, F.SEQ_STREAM_STATUS_tail_error, F.SEQ_STREAM_STATUS_last_status]
  | .SEQ_STREAM_HEAD => [F.SEQ_STREAM_HEAD_head]
  | .SEQ_MSI_ADDR => [F.SEQ_MSI_ADDR_addr]
  | .SEQ_MSI_DATA => [F.SEQ_MSI_DATA_data]
  | .PORT_CTRL => [F.PORT_CTRL_mode, F.PORT_CTRL_retrain, F.PORT_CTRL_retrain_max, F.PORT_CTRL_pfc_en]
  | .PORT_STATUS => [F.PORT_STATUS_link_up, F.PORT_STATUS_secure, F.PORT_STATUS_retraining, F.PORT_STATUS_retrain_timeout, F.PORT_STATUS_pfc_wd]
  | .PORT_PFC_WD => [F.PORT_PFC_WD_wd_ms]
  | .PORT_CLASS => [F.PORT_CLASS_xoff_kib, F.PORT_CLASS_xon_kib, F.PORT_CLASS_headroom_kib, F.PORT_CLASS_ecn_kib]
  | .LINK_TX_FRAMES => [F.LINK_TX_FRAMES_count]
  | .LINK_RX_FRAMES => [F.LINK_RX_FRAMES_count]
  | .LINK_FEC_CORRECTED => [F.LINK_FEC_CORRECTED_count]
  | .LINK_FEC_UNCORRECTED => [F.LINK_FEC_UNCORRECTED_count, F.LINK_FEC_UNCORRECTED_overflow]
  | .LINK_RX_DROP => [F.LINK_RX_DROP_count, F.LINK_RX_DROP_overflow]
  | .LINK_RX_UNMATCHED => [F.LINK_RX_UNMATCHED_count, F.LINK_RX_UNMATCHED_overflow]
  | .LINK_PFC_XOFF_TX => [F.LINK_PFC_XOFF_TX_count, F.LINK_PFC_XOFF_TX_overflow]
  | .LINK_PFC_XOFF_RX => [F.LINK_PFC_XOFF_RX_count, F.LINK_PFC_XOFF_RX_overflow]
  | .LINK_ECN_MARKED => [F.LINK_ECN_MARKED_count]
  | .LINK_MACSEC_INVALID => [F.LINK_MACSEC_INVALID_count, F.LINK_MACSEC_INVALID_overflow]
  | .LINK_MACSEC_REKEY => [F.LINK_MACSEC_REKEY_count, F.LINK_MACSEC_REKEY_overflow]
  | .LINK_LINK_DOWNS => [F.LINK_LINK_DOWNS_count, F.LINK_LINK_DOWNS_overflow]
  | .LINK_PTP_TS_LOST => [F.LINK_PTP_TS_LOST_count, F.LINK_PTP_TS_LOST_overflow]
  | .AT_CTRL => [F.AT_CTRL_enable]
  | .AT_CONN_BASE => [F.AT_CONN_BASE_pa]
  | .AT_CONN_COUNT => [F.AT_CONN_COUNT_count]
  | .AT_ADDR_BASE => [F.AT_ADDR_BASE_pa]
  | .AT_RETX_BASE => [F.AT_RETX_BASE_pa]
  | .AT_RETX_SIZE => [F.AT_RETX_SIZE_mib]
  | .AT_CONN_CMD => [F.AT_CONN_CMD_conn, F.AT_CONN_CMD_op, F.AT_CONN_CMD_busy]
  | .AT_STATUS => [F.AT_STATUS_open_refused, F.AT_STATUS_retx_full]
  | .AT_CONN_FAILS => [F.AT_CONN_FAILS_count, F.AT_CONN_FAILS_overflow]
  | .AT_RETX_PKTS => [F.AT_RETX_PKTS_count]
  | .AT_CNP_RX => [F.AT_CNP_RX_count]
  | .AT_BAD_PKTS => [F.AT_BAD_PKTS_count, F.AT_BAD_PKTS_overflow]
  | .DRL_CTRL => [F.DRL_CTRL_enable, F.DRL_CTRL_timeout]
  | .DRL_STATUS => [F.DRL_STATUS_stale, F.DRL_STATUS_reserved_encoding, F.DRL_STATUS_route_fault, F.DRL_STATUS_rt_write_refused, F.DRL_STATUS_stage_wait, F.DRL_STATUS_step_nf, F.DRL_STATUS_sat, F.DRL_STATUS_rt_save_fault, F.DRL_STATUS_active]
  | .DRL_RT_CTRL => [F.DRL_RT_CTRL_active, F.DRL_RT_CTRL_commit]
  | .DRL_RT_SAVE => [F.DRL_RT_SAVE_pa]
  | .DRL_STAGE_BASE => [F.DRL_STAGE_BASE_pa]
  | .DRL_STAGE_SIZE => [F.DRL_STAGE_SIZE_mib]
  | .DRL_DELIV_BASE => [F.DRL_DELIV_BASE_pa]
  | .DRL_ROUTE_FAULT => [F.DRL_ROUTE_FAULT_layer, F.DRL_ROUTE_FAULT_expert, F.DRL_ROUTE_FAULT_valid, F.DRL_ROUTE_FAULT_step]
  | .DRL_UNIT_EPOCH => [F.DRL_UNIT_EPOCH_epoch]
  | .DRL_ERR_ADDR => [F.DRL_ERR_ADDR_va]
  | .DRL_ROWS_SENT => [F.DRL_ROWS_SENT_count]
  | .DRL_COLL_DONE => [F.DRL_COLL_DONE_count]
  | .DRL_DROPPED => [F.DRL_DROPPED_count, F.DRL_DROPPED_overflow]
  | .DRL_LATE_STARTS => [F.DRL_LATE_STARTS_count, F.DRL_LATE_STARTS_overflow]
  | .DRL_BAD_MSGS => [F.DRL_BAD_MSGS_count, F.DRL_BAD_MSGS_overflow]
  | .HCR_CTRL => [F.HCR_CTRL_reset_req, F.HCR_CTRL_forced]
  | .HCR_STATUS => [F.HCR_STATUS_count, F.HCR_STATUS_overflow, F.HCR_STATUS_last_forced]
  | .CORE_PART => [F.CORE_PART_part]
  | .MC_CFG => [F.MC_CFG_dimm_type, F.MC_CFG_dpc2, F.MC_CFG_ranks, F.MC_CFG_mts]
  | .MC_CAP => [F.MC_CAP_installed_gib, F.MC_CAP_mapped_gib]
  | .MC_STATUS => [F.MC_STATUS_trained, F.MC_STATUS_held_out]
  | .MC_ERR_ADDR => [F.MC_ERR_ADDR_pa]
  | .MC_ERR_INFO => [F.MC_ERR_INFO_valid, F.MC_ERR_INFO_write, F.MC_ERR_INFO_scrub, F.MC_ERR_INFO_pch, F.MC_ERR_INFO_bank, F.MC_ERR_INFO_row]
  | .MC_UE_COUNT => [F.MC_UE_COUNT_count, F.MC_UE_COUNT_overflow]
  | .MC_CE_COUNT => [F.MC_CE_COUNT_count]
  | .MC_PPR_CMD => [F.MC_PPR_CMD_pch, F.MC_PPR_CMD_bank, F.MC_PPR_CMD_row, F.MC_PPR_CMD_go, F.MC_PPR_CMD_result]
  | .MC_REKEY_CTRL => [F.MC_REKEY_CTRL_ctx, F.MC_REKEY_CTRL_go, F.MC_REKEY_CTRL_desc]
  | .MC_REKEY_PAGES => [F.MC_REKEY_PAGES_count]
  | .PCIE_CTRL => [F.PCIE_CTRL_bifurc]
  | .PCIE_LINK => [F.PCIE_LINK_speed, F.PCIE_LINK_width, F.PCIE_LINK_up, F.PCIE_LINK_flit, F.PCIE_LINK_cxl, F.PCIE_LINK_recovery, F.PCIE_LINK_down_event]
  | .PCIE_LOST => [F.PCIE_LOST_count, F.PCIE_LOST_overflow]
  | .IOMMU_DT_BASE => [F.IOMMU_DT_BASE_enable, F.IOMMU_DT_BASE_pa]
  | .IOMMU_FAULT => [F.IOMMU_FAULT_first_fault, F.IOMMU_FAULT_write, F.IOMMU_FAULT_rid]
  | .IOMMU_FAULT_ADDR => [F.IOMMU_FAULT_ADDR_addr]
  | .IOMMU_FAULT_COUNT => [F.IOMMU_FAULT_COUNT_count, F.IOMMU_FAULT_COUNT_overflow]
  | .IOMMU_DT_INVAL => [F.IOMMU_DT_INVAL_rid, F.IOMMU_DT_INVAL_all, F.IOMMU_DT_INVAL_go]
  | .IOMMU_SEAL => [F.IOMMU_SEAL_rid, F.IOMMU_SEAL_part, F.IOMMU_SEAL_valid]
  | .ROT_STATUS => [F.ROT_STATUS_ready, F.ROT_STATUS_approved, F.ROT_STATUS_error, F.ROT_STATUS_debug_unlocked, F.ROT_STATUS_att_exhausted, F.ROT_STATUS_id_exhausted]
  | .ROT_ATT_LEAF => [F.ROT_ATT_LEAF_next]
  | .ROT_ID_LEAF => [F.ROT_ID_LEAF_next]
  | .MBOX_CTRL => [F.MBOX_CTRL_go]
  | .MBOX_STATUS => [F.MBOX_STATUS_done, F.MBOX_STATUS_result, F.MBOX_STATUS_resp_len]
  | .MBOX_MSI_ADDR => [F.MBOX_MSI_ADDR_addr]
  | .MBOX_MSI_DATA => [F.MBOX_MSI_DATA_data]
  | .MBOX_DENIED => [F.MBOX_DENIED_count, F.MBOX_DENIED_overflow]
  | .CR_LINK_STATUS => [F.CR_LINK_STATUS_keyed, F.CR_LINK_STATUS_auth_fail, F.CR_LINK_STATUS_peer]
  | .CR_TX_CTR => [F.CR_TX_CTR_ctr]
  | .CR_RX_CTR => [F.CR_RX_CTR_ctr]
  | .FLT_STATUS => [F.FLT_STATUS_src, F.FLT_STATUS_class_max, F.FLT_STATUS_state, F.FLT_STATUS_escalated, F.FLT_STATUS_selftest_fail]
  | .FLT_MASK => [F.FLT_MASK_src_mask, F.FLT_MASK_state_mask]
  | .FLT_FORCE => [F.FLT_FORCE_src]
  | .FLT_CMD => [F.FLT_CMD_op, F.FLT_CMD_go, F.FLT_CMD_result]
  | .FLT_COUNT => [F.FLT_COUNT_count, F.FLT_COUNT_overflow]
  | .FLT_CLASS => [F.FLT_CLASS_class]
  | .FLT_MSI_ADDR => [F.FLT_MSI_ADDR_addr]
  | .FLT_MSI_DATA => [F.FLT_MSI_DATA_data]
  | .FLT_RECOVERY => [F.FLT_RECOVERY_count, F.FLT_RECOVERY_auto, F.FLT_RECOVERY_recent, F.FLT_RECOVERY_failed_tests, F.FLT_RECOVERY_overflow]
  | .FLT_LAST_TIME => [F.FLT_LAST_TIME_time]
  | .FLT_QUIET_LEFT => [F.FLT_QUIET_LEFT_ms]
  | .HBM_ERR_ADDR => [F.HBM_ERR_ADDR_pa]
  | .HBM_ERR_INFO => [F.HBM_ERR_INFO_valid, F.HBM_ERR_INFO_write, F.HBM_ERR_INFO_scrub, F.HBM_ERR_INFO_pch, F.HBM_ERR_INFO_bank, F.HBM_ERR_INFO_row]
  | .HBM_UE_COUNT => [F.HBM_UE_COUNT_count, F.HBM_UE_COUNT_overflow]
  | .HBM_CE_COUNT => [F.HBM_CE_COUNT_count]
  | .HBM_PPR_CMD => [F.HBM_PPR_CMD_pch, F.HBM_PPR_CMD_bank, F.HBM_PPR_CMD_row, F.HBM_PPR_CMD_go, F.HBM_PPR_CMD_result]
  | .POD_ERR_ADDR => [F.POD_ERR_ADDR_offset]
  | .POD_ERR_INFO => [F.POD_ERR_INFO_valid, F.POD_ERR_INFO_write, F.POD_ERR_INFO_scrub, F.POD_ERR_INFO_window, F.POD_ERR_INFO_requester]
  | .POD_UE_COUNT => [F.POD_UE_COUNT_count, F.POD_UE_COUNT_overflow]
  | .POD_CE_COUNT => [F.POD_CE_COUNT_count, F.POD_CE_COUNT_overflow]
  | .MGMT_STATUS => [F.MGMT_STATUS_ready, F.MGMT_STATUS_sessions, F.MGMT_STATUS_i3c_addressed, F.MGMT_STATUS_i3c_addr]
  | .MGMT_HS_FAILS => [F.MGMT_HS_FAILS_count, F.MGMT_HS_FAILS_overflow]
  | .ODC_CTRL => [F.ODC_CTRL_go]
  | .ODC_STATUS => [F.ODC_STATUS_done, F.ODC_STATUS_status, F.ODC_STATUS_resp_len]
  | .ODC_MSI_ADDR => [F.ODC_MSI_ADDR_addr]
  | .ODC_MSI_DATA => [F.ODC_MSI_DATA_data]
  | .ODC_DENIED => [F.ODC_DENIED_count, F.ODC_DENIED_overflow]
  | .PWR_GEAR => [F.PWR_GEAR_gear, F.PWR_GEAR_requested, F.PWR_GEAR_pending]
  | .PWR_GEAR_REQ => [F.PWR_GEAR_REQ_gear, F.PWR_GEAR_REQ_go]
  | .PWR_STATUS => [F.PWR_STATUS_main_good, F.PWR_STATUS_aux_good, F.PWR_STATUS_powerfail, F.PWR_STATUS_throttle_power, F.PWR_STATUS_throttle_thermal, F.PWR_STATUS_cap_breach]
  | .PWR_INPUT => [F.PWR_INPUT_main_mv, F.PWR_INPUT_aux_mv, F.PWR_INPUT_main_w]
  | .PWR_ENERGY => [F.PWR_ENERGY_uj]
  | .PWR_START => [F.PWR_START_stage, F.PWR_START_fail]
  | .PWR_TILE_CLK => [F.PWR_TILE_CLK_mhz]
  | .PWR_CLUSTER => [F.PWR_CLUSTER_mhz, F.PWR_CLUSTER_max_mhz]
  | .PWR_TEMP => [F.PWR_TEMP_centi_c]

/-- The registers of 32 bits (R14). -/
def Reg.narrow : List Reg :=
  [ .TB_CTRL, .TB_STATUS, .STEP_LEAD, .STEP_CTRL, .TANDEM_CTRL, .TANDEM_STATUS, .PKG_EPOCH, .PKG_EPOCH_STATUS,
    .MEMMAP_STATUS, .TRANS_ATTR, .TRANS_STATUS, .HA_STATUS, .TILE_ID, .TILE_CTRL, .TILE_STATUS,
    .TILE_UNIT_EPOCH, .TILE_RNG_CTRL, .TILE_RNG_LANE, .TILE_ERR_INFO, .TILE_NUM_CTRL, .TILE_NUM_STATUS,
    .NUM_TABLE_COUNT, .NUM_STATUS, .PAN_CTRL, .PAN_CMD, .PAN_STATUS, .NME_ID, .NME_CTRL,
    .NME_STATUS, .NME_FLAGS, .NME_UNIT_EPOCH, .NME_PROG_CTRL, .NME_PROG, .SEQ_STATUS, .SEQ_STREAM_CTRL,
    .SEQ_STREAM_STATUS, .SEQ_MSI_DATA, .PORT_CTRL, .PORT_STATUS, .PORT_PFC_WD, .AT_CTRL, .AT_CONN_COUNT,
    .AT_RETX_SIZE, .AT_CONN_CMD, .AT_STATUS, .DRL_CTRL, .DRL_STATUS, .DRL_RT_CTRL, .DRL_STAGE_SIZE,
    .DRL_UNIT_EPOCH, .HCR_CTRL, .HCR_STATUS, .CORE_PART, .MC_CFG, .MC_CAP, .MC_STATUS, .PCIE_CTRL, .PCIE_LINK,
    .IOMMU_FAULT, .IOMMU_DT_INVAL, .ROT_STATUS, .MBOX_CTRL, .MBOX_STATUS, .MBOX_MSI_DATA, .CR_LINK_STATUS,
    .FLT_FORCE, .FLT_CMD, .FLT_MSI_DATA, .MGMT_STATUS, .ODC_CTRL, .ODC_STATUS, .ODC_MSI_DATA, .PWR_GEAR,
    .PWR_GEAR_REQ, .PWR_STATUS, .PWR_START, .PWR_TILE_CLK, .PWR_CLUSTER, .PWR_TEMP ]

/-- Width in bits: 32 for those, 64 for every other (R14). -/
def Reg.width (r : Reg) : Nat := if Reg.narrow.elem r then 32 else 64

/-- One run of copies of a register: the address of the first, its index, and for each nesting the count of
copies, their distance in bytes and what one step adds to the index. -/
structure Loc where
  base  : Nat
  start : Nat
  dims  : List (Nat × Nat × Nat)
  deriving DecidableEq, Repr

/-- Where the copies of each register lie. -/
def Reg.locs : Reg → List Loc
  | .TB_CTRL => [⟨0xF0080010000, 0, []⟩]
  | .TB_STATUS => [⟨0xF0080010004, 0, []⟩]
  | .TB_TIME => [⟨0xF0080010008, 0, []⟩]
  | .TB_INCR => [⟨0xF0080010010, 0, []⟩]
  | .TB_ADJ => [⟨0xF0080010018, 0, []⟩]
  | .TB_PPS_CAPTURE => [⟨0xF0080010020, 0, []⟩]
  | .DIE_TIME => [⟨0xF0000000100, 0, [(8, 0x1000000, 1)]⟩, ⟨0xF0010000100, 8, [(2, 0x1000000, 1)]⟩]
  | .STEP_NUMBER => [⟨0xF0080010100, 0, [(16, 0x20, 1)]⟩]
  | .STEP_LAST_TIME => [⟨0xF0080010108, 0, [(16, 0x20, 1)]⟩]
  | .STEP_LEAD => [⟨0xF0080010110, 0, [(16, 0x20, 1)]⟩]
  | .STEP_CTRL => [⟨0xF0080010114, 0, [(16, 0x20, 1)]⟩]
  | .TANDEM_CTRL => [⟨0xF0080010040, 0, []⟩]
  | .TANDEM_STATUS => [⟨0xF0080010044, 0, []⟩]
  | .TANDEM_LATE => [⟨0xF00800100C0, 0, [(8, 0x8, 1)]⟩]
  | .PKG_EPOCH => [⟨0xF0080010080, 0, []⟩]
  | .PKG_EPOCH_STATUS => [⟨0xF0080010084, 0, []⟩]
  | .MEMMAP_STATUS => [⟨0xF0080020000, 0, []⟩]
  | .DDR_TOP => [⟨0xF0080020008, 0, []⟩]
  | .HOLE_ADDR => [⟨0xF0080020010, 0, []⟩]
  | .HOLE_COUNT => [⟨0xF0080020018, 0, []⟩]
  | .TRANS_ROOT => [⟨0xF0080020100, 0, [(64, 0x10, 1)]⟩]
  | .TRANS_ATTR => [⟨0xF0080020108, 0, [(64, 0x10, 1)]⟩]
  | .TRANS_INVAL => [⟨0xF0080020500, 0, []⟩]
  | .TRANS_STATUS => [⟨0xF0080020508, 0, []⟩]
  | .TRANS_FAULT_ADDR => [⟨0xF0080020510, 0, []⟩]
  | .CAT_ROOT => [⟨0xF0080020600, 0, []⟩]
  | .HCR_MEM_STATUS => [⟨0xF0010002010, 0, [(2, 0x1000000, 1)]⟩]
  | .HA_STATUS => [⟨0xF0000003000, 0, [(8, 0x1000000, 1)]⟩, ⟨0xF0010003000, 8, [(2, 0x1000000, 1)]⟩]
  | .HA_OCCUPANCY => [⟨0xF0000003008, 0, [(8, 0x1000000, 1)]⟩, ⟨0xF0010003008, 8, [(2, 0x1000000, 1)]⟩]
  | .HA_RETRY_COUNT => [⟨0xF0000003010, 0, [(8, 0x1000000, 1)]⟩, ⟨0xF0010003010, 8, [(2, 0x1000000, 1)]⟩]
  | .HA_RETRY_MAX => [⟨0xF0000003018, 0, [(8, 0x1000000, 1)]⟩, ⟨0xF0010003018, 8, [(2, 0x1000000, 1)]⟩]
  | .HA_LOST_DIRTY => [⟨0xF0000003020, 0, [(8, 0x1000000, 1)]⟩, ⟨0xF0010003020, 8, [(2, 0x1000000, 1)]⟩]
  | .TILE_ID => [⟨0xF0000400000, 0, [(8, 0x1000000, 144), (144, 0x1000, 1)]⟩]
  | .TILE_CTRL => [⟨0xF0000400008, 0, [(8, 0x1000000, 144), (144, 0x1000, 1)]⟩]
  | .TILE_STATUS => [⟨0xF0000400010, 0, [(8, 0x1000000, 144), (144, 0x1000, 1)]⟩]
  | .TILE_UNIT_EPOCH => [⟨0xF0000400040, 0, [(8, 0x1000000, 144), (144, 0x1000, 1)]⟩]
  | .TILE_RNG_CTRL => [⟨0xF0000400080, 0, [(8, 0x1000000, 144), (144, 0x1000, 1)]⟩]
  | .TILE_RNG_KEY => [⟨0xF0000400088, 0, [(8, 0x1000000, 144), (144, 0x1000, 1)]⟩]
  | .TILE_RNG_LANE => [⟨0xF0000400090, 0, [(8, 0x1000000, 144), (144, 0x1000, 1)]⟩]
  | .TILE_CYCLES => [⟨0xF0000400100, 0, [(8, 0x1000000, 144), (144, 0x1000, 1)]⟩]
  | .TILE_ARRAY_CYCLES => [⟨0xF0000400108, 0, [(8, 0x1000000, 144), (144, 0x1000, 1)]⟩]
  | .TILE_FW_UNITS => [⟨0xF0000400110, 0, [(8, 0x1000000, 144), (144, 0x1000, 1)]⟩]
  | .TILE_BANK_STALLS => [⟨0xF0000400118, 0, [(8, 0x1000000, 144), (144, 0x1000, 1)]⟩]
  | .TILE_ERR_PC => [⟨0xF0000400020, 0, [(8, 0x1000000, 144), (144, 0x1000, 1)]⟩]
  | .TILE_ERR_INFO => [⟨0xF0000400028, 0, [(8, 0x1000000, 144), (144, 0x1000, 1)]⟩]
  | .TILE_ERR_ADDR => [⟨0xF0000400030, 0, [(8, 0x1000000, 144), (144, 0x1000, 1)]⟩]
  | .TILE_ERR_AUX => [⟨0xF0000400038, 0, [(8, 0x1000000, 144), (144, 0x1000, 1)]⟩]
  | .TILE_NUM_CTRL => [⟨0xF00004000C0, 0, [(8, 0x1000000, 144), (144, 0x1000, 1)]⟩]
  | .TILE_NUM_STATUS => [⟨0xF00004000C8, 0, [(8, 0x1000000, 144), (144, 0x1000, 1)]⟩]
  | .NUM_TABLE_BASE => [⟨0xF0080030100, 0, [(16, 0x80, 1)]⟩]
  | .NUM_TABLE_COUNT => [⟨0xF0080030108, 0, [(16, 0x80, 1)]⟩]
  | .NUM_STATUS => [⟨0xF008003010C, 0, [(16, 0x80, 1)]⟩]
  | .NUM_VERDICT => [⟨0xF0080030110, 0, [(16, 0x80, 1)]⟩]
  | .NUM_NF_ORIGIN => [⟨0xF0080030118, 0, [(16, 0x80, 1)]⟩]
  | .NUM_SKIP_COUNT => [⟨0xF0080030120, 0, [(16, 0x80, 1)]⟩]
  | .NUM_COLD_COUNT => [⟨0xF0080030128, 0, [(16, 0x80, 1)]⟩]
  | .NUM_EXTRA_COUNT => [⟨0xF0080030130, 0, [(16, 0x80, 1)]⟩]
  | .NUM_SHADOW_ALERTS => [⟨0xF0080030138, 0, [(16, 0x80, 1)]⟩]
  | .NUM_WIDE_COUNT => [⟨0xF0080030140, 0, [(16, 0x80, 1)]⟩]
  | .NUM_ZERO_COUNT => [⟨0xF0080030148, 0, [(16, 0x80, 1)]⟩]
  | .NUM_SHADOW_LAST => [⟨0xF0080030150, 0, [(16, 0x80, 1)]⟩]
  | .NUM_SHADOW_METRIC => [⟨0xF0080030158, 0, [(16, 0x80, 1)]⟩]
  | .NUM_ZERO_LAST => [⟨0xF0080030160, 0, [(16, 0x80, 1)]⟩]
  | .PAN_CTRL => [⟨0xF000000D000, 0, [(8, 0x1000000, 1)]⟩]
  | .PAN_RING_BASE => [⟨0xF000000D008, 0, [(8, 0x1000000, 1)]⟩]
  | .PAN_SEED_BASE => [⟨0xF000000D010, 0, [(8, 0x1000000, 1)]⟩]
  | .PAN_SIZES => [⟨0xF000000D018, 0, [(8, 0x1000000, 1)]⟩]
  | .PAN_CMD => [⟨0xF000000D020, 0, [(8, 0x1000000, 1)]⟩]
  | .PAN_STATUS => [⟨0xF000000D028, 0, [(8, 0x1000000, 1)]⟩]
  | .PAN_PUSH_WAITS => [⟨0xF000000D030, 0, [(8, 0x1000000, 1)]⟩]
  | .PAN_FILL_WAITS => [⟨0xF000000D038, 0, [(8, 0x1000000, 1)]⟩]
  | .PAN_SPILL_LINES => [⟨0xF000000D040, 0, [(8, 0x1000000, 1)]⟩]
  | .PAN_FILL_LINES => [⟨0xF000000D048, 0, [(8, 0x1000000, 1)]⟩]
  | .PAN_TOP => [⟨0xF000000E000, 0, [(8, 0x1000000, 144), (144, 0x20, 1)]⟩]
  | .PAN_END => [⟨0xF000000E008, 0, [(8, 0x1000000, 144), (144, 0x20, 1)]⟩]
  | .PAN_BOTTOM => [⟨0xF000000E010, 0, [(8, 0x1000000, 144), (144, 0x20, 1)]⟩]
  | .PAN_INFO => [⟨0xF000000E018, 0, [(8, 0x1000000, 144), (144, 0x20, 1)]⟩]
  | .NME_ID => [⟨0xF0000006000, 0, [(8, 0x1000000, 2), (2, 0x1000, 1)]⟩]
  | .NME_CTRL => [⟨0xF0000006008, 0, [(8, 0x1000000, 2), (2, 0x1000, 1)]⟩]
  | .NME_STATUS => [⟨0xF0000006010, 0, [(8, 0x1000000, 2), (2, 0x1000, 1)]⟩]
  | .NME_FLAGS => [⟨0xF0000006018, 0, [(8, 0x1000000, 2), (2, 0x1000, 1)]⟩]
  | .NME_UNIT_EPOCH => [⟨0xF0000006040, 0, [(8, 0x1000000, 2), (2, 0x1000, 1)]⟩]
  | .NME_PROG_CTRL => [⟨0xF0000006080, 0, [(8, 0x1000000, 2), (2, 0x1000, 1)]⟩]
  | .NME_PROG_ENTRIES_0 => [⟨0xF0000006088, 0, [(8, 0x1000000, 2), (2, 0x1000, 1)]⟩]
  | .NME_PROG_ENTRIES_1 => [⟨0xF0000006090, 0, [(8, 0x1000000, 2), (2, 0x1000, 1)]⟩]
  | .NME_SWEEP_ERR_ADDR => [⟨0xF00000060A0, 0, [(8, 0x1000000, 2), (2, 0x1000, 1)]⟩]
  | .NME_SWEEP_BLOCKS => [⟨0xF00000060A8, 0, [(8, 0x1000000, 2), (2, 0x1000, 1)]⟩]
  | .NME_CLAMP_FALLBACK => [⟨0xF00000060B0, 0, [(8, 0x1000000, 2), (2, 0x1000, 1)]⟩]
  | .NME_DIGEST_MISMATCH => [⟨0xF00000060B8, 0, [(8, 0x1000000, 2), (2, 0x1000, 1)]⟩]
  | .NME_DIGEST_LAST => [⟨0xF00000060C0, 0, [(8, 0x1000000, 2), (2, 0x1000, 1)]⟩]
  | .NME_REKEY_CTRL => [⟨0xF00000060C8, 0, [(8, 0x1000000, 2), (2, 0x1000, 1)]⟩]
  | .NME_REKEY_PAGES => [⟨0xF00000060D0, 0, [(8, 0x1000000, 2), (2, 0x1000, 1)]⟩]
  | .NME_PROG => [⟨0xF0000006800, 0, [(8, 0x1000000, 256), (2, 0x1000, 128), (2, 0x100, 64), (64, 0x4, 1)]⟩]
  | .SEQ_STATUS => [⟨0xF0000008000, 0, [(8, 0x1000000, 1)]⟩]
  | .SEQ_TILE_MAP_0 => [⟨0xF0000008008, 0, [(8, 0x1000000, 1)]⟩]
  | .SEQ_TILE_MAP_1 => [⟨0xF0000008010, 0, [(8, 0x1000000, 1)]⟩]
  | .SEQ_TILE_MAP_2 => [⟨0xF0000008018, 0, [(8, 0x1000000, 1)]⟩]
  | .SEQ_WAKES => [⟨0xF0000008020, 0, [(8, 0x1000000, 1)]⟩]
  | .SEQ_LAPS => [⟨0xF0000008028, 0, [(8, 0x1000000, 1)]⟩]
  | .SEQ_STREAM_BASE => [⟨0xF0000008100, 0, [(8, 0x1000000, 64), (64, 0x20, 1)]⟩]
  | .SEQ_STREAM_CTRL => [⟨0xF0000008108, 0, [(8, 0x1000000, 64), (64, 0x20, 1)]⟩]
  | .SEQ_STREAM_STATUS => [⟨0xF000000810C, 0, [(8, 0x1000000, 64), (64, 0x20, 1)]⟩]
  | .SEQ_STREAM_HEAD => [⟨0xF0000008110, 0, [(8, 0x1000000, 64), (64, 0x20, 1)]⟩]
  | .SEQ_MSI_ADDR => [⟨0xF0000008900, 0, [(8, 0x1000000, 256), (256, 0x10, 1)]⟩]
  | .SEQ_MSI_DATA => [⟨0xF0000008908, 0, [(8, 0x1000000, 256), (256, 0x10, 1)]⟩]
  | .PORT_CTRL => [⟨0xF0000010000, 0, [(8, 0x1000000, 3), (3, 0x2000, 1)]⟩]
  | .PORT_STATUS => [⟨0xF0000010008, 0, [(8, 0x1000000, 3), (3, 0x2000, 1)]⟩]
  | .PORT_PFC_WD => [⟨0xF0000010010, 0, [(8, 0x1000000, 3), (3, 0x2000, 1)]⟩]
  | .PORT_CLASS => [⟨0xF0000010100, 0, [(8, 0x1000000, 24), (3, 0x2000, 8), (8, 0x8, 1)]⟩]
  | .LINK_TX_FRAMES => [⟨0xF0000010400, 0, [(8, 0x1000000, 24), (3, 0x2000, 8), (8, 0x80, 1)]⟩]
  | .LINK_RX_FRAMES => [⟨0xF0000010408, 0, [(8, 0x1000000, 24), (3, 0x2000, 8), (8, 0x80, 1)]⟩]
  | .LINK_FEC_CORRECTED => [⟨0xF0000010410, 0, [(8, 0x1000000, 24), (3, 0x2000, 8), (8, 0x80, 1)]⟩]
  | .LINK_FEC_UNCORRECTED => [⟨0xF0000010418, 0, [(8, 0x1000000, 24), (3, 0x2000, 8), (8, 0x80, 1)]⟩]
  | .LINK_RX_DROP => [⟨0xF0000010420, 0, [(8, 0x1000000, 24), (3, 0x2000, 8), (8, 0x80, 1)]⟩]
  | .LINK_RX_UNMATCHED => [⟨0xF0000010428, 0, [(8, 0x1000000, 24), (3, 0x2000, 8), (8, 0x80, 1)]⟩]
  | .LINK_PFC_XOFF_TX => [⟨0xF0000010430, 0, [(8, 0x1000000, 24), (3, 0x2000, 8), (8, 0x80, 1)]⟩]
  | .LINK_PFC_XOFF_RX => [⟨0xF0000010438, 0, [(8, 0x1000000, 24), (3, 0x2000, 8), (8, 0x80, 1)]⟩]
  | .LINK_ECN_MARKED => [⟨0xF0000010440, 0, [(8, 0x1000000, 24), (3, 0x2000, 8), (8, 0x80, 1)]⟩]
  | .LINK_MACSEC_INVALID => [⟨0xF0000010448, 0, [(8, 0x1000000, 24), (3, 0x2000, 8), (8, 0x80, 1)]⟩]
  | .LINK_MACSEC_REKEY => [⟨0xF0000010450, 0, [(8, 0x1000000, 24), (3, 0x2000, 8), (8, 0x80, 1)]⟩]
  | .LINK_LINK_DOWNS => [⟨0xF0000010458, 0, [(8, 0x1000000, 24), (3, 0x2000, 8), (8, 0x80, 1)]⟩]
  | .LINK_PTP_TS_LOST => [⟨0xF0000010460, 0, [(8, 0x1000000, 24), (3, 0x2000, 8), (8, 0x80, 1)]⟩]
  | .AT_CTRL => [⟨0xF0000018000, 0, [(8, 0x1000000, 1)]⟩]
  | .AT_CONN_BASE => [⟨0xF0000018008, 0, [(8, 0x1000000, 1)]⟩]
  | .AT_CONN_COUNT => [⟨0xF0000018010, 0, [(8, 0x1000000, 1)]⟩]
  | .AT_ADDR_BASE => [⟨0xF0000018018, 0, [(8, 0x1000000, 1)]⟩]
  | .AT_RETX_BASE => [⟨0xF0000018020, 0, [(8, 0x1000000, 1)]⟩]
  | .AT_RETX_SIZE => [⟨0xF0000018028, 0, [(8, 0x1000000, 1)]⟩]
  | .AT_CONN_CMD => [⟨0xF0000018030, 0, [(8, 0x1000000, 1)]⟩]
  | .AT_STATUS => [⟨0xF0000018038, 0, [(8, 0x1000000, 1)]⟩]
  | .AT_CONN_FAILS => [⟨0xF0000018040, 0, [(8, 0x1000000, 1)]⟩]
  | .AT_RETX_PKTS => [⟨0xF0000018048, 0, [(8, 0x1000000, 1)]⟩]
  | .AT_CNP_RX => [⟨0xF0000018050, 0, [(8, 0x1000000, 1)]⟩]
  | .AT_BAD_PKTS => [⟨0xF0000018058, 0, [(8, 0x1000000, 1)]⟩]
  | .DRL_CTRL => [⟨0xF0000020000, 0, [(8, 0x1000000, 1)]⟩]
  | .DRL_STATUS => [⟨0xF0000020008, 0, [(8, 0x1000000, 1)]⟩]
  | .DRL_RT_CTRL => [⟨0xF0000020010, 0, [(8, 0x1000000, 1)]⟩]
  | .DRL_RT_SAVE => [⟨0xF0000020018, 0, [(8, 0x1000000, 1)]⟩]
  | .DRL_STAGE_BASE => [⟨0xF0000020020, 0, [(8, 0x1000000, 1)]⟩]
  | .DRL_STAGE_SIZE => [⟨0xF0000020028, 0, [(8, 0x1000000, 1)]⟩]
  | .DRL_DELIV_BASE => [⟨0xF0000020030, 0, [(8, 0x1000000, 1)]⟩]
  | .DRL_ROUTE_FAULT => [⟨0xF0000020038, 0, [(8, 0x1000000, 1)]⟩]
  | .DRL_UNIT_EPOCH => [⟨0xF0000020040, 0, [(8, 0x1000000, 1)]⟩]
  | .DRL_ERR_ADDR => [⟨0xF0000020048, 0, [(8, 0x1000000, 1)]⟩]
  | .DRL_ROWS_SENT => [⟨0xF0000020050, 0, [(8, 0x1000000, 1)]⟩]
  | .DRL_COLL_DONE => [⟨0xF0000020058, 0, [(8, 0x1000000, 1)]⟩]
  | .DRL_DROPPED => [⟨0xF0000020060, 0, [(8, 0x1000000, 1)]⟩]
  | .DRL_LATE_STARTS => [⟨0xF0000020068, 0, [(8, 0x1000000, 1)]⟩]
  | .DRL_BAD_MSGS => [⟨0xF0000020070, 0, [(8, 0x1000000, 1)]⟩]
  | .HCR_CTRL => [⟨0xF0010002000, 0, [(2, 0x1000000, 1)]⟩]
  | .HCR_STATUS => [⟨0xF0010002008, 0, [(2, 0x1000000, 1)]⟩]
  | .CORE_PART => [⟨0xF0010004000, 0, [(2, 0x1000000, 64), (64, 0x8, 1)]⟩]
  | .MC_CFG => [⟨0xF0010030000, 0, [(2, 0x1000000, 8), (8, 0x1000, 1)]⟩]
  | .MC_CAP => [⟨0xF0010030008, 0, [(2, 0x1000000, 8), (8, 0x1000, 1)]⟩]
  | .MC_STATUS => [⟨0xF0010030010, 0, [(2, 0x1000000, 8), (8, 0x1000, 1)]⟩]
  | .MC_ERR_ADDR => [⟨0xF0010030018, 0, [(2, 0x1000000, 8), (8, 0x1000, 1)]⟩]
  | .MC_ERR_INFO => [⟨0xF0010030020, 0, [(2, 0x1000000, 8), (8, 0x1000, 1)]⟩]
  | .MC_UE_COUNT => [⟨0xF0010030028, 0, [(2, 0x1000000, 8), (8, 0x1000, 1)]⟩]
  | .MC_CE_COUNT => [⟨0xF0010030030, 0, [(2, 0x1000000, 8), (8, 0x1000, 1)]⟩]
  | .MC_PPR_CMD => [⟨0xF0010030038, 0, [(2, 0x1000000, 8), (8, 0x1000, 1)]⟩]
  | .MC_REKEY_CTRL => [⟨0xF0010038000, 0, [(2, 0x1000000, 1)]⟩]
  | .MC_REKEY_PAGES => [⟨0xF0010038008, 0, [(2, 0x1000000, 1)]⟩]
  | .PCIE_CTRL => [⟨0xF0010040000, 0, [(2, 0x1000000, 4), (4, 0x4000, 1)]⟩]
  | .PCIE_LINK => [⟨0xF0010040010, 0, [(2, 0x1000000, 16), (4, 0x4000, 4), (4, 0x10, 1)]⟩]
  | .PCIE_LOST => [⟨0xF0010040018, 0, [(2, 0x1000000, 16), (4, 0x4000, 4), (4, 0x10, 1)]⟩]
  | .IOMMU_DT_BASE => [⟨0xF0010050000, 0, [(2, 0x1000000, 1)]⟩]
  | .IOMMU_FAULT => [⟨0xF0010050008, 0, [(2, 0x1000000, 1)]⟩]
  | .IOMMU_FAULT_ADDR => [⟨0xF0010050010, 0, [(2, 0x1000000, 1)]⟩]
  | .IOMMU_FAULT_COUNT => [⟨0xF0010050018, 0, [(2, 0x1000000, 1)]⟩]
  | .IOMMU_DT_INVAL => [⟨0xF0010050020, 0, [(2, 0x1000000, 1)]⟩]
  | .IOMMU_SEAL => [⟨0xF0010050100, 0, [(2, 0x1000000, 64), (64, 0x8, 1)]⟩]
  | .ROT_STATUS => [⟨0xF0080040000, 0, []⟩]
  | .ROT_ATT_LEAF => [⟨0xF0080040008, 0, []⟩]
  | .ROT_ID_LEAF => [⟨0xF0080040010, 0, []⟩]
  | .MBOX_CTRL => [⟨0xF0080050000, 0, [(17, 0x8000, 1)]⟩]
  | .MBOX_STATUS => [⟨0xF0080050008, 0, [(17, 0x8000, 1)]⟩]
  | .MBOX_MSI_ADDR => [⟨0xF0080050010, 0, [(17, 0x8000, 1)]⟩]
  | .MBOX_MSI_DATA => [⟨0xF0080050018, 0, [(17, 0x8000, 1)]⟩]
  | .MBOX_DENIED => [⟨0xF0080050020, 0, [(17, 0x8000, 1)]⟩]
  | .CR_LINK_STATUS => [⟨0xF000000A000, 0, [(8, 0x1000000, 4), (4, 0x20, 1)]⟩, ⟨0xF001000A000, 32, [(2, 0x1000000, 4), (4, 0x20, 1)]⟩]
  | .CR_TX_CTR => [⟨0xF000000A008, 0, [(8, 0x1000000, 4), (4, 0x20, 1)]⟩, ⟨0xF001000A008, 32, [(2, 0x1000000, 4), (4, 0x20, 1)]⟩]
  | .CR_RX_CTR => [⟨0xF000000A010, 0, [(8, 0x1000000, 4), (4, 0x20, 1)]⟩, ⟨0xF001000A010, 32, [(2, 0x1000000, 4), (4, 0x20, 1)]⟩]
  | .FLT_STATUS => [⟨0xF0000E00000, 0, [(8, 0x1000000, 256), (160, 0x80, 1)]⟩, ⟨0xF0010E00000, 2048, [(2, 0x1000000, 256), (20, 0x80, 1)]⟩, ⟨0xF0080100000, 2560, [(6, 0x80, 1)]⟩]
  | .FLT_MASK => [⟨0xF0000E00008, 0, [(8, 0x1000000, 256), (160, 0x80, 1)]⟩, ⟨0xF0010E00008, 2048, [(2, 0x1000000, 256), (20, 0x80, 1)]⟩, ⟨0xF0080100008, 2560, [(6, 0x80, 1)]⟩]
  | .FLT_FORCE => [⟨0xF0000E00010, 0, [(8, 0x1000000, 256), (160, 0x80, 1)]⟩, ⟨0xF0010E00010, 2048, [(2, 0x1000000, 256), (20, 0x80, 1)]⟩, ⟨0xF0080100010, 2560, [(6, 0x80, 1)]⟩]
  | .FLT_CMD => [⟨0xF0000E00014, 0, [(8, 0x1000000, 256), (160, 0x80, 1)]⟩, ⟨0xF0010E00014, 2048, [(2, 0x1000000, 256), (20, 0x80, 1)]⟩, ⟨0xF0080100014, 2560, [(6, 0x80, 1)]⟩]
  | .FLT_COUNT => [⟨0xF0000E00018, 0, [(8, 0x1000000, 256), (160, 0x80, 1)]⟩, ⟨0xF0010E00018, 2048, [(2, 0x1000000, 256), (20, 0x80, 1)]⟩, ⟨0xF0080100018, 2560, [(6, 0x80, 1)]⟩]
  | .FLT_CLASS => [⟨0xF0000E00020, 0, [(8, 0x1000000, 256), (160, 0x80, 1)]⟩, ⟨0xF0010E00020, 2048, [(2, 0x1000000, 256), (20, 0x80, 1)]⟩, ⟨0xF0080100020, 2560, [(6, 0x80, 1)]⟩]
  | .FLT_MSI_ADDR => [⟨0xF0000E00028, 0, [(8, 0x1000000, 256), (160, 0x80, 1)]⟩, ⟨0xF0010E00028, 2048, [(2, 0x1000000, 256), (20, 0x80, 1)]⟩, ⟨0xF0080100028, 2560, [(6, 0x80, 1)]⟩]
  | .FLT_MSI_DATA => [⟨0xF0000E00030, 0, [(8, 0x1000000, 256), (160, 0x80, 1)]⟩, ⟨0xF0010E00030, 2048, [(2, 0x1000000, 256), (20, 0x80, 1)]⟩, ⟨0xF0080100030, 2560, [(6, 0x80, 1)]⟩]
  | .FLT_RECOVERY => [⟨0xF0000E00038, 0, [(8, 0x1000000, 256), (160, 0x80, 1)]⟩, ⟨0xF0010E00038, 2048, [(2, 0x1000000, 256), (20, 0x80, 1)]⟩, ⟨0xF0080100038, 2560, [(6, 0x80, 1)]⟩]
  | .FLT_LAST_TIME => [⟨0xF0000E00040, 0, [(8, 0x1000000, 256), (160, 0x80, 1)]⟩, ⟨0xF0010E00040, 2048, [(2, 0x1000000, 256), (20, 0x80, 1)]⟩, ⟨0xF0080100040, 2560, [(6, 0x80, 1)]⟩]
  | .FLT_QUIET_LEFT => [⟨0xF0000E00048, 0, [(8, 0x1000000, 256), (160, 0x80, 1)]⟩, ⟨0xF0010E00048, 2048, [(2, 0x1000000, 256), (20, 0x80, 1)]⟩, ⟨0xF0080100048, 2560, [(6, 0x80, 1)]⟩]
  | .HBM_ERR_ADDR => [⟨0xF000000C000, 0, [(8, 0x1000000, 2), (2, 0x800, 1)]⟩]
  | .HBM_ERR_INFO => [⟨0xF000000C008, 0, [(8, 0x1000000, 2), (2, 0x800, 1)]⟩]
  | .HBM_UE_COUNT => [⟨0xF000000C010, 0, [(8, 0x1000000, 2), (2, 0x800, 1)]⟩]
  | .HBM_CE_COUNT => [⟨0xF000000C018, 0, [(8, 0x1000000, 2), (2, 0x800, 1)]⟩]
  | .HBM_PPR_CMD => [⟨0xF000000C020, 0, [(8, 0x1000000, 2), (2, 0x800, 1)]⟩]
  | .POD_ERR_ADDR => [⟨0xF000000B000, 0, [(8, 0x1000000, 1)]⟩]
  | .POD_ERR_INFO => [⟨0xF000000B008, 0, [(8, 0x1000000, 1)]⟩]
  | .POD_UE_COUNT => [⟨0xF000000B010, 0, [(8, 0x1000000, 1)]⟩]
  | .POD_CE_COUNT => [⟨0xF000000B018, 0, [(8, 0x1000000, 1)]⟩]
  | .MGMT_STATUS => [⟨0xF0080200000, 0, []⟩]
  | .MGMT_HS_FAILS => [⟨0xF0080200008, 0, []⟩]
  | .ODC_CTRL => [⟨0xF0080210000, 0, [(23, 0x6000, 1)]⟩]
  | .ODC_STATUS => [⟨0xF0080210008, 0, [(23, 0x6000, 1)]⟩]
  | .ODC_MSI_ADDR => [⟨0xF0080210010, 0, [(23, 0x6000, 1)]⟩]
  | .ODC_MSI_DATA => [⟨0xF0080210018, 0, [(23, 0x6000, 1)]⟩]
  | .ODC_DENIED => [⟨0xF0080210020, 0, [(23, 0x6000, 1)]⟩]
  | .PWR_GEAR => [⟨0xF0080300000, 0, []⟩]
  | .PWR_GEAR_REQ => [⟨0xF0080300004, 0, []⟩]
  | .PWR_STATUS => [⟨0xF0080300008, 0, []⟩]
  | .PWR_INPUT => [⟨0xF0080300010, 0, []⟩]
  | .PWR_ENERGY => [⟨0xF0080300018, 0, []⟩]
  | .PWR_START => [⟨0xF0080300020, 0, []⟩]
  | .PWR_TILE_CLK => [⟨0xF0080300100, 0, [(8, 0x8, 1)]⟩]
  | .PWR_CLUSTER => [⟨0xF0080300200, 0, [(16, 0x8, 1)]⟩]
  | .PWR_TEMP => [⟨0xF0080300400, 0, [(53, 0x4, 1)]⟩]

/-- Every register name. -/
def Reg.all : List Reg :=
  ([ .TB_CTRL, .TB_STATUS, .TB_TIME, .TB_INCR, .TB_ADJ, .TB_PPS_CAPTURE, .DIE_TIME, .STEP_NUMBER, .STEP_LAST_TIME, .STEP_LEAD, .STEP_CTRL, .TANDEM_CTRL, .TANDEM_STATUS, .TANDEM_LATE, .PKG_EPOCH, .PKG_EPOCH_STATUS, .MEMMAP_STATUS, .DDR_TOP, .HOLE_ADDR, .HOLE_COUNT ] : List Reg) ++
  ([ .TRANS_ROOT, .TRANS_ATTR, .TRANS_INVAL, .TRANS_STATUS, .TRANS_FAULT_ADDR, .CAT_ROOT, .HCR_MEM_STATUS, .HA_STATUS, .HA_OCCUPANCY, .HA_RETRY_COUNT, .HA_RETRY_MAX, .HA_LOST_DIRTY, .TILE_ID, .TILE_CTRL, .TILE_STATUS, .TILE_UNIT_EPOCH, .TILE_RNG_CTRL, .TILE_RNG_KEY, .TILE_RNG_LANE, .TILE_CYCLES ] : List Reg) ++
  ([ .TILE_ARRAY_CYCLES, .TILE_FW_UNITS, .TILE_BANK_STALLS, .TILE_ERR_PC, .TILE_ERR_INFO, .TILE_ERR_ADDR, .TILE_ERR_AUX, .TILE_NUM_CTRL, .TILE_NUM_STATUS, .NUM_TABLE_BASE, .NUM_TABLE_COUNT, .NUM_STATUS, .NUM_VERDICT, .NUM_NF_ORIGIN, .NUM_SKIP_COUNT, .NUM_COLD_COUNT, .NUM_EXTRA_COUNT, .NUM_SHADOW_ALERTS, .NUM_WIDE_COUNT, .NUM_ZERO_COUNT ] : List Reg) ++
  ([ .NUM_SHADOW_LAST, .NUM_SHADOW_METRIC, .NUM_ZERO_LAST, .PAN_CTRL, .PAN_RING_BASE, .PAN_SEED_BASE, .PAN_SIZES, .PAN_CMD, .PAN_STATUS, .PAN_PUSH_WAITS, .PAN_FILL_WAITS, .PAN_SPILL_LINES, .PAN_FILL_LINES, .PAN_TOP, .PAN_END, .PAN_BOTTOM, .PAN_INFO, .NME_ID, .NME_CTRL, .NME_STATUS ] : List Reg) ++
  ([ .NME_FLAGS, .NME_UNIT_EPOCH, .NME_PROG_CTRL, .NME_PROG_ENTRIES_0, .NME_PROG_ENTRIES_1, .NME_SWEEP_ERR_ADDR, .NME_SWEEP_BLOCKS, .NME_CLAMP_FALLBACK, .NME_DIGEST_MISMATCH, .NME_DIGEST_LAST, .NME_REKEY_CTRL, .NME_REKEY_PAGES, .NME_PROG, .SEQ_STATUS, .SEQ_TILE_MAP_0, .SEQ_TILE_MAP_1, .SEQ_TILE_MAP_2, .SEQ_WAKES, .SEQ_LAPS, .SEQ_STREAM_BASE ] : List Reg) ++
  ([ .SEQ_STREAM_CTRL, .SEQ_STREAM_STATUS, .SEQ_STREAM_HEAD, .SEQ_MSI_ADDR, .SEQ_MSI_DATA, .PORT_CTRL, .PORT_STATUS, .PORT_PFC_WD, .PORT_CLASS, .LINK_TX_FRAMES, .LINK_RX_FRAMES, .LINK_FEC_CORRECTED, .LINK_FEC_UNCORRECTED, .LINK_RX_DROP, .LINK_RX_UNMATCHED, .LINK_PFC_XOFF_TX, .LINK_PFC_XOFF_RX, .LINK_ECN_MARKED, .LINK_MACSEC_INVALID, .LINK_MACSEC_REKEY ] : List Reg) ++
  ([ .LINK_LINK_DOWNS, .LINK_PTP_TS_LOST, .AT_CTRL, .AT_CONN_BASE, .AT_CONN_COUNT, .AT_ADDR_BASE, .AT_RETX_BASE, .AT_RETX_SIZE, .AT_CONN_CMD, .AT_STATUS, .AT_CONN_FAILS, .AT_RETX_PKTS, .AT_CNP_RX, .AT_BAD_PKTS, .DRL_CTRL, .DRL_STATUS, .DRL_RT_CTRL, .DRL_RT_SAVE, .DRL_STAGE_BASE, .DRL_STAGE_SIZE ] : List Reg) ++
  ([ .DRL_DELIV_BASE, .DRL_ROUTE_FAULT, .DRL_UNIT_EPOCH, .DRL_ERR_ADDR, .DRL_ROWS_SENT, .DRL_COLL_DONE, .DRL_DROPPED, .DRL_LATE_STARTS, .DRL_BAD_MSGS, .HCR_CTRL, .HCR_STATUS, .CORE_PART, .MC_CFG, .MC_CAP, .MC_STATUS, .MC_ERR_ADDR, .MC_ERR_INFO, .MC_UE_COUNT, .MC_CE_COUNT, .MC_PPR_CMD ] : List Reg) ++
  ([ .MC_REKEY_CTRL, .MC_REKEY_PAGES, .PCIE_CTRL, .PCIE_LINK, .PCIE_LOST, .IOMMU_DT_BASE, .IOMMU_FAULT, .IOMMU_FAULT_ADDR, .IOMMU_FAULT_COUNT, .IOMMU_DT_INVAL, .IOMMU_SEAL, .ROT_STATUS, .ROT_ATT_LEAF, .ROT_ID_LEAF, .MBOX_CTRL, .MBOX_STATUS, .MBOX_MSI_ADDR, .MBOX_MSI_DATA, .MBOX_DENIED, .CR_LINK_STATUS ] : List Reg) ++
  ([ .CR_TX_CTR, .CR_RX_CTR, .FLT_STATUS, .FLT_MASK, .FLT_FORCE, .FLT_CMD, .FLT_COUNT, .FLT_CLASS, .FLT_MSI_ADDR, .FLT_MSI_DATA, .FLT_RECOVERY, .FLT_LAST_TIME, .FLT_QUIET_LEFT, .HBM_ERR_ADDR, .HBM_ERR_INFO, .HBM_UE_COUNT, .HBM_CE_COUNT, .HBM_PPR_CMD, .POD_ERR_ADDR, .POD_ERR_INFO ] : List Reg) ++
  ([ .POD_UE_COUNT, .POD_CE_COUNT, .MGMT_STATUS, .MGMT_HS_FAILS, .ODC_CTRL, .ODC_STATUS, .ODC_MSI_ADDR, .ODC_MSI_DATA, .ODC_DENIED, .PWR_GEAR, .PWR_GEAR_REQ, .PWR_STATUS, .PWR_INPUT, .PWR_ENERGY, .PWR_START, .PWR_TILE_CLK, .PWR_CLUSTER, .PWR_TEMP ] : List Reg)

end Sys2Proof.Machine
end

