-- ==== Sys2Proof/Machine/State.lean ====
section
/-! DEFINITION. The machine's state as plain data: every MMIO register (Tab keyed by register and copy), memory, and the
state that the chapters of spec/ give the units beside their registers. The queue of waiting commands and the outbox are
the model's own. -/

namespace Sys2Proof.Machine

/-- Why a step could stop with a fault: no command of this block does. -/
inductive Fault where
  /-- No meaning raises it: every access the spec forbids ends as the spec says (R52, R63), not the machine. Safe. -/
  | none
  deriving DecidableEq, Repr

/-- Why a command could be refused. -/
inductive Refusal where
  /-- The arm of a command that has no meaning yet, by its mnemonic. Safe. -/
  | notModelled (mnemonic : String)
  deriving DecidableEq, Repr

/-! ### What leaves the package -/

/-- The package's pins that a command drives (spec/18). -/
inductive Pin where
  | ppsOut | thermtripN | startDoneN | alertN | rootPortReset (r : Nat) | perst (r : Nat) | i3cSda | throttleN
  deriving DecidableEq, Repr

/-- Messages and signals that have left a unit for the outside, oldest first. -/
inductive Out where
  /-- A 32-bit MSI write (R314, R438). -/
  | msi (addr data : Nat)
  | pin (p : Pin) (high : Bool)
  /-- The T_b broadcast of R38 to the dies of a domain. -/
  | tbBroadcast (d tb : Nat)
  /-- READY of R38 from a C-die to its lead die, with the sender's replica time. -/
  | ready (die lead time : Nat)
  /-- A request ended by an uncorrectable read or another failure (R449, R52): agent, address, status. -/
  | reqFailed (agent addr status : Nat)
  /-- Data of a read that leaves the caching agents: agent, address, bytes. -/
  | readData (agent addr : Nat) (data : Bytes)
  /-- The old value of an atomic (R104). -/
  | atomicOld (agent addr old : Nat)
  /-- A core's cbo.clean is done (R75): H-die agent and line. -/
  | cleanDone (agent line : Nat)
  /-- A unit's or a peer's write to the MMIO leaves for the register it names (R61): address, bytes. -/
  | ioWrite (pa : Nat) (data : Bytes)
  /-- A core takes an access-fault exception (R52, R66, R105): hart and physical address. -/
  | coreFault (hart addr : Nat)
  /-- An Ethernet frame sent on a link: port, link, class, frame, and its bytes on the wire before the FCS (R326). -/
  | frame (p l cls : Nat) (f : Frame) (wire : Bytes)
  /-- A PFC frame: port, link, class mask, quanta per class. -/
  | pfc (p l mask : Nat) (quanta : List Nat)
  /-- Completion of an operation of an AT engine to its issuer (R336, R342): engine, connection, issuer, code, and the
  count of unacknowledged packets. -/
  | atDone (n conn issuer code unacked : Nat)
  /-- A Derailleur message to a die of this package (R350, R373): from die, kind, target position and die, message. -/
  | drl (n kind pos die : Nat) (m : DrlMsg)
  /-- An NME repair message (R285): stack, type, shard, step, argument, data. -/
  | nme (s type shard step arg : Nat) (data : Bytes)
  /-- A completion of a PCIe peer request (R390, R391): root complex, requester, status, data. -/
  | peerCpl (m rid status : Nat) (data : Bytes)
  /-- A posted write or read sent to a PCIe link: root port, address, bytes. -/
  | pcie (r addr : Nat) (write : Bool) (data : Bytes)
  /-- A BMP message on a DTLS session (R465 to R472). -/
  | bmp (session : Nat) (msg : Bytes)
  /-- A fatal alert that ends a DTLS handshake (R474). -/
  | alert
  /-- What a private read or a CCC reads on I3C, and an in-band interrupt with its mandatory byte (R476, R477). -/
  | i3c (data : Bytes)
  | ibi (byte : Nat)
  /-- A record delivered to the RoT (R454). -/
  | rot (data : Bytes)
  deriving DecidableEq, Repr

/-! ### Coherence (spec/03) -/

/-- States in which a caching agent holds a line (R86); I is no copy. -/
inductive Moesi where
  | M | O | E | S
  deriving DecidableEq, Repr

/-- A line in a cache: state, its 64 bytes, the key it was filled with (R69) and a watch mark (R109). -/
structure Copy where
  st : Moesi
  data : Bytes
  key : Nat := 0
  watch : Bool := false
  deriving DecidableEq, Repr

/-- A directory entry (R88, R98, R99): 0 SHARED, 1 OWNED_EXCL, 2 OWNED_SHARED. -/
structure DirEnt where
  cond : Nat := 0
  owner : Nat := 0
  sharers : List Nat := []
  coarse : Bool := false
  /-- Allocation order within the package (victim choice of R101). -/
  seq : Nat := 0
  deriving DecidableEq, Repr

/-- Requests to a home (R91), write-backs, and the home's own back-invalidation (R101). -/
inductive ReqKind where
  | rdShared | rdOwn | upgrade | rdOnce | watch
  | wrFull (data : Bytes)
  | wrPartial (mask : List Bool) (data : Bytes)
  | atomic (off size aop operand newVal : Nat)
  /-- A core's cbo.clean (R75). -/
  | clean
  /-- The rebuild of the line's uncorrectable entry (R100). -/
  | rebuild
  | backInval
  | writeBack (data : Bytes)
  deriving DecidableEq, Repr

structure Req where
  kind : ReqKind
  agent : Nat
  line : Nat
  /-- Key of its access (R69). -/
  key : Nat := 0
  /-- A core's write to perform once the line is in M (R105). -/
  wr : CoreWr := .none
  /-- To a page whose vis_floor is SYSTEM (R66). -/
  floor : Bool := false
  /-- The PCIe requester a far atomic answers: root complex and requester id (R390). -/
  peer : Option (Nat × Nat) := none
  /-- Time base when it first waited, and whether it has waited for credits or a way (R102, R103). -/
  since : Nat := 0
  held : Bool := false
  deriving DecidableEq, Repr

/-- An open transaction at a home (R93). -/
structure Txn where
  req : Req
  /-- Snooped agents whose SNP_ACK is due. -/
  acks : List Nat := []
  /-- An SNP_ACK announced owner data that has not arrived. -/
  dataDue : Bool := false
  /-- Owner data returned to the home, with the key of its tags (R69). -/
  dirty : Option (Bytes × Nat) := none
  /-- The owner has sent DATA to the requester itself. -/
  byOwner : Bool := false
  /-- A memory read is due, or its data. -/
  memDue : Bool := false
  memData : Option Bytes := none
  /-- The NME's presence acknowledgement is due (R108): stack and region. -/
  presDue : Option (Nat × Nat) := none
  /-- The victim line whose back-invalidation this request waits for (R101). -/
  victim : Option Nat := none
  /-- DATA or GRANT has been sent. -/
  sent : Bool := false
  /-- COMPLETE has arrived. -/
  done : Bool := false
  /-- A memory write with its key, until it is acknowledged. -/
  memW : Option (Bytes × Nat) := none
  /-- Write-backs of the line that the home has accepted meanwhile (R90): agent, data, key. -/
  wbs : List (Nat × Bytes × Nat) := []
  /-- The state the requester gets. -/
  give : Moesi := .S
  deriving DecidableEq, Repr

/-- Messages of R89 in flight, each to or from `agent` about `line`. -/
inductive CMsg where
  | snpShared (agent line : Nat)
  | snpInv (agent line : Nat)
  | snpOnce (agent line : Nat)
  /-- SNP_ACK: the resulting state (none is I), whether data was sent to the requester, whether SNP_DATA follows. -/
  | snpAck (agent line : Nat) (left : Option Moesi) (gave carries : Bool)
  /-- Line data travels with the key of its tags (R69). -/
  | snpData (agent line : Nat) (data : Bytes) (key : Nat)
  | grant (agent line : Nat)
  | data (agent line : Nat) (give : Option Moesi) (bytes : Bytes) (key : Nat)
  | complete (agent line : Nat)
  | wb (agent line : Nat) (data : Bytes) (key : Nat)
  | evictClean (agent line : Nat)
  | wbAck (agent line : Nat)
  deriving DecidableEq, Repr

structure CohSt where
  /-- Lines held, keyed by agent · 2^46 + line. -/
  copies : Tab Copy := {}
  /-- Write-back buffers (R94), keyed alike. -/
  wbBuf : Tab Copy := {}
  dir : Tab DirEnt := {}
  dirSeq : Nat := 0
  txns : Tab Txn := {}
  net : List CMsg := []
  /-- Requests waiting for a line (R93), oldest first. -/
  conflictQ : List Req := []
  /-- Requests waiting for a way of a pinned set (R102), oldest first. -/
  retryQ : List Req := []
  /-- Requests that their stations hold for want of credits (R93, R102), oldest first, and the station admitted last, by slice. -/
  waitQ : List Req := []
  admitted : Tab Nat := {}
  /-- Lines for which a woken sequencer complex owes a new WATCH (R110): agent and line. -/
  rewatch : List (Nat × Nat) := []
  /-- Directory entries per 64 KiB region of stack-offset space (R107), keyed by stack · 2^21 + region. -/
  presCount : Tab Nat := {}
  /-- Presence bits of the NMEs (R107). -/
  presBits : List Nat := []
  deriving DecidableEq, Repr

/-! ### Translation (spec/02) -/

/-- The units that hold translation caches or wait on a locked page. -/
inductive XUnit where
  | tile (t : Nat) | dma (t ch : Nat) | pannier (n : Nat) | nme (s : Nat) | seq (n : Nat) | drl (n : Nat) | at (n : Nat)
  | iommu (m : Nat) | core (m : Nat) | vnf (m : Nat)
  deriving DecidableEq, Repr

/-- A cached translation: unit, context, base VA, log2 of the page size, the leaf entry. -/
structure TlbEnt where
  unit : XUnit
  ctx : Nat
  va : Nat
  lg : Nat
  entry : Nat
  deriving DecidableEq, Repr

/-- An access that waits on a locked page (R64). -/
structure LockWait where
  unit : XUnit
  ctx : Nat
  va : Nat
  /-- 0 load, 1 store or atomic, 2 fetch. -/
  acc : Nat
  deriving DecidableEq, Repr

/-- A core's request that waits on a locked page (R64, R66): the request's home half and its tag. -/
structure CoreWait where
  req : Req
  tag : ReqTag
  deriving DecidableEq, Repr

structure XlatSt where
  tlb : List TlbEnt := []
  lockWait : List LockWait := []
  /-- The request of the running invalidation (TRANS_INVAL as written). -/
  inval : Option Nat := none
  /-- CAT_ROOT as it is in force for core accesses (R67). -/
  cat : Nat := 0
  coreWait : List CoreWait := []
  /-- Units whose write has met an open line and waits for it (R93). -/
  lineWait : List XUnit := []
  deriving DecidableEq, Repr

/-! ### Time and the step boundary (spec/01) -/

structure TimeSt where
  /-- Fraction of a nanosecond of the master, in 2^−32 ns. -/
  frac : Nat := 0
  /-- Backward correction still to be slewed, in 2^−32 ns (R32). -/
  slewRem : Nat := 0
  ppsHigh : Bool := false
  /-- Consecutive realignments with more than 10 ns, and within 4 ns, by Chainring node (R33). -/
  bad : Tab Nat := {}
  good : Tab Nat := {}
  /-- Nodes out of replica bounds (R33). -/
  out : List Nat := []
  /-- TANDEM_CTRL as written, held for the next boundary (R45), and C-dies that have left their tandem group. -/
  tandemPend : Option Nat := none
  left : List Nat := []
  /-- The master has crossed a whole second with pps_out_en set, and the pulse has not begun (R37). -/
  second : Bool := false
  deriving DecidableEq, Repr

/-- A step domain between READY and its boundary (R38, R39). -/
structure DomSt where
  /-- READY held by the lead die: C-die and replica time. -/
  ready : List (Nat × Nat) := []
  /-- READY sent and not yet received. -/
  readyNet : List (Nat × Nat) := []
  /-- T_b broadcast for the boundary in progress. -/
  tb : Option Nat := none
  /-- C-dies the broadcast has not reached, and tandem C-dies that hold it until their replica passes T_b. -/
  bcast : List Nat := []
  hold : List Nat := []
  /-- C-dies that have taken the boundary, and those that have been isolated and have not yet rejoined (R42). -/
  took : List Nat := []
  away : List Nat := []
  /-- Gear change and commits that were pending when T_b was broadcast (R39). -/
  gear : Option Nat := none
  routes : List Nat := []
  progs : List Nat := []
  deriving DecidableEq, Repr

/-! ### Tiles (spec/04, 05, 06) -/

/-- A path of a divergent group that has not run yet (R156). -/
structure Path where
  pc : Nat
  mask : Nat
  deriving DecidableEq, Repr

/-- A reconvergence-stack entry (R156): reconvergence address (none: the paths do not reconverge), the mask held before
the branch, the paths still to run. -/
structure StackEnt where
  rpc : Option Nat
  mask : Nat
  paths : List Path
  deriving DecidableEq, Repr

/-- What a group waits for. -/
inductive GWait where
  | ready
  | bar (b count : Nat)
  /-- WWAIT, its destination, whether a limit runs, and the threads it writes. -/
  | watch (vd : Nat) (limited : Bool) (mask : Nat)
  | queue (unit limit : Nat)
  | lock
  | ended
  deriving DecidableEq, Repr

/-- A thread group (R148). Masks are over threads 0 to 31. -/
structure Group where
  pc : Nat := 0
  active : Nat := 0
  exited : Nat := 0
  stack : List StackEnt := []
  flags : Nat := 0
  /-- General registers, keyed by thread · 64 + register, and predicates p1 to p7 as masks over threads. -/
  v : Tab Word32 := {}
  p : Tab Nat := {}
  /-- Upper halves held by S2R 6 (R154), by thread. -/
  held : Tab Nat := {}
  /-- Stochastic-rounding context (R166): tensor id and element index bits [39:32]. -/
  srTid : Nat := 0
  srHi : Nat := 0
  /-- Watches woken since the group's previous WWAIT returned (R173). -/
  woken : Nat := 0
  wait : GWait := .ready
  deriving DecidableEq, Repr

/-- A lap (R300, R301): its job and what the lap start loads. -/
structure Lap where
  die : Nat := 0
  job : Nat := 0
  index : Nat := 0
  round : Nat := 0
  ctx : Nat := 0
  code : Nat := 0
  args : Nat := 0
  groups : Nat := 1
  panStack : Nat := 0
  /-- Its place in the order of dispatch on its die (R247). -/
  seq : Nat := 0
  /-- Gear and step as the lap started (R310, R154). -/
  gear : Nat := 1
  step : Nat := 0
  recompute : Bool := false
  /-- The lap runs again in an extra pass (R225); where its pushes and pops go on then (R256). -/
  rerun : Bool := false
  pushAt : Option Nat := none
  popAt : Option Nat := none
  deriving DecidableEq, Repr

/-- A stationary block (R120, R205, R206): its shape over the governing row of R122, the exact values in its cells in
row-major order, its block scales, the format it meets, and the exponent that scl removes (R221). -/
structure Block where
  rows : Nat := 64
  cols : Nat := 64
  elems : List FV := []
  /-- Both operands are integers, accumulated in INT32 (R126). -/
  ints : Bool := false
  /-- E8M0 bytes, group g of column j at j · G + g (R162); empty when there are none. -/
  scales : List Nat := []
  partner : Nat := 0
  /-- Tile cycles per stream row (R122). -/
  cycles : Nat := 1
  sclK : Int := 0
  deriving DecidableEq, Repr

inductive ArrKind where
  | mload | mswap | mstream | mdrain | mzero
  deriving DecidableEq, Repr

/-- A queued array instruction with the operands read at issue (R149, R160). -/
structure ArrOp where
  kind : ArrKind
  w : FmtT
  a : Nat := 0
  stride : Nat := 0
  b : Nat := 0
  b1 : Nat := 0
  group : Nat := 0
  leader : Nat := 0
  pc : Nat := 0
  deriving DecidableEq, Repr

/-- A queued DMA descriptor (R174). -/
structure DmaDesc where
  bytes : Bytes
  group : Nat := 0
  leader : Nat := 0
  pc : Nat := 0
  /-- Pannier operations issued earlier on channel 3 and not complete (R176). -/
  behind : Nat := 0
  deriving DecidableEq, Repr

/-- A queued Pannier operation (R176, R177). -/
structure PanOp where
  push : Bool
  addr : Nat
  len : Nat
  tag : Nat
  xpose : Bool := false
  fmt : Nat := 0
  group : Nat := 0
  leader : Nat := 0
  pc : Nat := 0
  started : Bool := false
  /-- Channel-3 descriptors issued earlier and not complete (R176). -/
  behind : Nat := 0
  /-- The operation has been counted as waiting (R249, R250), and where a started push places its frame. -/
  waited : Bool := false
  off : Nat := 0
  deriving DecidableEq, Repr

/-- A scaling slot of a tile (R168, R208, R217, R220): its tensor, whether its binding is complete and has an entry,
the scale and the entry fields it holds, the expansion record, the maximum of magnitudes (FP32 bits), and the marks of
R214 gathered so far. -/
structure Slot where
  tid : Nat := 0
  complete : Bool := false
  bound : Bool := false
  scale : Nat := 0x3F800000
  cold : Bool := false
  /-- The entry's age was not 0 at binding (R223). -/
  aged : Bool := false
  cls : Nat := 0
  noShadow : Bool := true
  record : Bytes := []
  max : Nat := 0
  marks : Nat := 0
  /-- Group, leader and address of the SBIND, which a failing read of its entry records (R186). -/
  group : Nat := 0
  leader : Nat := 0
  pc : Nat := 0
  deriving DecidableEq, Repr

/-- A watched line of a tile (R173): its line address and whether its watch is armed or has woken. -/
structure TWatch where
  line : Nat
  armed : Bool := true
  deriving DecidableEq, Repr

/-- A tile beside its registers. -/
structure Tile where
  lap : Option Lap := none
  queued : Option Lap := none
  groups : Tab Group := {}
  /-- The lap has stopped with a status (R184). -/
  stopped : Bool := false
  slots : Tab Slot := {}
  watches : Tab TWatch := {}
  /-- Base VAs of the 64-byte lines the instruction cache holds (R147). -/
  icache : List Nat := []
  shadow : Option Block := none
  active : Option Block := none
  /-- Accumulator entries, keyed by row · 128 + entry (R128). -/
  acc : Tab Word32 := {}
  /-- Accumulator rows that hold INT32 entries. -/
  accInt : List Nat := []
  arrQ : List ArrOp := []
  arrBusy : Bool := false
  /-- DMA channels 0–3: queued descriptors and whether the first has started. -/
  dmaQ : Tab (List DmaDesc) := {}
  dmaBusy : List Nat := []
  /-- Channels whose started descriptor writes to a PCIe peer: the link, and the TLPs issued so far (R393). -/
  dmaPeer : Tab (Nat × Nat) := {}
  panQ : List PanOp := []
  /-- Lane generator keys and counters (R139). -/
  rngKey : Tab Nat := {}
  rngCtr : Tab Nat := {}
  /-- Lines the tile has written since they were last released at SYSTEM scope, and whether through a page whose vis_floor is SYSTEM
  (R73, R76). -/
  written : Tab Bool := {}
  /-- Gated products short of a unit of TILE_FW_UNITS (R132). -/
  fwRem : Nat := 0
  deriving DecidableEq, Repr

/-! ### Sequencer complexes (spec/10) -/

/-- An open micro-batch group (R304, R305). -/
structure MbGroup where
  pos : Nat
  entry : Bytes
  /-- Its job entries, in order, with their positions. -/
  jobs : List (Nat × Bytes)
  /-- The round count R and its bound (R304, R305). -/
  rounds : Nat
  maxRounds : Nat
  /-- Indices of the rounds still to run, in order, the index of the round that runs, and rounds run. -/
  sched : List Nat := []
  cur : Nat := 0
  ran : Nat := 0
  running : Bool := false
  /-- A round beyond max_rounds was called for. -/
  exceeded : Bool := false
  /-- Jobs of the running round not yet started, and first failing status. -/
  toStart : List (Nat × Bytes) := []
  status : Nat := 0
  /-- Token counts of the appended rounds (R305). -/
  tokens : List Nat := []
  tStart : Nat := 0
  deriving DecidableEq, Repr

/-- A command stream (R291 to R293). -/
structure Strm where
  ring : Nat := 0
  head : Nat := 0
  /-- The last tail seen, and the position fetch may reach. -/
  seen : Nat := 0
  limit : Nat := 0
  /-- Fetched entries not yet started, oldest first (R294). -/
  fetched : List (Nat × Bytes) := []
  /-- Line of the armed watch, and whether its first look, which is no wake, is still due. -/
  watch : Option Nat := none
  fresh : Bool := false
  /-- Enabled, and ring and head are still to be read. -/
  opening : Bool := false
  /-- The start of the next entry has met something it waits for. -/
  waits : Bool := false
  group : Option MbGroup := none
  haltPos : Nat := 0
  /-- Halted by a failed arming, tail or fetch: resuming arms the watch again (R293). -/
  stuck : Bool := false
  /-- Capacity report of the DISPATCH completed last, for the next group (R369): token counts of the rounds to append. -/
  report : List Nat := []
  deriving DecidableEq, Repr

/-- A started entry that has not completed (R296, R297). -/
structure Ent where
  die : Nat
  stream : Nat
  pos : Nat
  entry : Bytes
  /-- Job slot, wait watch or mb slot. -/
  slot : Nat := 0
  /-- Line and address a WAIT watches. -/
  line : Nat := 0
  tStart : Nat := 0
  /-- The sweep a STEP_END entry names is complete, with its status and the address of its failure (R306, R309). -/
  swept : Option Nat := none
  sweptVa : Nat := 0
  /-- The value a WAIT saw last (R111). -/
  seen : Option Nat := none
  round : Nat := 0
  /-- This entry belongs to a micro-batch group round. -/
  inGroup : Bool := false
  deriving DecidableEq, Repr

/-- A write of a sequencer complex that is still to be performed, and the MSI that follows it (R294, R313, R314, R316). -/
structure SeqWrite where
  die : Nat
  stream : Nat
  ctx : Nat
  va : Nat
  data : Bytes
  msi : Option (Nat × Nat) := none
  deriving DecidableEq, Repr

/-- A slot handed over to the scaling unit (R168, R217). -/
structure Hand where
  tid : Nat
  max : Nat
  marks : Nat
  tile : Nat
  lap : Nat
  deriving DecidableEq, Repr

/-- Progress of a job (R300, R302, R313). -/
structure Job where
  stream : Nat
  pos : Nat
  entry : Bytes
  /-- Start order on the die (R300). -/
  order : Nat := 0
  round : Nat := 0
  inGroup : Bool := false
  /-- u₀ … u_{k−1} (R299). -/
  tiles : List Nat := []
  /-- Laps already dispatched, by tile, and the tiles that ran laps. -/
  sent : Tab Nat := {}
  used : List Nat := []
  ended : Nat := 0
  clean : Nat := 0
  status : Nat := 0
  failTile : Nat := 0xFFFF
  failLap : Nat := 0
  failAddr : Nat := 0
  unacked : Nat := 0
  /-- Flags of each lap that set some (R302). -/
  lapFlags : Tab Nat := {}
  /-- Laps granted their stack, by lap index mod 144 (R247). -/
  granted : Tab Nat := {}
  /-- Pannier origins by lap (R256), and the stacks the job has popped (R251). -/
  pushOrg : Tab Nat := {}
  popOrg : Tab Nat := {}
  popped : List Nat := []
  extra : Bool := false
  /-- 0 laps, 1 extra pass of laps, 2 re-conversion, 3 ready to complete. -/
  phase : Nat := 0
  /-- Re-conversion records (R303), and those still to run. -/
  reconv : List Bytes := []
  todo : List Bytes := []
  /-- Elements its laps drained with scl = 1: tensor, first flat index, count (R227). -/
  drows : List (Nat × Nat × Nat) := []
  /-- Handovers of slots not yet merged (R217). -/
  hands : List Hand := []
  /-- Laps that drained a tensor with scl = 1: lap index, tensor (R224, R225). -/
  drained : List (Nat × Nat) := []
  /-- Tensors stale when this job bound them for production in Fixed gear (R223). -/
  stale : List Nat := []
  /-- Tensors that triggered the extra pass, and laps it runs again. -/
  trigger : List Nat := []
  rerun : List Nat := []
  tStart : Nat := 0
  deriving DecidableEq, Repr

structure SeqSt where
  streams : Tab Strm := {}
  ents : List Ent := []
  /-- Keyed by die · 64 + slot. -/
  jobs : Tab Job := {}
  nextOrder : Nat := 0
  nextLap : Nat := 0
  /-- Head, halt_pos and record writes that wait, oldest first. -/
  writes : List SeqWrite := []
  /-- Stream served last, by die (R297). -/
  served : Tab Nat := {}
  /-- Entries that a fault of their complex ended, until their records are written at its recovery, with coll_id and step
  of the delivery entry that the complex writes too (R372, R443). -/
  dead : List (Ent × Option (Nat × Nat)) := []
  deriving DecidableEq, Repr

/-! ### The Pannier unit (spec/08) -/

/-- A move in flight on a stack (R252 to R254). -/
structure PanMove where
  spill : Bool
  off : Nat
  size : Nat
  demand : Bool := false
  deriving DecidableEq, Repr

structure PanSt where
  /-- Moves, keyed by die · 144 + stack. -/
  moves : Tab PanMove := {}
  /-- A failed mover access, by stack: its status, and whether an operation has ended with it (R255). -/
  fails : Tab (Nat × Bool) := {}
  /-- Stack served last, keyed by die · 4 + class: 0 demand fill, 1 prefetch, 2 spill (R254). -/
  served : Tab Nat := {}
  deriving DecidableEq, Repr

/-! ### Numerics (spec/07) -/

/-- Numerics defaults of OD 0xA002 and 0xA003 as a domain's units read them at the last boundary (R232), FP32 bits. -/
structure NumCfg where
  t : Nat := 64
  r : Nat := 4
  f : Nat := 0x3F800000
  sat : Nat := 0x3A800000
  flush : Nat := 0x3D800000
  deriving DecidableEq, Repr

/-- A fold an NME has still to run: its stack, whether the step ended under a skipping verdict, and whether it is the validation fold
(R218, R219). -/
structure FoldDue where
  stack : Nat
  skipped : Bool := false
  validation : Bool := false
  deriving DecidableEq, Repr

structure NumSt where
  cfg : Tab NumCfg := {}
  /-- Folds still due, oldest first, by domain. -/
  foldDue : Tab (List FoldDue) := {}
  /-- local_nf as taken in the running step, the verdict the step's sweeps have, and the OR of the VERDICTs that ended in the step (R236), by
  domain. -/
  taken : Tab Bool := {}
  verdict : Tab Bool := {}
  heard : Tab Bool := {}
  deriving DecidableEq, Repr

/-! ### Ethernet ports and Aedian Transport (spec/11) -/

/-- Where a received frame goes (R325). -/
inductive FrameTo where
  | rot | mgmt (ts frac : Nat)
  deriving DecidableEq, Repr

/-- A link beside its registers, keyed by 8p + l. -/
structure Link where
  /-- Associations accepted on receipt with the lowest acceptable packet number, and the transmit association with its
  next packet number (R327). -/
  rx : List (Nat × Nat) := []
  tx : Option (Nat × Nat) := none
  /-- SAKs installed so far, the number of each association's, and the replay window MKA started with (R327). -/
  saks : Nat := 0
  sak : Tab Nat := {}
  window : Nat := 0
  /-- It has gone down by itself and is not back (R319). -/
  lost : Bool := false
  /-- A new SAK has been asked for. -/
  asked : Bool := false
  /-- Frames that wait to be sent, oldest first, with their class (R326). -/
  txQ : List (Nat × Frame) := []
  /-- Classes paused by the peer, classes whose pauses are ignored, classes this side has paused (R322, R323). -/
  paused : List Nat := []
  deaf : List Nat := []
  xoff : List Nat := []
  /-- Frames in the receive buffer that the AT engine has not taken, oldest first, with their class. -/
  buf : List (Nat × Frame) := []
  deriving DecidableEq, Repr

/-- A virtual network function (R332). -/
structure Vnf where
  on : Bool := false
  dupMac : Bool := false
  txHead : Nat := 0
  rxHead : Nat := 0
  /-- The interval since the last MSI runs, and an MSI waits for its end. -/
  quiet : Bool := false
  due : Bool := false
  drops : Nat := 0
  deriving DecidableEq, Repr

structure EthSt where
  links : Tab Link := {}
  /-- Transmit timestamps by port: link, TIME64 value, fraction (R328). -/
  ptpQ : Tab (List (Nat × Nat × Nat)) := {}
  /-- Frames handed to the RoT and the management controller, newest first: destination, link, frame. -/
  rxd : List (FrameTo × Nat × Frame) := []
  vnfs : Tab Vnf := {}
  /-- Words of the VNF registers, keyed by v · 8 + k. -/
  vnfRegs : Tab Word64 := {}
  /-- AT UDP port in force since package reset (R334). -/
  udpPort : Nat := 0xB880
  /-- Slave link as PTP last started with it, 0xFF for the best master clock algorithm (R329). -/
  ptpSlave : Nat := 0xFF
  deriving DecidableEq, Repr

/-- A number m · 2^−e. -/
structure Dy where
  m : Nat := 0
  e : Nat := 0
  deriving DecidableEq, Repr

/-- A sequenced packet that has not been acknowledged (R341). -/
structure AtPkt where
  psn : Nat
  type : Nat
  flags : Nat := 0
  body : Bytes := []
  issuer : Nat := 0
  /-- The last packet of its operation. -/
  last : Bool := true
  sentAt : Nat := 0
  resent : Bool := false
  /-- Covered by a SACK block. -/
  sacked : Bool := false
  deriving DecidableEq, Repr

/-- An operation a received packet asks for (R335, R339). -/
inductive AtRx where
  | write (va : Nat) (data : Bytes)
  | readReq (va len reqId : Nat)
  | readResp (reqId off code : Nat) (data : Bytes)
  | atomic (va aop size operand newVal : Nat)
  | atomicResp (reqPsn code old : Nat)
  | nak (psn code : Nat)
  /-- A Derailleur message, and a repair message of an NME: kind, stack, shard, step, offset, data (R285). -/
  | drl (kind : Nat) (m : DrlMsg)
  | nme (kind st shard step off : Nat) (data : Bytes)
  deriving DecidableEq, Repr

/-- A connection (R337 to R345), keyed by n · 65536 + index. -/
structure Conn where
  /-- 0 CLOSED, 1 NEGOTIATE, 2 ESTABLISHED, 3 FAILED (R338). -/
  state : Nat := 0
  entry : Bytes := []
  ver : Nat := 3
  maxVer : Nat := 3
  inc : Nat := 0
  payload : Nat := 8192
  window : Nat := 256
  npaths : Nat := 1
  features : Nat := 3
  /-- Values of the dictionary read at the open. -/
  rtoMin : Nat := 16000
  retryMax : Nat := 8
  /-- A failure precedes this negotiation; a version refusal ended it for good; close has been asked for. -/
  failed : Bool := false
  refused : Bool := false
  closing : Bool := false
  txNext : Nat := 0
  txUna : Nat := 0
  rxNext : Nat := 0
  unacked : List AtPkt := []
  /-- Operations that wait for the window or the store, oldest first. -/
  queue : List (Nat × AtOp) := []
  /-- Packets still to send of an operation under way, and answers: issuer, type, flags, body, last of its operation. -/
  sending : List (Nat × Nat × Nat × Bytes × Bool) := []
  /-- Packets held out of order. -/
  held : List (Nat × AtRx) := []
  /-- Reads: request id, issuer, address, bytes due; atomics: PSN, issuer, address. -/
  reads : List (Nat × Nat × Nat × Nat) := []
  atomics : List (Nat × Nat × Nat) := []
  nextReq : Nat := 0
  /-- Packets received since the last acknowledgement. -/
  owed : Nat := 0
  lastNak : Option Nat := none
  lastCnp : Option Nat := none
  srtt : Option Nat := none
  rttvar : Nat := 0
  rto : Nat := 100000
  timeouts : Nat := 0
  lastSack : Option Nat := none
  /-- Rate, target (Mb/s) and α (R345); time of the last decrease and periods since. -/
  rate : Dy := {}
  target : Dy := {}
  alpha : Dy := { m := 1 }
  cut : Option Nat := none
  periods : Nat := 0
  deriving DecidableEq, Repr

structure AtSt where
  conns : Tab Conn := {}
  /-- Package id an engine read when it was enabled (R344). -/
  pkgId : Tab Nat := {}
  /-- Ended operations a Derailleur still has to hear of: die, connection, code (R372). -/
  told : List (Nat × Nat × Nat) := []
  /-- Messages an engine has delivered behind a packet that filled a gap, for its Derailleur and NMEs: die, connection, message. -/
  inbox : List (Nat × Nat × AtRx) := []
  /-- Connections the engines' context caches hold, keyed as conns (R337). -/
  cached : List Nat := []
  deriving DecidableEq, Repr

/-! ### The Derailleur (spec/12) -/

/-- A segment a reduction's owner forms (R355, R356): contributions added, the sum so far, segments staged by position. -/
structure RedSeg where
  next : Nat := 0
  acc : List Nat := []
  staged : List (Nat × Bytes) := []
  deriving DecidableEq, Repr

/-- A running collective instance (R348 to R361), keyed by n · 65536 + coll_id. -/
structure Inst where
  stream : Nat := 0
  pos : Nat := 0
  desc : Bytes := []
  step : Nat := 0
  gear : Nat := 0
  /-- Route bank in force at the start (R364). -/
  bank : Nat := 0
  count : Nat := 1
  own : Nat := 0
  gsig : Nat := 0
  /-- Connection and die of each member (R350). -/
  members : List (Nat × Nat) := []
  /-- 0 waits for its instant, 1 waits for staging, 2 runs. -/
  stage : Nat := 0
  /-- Messages taken: (position, segment); whole members done. -/
  got : List (Nat × Nat) := []
  segs : Tab RedSeg := {}
  /-- Segments whose result is formed. -/
  formed : Nat := 0
  scaleK : Int := 0
  /-- Header values taken from messages (R357, R359, R360): nf, q_valid, q by position, digest of position 0. -/
  nf : Bool := false
  qs : List (Nat × Bool × Nat) := []
  digest0 : Option Nat := none
  digest : Nat := 0
  /-- VERDICT at the lead die: terms by die, and whether the exchange has started. -/
  terms : List (Nat × Nat × Bool × Bool) := []
  merged : Bool := false
  localNf : Bool := false
  /-- Dispatch (R366 to R370): the record, counts by source, admitted counts by slot and round with the rows of each
  source, allowances taken, largest counts by round, rows taken by source, and pairs of this source by member and slot. -/
  record : Bytes := []
  counts : List (Nat × List Nat) := []
  rounds : List (Nat × List Nat × List Nat) := []
  allows : List Nat := []
  rtab : List Nat := []
  rowsGot : Tab Nat := {}
  /-- Bytes received so far of a message that continues over packets (R373), by sender, kind and segment. -/
  part : Tab Bytes := {}
  /-- The first actions of the running instance have been performed. -/
  begun : Bool := false
  pairs : List (Nat × Nat × Nat × Nat × Nat) := []
  /-- Expert of each pair, drop keys in lookup order (R368), and the pairs dropped at some shard. -/
  experts : Bytes := []
  keys : List Nat := []
  drops : List Nat := []
  /-- The rounds are formed and the ALLOWs sent. -/
  allowed : Bool := false
  /-- END is due once the rows are acknowledged; sent; received from. -/
  endDue : Bool := false
  endSent : Bool := false
  ends : List Nat := []
  deriving DecidableEq, Repr

/-- A VERDICT's term on its way to the lead die, and its result on the way to a die (R359). -/
structure VTerm where
  to' : Nat
  from' : Nat
  coll : Nat
  step : Nat
  q : Nat
  qv : Bool
  nf : Bool
  deriving DecidableEq, Repr
structure VRes where
  to' : Nat
  coll : Nat
  step : Nat
  nf : Bool
  qv : Bool
  q : Nat
  status : Nat
  detail : Nat
  deriving DecidableEq, Repr

structure DrlSt where
  insts : Tab Inst := {}
  /-- Step of the instance of a coll_id that ended last, keyed alike (R352). -/
  ended : Tab Nat := {}
  /-- Messages for instances that have not started: die, kind, message (R352). -/
  early : List (Nat × Nat × DrlMsg) := []
  /-- Norm lists by die: coll_id, step, term (R358). -/
  norms : Tab (List (Nat × Nat × Nat)) := {}
  /-- Terms and results of VERDICT on the Chainring (R359). -/
  termNet : List VTerm := []
  resNet : List VRes := []
  /-- Route entries and slots: key (2n + bank) · 32768 + i, slots from 16384 on (R362 to R364). -/
  routes : Tab Bytes := {}
  /-- Dies whose committed bank is in its saved image: the swap is pending (R364). -/
  saved : List Nat := []
  /-- Rows admitted by the last DISPATCH of a layer, keyed by n · 64 + layer: slot, counts by round, rows by source. -/
  admitted : Tab (List (Nat × List Nat × List Nat)) := {}
  /-- Reset or isolated since (R364); generator key and counter (R349). -/
  restart : List Nat := []
  rngKey : Tab Nat := {}
  rngCtr : Tab Nat := {}
  deriving DecidableEq, Repr

/-! ### Near-memory engines (spec/09) -/

/-- A sweep as one NME runs it (R268 to R271): what phase N read, and how far it is. -/
structure NmeSweep where
  ctx : Nat := 0
  desc : Nat := 0
  bytes : Bytes := []
  dom : Nat := 0
  step : Nat := 0
  /-- Gear in force at the start (R47). -/
  gear : Nat := 1
  /-- Phase (R271), and whether this NME has finished it and waits at the barrier. -/
  phase : Nat := 1
  done : Bool := false
  /-- Committed, skipped or stopped; the status of a stop; a stop at a check of phase N. -/
  ended : Bool := false
  status : Nat := 0
  early : Bool := false
  live : Nat := 0
  curU : Nat := 0
  curD : Nat := 0
  stride : Nat := 0
  dtab : Nat := 0
  shards : List Bytes := []
  /-- Exponents of the scales that stored gradients carry, by g_tid (R274). -/
  gk : Tab Int := {}
  /-- Norm factor as FP32 bits, and norm_used (R270). -/
  c : Nat := 0x3F800000
  used : Nat := 0
  /-- A digest sweep, whose exchange failed (R283, R284). -/
  digest : Bool := false
  noDigest : Bool := false
  deriving DecidableEq, Repr

/-- A running re-encryption (R287). -/
structure Rekey where
  ctx : Nat
  desc : Nat
  part : Nat
  oldG : Nat
  newG : Nat
  count : Nat
  list : Nat
  journal : Nat
  page : Nat := 0
  chunk : Nat := 0
  status : Nat := 0
  /-- Leaf addresses of the page that is locked now, its physical address and size; none between pages. -/
  leaves : List Nat := []
  pa : Nat := 0
  size : Nat := 0
  deriving DecidableEq, Repr

/-- A shard repair an NME asks for (R284, R285): over a connection, or the Chainring (0xFFFF) to a die; asked for (0), to be repeated after
the quiet period (1), or left until the operator acts (2). -/
structure Repair where
  shard : Nat
  step : Nat
  conn : Nat
  die : Nat
  phase : Nat := 0
  deriving DecidableEq, Repr

/-- Where a DIGEST collective put the blocks it gathered (R360): context, address of block 0, block size and blocks, and the connection (0xFFFF
none) and die of the member at position 0. -/
structure DigestRec where
  ctx : Nat
  dst : Nat
  size : Nat
  count : Nat
  conn : Nat
  die : Nat
  deriving DecidableEq, Repr

/-- An NME beside its registers. -/
structure Nme where
  sweep : Option NmeSweep := none
  /-- The sweep committed last: the shard list that repairs name (R285). -/
  last : Option NmeSweep := none
  /-- Reset or isolated since; a sweep goes on only after re-initialisation (R286). -/
  restart : Bool := false
  /-- Prefold requests on their way with the stacks that sent them, those a reset flushed (R30), and those held with
  whether each is served (R278). -/
  prefNet : List (Nat × Nat) := []
  prefLost : List (Nat × Nat) := []
  pref : List (Nat × Bool) := []
  /-- Shard whose phase U runs again before its phase D (R286). -/
  redo : Option Nat := none
  /-- Shards held out of sweeps (R284), times of their mismatches, repair requests that wait for this NME's phase C with their requester's
  connection and die, and the repairs this NME has asked for. -/
  held : List Nat := []
  miss : List (Nat × Nat) := []
  waiting : List (Nat × Nat × Nat × Nat) := []
  repairs : List Repair := []
  /-- Update-unit lanes: r0 to r15 of each (R266); the block of the shard at cursor_u they hold, and how many hold an
  element. -/
  lanes : List (List Nat) := List.replicate 512 (List.replicate 16 0)
  loaded : Bool := false
  blk : Nat := 0
  /-- Generator keys and counters of the derivation unit, by lane (R262). -/
  rngKey : Tab Nat := {}
  rngCtr : Tab Nat := {}
  /-- Keys and counters its started sweep goes on with after they have been drawn anew (R282). -/
  sweepRng : Option (Tab Nat × Tab Nat) := none
  deriving DecidableEq, Repr

/-- A sweep of a domain (R270, R306): its participants and its first failure. -/
structure SweepTop where
  ctx : Nat
  desc : Nat
  dom : Nat
  res : Nat
  parts : List Nat
  /-- The first failure: its status, as the record holds it (R270), and the address. -/
  first : Nat := 0
  firstRec : Nat := 0
  failVa : Nat := 0
  deriving DecidableEq, Repr

structure NmeSt where
  units : Tab Nme := {}
  sweeps : List SweepTop := []
  /-- Re-encryptions: NME s at s, H-die m at 16 + m. -/
  rekeys : Tab Rekey := {}
  /-- Keyed by die · 65536 + coll_id (R360). -/
  digests : Tab DigestRec := {}
  /-- Pages a re-encryption has locked: address and size (R288). -/
  locked : List (Nat × Nat) := []
  deriving DecidableEq, Repr

/-! ### Faults (spec/15) -/

/-- A save record of the NV store (R456): next leaves with the reservation sequence number, FLT_RECOVERY copies, the record
ring, generations (R457), and its valid marker. -/
structure SaveRec where
  attLeaf : Nat := 0
  idLeaf : Nat := 0
  resvSeq : Nat := 0
  counts : Tab Nat := {}
  held : List Nat := []
  ring : List Bytes := []
  gens : Bytes := []
  valid : Bool := false
  deriving DecidableEq, Repr

structure FltSt where
  /-- Compatibility mode in force (R447). -/
  compat : Bool := false
  /-- Fault records, newest first, at most 64 (R454). -/
  records : List Bytes := []
  /-- Quiet period running, keyed by fault-set index, in ms; the time at which it began; the source that isolated the block. -/
  quiet : Tab Nat := {}
  quietAt : Tab Nat := {}
  cause : Tab Nat := {}
  /-- Rows in the repair list (R451): controller number, then the row word. -/
  repairs : List (Nat × Nat) := []
  /-- Soft spares held in the present boot (R515): controller · 4096 + bank of its kind. -/
  soft : List Nat := []
  /-- Repairs running, by controller, as written. -/
  ppr : Tab Nat := {}
  /-- Blocks that have just left service, with the source (255: none): their work ends inside the same command (R443). -/
  due : List (Nat × Nat × Nat) := []
  /-- PWRFAIL_N is asserted, and the save record in the NV store (R456 to R458). -/
  sag : Bool := false
  save : Option SaveRec := none
  /-- Key-generation state of the save record that the last boot found (R457). -/
  gensAtBoot : Bytes := []
  /-- Saved FLT_RECOVERY copies and record ring of the NV store (R455), by fault-set index. -/
  nvRec : Tab Nat := {}
  nvHeld : List Nat := []
  nvRing : List Bytes := []
  deriving DecidableEq, Repr

/-! ### The H-dies (spec/13) -/

/-- A posted write on its way to a PCIe peer (R393): the tile and DMA channel that issued it, when one did. -/
structure Tlp where
  owner : Option (Nat × Nat) := none
  addr : Nat
  data : Bytes
  deriving DecidableEq, Repr

/-- A link's replay buffer and posted queue (R393). -/
structure PLink where
  replay : List Tlp := []
  queue : List Tlp := []
  deriving DecidableEq, Repr

/-- The core-reset domain (R78 to R82, R382). -/
structure HcrSt where
  /-- 0 running, 1 the graceful flush, 2 reset and waiting for the core boot firmware, 3 booting, 4 not started yet
  since package reset (R498). -/
  phase : Nat := 4
  /-- A held request: whether it is forced. -/
  held : Option Bool := none
  deriving DecidableEq, Repr

structure PcieSt where
  /-- Keyed by 4r + l. -/
  links : Tab PLink := {}
  /-- Device entries the IOMMUs cache, keyed by H-die · 65536 + requester ID. -/
  dtCache : Tab Nat := {}
  /-- Device interfaces in TDISP RUN, keyed alike (R392). -/
  run : List Nat := []
  /-- Peer requests that wait on a locked page (R64): H-die, requester, address, IDE T bit, request. -/
  wait : List (Nat × Nat × Nat × Bool × PeerOp) := []
  hcr : HcrSt := {}
  /-- Pending identities: interrupt file · 2048 + identity (R380). -/
  imsic : List Nat := []
  deriving DecidableEq, Repr

/-! ### Partitions (spec/14) and the object dictionary (spec/16) -/

/-- A partition the RoT knows (R420, R424, R426): its step domain is the one of its number. -/
structure Part where
  /-- In progress: 0 nothing, 1 creation, 2 teardown, 3 a binding or an admission (R419, R425). -/
  state : Nat := 0
  mask : Nat := 0
  ctxMask : Nat := 0
  ranges : List (Nat × Nat) := []
  seed : Word64 := 0
  /-- Current generation, live generations, and units tagged by generation. -/
  gen : Nat := 0
  live : List Nat := [0]
  units : Tab Nat := {}
  /-- PMR_p (R405), and the partition's KEM key pair by identity (R422). -/
  pmr : Bytes := zerosB 32
  kem : Nat := 0
  deriving DecidableEq, Repr

/-- Firmware of a die as the RoT tracks it (R404, R408): measurement and svn that run; a staged image, from FW_STAGE on,
and whether FW_ACTIVATE has started it. -/
structure DieFw where
  run : Nat := 0
  svn : Nat := 0
  staged : Option (Nat × Nat) := none
  started : Bool := false
  /-- A die reset whose units are not all current (R419). -/
  reset : Bool := false
  deriving DecidableEq, Repr

/-- A mailbox response that MBOX_RESPONSE delivers (R413): command, sequence, result, body, and the partition in
progress. -/
structure MboxResp where
  cmd : Nat
  seq : Nat
  result : Nat
  body : Bytes := []
  part : Nat := 0
  deriving DecidableEq, Repr

/-- A mailbox request whose accesses wait on a locked page (R64). -/
inductive MboxCmd where
  | bind (seq p m : Nat) (harts : Word64) (va len : Nat)
  | rekey (seq p : Nat) (mc : Bool) (unit ctx desc : Nat)
  | husk (seq p slot ctx : Nat) (header : Bytes) (chunks : List (Nat × Nat × Nat))
  deriving DecidableEq, Repr

structure SecSt where
  /-- The measurement registers BOOT_M and HOST_M (R405, R407), and the digest staged for class 0 or 1. -/
  bootM : Bytes := zerosB 32
  hostM : Bytes := zerosB 32
  rotStaged : Option Bytes := none
  /-- A self-test of R402 has failed since package reset (R401). -/
  testFailed : Bool := false
  /-- Images written into inactive slots of the other classes: digest and svn (R408). -/
  slots : Tab (Nat × Nat) := {}
  /-- Running svn of classes whose image has been taken from a slot (OD 0x1010). -/
  svns : Tab Nat := {}
  /-- Keyed by Chainring node. -/
  dies : Tab DieFw := {}
  /-- Minimum svn by image class where activation has raised it (R406). -/
  minSvn : Tab Nat := {}
  /-- Sealed partitions by number, and partition 0's state. -/
  parts : Tab Part := {}
  /-- Leaf reservations of the attestation and identity keys in the NV store: next_block, and the record sequence number
  (R410). -/
  attBlock : Nat := 0
  idBlock : Nat := 0
  resvSeq : Nat := 0
  /-- Attestation leaves used (OD 0x6002.01). -/
  attUsed : Nat := 0
  /-- Signed reports, newest first: digest, partitions covered, time (R430). -/
  reports : List (Bytes × List Nat × Nat) := []
  /-- Husk keys by partition · 8 + slot (R430). -/
  husk : Tab Bytes := {}
  /-- Provisioned secrets: kind · 2^32 + index (R409, R414). -/
  secrets : Tab Bytes := {}
  /-- Locked PCIe interfaces that wait for TDISP_START: H-die · 65536 + requester, partition (R432). -/
  admitted : Tab Nat := {}
  resp : Tab MboxResp := {}
  /-- Requests taken that wait on a locked page (R64), by mailbox. -/
  waits : Tab MboxCmd := {}
  deriving DecidableEq, Repr

/-- Stored values of the dictionary by index · 256 + subindex (absent: the default), their non-volatile copies, and
change counts (R459, R460). -/
structure OdSt where
  vals : Tab Bytes := {}
  saved : Tab Bytes := {}
  gens : Tab Nat := {}
  deriving DecidableEq, Repr

/-! ### The management controller (spec/16) -/

/-- A session or channel: 0 to 3 DTLS, 4 I3C, 5 + c in-band channel c. -/
structure Sess where
  opened : Bool := false
  /-- The last 16 responses by sequence number, and the highest number executed (R475). -/
  resps : List (Nat × Bytes) := []
  high : Option Nat := none
  /-- Staging buffers of WRITE, with its entry, and of MBOX (R469, R471). -/
  stage : Option (Nat × Bytes) := none
  mstage : Bytes := []
  /-- Subscribed; events queued for a private read, oldest first, and events dropped (R472). -/
  sub : Bool := false
  queue : List Bytes := []
  dropped : Nat := 0
  deriving DecidableEq, Repr

/-- An access to the dictionary (R466). -/
inductive BmpReq where
  | read (h : BmpHdr) (index sub off len : Nat)
  | write (h : BmpHdr) (index sub : Nat) (final useDefault : Bool) (off : Nat) (data : Bytes)
  | describe (h : BmpHdr) (index sub : Nat)
  | next (h : BmpHdr) (index sub : Nat)
  deriving DecidableEq, Repr

structure I3cSt where
  /-- The target answers (OD 0x7400.05 as the last package reset read it), its dynamic address, and the reset action that
  RSTACT named last. -/
  on : Bool := true
  addr : Option Nat := none
  rst : Nat := 0
  /-- Enabled events (R476): bit 0 in-band interrupts. -/
  events : Nat := 1
  mwl : Nat := 1028
  mrl : Nat := 1028
  /-- The response a private read returns. -/
  resp : Option Bytes := none
  deriving DecidableEq, Repr

/-- The management port's network entries (OD 0x7400.01 to .04) as its network stack last read them (R473). -/
structure NetCfg where
  addr : Nat := 0
  prefixLen : Nat := 64
  gateway : Nat := 0
  udpPort : Nat := 0xB881
  deriving DecidableEq, Repr

structure BmpSt where
  net : NetCfg := {}
  sess : Tab Sess := {}
  evSeq : Nat := 0
  i3c : I3cSt := {}
  /-- A write that waits for its NV commit (R464): the request, its session, entry, stored value and status. -/
  commit : Option (Nat × BmpHdr × Nat × Bytes × Nat) := none
  /-- Requests accepted behind it (R459), oldest first. -/
  behind : List BmpReq := []
  /-- Channels whose request a core reset has completed: its response sends no MSI (R478). -/
  mute : List Nat := []
  deriving DecidableEq, Repr

/-! ### Power and start-up (spec/17) -/

structure PwrSt where
  /-- The dies run: start-up step 7 has completed and no shutdown has followed (R487, R491, R498). -/
  up : Bool := false
  /-- The main domain has been shut down and waits for a package reset; by a loss of the main input. -/
  off : Bool := false
  lost : Bool := false
  /-- The inputs are present; both have been absent together since the last power-on reset. -/
  main : Bool := true
  aux : Bool := true
  bothOut : Bool := false
  /-- THERMTRIP_N is asserted (R491). -/
  trip : Bool := false
  /-- RESET_N holds the package, and a reset that waits for a save (R511). -/
  inReset : Bool := false
  resetHeld : Bool := false
  /-- Start-up steps completed (R498). -/
  steps : List Nat := []
  /-- Measurements of main power of the last 1 ms in mW, newest first; those above the cap at the floor in a row; a breach
  that holds the clock at the floor (R492, R493); energy below 1 µJ in 10⁻² µJ. -/
  samples : List Nat := []
  floorRun : Nat := 0
  breach : Bool := false
  energyRem : Nat := 0
  /-- Thermal limits of core clusters in MHz (R497). -/
  clusterLim : Tab Nat := {}
  /-- Acorn traffic uses the H1 link (R23). -/
  acornAlt : Bool := false
  deriving DecidableEq, Repr

/-! ### The machine -/

structure State where
  /-- Waiting commands, first in, first out: the model's own field. -/
  pending : List Instr := []
  /-- What has left the units for the outside, newest first: the model's own field. -/
  outbox : List Out := []
  /-- Indexes Config.free and Config.rotRandom: the model's own fields (log entry 2). -/
  freeCtr : Nat := 0
  rndCtr : Nat := 0
  /-- Every MMIO register, keyed by Reg.key; absent: its reset value. -/
  regs : Tab Word64 := {}
  mem : Mem := []
  /-- Key identity each written line was encrypted with, by line (R69). -/
  lineKey : Tab Nat := {}
  /-- Lines that read uncorrectable (R449), and their cells' fault that a rewrite does not cure. -/
  badLines : List Nat := []
  /-- 64-bit words of Pods and tile stores that read uncorrectable, as PA / 8 (R138, R450). -/
  badWords : List Nat := []
  /-- Key identity by part_id · 4 + generation (R69). -/
  keyIds : Tab Nat := {}
  keyNext : Nat := 1
  /-- Fused grade map, by C-die (R6). -/
  fused : Tab Nat := {}
  /-- Effective HBM4 and DDR5 interleave (R54). -/
  hbmMode : Nat := 0
  ddrMode : Nat := 0
  /-- DDR5 channels that hold mapped memory, with bytes each (R56, R385). -/
  ddrChans : List (Nat × Nat) := []
  /-- CXL.mem windows: base, size, link 4r + l (R57). -/
  cxlWins : List (Nat × Nat × Nat) := []
  time : TimeSt := {}
  /-- Gear in force on each C-die (R494); absent: Cruise. -/
  gears : Tab Nat := {}
  doms : Tab DomSt := {}
  xl : XlatSt := {}
  coh : CohSt := {}
  tiles : Tab Tile := {}
  seq : SeqSt := {}
  pan : PanSt := {}
  num : NumSt := {}
  eth : EthSt := {}
  at' : AtSt := {}
  drl : DrlSt := {}
  nme : NmeSt := {}
  /-- Sleeping NMEs and Derailleurs (R29); a sleeping tile is TILE_STATUS.state 3. -/
  asleep : List UnitId := []
  /-- Units that apply a change when their work ends, while PKG_EPOCH is saturated (R49). -/
  redo : List UnitId := []
  flt : FltSt := {}
  pcie : PcieSt := {}
  /-- Accesses to disabled and isolated tiles, by C-die (R9). -/
  absent : Tab Nat := {}
  sec : SecSt := {}
  od : OdSt := {}
  bmp : BmpSt := {}
  pwr : PwrSt := {}
  deriving DecidableEq, Repr

/-- The machine right after package reset. -/
def State.reset : State := {}

end Sys2Proof.Machine
end

