-- ==== Sys2Proof/Machine/Ops.lean ====
section
/-! DEFINITION. The named operations over registers, memory and the outbox that every chapter's meanings share: register
fields (R10 to R13), counters (R453), messages out, the fault register set's event (R437, R438), the physical map
(R50, R51, R53, R56), raw memory with its line keys (R69) and the package's geometry (R5, R24, R26). -/

namespace Sys2Proof.Machine

/-! ### Registers -/

/-- Where copy i of register r lies in State.regs. -/
def Reg.key (r : Reg) (i : Nat) : Nat := r.ctorIdx * 65536 + i

def fieldVal (f : Fld) (v : Nat) : Nat := (v % 2 ^ (f.hi + 1 - f.lo)) * 2 ^ f.lo

/-- Classes of the sources of block b of Chainring node k, source 0 first (R441, R479, spec/17). -/
def fltClasses (node b : Nat) : List Nat :=
  if node < 8 then
    if b = 0 then [3, 3, 3, 0, 1, 0]
    else if b = 1 then [0, 2, 2]
    else if b = 2 then [0, 0, 0, 0, 0]
    else if b = 3 then [0, 0, 0, 2]
    else if b = 4 then [0, 2, 0]
    else if b = 5 then [0, 2]
    else if b = 6 then [1, 1, 0]
    else if b = 7 then [1, 2]
    else if b = 8 || b = 9 then [0, 0, 0, 2, 2]
    else if b = 10 || b = 11 then [1, 0, 0, 0]
    else if b = 12 || b = 13 || b = 14 then [1, 2, 1, 1]
    else if 16 ≤ b && b < 160 then [1, 2, 2, 2, 2]
    else []
  else if node = 8 || node = 9 then
    if b = 0 then [3, 3, 3]
    else if b = 1 then [1, 0]
    else if b = 2 then [1, 1, 0]
    else if b = 3 then [1, 2]
    else if b = 4 then [0]
    else if b = 5 then [0, 0]
    else if 8 ≤ b && b < 16 then [1, 0, 0, 0, 0]
    else if 16 ≤ b && b < 20 then [1, 0]
    else []
  else if node = 10 then
    if b = 0 then [3, 3, 1]
    else if b = 1 then [0, 0]
    else if b = 2 then [0]
    else if b = 3 then [0]
    else if b = 4 then [0, 0, 1, 1, 1, 1, 0, 0]
    else if b = 5 then [0, 0, 0, 2]
    else []
  else []

/-- The class of a source; none for an unlisted bit (R441). -/
def fltClass (node b src : Nat) : Option Nat := (fltClasses node b)[src]?

/-- Fault block of a die's time replica (R441). -/
def replicaBlk (node : Nat) : Nat := if node < 8 then 7 else 3
/-- Copy number of the fault register set of block b of node k (R437). -/
def fltIdx (node b : Nat) : Nat :=
  if node < 8 then node * 256 + b else if node < 10 then 2048 + (node - 8) * 256 + b else 2560 + b
def fltNode (i : Nat) : Nat := if i < 2048 then i / 256 else if i < 2560 then 8 + (i - 2048) / 256 else 10
def fltBlock (i : Nat) : Nat := if i < 2560 then i % 256 else i - 2560

def classWord : List Nat → Nat
  | [] => 0
  | c :: r => c + 4 * classWord r

/-- Reset value of a register whose table states one value for every copy. -/
def Reg.resetRaw (r : Reg) : Nat := (r.fields.map (fun f => fieldVal f f.reset)).sum

/-- Reset value of copy i: the tables', with the copies that their tables give a value of their own. -/
def Reg.resetVal (r : Reg) (i : Nat) : Word64 :=
  match r with
  | .TILE_ID => BitVec.ofNat 64 (i % 144 + (i / 144) * 2 ^ 8 + i * 2 ^ 11 + 2 ^ 22)
  | .NME_ID => BitVec.ofNat 64 (fieldVal F.NME_ID_stack i + fieldVal F.NME_ID_die (i / 2))
  | .SEQ_TILE_MAP_0 => BitVec.ofNat 64 (2 ^ 64 - 1)
  | .SEQ_TILE_MAP_1 => BitVec.ofNat 64 (2 ^ 64 - 1)
  | .SEQ_TILE_MAP_2 => BitVec.ofNat 64 (2 ^ 16 - 1)
  | .FLT_CLASS => BitVec.ofNat 64 (classWord (fltClasses (fltNode i) (fltBlock i)))
  | r => BitVec.ofNat 64 r.resetRaw

def State.rd (s : State) (r : Reg) (i : Nat := 0) : Word64 := (s.regs.at? (r.key i)).getD (r.resetVal i)
def State.rdN (s : State) (r : Reg) (i : Nat := 0) : Nat := (s.rd r i).toNat
def State.wr (s : State) (r : Reg) (i : Nat) (v : Nat) : State := { s with regs := s.regs.put (r.key i) (BitVec.ofNat 64 v) }
/-- Puts a register back to its reset value. -/
def State.unwr (s : State) (r : Reg) (i : Nat) : State := { s with regs := s.regs.del (r.key i) }
/-- A field's value. -/
def State.gf (s : State) (f : Fld) (i : Nat := 0) : Nat := bitsN (s.rdN f.reg i) f.hi f.lo
def State.gb (s : State) (f : Fld) (i : Nat := 0) : Bool := s.gf f i != 0
/-- Sets a field. -/
def State.pf (s : State) (f : Fld) (i : Nat) (v : Nat) : State :=
  s.wr f.reg i (setBitsN (s.rdN f.reg i) f.hi f.lo v)
def State.pb (s : State) (f : Fld) (i : Nat) (b : Bool) : State := s.pf f i (bN b)

/-- Counters of 32 bits with an overflow bit at [32] saturate (R453); overflow sets as the largest value is reached. -/
def State.bump (s : State) (r : Reg) (i : Nat := 0) (k : Nat := 1) : State :=
  let v := s.rdN r i
  let c := v % 2 ^ 32 + k
  if c ≥ 2 ^ 32 - 1 then s.wr r i (setBitsN (setBitsN v 31 0 (2 ^ 32 - 1)) 32 32 1) else s.wr r i (setBitsN v 31 0 c)
/-- Counters of 64 bits wrap (R453). -/
def State.bump64 (s : State) (r : Reg) (i : Nat := 0) (k : Nat := 1) : State := s.wr r i (s.rdN r i + k)

/-- Applies f when c holds. -/
def State.when (s : State) (c : Bool) (f : State → State) : State := if c then f s else s
/-- Folds f over a list. -/
def State.each {α : Type} (s : State) (l : List α) (f : α → State → State) : State := l.foldl (fun a x => f x a) s

def State.emit (s : State) (o : Out) : State := { s with outbox := o :: s.outbox }

/-- A posted write toward a PCIe peer (R393, R394): false while it stalls at a full posted queue of a link in Recovery.
On a link that is down it is discarded and counted. -/
def State.pcieSend (s : State) (k : Nat) (t : Tlp) : Bool × State :=
  let q := s.pcie.links.atD k {}
  let put (q : PLink) : State := { s with pcie := { s.pcie with links := s.pcie.links.put k q } }
  if !s.gb F.PCIE_LINK_up k then (true, s.bump .PCIE_LOST k)
  else if s.gb F.PCIE_LINK_recovery k then
    if q.queue.length < 256 then (true, put { q with queue := q.queue ++ [t] }) else (false, s)
  else (true, put { q with replay := q.replay ++ [t] })
/-- The peer acknowledges posted writes: they have left the package. -/
def State.pcieAcked (s : State) (l : List Tlp) : State := s.each l (fun t s => s.emit (.pcie (t.addr / 2 ^ 44) t.addr true t.data))

/-- A free value: the machine goes on with a number nothing constrains (log entry 2). -/
def State.free (s : State) : Word64 × State := (Config.free s.freeCtr, { s with freeCtr := s.freeCtr + 1 })
/-- A word of the RoT's random source (R139). -/
def State.random (s : State) : Word64 × State := (Config.rotRandom s.rndCtr, { s with rndCtr := s.rndCtr + 1 })

/-! ### Geometry (R5, R24, R26) -/

def tileDie (t : Nat) : Nat := t / 144
def tileNo (t : Nat) : Nat := t % 144
def stackDie (s : Nat) : Nat := s / 2
/-- The die of Chainring node k is an H-die. -/
def hNode (m : Nat) : Nat := 8 + m
def allTiles (n : Nat) : List Nat := (List.range 144).map (fun t => 144 * n + t)

def State.fusedMap (s : State) (n : Nat) : Nat := s.fused.atD n (2 ^ 144 - 1)
/-- A tile is fused enabled (R6). -/
def State.enabled (s : State) (t : Nat) : Bool := t < 1152 && bitN (s.fusedMap (tileDie t)) (tileNo t)
/-- Time base now, in nanoseconds (R31). -/
def State.now (s : State) : Nat := s.gf F.TB_TIME_time
def State.dieTime (s : State) (node : Nat) : Nat := s.gf F.DIE_TIME_time node
def State.pkgEpoch (s : State) : Nat := s.gf F.PKG_EPOCH_epoch
def State.epochFull (s : State) : Bool := s.gb F.PKG_EPOCH_STATUS_overflow
/-- Gear in force on C-die n (R494): 0 Sprint, 1 Cruise, 2 Fixed, 3 Coast. -/
def State.gearOf (s : State) (n : Nat) : Nat := s.gears.atD n 1
def gearSprint : Nat := 0
def gearCruise : Nat := 1
def gearFixed : Nat := 2
def gearCoast : Nat := 3

/-! ### The time source (R36) -/

/-- The selected source; the reserved value selects none (R18). -/
def tbSource (s : State) : Nat := let v := s.gf F.TB_CTRL_source; if v = 3 then 0 else v
/-- The time base runs on without its source (R36). -/
def State.holdover (s : State) : State :=
  if tbSource s = 0 then s else (s.pf F.TB_STATUS_holdover 0 1).pf F.TB_STATUS_locked 0 0

/-! ### Fault events (R437, R438) -/

/-- State of a block (R437): 0 in service, 1 recovering, 2 held, 3 latched; 4 while its die does not run (R487, R498). -/
def State.blkState (s : State) (node b : Nat) : Nat :=
  if node < 10 && !s.pwr.up then 4 else s.gf F.FLT_STATUS_state (fltIdx node b)
/-- A die is in service unless its own block is isolated (R42, R444). -/
def State.dieIn (s : State) (node : Nat) : Bool := s.blkState node 0 == 0
/-- A block is in service: it and its die are. -/
def State.blkIn (s : State) (node b : Nat) : Bool := s.blkState node b == 0 && s.dieIn node

def State.fltMsi (s : State) (i : Nat) : State :=
  s.emit (.msi (s.gf F.FLT_MSI_ADDR_addr i * 4) (s.gf F.FLT_MSI_DATA_data i))

/-- Highest class among the set bits of src. -/
def classMax (node b src : Nat) : Nat :=
  maxList ((fltClasses node b).zipIdx.map (fun p => if bitN src p.2 then p.1 else 0))

/-! Events of subscribed sessions (R465, R472). -/

def beW (n v : Nat) : Bytes := beBytes n v
/-- A whole BMP message: type, sequence, od_major, status, flags, body. -/
def bmpMsg (type seq major status flags : Nat) (body : Bytes) : Bytes :=
  leBytes 1 1 ++ leBytes 1 type ++ beW 2 (16 + body.length) ++ beW 4 seq ++ beW 2 major ++ leBytes 1 status ++ leBytes 1 flags ++
  zerosB 4 ++ body
/-- The management controller serves its doors. -/
def State.mgmtUp (s : State) : Bool := s.gb F.MGMT_STATUS_ready && s.blkState 10 5 = 0 && !s.pwr.inReset
/-- An event goes out on every subscribed DTLS session and waits for a private read on I3C, at most 256. -/
def State.bmpEvent (s : State) (kind : Nat) (record : Bytes) : State :=
  if !s.mgmtUp then s
  else s.each (s.bmp.sess.rows.filter (fun r => r.2.sub)) (fun r s =>
    let x := s.bmp.sess.atD r.1 {}
    if r.1 = 4 && x.queue.length ≥ 256 then
      { s with bmp := { s.bmp with sess := s.bmp.sess.put r.1 { x with dropped := min 0xFFFF (x.dropped + 1) } } }
    else
      let m := bmpMsg 7 s.bmp.evSeq 2 0 0 (leBytes 1 kind ++ leBytes 1 0 ++ beW 2 x.dropped ++ zerosB 4 ++ record)
      let y := { x with dropped := 0, queue := if r.1 = 4 then x.queue ++ [m] else [] }
      let s := { s with bmp := { s.bmp with sess := s.bmp.sess.put r.1 y, evSeq := (s.bmp.evSeq + 1) % 2 ^ 32 } }
      if r.1 < 4 then s.emit (.bmp r.1 m)
      else s.when (s.bmp.i3c.addr.isSome && s.bmp.i3c.resp.isNone && bitN s.bmp.i3c.events 0) (fun s => s.emit (.ibi 0xA1)))
/-- The record layout of R454. -/
def State.recordBytes (s : State) (node b src cls event : Nat) (forced : Bool) (detail : Nat) : Bytes :=
  leBytes 8 s.now ++ leBytes 4 s.pkgEpoch ++ leBytes 1 node ++ leBytes 1 b ++ leBytes 1 src ++
    leBytes 1 cls ++ leBytes 1 event ++ leBytes 1 (bN forced) ++ leBytes 2 (s.gf F.FLT_RECOVERY_count (fltIdx node b)) ++
    zerosB 4 ++ leBytes 8 detail

def odKey (idx sub : Nat) : Nat := idx * 256 + sub
/-- Defaults of the scalar entries that are not 0 (R6, R232, R259, R283, R295, R338 and the chapters' tables). -/
def odInit (idx sub : Nat) : Nat :=
  match idx, sub with
  | 0x1000, 1 => 0x00020000
  | 0x1012, 1 => 0x23
  | 0x2001, _ => 1
  | 0x2010, 4 => 100
  | 0xA002, 1 => 64
  | 0xA002, 2 => 4
  | 0xA003, 1 => 0x3F800000
  | 0xA003, 2 => 0x3A800000
  | 0xA003, 3 => 0x3D800000
  | 0x8020, 1 => 16384
  | 0xA005, 1 => 100
  | 0x8030, 1 => 2
  | 0x7010, 1 => 0xB880
  | 0x7010, 2 => 3
  | 0x7010, 3 => 16000
  | 0x7010, 4 => 8
  | 0x7200, 2 => 0xFF
  | 0x7300, 1 => 128
  | 0x6010, 1 => 60
  | 0x4F00, 2 => 500
  | 0x4F00, 3 => 5000
  | 0x7400, 2 => 64
  | 0x7400, 4 => 0xB881
  | 0x7400, 5 => 1
  | 0x7400, 7 => 300
  | _, _ => 0
/-- A scalar entry as the units read it. -/
def State.odN (s : State) (idx sub : Nat) : Nat :=
  match s.od.vals.at? (odKey idx sub) with
  | some b => leVal b
  | none => odInit idx sub

/-- Quiet period of a block in ms, read as it starts: of a die in F3, else of F2 (R445). -/
def quietMs (s : State) (b : Nat) : Nat := s.odN 0x4F00 (if b = 0 then 3 else 2)

def State.setQuiet (s : State) (node b : Nat) (ms : Option Nat) : State :=
  let i := fltIdx node b
  let s := { s with flt := { s.flt with
    quiet := match ms with | some m => s.flt.quiet.put i m | none => s.flt.quiet.del i
    quietAt := match ms with | some _ => s.flt.quietAt.put i s.now | none => s.flt.quietAt.del i } }
  s.pf F.FLT_QUIET_LEFT_ms i (ms.getD 0)

/-- R438: an event of a source sets its bit, counts, and sends the MSI when the bit was clear and is not masked. Every event of a
block in state 1 restarts its quiet period (R445); one of a time replica sets TB_STATUS.replica_fault. -/
def State.fltReport (s : State) (node b src : Nat) : State :=
  let i := fltIdx node b
  let old := s.gf F.FLT_STATUS_src i
  let new := setBitsN old src src 1
  let s := ((s.pf F.FLT_STATUS_src i new).pf F.FLT_STATUS_class_max i (classMax node b new)).bump .FLT_COUNT i
  let cls := (fltClass node b src).getD 0
  let s := s.when (!bitN old src && cls < 2) (fun s => s.bmpEvent 1 (s.recordBytes node b src cls 0 false 0))
  let s := s.when (!bitN old src && !bitN (s.gf F.FLT_MASK_src_mask i) src) (fun s => s.fltMsi i)
  let s := s.when (node < 10 && b = replicaBlk node) (fun s => s.pf F.TB_STATUS_replica_fault 0 1)
  s.when (s.blkState node b = 1) (fun s => s.setQuiet node b (some (quietMs s b)))

/-- A change of a block's state, with its MSI when state_mask is 0 (R438). -/
def State.fltState (s : State) (node b st : Nat) : State :=
  let i := fltIdx node b
  if s.gf F.FLT_STATUS_state i = st then s
  else (s.pf F.FLT_STATUS_state i st).when (!s.gb F.FLT_MASK_state_mask i) (fun s => s.fltMsi i)

/-- A 32-byte fault record for the RoT, which keeps the latest 64 (R454). -/
def State.fltRecord (s : State) (node b src cls event : Nat) (forced : Bool) (detail : Nat) : State :=
  let r := s.recordBytes node b src cls event forced detail
  ({ s with flt := { s.flt with records := (r :: s.flt.records).take 64 } } : State).bmpEvent 0 r

/-- Raises an F0 or F1 source: reported only. -/
def State.notice (s : State) (node b src : Nat) : State := s.fltReport node b src

/-! ### The physical map (R50, R51, R53, R56, R57) -/

inductive Region where
  | hbm | ddr | cxl | pod | tstore | mmio | bar | hole
  deriving DecidableEq, Repr

def cxlCovers (ws : List (Nat × Nat × Nat)) (pa : Nat) : Bool :=
  ws.any (fun w => w.1 ≤ pa && pa < w.1 + w.2.1)

/-- The tile store: 32 banks of 64 KiB (R136). -/
def tstoreBanks : Nat := 32
def tstoreBankBytes : Nat := 0x10000
abbrev tstoreBytes : Nat := tstoreBanks * tstoreBankBytes
/-- Bank and row of the 64-byte access that holds tile-local offset x (R136). -/
def tstoreBank (x : Nat) : Nat := bitsN x 6 5
def tstoreRow (x : Nat) : Nat := bitsN x 11 10

/-- The range of R50 and R51 an address falls in; windows of disabled tiles are no holes (R51). `apert` says whether an
address of the BAR range is inside an ECAM area or a programmed bridge window (R51, R389). -/
def regionOf (ddrTop : Nat) (cxl : List (Nat × Nat × Nat)) (apert : Bool) (pa : Nat) : Region :=
  if pa < 0x014000000000 then .hbm
  else if pa < 0x020000000000 then .hole
  else if pa < 0x0A0000000000 then (if pa < ddrTop then .ddr else .hole)
  else if pa < 0x0C0000000000 then (if cxlCovers cxl pa then .cxl else .hole)
  else if pa < 0x0C0200000000 then .pod
  else if pa < 0x0E0000000000 then .hole
  else if pa < 0x0E0100000000 then (if (pa - 0x0E0000000000) % 0x20000000 / tstoreBytes < 144 then .tstore else .hole)
  else if pa < 0x0F0000000000 then .hole
  else if pa < 0x0F0008000000 then .mmio
  else if pa < 0x0F0010000000 then .hole
  else if pa < 0x0F0012000000 then .mmio
  else if pa < 0x0F0080000000 then .hole
  else if pa < 0x0F0081000000 then .mmio
  else if pa < 0x100000000000 then .hole
  else if pa < 2 ^ 52 then (if apert then .bar else .hole)
  else .hole

/-- The ECAM areas (R389). -/
def inEcam (pa : Nat) : Bool := 0x100000000000 ≤ pa && pa < 0x100020000000
/-- Configuration space of the root port function of link k = 4r + l: bus 0 of its segment (R389). Root port functions
have PCIe type 1 headers (log entry 17). -/
def ecamOf (k : Nat) : Nat := 0x100000000000 + k / 16 * 0x10000000 + k % 16 * 0x8000
/-- The BAR aperture of root port r (R389). -/
def apertOf (r : Nat) : Nat := 0x200000000000 + r * 0x100000000000
/-- The bridge window of link k: base and size, from its prefetchable base and limit while its memory space is enabled. -/
def State.barWin (s : State) (k : Nat) : Option (Nat × Nat) :=
  let f (o n : Nat) : Nat := leVal (s.mem.getBytes (ecamOf k + o) n)
  let base := f 0x24 2 / 16 * 2 ^ 20 + f 0x28 4 * 2 ^ 32
  let top := f 0x26 2 / 16 * 2 ^ 20 + f 0x2C 4 * 2 ^ 32 + 2 ^ 20
  let a := apertOf (k / 4)
  if bitN (f 4 2) 1 && a ≤ base && base < top && top ≤ a + 0x100000000000 then some (base, top - base) else none
/-- The link whose bridge window an address lies in. -/
def State.barLink (s : State) (pa : Nat) : Option Nat :=
  if pa < 0x200000000000 || pa ≥ 0xA00000000000 then none
  else ((List.range 4).map (fun l => (pa - 0x200000000000) / 0x100000000000 * 4 + l)).find? (fun k =>
    match s.barWin k with
    | some w => w.1 ≤ pa && pa < w.1 + w.2
    | none => false)
/-- An address of the BAR range that is no hole (R51, R389). -/
def State.apert (s : State) (pa : Nat) : Bool := inEcam pa || (s.barLink pa).isSome
def State.region (s : State) (pa : Nat) : Region := regionOf (s.gf F.DDR_TOP_top) s.cxlWins (s.apert pa) pa

def podBase (n : Nat) : Nat := 0x0C0000000000 + n * 0x40000000
def tstoreBase (t : Nat) : Nat := 0x0E0000000000 + tileDie t * 0x20000000 + tileNo t * tstoreBytes

/-- Stack and offset of an HBM4 address (R53). -/
def hbmStack (mode pa : Nat) : Nat :=
  if mode = 1 then 2 * (pa / (160 * 2 ^ 30)) + pa / 2 ^ 12 % 2
  else if mode = 2 then pa / (80 * 2 ^ 30)
  else bitsN pa 15 12
def hbmOffset (mode pa : Nat) : Nat :=
  if mode = 1 then pa % (160 * 2 ^ 30) / 2 ^ 13 * 2 ^ 12 + pa % 2 ^ 12
  else if mode = 2 then pa % (80 * 2 ^ 30)
  else bitsN pa 40 16 * 2 ^ 12 + pa % 2 ^ 12

/-- DDR5 channel of an address (R56): mode 0 rotates 4 KiB pages over every populated channel, mode 1 first over the
channels of H0 for their capacity and then over those of H1. -/
def ddrChannel (mode : Nat) (chans : List (Nat × Nat)) (pa : Nat) : Nat :=
  let pg := (pa - 0x020000000000) / 4096
  let all := chans.map (·.1)
  if mode = 1 then
    let h0 := all.filter (· < 8)
    let h1 := all.filter (8 ≤ ·)
    let cap0 := ((chans.filter (fun c => c.1 < 8)).map (·.2)).sum / 4096
    if pg < cap0 then h0.getD (pg % max h0.length 1) 0 else h1.getD ((pg - cap0) % max h1.length 1) 8
  else all.getD (pg % max all.length 1) 0

/-- Home of a line as a Chainring node (R85); none where nothing is cacheable. -/
def State.homeOf (s : State) (pa : Nat) : Option Nat :=
  match regionOf (s.gf F.DDR_TOP_top) s.cxlWins false pa with
  | .hbm => some (stackDie (hbmStack s.hbmMode pa))
  | .ddr => some (8 + ddrChannel s.ddrMode s.ddrChans pa / 8)
  | .cxl => (s.cxlWins.find? (fun w => w.1 ≤ pa && pa < w.1 + w.2.1)).map (fun w => 8 + w.2.2 / 16)
  | _ => none

/-- Slice of a line at its home (R85), and its directory set (R97). -/
def sliceOf (pa : Nat) : Nat := Nat.xor (Nat.xor (bitsN pa 9 6) (bitsN pa 13 10)) (bitsN pa 17 14)
def setOf (pa : Nat) : Nat := Nat.xor (bitsN pa 30 18) (bitsN pa 43 31)
/-- Copy number of the home-agent registers of a node. -/
def haIdx (node : Nat) : Nat := node

/-- A hole access is recorded and raises the memory map's F0 notice (R52, R441). -/
def State.hole (s : State) (pa node : Nat) : State :=
  (((s.pf F.HOLE_ADDR_addr 0 pa).pf F.HOLE_ADDR_agent_die 0 node).bump .HOLE_COUNT 0).notice 10 2 0

/-! ### Raw memory and keys (R69) -/

/-- The identity of the key of (part_id, key_gen). -/
def State.keyOf (s : State) (part gen : Nat) : Nat := s.keyIds.atD (part * 4 + gen) 0
def lineOf (pa : Nat) : Nat := pa / 64

/-- Whether an address is encrypted at rest: HBM4, DDR5 and CXL.mem are, windows are not (R58, R69). -/
def encrypted (pa : Nat) : Bool := pa < 0x0C0000000000

/-- The memory copy of a byte, read with a key: the stored byte under the key that wrote its line, and otherwise what
decryption with the wrong key gives (R68, R69). A line nothing has written reads as unlisted under every key. -/
def State.memByte (s : State) (key pa : Nat) : Byte :=
  let b := Mem.get pa s.mem
  if encrypted pa then
    match s.lineKey.at? (lineOf pa) with
    | none => b
    | some k => if k = key then b else Config.garble k key pa b
  else b

def State.memBytes (s : State) (key pa : Nat) : Nat → Bytes
  | 0 => []
  | n + 1 => s.memByte key pa :: State.memBytes s key (pa + 1) n

/-- The link of the CXL.mem expander that holds an address, and whether it is down (R397). -/
def State.cxlLink (s : State) (pa : Nat) : Option Nat :=
  (s.cxlWins.find? (fun w => w.1 ≤ pa && pa < w.1 + w.2.1)).map (·.2.2)
def State.cxlDown (s : State) (pa : Nat) : Option Nat := (s.cxlLink pa).filter (fun k => !s.gb F.PCIE_LINK_up k)

/-- Writes one line whole with a key. A line of an expander whose link is down is discarded and counted (R397). -/
def State.memLine (s : State) (key line : Nat) (data : Bytes) : State :=
  match s.cxlDown (line * 64) with
  | some k => s.bump .PCIE_LOST k
  | none => { s with
    mem := s.mem.putBytes (line * 64) (sliceB data 0 64)
    lineKey := if encrypted (line * 64) then s.lineKey.put line key else s.lineKey
    badLines := s.badLines.filter (· != line) }

/-- Writes bytes into memory with a key, line by line; the rest of a line that another key wrote is re-encrypted as it
reads with this key (R68, R69). -/
def State.memWriteN : Nat → State → Nat → Nat → Bytes → State
  | 0, s, _, _, _ => s
  | fuel + 1, s, key, pa, bs =>
    if bs = [] then s else
    let o := pa % 64
    let n := min (64 - o) bs.length
    let s :=
      if encrypted pa then s.memLine key (lineOf pa) (setSliceB (s.memBytes key (lineOf pa * 64) 64) o (bs.take n))
      else { s with mem := s.mem.putBytes pa (bs.take n) }
    State.memWriteN fuel s key (pa + n) (bs.drop n)
def State.memWrite (s : State) (key pa : Nat) (bs : Bytes) : State := State.memWriteN (bs.length + 1) s key pa bs

/-! ### Step domains (R38) -/

/-- The step domain of C-die n: the one whose c_die_mask names it, otherwise 0 (the dies of no partition). -/
def State.domainOf (s : State) (n : Nat) : Nat :=
  ((List.range 16).find? (fun d => d ≠ 0 && bitN (s.gf F.STEP_CTRL_c_die_mask d) n)).getD 0
/-- The C-dies of a domain, in ascending order. -/
def State.domainDies (s : State) (d : Nat) : List Nat := (List.range 8).filter (fun n => s.domainOf n == d)
/-- The C-dies of a domain in service (R42). -/
def State.domainIn (s : State) (d : Nat) : List Nat := (s.domainDies d).filter (fun n => s.dieIn n)
/-- The lead die (R38, R42). -/
def State.leadDie (s : State) (d : Nat) : Option Nat := (s.domainIn d).head?
/-- Gear in force in a domain. -/
def State.domGear (s : State) (d : Nat) : Nat := s.gearOf ((s.domainDies d).headD 0)
def State.dom (s : State) (d : Nat) : DomSt := s.doms.atD d {}
def State.setDom (s : State) (d : Nat) (f : DomSt → DomSt) : State := { s with doms := s.doms.put d (f (s.dom d)) }

/-! ### Tiles -/

def State.tile (s : State) (t : Nat) : Tile := s.tiles.atD t {}
def State.setTile (s : State) (t : Nat) (f : Tile → Tile) : State := { s with tiles := s.tiles.put t (f (s.tile t)) }
/-- The tile's fault block on its die (R441). -/
def tileBlk (t : Nat) : Nat := 16 + tileNo t
/-- TILE_STATUS.state values. -/
def State.tileState (s : State) (t : Nat) : Nat := s.gf F.TILE_STATUS_state t
/-- A tile that is enabled and in service, awake or not. -/
def State.tileIn (s : State) (t : Nat) : Bool := s.enabled t && s.blkIn (tileDie t) (tileBlk t)
/-- The tile whose window an address lies in. -/
def windowTile (pa : Nat) : Nat :=
  (pa - 0x0E0000000000) / 0x20000000 * 144 + (pa - 0x0E0000000000) % 0x20000000 / tstoreBytes
/-- A tile-store window answers: the tile is enabled and not isolated (R9, R145). -/
def State.windowUp (s : State) (pa : Nat) : Bool := s.tileIn (windowTile pa)

/-- An access to the window or MMIO of a tile that is disabled, or to the window of an isolated one: it is counted and
noticed (R9, R145). -/
def State.absentAcc (s : State) (t : Nat) : State :=
  ({ s with absent := s.absent.put (tileDie t) (min (s.absent.atD (tileDie t) 0 + 1) (2 ^ 32 - 1)) } : State).notice (tileDie t) 0 3
/-- A reserved encoding was applied as its default (R18, R153). -/
def State.tileRes (s : State) (t : Nat) (c : Bool) : State := s.when c (fun s => s.pf F.TILE_STATUS_reserved_encoding t 1)

/-! ### Units and the service epoch (R46 to R49) -/

/-- Fault block of NME st on its die (R441). -/
def nmeBlk (st : Nat) : Nat := 8 + st % 2
def State.nmeU (s : State) (st : Nat) : Nme := s.nme.units.atD st {}
def instsOf (s : State) (n : Nat) : List (Nat × Inst) := (s.drl.insts.rows.filter (fun r => r.1 / 65536 = n)).map (fun r => (r.1 % 65536, r.2))
/-- A transaction that arrives wakes a sleeping island (R29). -/
def State.wake (s : State) (u : UnitId) : State := { s with asleep := s.asleep.filter (· != u) }
def unitDie : UnitId → Nat | .tile t => tileDie t | .nme st => stackDie st | .drl n => n
/-- The unit is on the package: a fused-disabled tile is none. -/
def unitExists (s : State) : UnitId → Bool | .tile t => s.enabled t | .nme st => st < 16 | .drl n => n < 8
/-- In service, awake or asleep. -/
def unitIn (s : State) : UnitId → Bool
  | .tile t => s.tileIn t
  | .nme st => st < 16 && s.blkState (stackDie st) (nmeBlk st) = 0
  | .drl n => n < 8 && s.blkIn n 4
def unitAsleep (s : State) : UnitId → Bool
  | .tile t => s.tileState t = 3
  | u => s.asleep.contains u
/-- Running work that keeps changes out (R47): a lap, a sweep that has started (R311) and not ended, a collective. -/
def unitBusy (s : State) : UnitId → Bool
  | .tile t => (s.tile t).lap.isSome
  | .nme st => (s.nmeU st).sweep.any (fun x => x.phase ≠ 1 && !x.ended)
  | .drl n => instsOf s n ≠ []
def unitEpochFld : UnitId → Fld × Nat
  | .tile t => (F.TILE_UNIT_EPOCH_epoch, t)
  | .nme st => (F.NME_UNIT_EPOCH_epoch, st)
  | .drl n => (F.DRL_UNIT_EPOCH_epoch, n)
def State.unitEpoch (s : State) (u : UnitId) : Nat := s.gf (unitEpochFld u).1 (unitEpochFld u).2
def State.setUnitEpoch (s : State) (u : UnitId) (e : Nat) : State := s.pf (unitEpochFld u).1 (unitEpochFld u).2 e
/-- A transaction arrives at a unit, which wakes if it sleeps (R29). -/
def State.wakeUnit (s : State) (u : UnitId) : State :=
  match u with
  | .tile t => s.when (s.tileState t = 3) (fun s => s.pf F.TILE_STATUS_state t 1)
  | u => s.wake u
/-- Units of a die. -/
def dieUnits (n : Nat) : List UnitId := (allTiles n).map .tile ++ [.nme (2 * n), .nme (2 * n + 1), .drl n]
def allUnits : List UnitId := (List.range 8).flatMap dieUnits

/-- The units apply a change of the epoch live (R47): those that are in service, awake, idle and current record it; `skip` names those
that the change makes re-initialise (R141). -/
def State.recordLive (s : State) (old : Nat) (skip : UnitId → Bool) : State :=
  s.each allUnits fun u s =>
    if s.unitEpoch u = old && !skip u && unitExists s u && unitIn s u && !unitAsleep s u && !unitBusy s u then s.setUnitEpoch u s.pkgEpoch else s
/-- PKG_EPOCH advances by one, or stays at its maximum; overflow sets as the maximum is reached (R49). The units that apply the change
live record it (R47). -/
def State.epochUpBut (s : State) (skip : UnitId → Bool) : State :=
  let old := s.pkgEpoch
  let e := old + 1
  (if e ≥ 2 ^ 32 - 1 then (s.pf F.PKG_EPOCH_epoch 0 (2 ^ 32 - 1)).pf F.PKG_EPOCH_STATUS_overflow 0 1
   else s.pf F.PKG_EPOCH_epoch 0 e).recordLive old skip
def State.epochUp (s : State) : State := s.epochUpBut (fun _ => false)

/-! ### The dictionary and partitions as units read them -/

/-- Partition p is sealed and exists (R420). -/
def State.sealedPart (s : State) (p : Nat) : Bool := p ≠ 0 && s.sec.parts.has p
/-- The partition seed (R140): of a sealed partition, or of partition 0. -/
def State.seedOf (s : State) (p : Nat) : Word64 :=
  if p = 0 then BitVec.ofNat 64 (s.odN 0x6100 4) else (s.sec.parts.atD p {}).seed

/-- A key of (part_id, key_gen) is installed (R426, R428). -/
def State.keyLive (s : State) (p gen : Nat) : Bool := (p = 0 || s.sec.parts.has p) && (s.sec.parts.atD p {}).live.contains gen

/-! ### Roles (R20, R516) -/

/-- Roles a request carries: its own, and VENDOR while debug is unlocked. -/
def isTenant : Role → Bool | .tenant _ => true | _ => false
def State.debugOn (s : State) : Bool := s.gb F.ROT_STATUS_debug_unlocked
/-- A request of this role reaches MMIO registers that no rule reserves: software on the cores and the RoT do, and VENDOR, which
every request carries while debug is unlocked (R516); else OPERATOR and TENANT come through the doors of the dictionary (R20, R440). -/
def State.mmioRole (s : State) (r : Role) : Bool :=
  match r with
  | .host => true
  | .rot => true
  | _ => s.debugOn
/-- The role carries the grants that the registers keep for the RoT, none of which lists VENDOR. -/
def privRole (r : Role) : Bool := r = .rot

end Sys2Proof.Machine
end

