-- ==== Sys2Proof/Machine/Flt.lean ====
section
/-! DEFINITION. The state machine of a fault block (R438, R442 to R448, R454): events, isolation, recovery counts. What an
isolation does to the block's work is in Isolate.lean; commands that may raise F2 or F3 sources end with State.settle. -/

namespace Sys2Proof.Machine

/-- Blocks whose isolation and recovery are service actions (R46, R443): tiles, NMEs, Derailleurs and dies. -/
def serviceBlk (node b : Nat) : Bool :=
  if node < 8 then b = 0 || b = 4 || b = 8 || b = 9 || (16 ≤ b && b < 160)
  else node < 10 && b = 0
/-- Blocks that accept FLT_CMD (R448). -/
def cmdBlk (node b : Nat) : Bool :=
  if node < 8 then b = 0 || b = 1 || b = 3 || b = 4 || b = 5 || b = 8 || b = 9 || (12 ≤ b && b ≤ 14) || (16 ≤ b && b < 160)
  else node < 10 && b = 0
/-- F2 and F3 sources that isolate less than their class would (R442): the digest of an NME, the persistent drift of a
replica, and the security block's sources. -/
def partialSrc (node b src : Nat) : Bool :=
  (node < 8 && (b = 8 || b = 9) && src = 3) || (node < 8 && b = 7) || ((node = 8 || node = 9) && b = 3) || (node = 10 && b = 0)

/-- The next recovery may be automatic (R446). -/
def autoOk (s : State) (node b : Nat) : Bool :=
  let i := fltIdx node b
  s.gb F.FLT_RECOVERY_auto i && s.gf F.FLT_RECOVERY_recent i < 8 && s.gf F.FLT_RECOVERY_count i < 65535 &&
  !(serviceBlk node b && s.epochFull)

/-- The block leaves service for state st; its work ends by the settling of this command. -/
def State.leaveFor (s : State) (node b src st : Nat) : State :=
  let s := (s.fltState node b st)
  { s with flt := { s.flt with due := s.flt.due ++ [(node, b, src)], cause := s.flt.cause.put (fltIdx node b) src } }
/-- It does so as a service action of its own (R443). -/
def State.leaveService (s : State) (node b src st : Nat) : State :=
  (s.leaveFor node b src st).when (serviceBlk node b) (fun s => s.epochUp)

/-- Block b of node has a fault register set (R437, R441). -/
def blkThere (node b : Nat) : Bool := fltClasses node b ≠ []
/-- Every fault register set. -/
def fltSets : List (Nat × Nat) := (List.range 11).flatMap (fun node => ((List.range 160).filter (blkThere node)).map (fun b => (node, b)))
/-- Copies of counts with overflow and escalation, of the blocks held in state 2, and of the ring (R455). -/
def faultCopies (s : State) : Tab Nat × List Nat × List Bytes :=
  let idx := fltSets.map (fun p => fltIdx p.1 p.2)
  (⟨(idx.map (fun i => (i, s.gf F.FLT_RECOVERY_count i + 2 ^ 16 * s.gf F.FLT_RECOVERY_overflow i + 2 ^ 17 * s.gf F.FLT_STATUS_escalated i))).filter (fun p => p.2 ≠ 0)⟩,
    idx.filter (fun i => s.gf F.FLT_STATUS_state i = 2), s.flt.records)
/-- They go to the NV store: at an escalation, and when the RoT saves them (R455). -/
def State.nvFaults (s : State) : State :=
  let c := faultCopies s
  { s with flt := { s.flt with nvRec := c.1, nvHeld := c.2.1, nvRing := c.2.2 } }

def State.hold (s : State) (node b : Nat) : State :=
  ((s.pf F.FLT_STATUS_escalated (fltIdx node b) 1).pf F.FLT_RECOVERY_auto (fltIdx node b) 0)

/-- An event of source src of block b of node k, with its full class behaviour. -/
def State.raise (s : State) (node b src : Nat) (forced : Bool) (detail : Nat) : State :=
  match fltClass node b src with
  | none => s
  | some cls =>
    let s := s.fltReport node b src
    if cls < 2 then s
    else
      let s := s.fltRecord node b src cls 0 forced detail
      if partialSrc node b src then s
      else
        let tb := if cls = 3 then 0 else b
        let st := s.blkState node tb
        if st = 0 then
          if cls = 3 && s.flt.compat then
            ((s.leaveService node tb src 3).fltRecord node tb src cls 1 forced detail).fltRecord node tb src cls 6 forced detail
          else if !autoOk s node tb then
            ((((s.leaveService node tb src 2).hold node tb).fltRecord node tb src cls 1 forced detail).fltRecord node tb src cls 4 forced detail).nvFaults
          else
            ((s.leaveService node tb src 1).setQuiet node tb (some (quietMs s tb))).fltRecord node tb src cls 1 forced detail
        else s

/-- Counts a recovery (R445): count, recent and the time of it. -/
def State.countRecovery (s : State) (node b : Nat) (recent : Nat) : State :=
  let i := fltIdx node b
  let c := min 65535 (s.gf F.FLT_RECOVERY_count i + 1)
  let s := ((s.pf F.FLT_RECOVERY_count i c).pf F.FLT_RECOVERY_recent i (min 9 recent)).pf F.FLT_RECOVERY_failed_tests i 0
  (s.when (c = 65535) (fun s => s.pf F.FLT_RECOVERY_overflow i 1)).wr .FLT_LAST_TIME i s.now

end Sys2Proof.Machine
end

