-- ==== Sys2Proof/Machine/GroupOps.lean ====
section
/-! DEFINITION. Operations on one thread group (R148, R149, R155 to R157): registers, predicates, the leader, and moving
the program counter through the reconvergence stack. -/

namespace Sys2Proof.Machine

def allMask : Nat := 2 ^ 32 - 1
def maskAnd (a b : Nat) : Nat := Nat.land a b
def maskOr (a b : Nat) : Nat := Nat.lor a b
/-- a without the bits of b. -/
def maskSub (a b : Nat) : Nat := a - Nat.land a b
def threadsOf (m : Nat) : List Nat := (List.range 32).filter (fun t => bitN m t)

/-- A general register. Register numbers wrap at 64, so the register after v63 is v0 where an instruction names va + 1, vb + 1 or vd + 1:
the spec does not say (DESIGN CHOICE, log entry 135). -/
def Group.reg (g : Group) (th r : Nat) : Nat := (g.v.atD (th * 64 + r % 64) 0).toNat
def Group.setReg (g : Group) (th r v : Nat) : Group :=
  { g with v := g.v.put (th * 64 + r % 64) (BitVec.ofNat 32 v) }
/-- The 64-bit value of an even register and the one above it (R148). -/
def Group.reg64 (g : Group) (th r : Nat) : Nat := g.reg th (r / 2 * 2) + 2 ^ 32 * g.reg th (r / 2 * 2 + 1)
def Group.setReg64 (g : Group) (th r v : Nat) : Group :=
  (g.setReg th (r / 2 * 2) v).setReg th (r / 2 * 2 + 1) (v / 2 ^ 32)
/-- Threads whose predicate register is 1; p0 always reads 1 (R148). -/
def Group.predMask (g : Group) (p : Nat) : Nat := if p % 8 = 0 then allMask else g.p.atD (p % 8) 0
/-- Writes a predicate of one thread; writes to p0 are ignored (R148). -/
def Group.setPred (g : Group) (th p : Nat) (b : Bool) : Group :=
  if p % 8 = 0 then g else { g with p := g.p.put (p % 8) (setBitsN (g.predMask p) th th (bN b)) }
/-- The active threads whose (possibly inverted) predicate is true (R149, R150, R155). -/
def Group.execMask (g : Group) (pred : Nat) (pneg : Bool) : Nat :=
  maskAnd g.active (if pneg then maskSub allMask (g.predMask pred) else g.predMask pred)
/-- The leader: the lowest-numbered thread of a mask (R149). -/
def leaderOf (m : Nat) : Option Nat := (threadsOf m).head?

/-- Runs the next path of the top stack entry while the running one has stopped, and pops entries whose paths are all
done (R156): continues at the reconvergence address with the entry's mask less the exited threads. -/
def Group.settle : Nat → Group → Group
  | 0, g => g
  | fuel + 1, g =>
    match g.stack with
    | [] => if g.active = 0 then { g with wait := .ended } else g
    | e :: rest =>
      if g.active ≠ 0 && some g.pc ≠ e.rpc then g
      else
        match e.paths with
        | p :: ps =>
          let live := maskSub p.mask g.exited
          Group.settle fuel { g with pc := p.pc, active := live, stack := { e with paths := ps } :: rest }
        | [] =>
          match e.rpc with
          | some r => Group.settle fuel { g with pc := r, active := maskSub e.mask g.exited, stack := rest }
          | none => Group.settle fuel { g with active := 0, stack := rest }

/-- Fuel that empties any stack: each round drops a path or an entry. -/
def Group.fuel (g : Group) : Nat := 2 + g.stack.length + ((g.stack.map (fun e => e.paths.length)).sum)

/-- Moves the group to an address and lets reconvergence take effect. -/
def Group.jump (g : Group) (pc : Nat) : Group := let g := { g with pc := pc % 2 ^ 64 }; g.settle g.fuel
/-- The next instruction word. -/
def Group.next (g : Group) : Group := g.jump (g.pc + 8)

def State.group (s : State) (t g : Nat) : Group := (s.tile t).groups.atD g {}
def State.setGroup (s : State) (t g : Nat) (f : Group → Group) : State :=
  s.setTile t (fun tl => { tl with groups := tl.groups.put g (f (tl.groups.atD g {})) })
/-- Sets sticky flags of a group (R183). -/
def State.grpFlags (s : State) (t g fl : Nat) : State :=
  if fl = 0 then s else s.setGroup t g (fun x => { x with flags := flOr' x.flags fl })
where flOr' (a b : Nat) : Nat := Nat.lor a b

/-- WWAIT returns (R173): vd of the waiting threads receives the mask of watches woken since the previous return. -/
def Group.wwaitReturn (g : Group) (v : Nat) : Group :=
  match g.wait with
  | .watch vd _ mask =>
    let g := (threadsOf mask).foldl (fun g th => g.setReg th vd v) g
    { g with wait := .ready, woken := 0 }.next
  | _ => g

/-- A tile's watch wakes (R110, R173): every group notes it, and the groups asleep in WWAIT return. -/
def Tile.wake (tl : Tile) (i : Nat) : Tile :=
  { tl with
    watches := tl.watches.mapVals (fun k w => if k = i then { w with armed := false } else w)
    groups := tl.groups.mapVals (fun _ g =>
      let g := { g with woken := maskOr g.woken (2 ^ i) }
      g.wwaitReturn g.woken) }

end Sys2Proof.Machine
end

