-- ==== Sys2Proof/Machine/Coh.lean ====
section
/-! DEFINITION. Coherent memory as the units use it (R71, R83, R86, R91): the coherent value of a line, coherent reads
and writes performed in one piece, watch wakes (R110), the directory and the presence map, and the error registers of
the memory controllers (R449, R450). The message protocol between agents and homes is in Coherence.lean. -/

namespace Sys2Proof.Machine

/-! ### Agents (R83) -/

def agentNone : Nat := 2047
def agentH (m : Nat) : Nat := 1152 + m
def agentSeq (n : Nat) : Nat := 1160 + n
def agentDrl (n : Nat) : Nat := 1168 + n
def agentNme (st : Nat) : Nat := 1176 + st
def agentIsTile (a : Nat) : Bool := a < 1152
def agentIsH (a : Nat) : Bool := a == 1152 || a == 1153
def agentIsSeq (a : Nat) : Bool := 1160 ≤ a && a < 1168
def agentCaches (a : Nat) : Bool := agentIsTile a || agentIsH a || agentIsSeq a
/-- Chainring node an agent sits on. -/
def agentNode (a : Nat) : Nat :=
  if a < 1152 then a / 144 else if a < 1160 then 8 + (a - 1152) else if a < 1168 then a - 1160
  else if a < 1176 then a - 1168 else if a < 1192 then (a - 1176) / 2 else 10

def copyKey (agent line : Nat) : Nat := agent * 2 ^ 46 + line
def State.copy? (s : State) (a line : Nat) : Option Copy := s.coh.copies.at? (copyKey a line)
def State.onCoh (s : State) (f : CohSt → CohSt) : State := { s with coh := f s.coh }
def State.setCopy (s : State) (a line : Nat) (c : Copy) : State :=
  s.onCoh fun h => { h with copies := h.copies.put (copyKey a line) c }
def State.dropCopy (s : State) (a line : Nat) : State :=
  s.onCoh fun h => { h with copies := h.copies.del (copyKey a line) }
def State.wbBuf? (s : State) (a line : Nat) : Option Copy := s.coh.wbBuf.at? (copyKey a line)
def State.dirEnt? (s : State) (line : Nat) : Option DirEnt := s.coh.dir.at? line
def State.txn? (s : State) (line : Nat) : Option Txn := s.coh.txns.at? line
/-- An open transaction pins the line (R102). -/
def State.pinned (s : State) (line : Nat) : Bool := s.coh.txns.has line

def dirtyMoesi : Moesi → Bool | .M => true | .O => true | _ => false
def isLine (line k : Nat) : Bool := k % 2 ^ 46 == line

def garbleLine (kw kr line : Nat) (b : Bytes) : Bytes :=
  if kw = kr then b else b.zipIdx.map (fun p => Config.garble kw kr (line * 64 + p.2) p.1)
/-- Line data whose tags name key kw as an access under kr gets it (R68, R69). -/
def asKey (line kr : Nat) (d : Bytes × Nat) : Bytes := if encrypted (line * 64) then garbleLine d.2 kr line d.1 else d.1

/-- The newest dirty data of a line outside memory, with the key of its own tags (R69): a holder in M or O, data in flight that gives M,
a write-back buffer, or owner data at the home (R71, R92, R94). -/
def State.dirtyOf (s : State) (line : Nat) : Option (Bytes × Nat) :=
  match s.coh.copies.rows.find? (fun r => isLine line r.1 && dirtyMoesi r.2.st) with
  | some r => some (r.2.data, r.2.key)
  | none =>
    let net := s.coh.net.findSome? (fun m => match m with
      | .data _ l (some .M) b k => if l = line then some (b, k) else none
      | .snpData _ l b k => if l = line then some (b, k) else none
      | _ => none)
    match net with
    | some b => some b
    | none =>
      match s.coh.wbBuf.rows.find? (fun r => isLine line r.1) with
      | some r => some (r.2.data, r.2.key)
      | none => (s.txn? line).bind (fun t => t.memW.orElse (fun _ => t.dirty))

/-- Two lines that one home slice serves (R85). -/
def sameSlice (s : State) (a b : Nat) : Bool :=
  s.homeOf (a * 64) == s.homeOf (b * 64) && sliceOf (a * 64) == sliceOf (b * 64)
/-- Requests for a line that have arrived and wait their turn, in the order they will be accepted (R93). -/
def State.waiting (s : State) (line : Nat) : List Req := (s.coh.conflictQ ++ s.coh.waitQ).filter (·.line == line)
/-- The home accepts no request for the line now: a transaction of it is open, or others wait for it (R93). -/
def State.lineOpen (s : State) (line : Nat) : Bool := s.pinned line || !(s.waiting line).isEmpty

/-- Merges a write under its byte mask (R91). -/
def mergeMask : List Bool → Bytes → Bytes → Bytes
  | m :: ms, d :: ds, o :: os => (if m then d else o) :: mergeMask ms ds os
  | _, _, os => os

/-- The new value of an atomic on size bytes: aop of R172 (R104). -/
def atomicNew (aop size old opnd newVal : Nat) : Nat :=
  let w := 8 * size
  let s := sgnN w
  let v := match aop with
    | 0 => old + opnd
    | 1 => Nat.land old opnd
    | 2 => Nat.lor old opnd
    | 3 => Nat.xor old opnd
    | 4 => if s old ≤ s opnd then old else opnd
    | 5 => if s old ≤ s opnd then opnd else old
    | 6 => min (old % 2 ^ w) (opnd % 2 ^ w)
    | 7 => max (old % 2 ^ w) (opnd % 2 ^ w)
    | 8 => opnd
    | _ => if old % 2 ^ w = opnd % 2 ^ w then newVal else old
  v % 2 ^ w

/-- Line data after a request; none where it writes nothing. -/
def Req.written (r : Req) (old : Bytes) : Option Bytes :=
  match r.kind with
  | .wrFull d => some (sliceB d 0 64)
  | .wrPartial m d => some (mergeMask m (sliceB d 0 64) old)
  | .atomic off size aop opnd nv => some (setFieldB old off size (atomicNew aop size (fieldB old off size) opnd nv))
  | _ => none

/-- The coherent value of a line as memory and the caches hold it (R71). -/
def State.nowLine (s : State) (key line : Nat) : Bytes :=
  match s.dirtyOf line with
  | some d => asKey line key d
  | none => s.memBytes key (line * 64) 64
/-- The coherent value of a line, read with a key (R71). A read that arrives now comes after the writes that wait for the line (R93). -/
def State.cohLine (s : State) (key line : Nat) : Bytes :=
  let d := (s.waiting line).foldl (fun (cur : Option (Bytes × Nat)) r =>
    let old := match cur with | some d => asKey line r.key d | none => s.nowLine r.key line
    match r.written old with
    | some b => some (b, r.key)
    | none => cur) none
  match d with
  | some d => asKey line key d
  | none => s.nowLine key line

/-- The memory copy of a line reads uncorrectable: its cells do, or its expander's link is down (R397, R449). -/
def State.memBad (s : State) (line : Nat) : Bool := s.badLines.contains line || (s.cxlDown (line * 64)).isSome
/-- A coherent read of the line finds no good data: memory must supply it and reads it uncorrectable (R449). -/
def State.lineBad (s : State) (line : Nat) : Bool := (s.dirtyOf line).isNone && s.memBad line

def cohReadN : Nat → State → Nat → Nat → Nat → Bytes
  | 0, _, _, _, _ => []
  | fuel + 1, s, key, pa, n =>
    if n = 0 then [] else
    let k := min (64 - pa % 64) n
    sliceB (s.cohLine key (lineOf pa)) (pa % 64) k ++ cohReadN fuel s key (pa + k) (n - k)
/-- Bytes read on the coherent path (R71). -/
def State.cohRead (s : State) (key pa n : Nat) : Bytes := cohReadN (n + 1) s key pa n
def State.cohVal (s : State) (key pa n : Nat) : Nat := leVal (s.cohRead key pa n)
/-- Lines a range of n bytes touches. -/
def linesOf (pa n : Nat) : List Nat :=
  if n = 0 then [] else (List.range (lineOf (pa + n - 1) - lineOf pa + 1)).map (fun i => lineOf pa + i)
/-- The first word of a range of a Pod or tile-store window that reads uncorrectable, as its address (R138, R450). -/
def State.wordBad (s : State) (pa n : Nat) : Option Nat :=
  if n = 0 then none else ((s.badWords.filter (fun w => pa / 8 ≤ w && w ≤ (pa + n - 1) / 8)).foldl (fun b w => some (match b with | some v => min v w | none => w)) none).map (· * 8)
/-- The first address of a range that a coherent read finds uncorrectable: of its line in memory, of its word in a window. -/
def State.rangeBad (s : State) (pa n : Nat) : Option Nat :=
  if encrypted pa then ((linesOf pa n).find? (fun l => s.lineBad l)).map (· * 64) else s.wordBad pa n

/-! ### Memory-controller errors (R449, R450) -/

structure ErrRegs where
  addr : Fld
  valid : Fld
  write : Fld
  scrub : Fld
  ue : Reg
  ce : Reg

/-- Holds the first uncorrectable read of an HBM4 or DDR5 controller. Where the address lies in the DRAM the spec does
not map, so pseudo-channel, bank and row of a read are free (log entry 5); a patrol scrub names them. -/
def State.memErrAt (s : State) (pa : Nat) (write scrub : Bool) (place : Option (Nat × Nat × Nat)) : State :=
  let (pl, s) : (Nat × Nat × Nat) × State := match place with
    | some p => (p, s)
    | none =>
      let (a, s) := s.free
      ((a.toNat % 64, a.toNat / 64 % 32, a.toNat / 2048 % 2 ^ 18), s)
  match regionOf (s.gf F.DDR_TOP_top) s.cxlWins false pa with
  | .hbm =>
    let i := hbmStack s.hbmMode pa
    let s := s.bump .HBM_UE_COUNT i
    let s := s.when (!s.gb F.HBM_ERR_INFO_valid i) fun s =>
      (((((s.pf F.HBM_ERR_ADDR_pa i pa).pf F.HBM_ERR_INFO_valid i 1).pb F.HBM_ERR_INFO_write i write).pb
        F.HBM_ERR_INFO_scrub i scrub).pf F.HBM_ERR_INFO_pch i pl.1).pf F.HBM_ERR_INFO_bank i pl.2.1 |>.pf
        F.HBM_ERR_INFO_row i pl.2.2
    s.notice (stackDie i) (10 + i % 2) 1
  | .ddr =>
    let c := ddrChannel s.ddrMode s.ddrChans pa
    let s := s.bump .MC_UE_COUNT c
    let f (x : Fld) : Fld := { x with reg := .MC_ERR_INFO }
    let s := s.when (!s.gb (f F.HBM_ERR_INFO_valid) c) fun s =>
      (((((s.pf { F.HBM_ERR_ADDR_pa with reg := .MC_ERR_ADDR } c pa).pf (f F.HBM_ERR_INFO_valid) c 1).pb
        (f F.HBM_ERR_INFO_write) c write).pb (f F.HBM_ERR_INFO_scrub) c scrub).pf (f F.HBM_ERR_INFO_pch) c
        (pl.1 % 8)).pf (f F.HBM_ERR_INFO_bank) c pl.2.1 |>.pf (f F.HBM_ERR_INFO_row) c pl.2.2
    s.notice (8 + c / 8) (8 + c % 8) 1
  | _ => s
/-- An uncorrectable read met by a request (R449). -/
def State.memErr (s : State) (pa : Nat) : State := s.memErrAt pa false false none

/-- A Pod word found uncorrectable (R450): requester as its field gives. -/
def State.podErr (s : State) (pa : Nat) (write scrub window : Bool) (requester : Nat) : State :=
  let n := (pa - podBase 0) / 0x40000000
  let s := s.bump .POD_UE_COUNT n
  let s := s.when (!s.gb F.POD_ERR_INFO_valid n) fun s =>
    (((((s.pf F.POD_ERR_ADDR_offset n ((pa - podBase n) / 8 * 8)).pf F.POD_ERR_INFO_valid n 1).pb
      F.POD_ERR_INFO_write n write).pb F.POD_ERR_INFO_scrub n scrub).pb F.POD_ERR_INFO_window n window).pf
      F.POD_ERR_INFO_requester n requester
  s.notice n 0 5

/-! ### Watches (R109, R110) -/

/-- A caching agent loses a line it watched: a tile's groups learn of it, a sequencer complex owes the line a new WATCH. -/
def State.wakeAgent (s : State) (a line : Nat) : State :=
  if agentIsTile a then
    match (s.tile a).watches.rows.find? (fun w => w.2.armed && w.2.line == line) with
    | some w => s.setTile a (fun tl => tl.wake w.1)
    | none => s
  else if agentIsSeq a then
    let s := s.each (s.seq.streams.rows.filter (fun r => r.1 / 64 = a - agentSeq 0 && r.2.watch == some line))
      (fun r s => s.pf F.SEQ_STREAM_STATUS_armed r.1 0)
    if s.coh.rewatch.contains (a, line) then s else s.onCoh (fun h => { h with rewatch := h.rewatch ++ [(a, line)] })
  else s

/-! ### The presence map (R107, R108) -/

def presKey (stack region : Nat) : Nat := stack * 2 ^ 21 + region
/-- The region key of an HBM4 line, none elsewhere. -/
def State.presOf (s : State) (line : Nat) : Option Nat :=
  let pa := line * 64
  match regionOf (s.gf F.DDR_TOP_top) s.cxlWins false pa with
  | .hbm => some (presKey (hbmStack s.hbmMode pa) (hbmOffset s.hbmMode pa / 65536))
  | _ => none
/-- A directory entry is allocated: its region's count rises; true when it rises from zero. -/
def State.presUp (s : State) (line : Nat) : State × Bool :=
  match s.presOf line with
  | some k =>
    let c := s.coh.presCount.atD k 0
    (s.onCoh (fun h => { h with presCount := h.presCount.put k (c + 1) }), c == 0)
  | none => (s, false)
/-- A directory entry is freed: its region's count falls, and at zero the home clears the NME's bit (R108). -/
def State.presDown (s : State) (line : Nat) : State :=
  match s.presOf line with
  | some k =>
    let c := s.coh.presCount.atD k 0
    s.onCoh (fun h => if c ≤ 1 then { h with presCount := h.presCount.del k, presBits := h.presBits.filter (· != k) }
                      else { h with presCount := h.presCount.put k (c - 1) })
  | none => s
def State.presSet (s : State) (k : Nat) : State :=
  s.onCoh (fun h => if h.presBits.contains k then h else { h with presBits := k :: h.presBits })

def State.freeDir (s : State) (line : Nat) : State :=
  if s.coh.dir.has line then (s.onCoh (fun h => { h with dir := h.dir.del line })).presDown line else s
/-- Writes an entry of a line that has none, at once with its presence bit. -/
def State.newDir (s : State) (line : Nat) (e : DirEnt) : State × Bool :=
  let s := s.onCoh (fun h => { h with dir := h.dir.put line { e with seq := h.dirSeq }, dirSeq := h.dirSeq + 1 })
  s.presUp line
def State.setDir (s : State) (line : Nat) (e : DirEnt) : State :=
  s.onCoh (fun h => { h with dir := h.dir.put line e })

/-- Adds a sharer; a fifth switches the entry to the coarse format (R99). -/
def DirEnt.addSharer (e : DirEnt) (a : Nat) : DirEnt :=
  let l := if e.sharers.contains a then e.sharers else e.sharers ++ [a]
  { e with sharers := l, coarse := e.coarse || l.length > 4 }

/-! ### Accesses performed in one piece -/

/-- Every caching agent that has a copy of the line. -/
def State.holders (s : State) (line : Nat) : List Nat :=
  (s.coh.copies.rows.filter (fun r => isLine line r.1)).map (fun r => r.1 / 2 ^ 46)

/-- Invalidates every copy of a line but those of `keep`, waking their watchers (R110), and frees its entry. -/
def State.invalidateAll (s : State) (line : Nat) : State :=
  let hs := s.holders line
  let s := s.onCoh fun h => { h with
    copies := h.copies.keep (fun k _ => !isLine line k)
    wbBuf := h.wbBuf.keep (fun k _ => !isLine line k) }
  (s.freeDir line).each hs (fun a s => s.wakeAgent a line)

/-- A request takes a place in its slice's queue for open lines; while the queue is full its station holds it (R93). -/
def State.enqueue (s : State) (r : Req) : State :=
  if (s.coh.conflictQ.filter (fun q => sameSlice s q.line r.line)).length < 64 then s.onCoh fun h => { h with conflictQ := h.conflictQ ++ [r] }
  else s.onCoh fun h => { h with waitQ := h.waitQ ++ [{ r with held := true }] }

/-- A coherent write of part of one line (WR_FULL or WR_PARTIAL of R91). On an open line it waits its turn at the home (R93); otherwise
it is performed at once. A partial write to a line that reads uncorrectable is discarded and held with the write bit (R449). -/
def State.cohWriteLine (s : State) (key line off : Nat) (bs : Bytes) : State :=
  if s.lineOpen line then
    let d := setSliceB (zerosB 64) off bs
    let k : ReqKind := if 64 ≤ bs.length then .wrFull d else .wrPartial ((List.range 64).map (fun i => off ≤ i && i < off + bs.length)) d
    s.enqueue { kind := k, agent := agentNone, line := line, key := key, since := s.now }
  else if bs.length < 64 && s.lineBad line then s.memErrAt (line * 64) true false none
  else
    let data := setSliceB (s.cohLine key line) off bs
    (s.invalidateAll line).memLine key line data

def cohWriteN : Nat → State → Nat → Nat → Bytes → State
  | 0, s, _, _, _ => s
  | fuel + 1, s, key, pa, bs =>
    if bs = [] then s else
    let n := min (64 - pa % 64) bs.length
    cohWriteN fuel (s.cohWriteLine key (lineOf pa) (pa % 64) (bs.take n)) key (pa + n) (bs.drop n)
/-- A coherent write of bytes to HBM4, DDR5 or CXL.mem. -/
def State.cohWrite (s : State) (key pa : Nat) (bs : Bytes) : State := cohWriteN (bs.length + 1) s key pa bs

/-- Bytes of an SRAM window (R58). -/
def State.sramRead (s : State) (pa n : Nat) : Bytes := s.mem.getBytes pa n
/-- A window write; a word it covers whole gets fresh check bits (R450). -/
def State.sramPut (s : State) (pa : Nat) (bs : Bytes) : State :=
  { s with mem := s.mem.putBytes pa bs, badWords := s.badWords.filter (fun w => !(pa ≤ w * 8 && w * 8 + 8 ≤ pa + bs.length)) }

/-- A write that covers an uncorrectable word of a Pod or tile store in part is discarded there, and held with the write bit in a Pod
(R449, R450). -/
def State.sramWrite (s : State) (pa : Nat) (bs : Bytes) : State :=
  let bad := s.badWords.filter (fun w => w * 8 < pa + bs.length && pa < w * 8 + 8 && !(pa ≤ w * 8 && w * 8 + 8 ≤ pa + bs.length))
  if bad = [] then s.sramPut pa bs
  else
    let keep := bs.zipIdx.map (fun p => if bad.contains ((pa + p.2) / 8) then Mem.get (pa + p.2) s.mem else p.1)
    (s.sramPut pa keep).each bad (fun w s => if 0x0C0000000000 ≤ w * 8 && w * 8 < 0x0C0200000000 then s.podErr (w * 8) true false true 0x7FF else s)

/-- The memory's own copy written back for a line (R76, R115): the holder keeps it clean. -/
def State.cleanLine (s : State) (a line : Nat) (to' : Option Moesi) : State :=
  match s.copy? a line with
  | some c =>
    let s := if dirtyMoesi c.st then s.memLine c.key line c.data else s
    match to' with
    | some st => s.setCopy a line { c with st := st }
    | none => s.dropCopy a line
  | none => s

/-! ### Atomics (R104 to R106) -/

/-- A far atomic performed in one transaction at its home or NME (R105, R106): operand is the expected value for CAS. On an open line it
waits its turn at the home. -/
def State.atomicMem (s : State) (key pa size aop opnd newVal : Nat) : Nat × State :=
  if encrypted pa then
    let old := s.cohVal key pa size
    (old, if s.lineOpen (lineOf pa) then
        s.enqueue { kind := .atomic (pa % 64) size aop opnd newVal, agent := agentNone, line := lineOf pa, key := key, since := s.now }
      else s.cohWrite key pa (leBytes size (atomicNew aop size old opnd newVal)))
  else
    let old := leVal (s.sramRead pa size)
    (old, s.sramWrite pa (leBytes size (atomicNew aop size old opnd newVal)))

end Sys2Proof.Machine
end

