-- ==== Sys2Proof/Machine/IoRead.lean ====
section
/-! DEFINITION. Reads of the package MMIO (R9, R11, R13, R14, R145, R514): where registers, buffers and table windows lie, what a read
returns, and what an access does at the island it arrives at (R29). -/

namespace Sys2Proof.Machine

/-! ### Where registers lie (R14, R514) -/

/-- The copy and the byte within it that an offset d into a run of copies names. -/
def dimsFind : List (Nat × Nat × Nat) → Nat → Nat → Option (Nat × Nat)
  | [], i, d => some (i, d)
  | (cnt, dist, st) :: r, i, d => if d / dist < cnt then dimsFind r (i + d / dist * st) (d % dist) else none
def Loc.find (l : Loc) (bytes pa : Nat) : Option (Nat × Nat) :=
  if pa < l.base then none
  else (dimsFind l.dims l.start (pa - l.base)).filter (fun p => p.2 < bytes)
/-- The register, its copy and the byte of it that lie at an address. -/
def regAt (pa : Nat) : Option (Reg × Nat × Nat) :=
  Reg.all.findSome? (fun r => (r.locs.findSome? (fun l => l.find (r.width / 8) pa)).map (fun p => (r, p.1, p.2)))

/-- An access of R14: register, copy, its lowest bit and its bits. -/
structure RegAcc where
  reg : Reg
  idx : Nat
  lo : Nat
  n : Nat
  deriving DecidableEq, Repr

def regAcc (pa size : Nat) : Option RegAcc :=
  match regAt pa with
  | none => none
  | some (r, i, o) =>
    if o = 0 && size * 8 = r.width then some ⟨r, i, 0, r.width⟩
    else if r.width = 64 && size = 4 && (o = 0 || o = 4) then some ⟨r, i, 8 * o, 32⟩
    else none

def isFltReg (r : Reg) : Bool :=
  [Reg.FLT_STATUS, .FLT_MASK, .FLT_FORCE, .FLT_CMD, .FLT_COUNT, .FLT_CLASS, .FLT_MSI_ADDR, .FLT_MSI_DATA, .FLT_RECOVERY, .FLT_LAST_TIME, .FLT_QUIET_LEFT].elem r

/-- The tile whose registers lie at an address (R514). -/
def tileMmio (pa : Nat) : Option Nat :=
  if pa < 0x0F0000000000 || 0x0F0008000000 ≤ pa then none
  else
    let o := (pa - 0x0F0000000000) % 0x1000000
    if 0x400000 ≤ o && o < 0x400000 + 144 * 0x1000 then some ((pa - 0x0F0000000000) / 0x1000000 * 144 + (o - 0x400000) / 0x1000) else none
/-- The window of the address answers: those of the dies do while they run. -/
def State.winUp (s : State) (pa : Nat) : Bool := 0x0F0080000000 ≤ pa || s.pwr.up

/-! ### Buffers and windows without register names -/

def msiBase (m : Nat) : Nat := 0x0F0010000000 + m * 0x01000000
/-- H-die, file and offset of an address in an interrupt file's page: files 0 to 63 are machine level, then hart c's
supervisor file (g = 0) and guest files at 64 + 8c + g. -/
def msiFile (pa : Nat) : Option (Nat × Nat × Nat) :=
  if pa < msiBase 0 || msiBase 2 ≤ pa then none
  else
    let m := (pa - msiBase 0) / 0x01000000
    let o := (pa - msiBase 0) % 0x01000000
    if 0x400000 ≤ o && o < 0x440000 then some (m, (o - 0x400000) / 0x1000, o % 0x1000)
    else if 0x800000 ≤ o && o < 0xA00000 then some (m, 64 + (o - 0x800000) / 0x1000, o % 0x1000)
    else none
def mboxBuf (i : Nat) : Nat := 0x0F0080050000 + i * 0x8000
/-- A request or response buffer: mailbox or channel, whether it is the request's, and the offset in it (R413, R478). -/
inductive BufAt where
  | mbox (i : Nat) (req : Bool) | odc (c : Nat) (req : Bool)
  deriving DecidableEq, Repr
def odcBuf (c : Nat) : Nat := 0x0F0080210000 + c * 0x6000
def bufAt (pa : Nat) : Option BufAt :=
  if mboxBuf 0 ≤ pa && pa < mboxBuf 17 then
    let i := (pa - mboxBuf 0) / 0x8000
    let o := (pa - mboxBuf 0) % 0x8000
    if 0x1000 ≤ o && o < 0x2000 then some (.mbox i true) else if 0x4000 ≤ o then some (.mbox i false) else none
  else if odcBuf 0 ≤ pa && pa < odcBuf 23 then
    let c := (pa - odcBuf 0) / 0x6000
    let o := (pa - odcBuf 0) % 0x6000
    if 0x1000 ≤ o && o < 0x2000 then some (.odc c true) else if 0x2000 ≤ o then some (.odc c false) else none
  else none
/-- Route entry or slot of a Derailleur's window (R364): die, slot window, number, byte. -/
def routeAt (pa : Nat) : Option (Nat × Bool × Nat × Nat) :=
  if pa < 0x0F0000000000 || 0x0F0008000000 ≤ pa then none
  else
    let n := (pa - 0x0F0000000000) / 0x1000000
    let o := (pa - 0x0F0000000000) % 0x1000000
    if 0x120000 ≤ o && o < 0x1A0000 then some (n, false, (o - 0x120000) / 32, (o - 0x120000) % 32)
    else if 0x1A0000 ≤ o && o < 0x1A1000 then some (n, true, (o - 0x1A0000) / 64, (o - 0x1A0000) % 64)
    else none
/-- A VNF's word: VNF and word (R332). -/
def vnfAt (pa : Nat) : Option (Nat × Nat) :=
  if pa < msiBase 0 || msiBase 2 ≤ pa then none
  else
    let o := (pa - msiBase 0) % 0x1000000
    if 0x20000 ≤ o && o < 0x22000 then some ((pa - msiBase 0) / 0x1000000 * 128 + (o - 0x20000) / 64, (o - 0x20000) % 64 / 8) else none

/-! ### Reads -/

def routeKey (n bank i : Nat) : Nat := (2 * n + bank) * 32768 + i
def shadowBank (s : State) (n : Nat) : Nat := 1 - s.gf F.DRL_RT_CTRL_active n
def unitStale (s : State) (u : UnitId) : Bool := s.unitEpoch u < s.pkgEpoch || s.redo.contains u

/-- The field f of a register holds v for this read. -/
def showF (w : Nat) (f : Fld) (v : Nat) : Nat := setBitsN w f.hi f.lo v
/-- Tiles that the sequencer's map names: enabled and not isolated. -/
def tileMapBits (s : State) (n lo k : Nat) : Nat :=
  ((List.range k).map (fun j => if s.enabled (144 * n + lo + j) && s.blkState n (16 + lo + j) = 0 then 2 ^ j else 0)).sum
def linesAt (s : State) (node : Nat) (l : List Nat) : Nat := (l.filter (fun x => s.homeOf (x * 64) == some node)).length

/-- A register's value as software reads it: stored, or computed where it shows other state. -/
def State.regVal (s : State) (r : Reg) (i : Nat) : Nat :=
  let v := s.rdN r i
  if r = .TILE_STATUS then showF v F.TILE_STATUS_stale (bN (unitStale s (.tile i)))
  else if r = .TILE_RNG_CTRL then showF v F.TILE_RNG_CTRL_counter_mode (bN (s.gearOf (tileDie i) = gearFixed))
  else if r = .NME_STATUS then showF v F.NME_STATUS_stale (bN (unitStale s (.nme i)))
  else if r = .DRL_STATUS then showF v F.DRL_STATUS_stale (bN (unitStale s (.drl i)))
  else if r = .SEQ_TILE_MAP_0 then tileMapBits s i 0 64
  else if r = .SEQ_TILE_MAP_1 then tileMapBits s i 64 64
  else if r = .SEQ_TILE_MAP_2 then tileMapBits s i 128 16
  else if r = .HA_OCCUPANCY then
    linesAt s i s.coh.dir.keys + linesAt s i (s.coh.dir.keys.filter s.pinned) * 2 ^ 32
  else if r = .FLT_QUIET_LEFT then (s.flt.quiet.atD i 0 - (s.now - s.flt.quietAt.atD i 0) / 1000000) % 2 ^ 32
  else if isFltReg r && !blkThere (fltNode i) (fltBlock i) then 0
  else v

/-- What a load from MMIO returns (R9, R13, R14). -/
def State.mmioVal (s : State) (pa size : Nat) : Nat :=
  if !s.winUp pa || ((tileMmio pa).isNone && (size ≠ 4 && size ≠ 8 || pa % size ≠ 0)) then 0
  else match tileMmio pa, bufAt pa, routeAt pa, vnfAt pa with
    | none, some _, _, _ => leVal (s.mem.getBytes pa size)
    | none, none, some (n, slot, i, o), _ => fieldB (s.drl.routes.atD (routeKey n (shadowBank s n) (if slot then 16384 + i else i)) []) o size
    | none, none, none, some (v, k) => (s.eth.vnfRegs.atD (v * 8 + k) 0).toNat / 2 ^ (pa % 8 * 8) % 2 ^ (size * 8)
    | t, _, _, _ =>
      if t.any (fun t => !s.enabled t) then 0
      else match regAcc pa size with
        | some a => s.regVal a.reg a.idx / 2 ^ a.lo % 2 ^ a.n
        | none => 0
def mmioBytesN : Nat → State → Nat → Nat → Bytes
  | 0, _, _, _ => []
  | fuel + 1, s, pa, n =>
    if n = 0 then [] else
    let k := if pa % 8 = 0 && 8 ≤ n then 8 else if pa % 4 = 0 && 4 ≤ n then 4 else 1
    leBytes k (s.mmioVal pa k) ++ mmioBytesN fuel s (pa + k) (n - k)
/-- Bytes of MMIO that a unit reads as a range: accesses of the widths of R14, each as wide as it can be (DESIGN CHOICE, log entry 30). -/
def State.mmioBytes (s : State) (pa n : Nat) : Bytes := mmioBytesN (n + 1) s pa n

/-! ### What an access does at its target's island (R9, R29) -/

/-- The unit whose island an address of a window or of the MMIO lies in. -/
def ioUnit (s : State) (pa : Nat) : Option UnitId :=
  if s.region pa = .tstore then some (.tile (windowTile pa))
  else match tileMmio pa with
    | some t => some (.tile t)
    | none =>
      if pa < 0x0F0000000000 || 0x0F0008000000 ≤ pa then none
      else
        let n := (pa - 0x0F0000000000) / 0x1000000
        let o := (pa - 0x0F0000000000) % 0x1000000
        if 0x6000 ≤ o && o < 0x8000 then some (.nme (2 * n + (o - 0x6000) / 0x1000))
        else if 0x20000 ≤ o && o < 0x21000 || 0x120000 ≤ o && o < 0x1A1000 then some (.drl n) else none
/-- A load or store arrives at a window or a register: that of a disabled tile, or at the window of an isolated one, is counted and noticed
(R9, R145), and a sleeping unit wakes (R29). -/
def State.ioTouch (s : State) (pa : Nat) : State :=
  if !s.pwr.up then s
  else match ioUnit s pa with
    | some (.tile t) =>
      if if s.region pa = .tstore then s.windowUp pa else s.enabled t then s.wakeUnit (.tile t) else s.absentAcc t
    | some u => s.wakeUnit u
    | none => s
/-- The accesses of a unit to the pieces of a range arrive. -/
def State.ioTouches (s : State) (ps : List (Nat × Nat × Nat × Nat)) : State :=
  s.each (ps.filter (fun p => s.region p.1 = .tstore || s.region p.1 = .mmio)) (fun p s => s.ioTouch p.1)

end Sys2Proof.Machine
end

