-- ==== Sys2Proof/Machine/Xlate.lean ====
section
/-! DEFINITION. Translation (R59 to R68): the page-entry walk, the checks of R63 in their order, effective memory types,
translation caches, accesses that wait on a locked page, and the core attribute table. -/

namespace Sys2Proof.Machine

/-! Status codes (R315). -/

namespace St
abbrev ok : Nat := 0
abbrev tileAbsent : Nat := 1
abbrev misaligned : Nat := 2
abbrev tstoreRange : Nat := 3
abbrev podRange : Nat := 4
abbrev accRange : Nat := 5
abbrev transFault : Nat := 6
abbrev permFault : Nat := 7
abbrev partFault : Nat := 8
abbrev addrHole : Nat := 9
abbrev atomicType : Nat := 10
abbrev watchType : Nat := 11
abbrev watchFull : Nat := 12
abbrev divergeDepth : Nat := 13
abbrev barDiverged : Nat := 14
abbrev barDeadlock : Nat := 15
abbrev descInvalid : Nat := 16
abbrev pannierEmpty : Nat := 17
abbrev pannierOrder : Nat := 18
abbrev pannierFull : Nat := 19
abbrev linkLost : Nat := 20
abbrev memUncorrectable : Nat := 21
abbrev unitReset : Nat := 22
abbrev entryInvalid : Nat := 23
abbrev sweepFailed : Nat := 24
abbrev routeFault : Nat := 25
abbrev collFailed : Nat := 26
abbrev cancelled : Nat := 27
abbrev roundsExceeded : Nat := 28
abbrev timeout : Nat := 29
end St

/-! Fields of a page entry (R59). -/
def peValid (e : Nat) : Bool := bitN e 0
def peRead (e : Nat) : Bool := bitN e 1
def peWrite (e : Nat) : Bool := bitN e 2
def peExec (e : Nat) : Bool := bitN e 3
def peLock (e : Nat) : Bool := bitN e 4
def peType (e : Nat) : Nat := bitsN e 7 5
def pePart (e : Nat) : Nat := bitsN e 11 8
def pePpn (e : Nat) : Nat := bitsN e 51 12 * 4096
def peGen (e : Nat) : Nat := bitsN e 53 52
def peVis (e : Nat) : Nat := bitsN e 55 54
/-- A valid entry without any permission points to the next table (R60). -/
def peTable (e : Nat) : Bool := peValid e && !peRead e && !peWrite e && !peExec e

/-- Kinds of access: 0 load, 1 store or atomic, 2 fetch. -/
abbrev accLoad : Nat := 0
abbrev accStore : Nat := 1
abbrev accFetch : Nat := 2

/-- Result of translating one access. -/
inductive XRes where
  /-- Physical address, leaf entry, effective memory type, key identity. -/
  | ok (pa entry mtype key : Nat)
  /-- Status code of R63, or 21 for a table read that is uncorrectable. -/
  | fail (status : Nat)
  /-- The page is locked: the access waits (R64). -/
  | locked
  deriving DecidableEq, Repr

/-- A table entry by a coherent read, under the key its line was written with (log entry 6); 21 + 256 · address if
uncorrectable. -/
def State.readEntry (s : State) (pa : Nat) : Except Nat Nat :=
  match s.region pa with
  | .hbm | .ddr =>
    if s.lineBad (lineOf pa) then .error (St.memUncorrectable + 256 * pa)
    else .ok (s.cohVal (s.lineKey.atD (lineOf pa) 0) (pa / 8 * 8) 8)
  | _ => .error St.transFault

/-- The walk of R60 from a level on: entry index taken from the address at each level. -/
def walkFrom (s : State) (va : Nat) : Nat → Nat → Nat → Except Nat (Nat × Nat)
  | 0, _, _ => .error St.transFault
  | fuel + 1, level, table =>
    let idx := bitsN va (47 - 9 * level) (39 - 9 * level)
    match s.readEntry (table + 8 * idx) with
    | .error f => .error f
    | .ok e =>
      if !peValid e then .error St.transFault
      else if peTable e then (if level = 3 then .error St.transFault else walkFrom s va fuel (level + 1) (pePpn e))
      else if level = 0 then .error St.transFault
      else
        let lg := 39 - 9 * level
        if pePpn e % 2 ^ lg ≠ 0 then .error St.transFault else .ok (e, lg)

/-- Leaf of a virtual address in a context: entry and log2 of the page size. -/
def State.walk (s : State) (ctx va : Nat) : Except Nat (Nat × Nat) :=
  if !s.gb F.TRANS_ROOT_enable ctx then .error St.transFault
  else if va ≥ 2 ^ 48 then .error St.transFault
  else walkFrom s va 4 0 (s.gf F.TRANS_ROOT_root ctx * 4096)

def TlbEnt.covers (e : TlbEnt) (u : XUnit) (ctx va : Nat) : Bool :=
  e.unit == u && e.ctx == ctx && va / 2 ^ e.lg == e.va / 2 ^ e.lg

/-- The effective memory type of R62: 0 COH, 1 STREAM, 2 NC, 3 SRAM, 4 IO; reserved values count as COH (R61). R62 names no type for an SRAM
entry in a BAR window: it acts as IO (DESIGN CHOICE, log entry 141). -/
def effType (r : Region) (ty : Nat) : Nat :=
  let ty := if ty > 4 then 0 else ty
  match r with
  | .pod | .tstore => 3
  | .mmio => 4
  | .bar => if ty = 2 then 2 else 4
  | _ => if ty = 3 || ty = 4 then 2 else ty

/-- Records the first failure since the last clear (R63). -/
def State.xlFault (s : State) (ctx va status : Nat) : State :=
  if s.gb F.TRANS_STATUS_first_fault 0 || status < 6 || status > 9 then s
  else ((s.pf F.TRANS_STATUS_first_fault 0 (status - 5)).pf F.TRANS_STATUS_fault_ctx 0 ctx).pf F.TRANS_FAULT_ADDR_va 0 va

/-- open_access permits this access to part_id 0 pages (R63); the reserved value counts as none. -/
def openPermits (oa acc : Nat) : Bool := (oa == 1 && acc == accLoad) || (oa == 2 && (acc == accLoad || acc == accStore))

/-- Checks 2 to 4 of R63 on a leaf. `node` is the requester's Chainring node for a hole (R52). -/
def State.xlCheck (s : State) (ctx va acc node entry lg : Nat) : XRes × State :=
  let bad := fun (st : Nat) => (XRes.fail st, s.xlFault ctx va st)
  let perm := if acc = accLoad then peRead entry else if acc = accStore then peWrite entry else peExec entry
  let part := s.gf F.TRANS_ATTR_part_id ctx
  let oa := s.gf F.TRANS_ATTR_open_access ctx
  let pa := pePpn entry / 2 ^ lg * 2 ^ lg + va % 2 ^ lg
  if !perm then bad St.permFault
  else if pePart entry ≠ part && !(pePart entry = 0 && openPermits oa acc) then bad St.partFault
  else if encrypted pa && !s.keyLive (pePart entry) (peGen entry) then bad St.partFault
  else
    let s := s.when (peType entry > 4 || (pePart entry ≠ part && oa = 3)) (fun s => s.pf F.TRANS_STATUS_reserved_encoding 0 1)
    match s.region pa with
    | .hole => (.fail St.addrHole, (s.xlFault ctx va St.addrHole).hole pa node)
    | r => (.ok pa entry (effType r (peType entry)) (s.keyOf (pePart entry) (peGen entry)), s)

/-- Translates one access of a unit (R60 to R64), through its translation cache. -/
def State.xlate (s : State) (u : XUnit) (ctx va acc node : Nat) : XRes × State :=
  match s.xl.tlb.find? (fun e => e.covers u ctx va) with
  | some e => s.xlCheck ctx va acc node e.entry e.lg
  | none =>
    match s.walk ctx va with
    | .error st =>
      (.fail (st % 256), (s.when (st % 256 = St.memUncorrectable) (fun s => s.memErr (st / 256))).xlFault ctx va (st % 256))
    | .ok (entry, lg) =>
      if peLock entry then (.locked, s)
      else
        let s := { s with xl := { s.xl with tlb := ⟨u, ctx, va / 2 ^ lg * 2 ^ lg, lg, entry⟩ :: s.xl.tlb } }
        s.xlCheck ctx va acc node entry lg

/-- An access waits on a locked page until its retry (R64). -/
def State.lockWaitFor (s : State) (u : XUnit) (ctx va acc : Nat) : State :=
  let w : LockWait := ⟨u, ctx, va, acc⟩
  if s.xl.lockWait.contains w then s else { s with xl := { s.xl with lockWait := s.xl.lockWait ++ [w] } }

/-- Drops every cached translation of a unit (R48). -/
def State.dropTlb (s : State) (u : XUnit) : State :=
  { s with xl := { s.xl with tlb := s.xl.tlb.filter (fun e => e.unit != u) } }

/-! ### The core attribute table (R66, R67) -/

/-- The table in force: CAT_ROOT as it stood when the attribute caches were last invalidated with all_ctx (R67). -/
def catOn (s : State) : Bool := bitN s.xl.cat 0
def catGen (s : State) : Nat := bitsN s.xl.cat 5 4
def catRoot (s : State) : Nat := bitsN s.xl.cat 51 16 * 65536
/-- The walk for a physical address: the leaf and log2 of its page, none where an entry is not valid. It fails on a table outside HBM4 and
DDR5, a level-0 leaf and a level-3 table entry (R60); a leaf's ppn is ignored. -/
def catFrom (s : State) (pa : Nat) : Nat → Nat → Nat → Except Nat (Option (Nat × Nat))
  | 0, _, _ => .error St.transFault
  | fuel + 1, level, table =>
    match s.readEntry (table + 8 * (if level = 0 then bitsN pa 51 39 else bitsN pa (47 - 9 * level) (39 - 9 * level))) with
    | .error f => .error f
    | .ok e =>
      if !peValid e then .ok none
      else if peTable e then (if level = 3 then .error St.transFault else catFrom s pa fuel (level + 1) (pePpn e))
      else if level = 0 then .error St.transFault
      else .ok (some (e, 39 - 9 * level))
/-- Leaf entry of a physical address for core accesses: none where no valid leaf exists. -/
def State.catLeaf (s : State) (pa : Nat) : Except Nat (Option (Nat × Nat)) := if catOn s then catFrom s pa 4 0 (catRoot s) else .ok none

/-- What a core's access to memory meets: it goes on with a key, its page's vis_floor SYSTEM or not; it faults; it meets an uncorrectable
table entry; or it waits on a locked page. -/
inductive CoreRes where
  | ok (key : Nat) (floor : Bool)
  | fault
  | bad (pa : Nat)
  | locked
  deriving DecidableEq, Repr

/-- The leaf's checks: the lock, and the hart's partition binding (R64, R66). -/
def State.coreLeaf (s : State) (hart e : Nat) (cached : Bool) : CoreRes :=
  if peLock e && !cached then .locked
  else if pePart e ≠ 0 && s.gf F.CORE_PART_part hart ≠ pePart e then .fault
  else .ok (s.keyOf (pePart e) (peGen e)) (peVis e == 3)
/-- An entry of a core attribute cache: it stands under context 64, which no context of R65 is, with a physical address. -/
def TlbEnt.isAttr (e : TlbEnt) : Bool := e.ctx == 64
/-- A core's access to HBM4, DDR5 or CXL.mem through the attribute cache of its H-die (R66). -/
def State.coreAccess (s : State) (hart pa : Nat) : CoreRes × State :=
  let u := XUnit.core (hart / 64)
  match s.xl.tlb.find? (fun e => e.isAttr && e.unit == u && pa / 2 ^ e.lg == e.va / 2 ^ e.lg) with
  | some e => (s.coreLeaf hart e.entry true, s)
  | none =>
    match s.catLeaf pa with
    | .ok none => (.ok (s.keyOf 0 (catGen s)) false, s)
    | .ok (some (e, lg)) =>
      if peLock e then (.locked, s)
      else (s.coreLeaf hart e false, { s with xl := { s.xl with tlb := ⟨u, 64, pa / 2 ^ lg * 2 ^ lg, lg, e⟩ :: s.xl.tlb } })
    | .error st => if st % 256 = St.memUncorrectable then (.bad (st / 256), s) else (.fault, s)

/-- Drops the cores' attribute caches, which lets CAT_ROOT take effect when every context is invalidated (R65, R67). -/
def State.dropCores (s : State) (all : Bool) : State :=
  { s with xl := { s.xl with tlb := s.xl.tlb.filter (fun e => !e.isAttr), cat := if all then s.rdN .CAT_ROOT else s.xl.cat } }

/-- Key identity under which the boot firmware zeroes memory of part_id 0 (R66, R81). -/
def State.coreKey (s : State) (pa : Nat) : Nat :=
  match s.catLeaf pa with
  | .ok (some (e, _)) => s.keyOf (pePart e) (peGen e)
  | _ => s.keyOf 0 (catGen s)

/-! ### Uncorrectable reads (R449, R450) -/

/-- NC accesses to the memory tiers take the direct path: the memory copy (R71). -/
def directRead (s : State) (pa ty : Nat) : Bool := ty = 2 && (s.region pa = .hbm || s.region pa = .ddr || s.region pa = .cxl)
/-- The first address of a piece that reads uncorrectable, if any. -/
def State.pieceBad (s : State) (pa n ty : Nat) : Option Nat :=
  if directRead s pa ty then ((linesOf pa n).find? (fun l => s.memBad l)).map (· * 64) else s.rangeBad pa n
/-- A tile (or agent) meets an uncorrectable read: the controller that served it holds the address; a tile store raises
tstore_ue on its tile (R449, R450). -/
def State.badRead (s : State) (die requester pa : Nat) : State :=
  match s.region pa with
  | .pod =>
    let own := (pa - podBase 0) / 0x40000000 = die
    s.podErr pa false false (!own) (if own then requester else 0x7FF)
  | .tstore => let w := windowTile pa; s.raise (tileDie w) (tileBlk w) 1 false pa
  | _ => s.memErr pa
/-- The agent a unit reads as, 0x7FF where it is none on the die of a Pod. -/
def XUnit.agent : XUnit → Nat
  | .tile t => t
  | .dma t _ => t
  | .nme st => agentNme st
  | .seq n => agentSeq n
  | .drl n => agentDrl n
  | _ => 0x7FF

/-! ### Virtual ranges -/

/-- Translates a range page by page and answers the physical pieces, or the first failure with its address. -/
def State.xlRangeN : Nat → State → XUnit → Nat → Nat → Nat → Nat → Nat → List (Nat × Nat × Nat × Nat) →
    Except (Nat × Nat) (List (Nat × Nat × Nat × Nat)) × State
  | 0, s, _, _, _, _, _, _, acc => (.ok acc.reverse, s)
  | fuel + 1, s, u, ctx, va, n, k, node, acc =>
    if n = 0 then (.ok acc.reverse, s) else
    let len := min n (4096 - va % 4096)
    match s.xlate u ctx va k node with
    | (.ok pa _ ty key, s) => State.xlRangeN fuel s u ctx (va + len) (n - len) k node ((pa, len, ty, key) :: acc)
    | (.fail st, s) => (.error (st, va), s)
    | (.locked, s) => (.error (0, va), s.lockWaitFor u ctx va k)
/-- Pieces (PA, length, memory type, key) of a virtual range. An error of status 0 is a locked page: the access waits. -/
def State.xlRange (s : State) (u : XUnit) (ctx va n k node : Nat) :
    Except (Nat × Nat) (List (Nat × Nat × Nat × Nat)) × State :=
  State.xlRangeN (n / 4096 + 2) s u ctx va n k node []

/-- A read of n bytes by address: coherent in the memory tiers, from the SRAM in the windows, the register's value in the MMIO; a window
that does not answer reads zero (R9), and so does a hole. What a peer's window answers is its own (State.readPiece). -/
def State.readAt (s : State) (key pa n : Nat) : Bytes :=
  match s.region pa with
  | .hbm | .ddr | .cxl => s.cohRead key pa n
  | .pod => s.sramRead pa n
  | .tstore => if s.windowUp pa then s.sramRead pa n else zerosB n
  | .mmio => s.mmioBytes pa n
  | _ => zerosB n

/-- A write into the BAR range: TLPs of at most 512 bytes toward the peer (R388, R393). A TLP that the link stalls on is
held by the unit that issues it; here the queue takes it (log entry 18). -/
def barWriteN : Nat → Option (Nat × Nat) → Nat → Nat → Bytes → State → State
  | 0, _, _, _, _, s => s
  | fuel + 1, o, k, pa, bs, s =>
    if bs = [] then s else
    let n := min (512 - pa % 512) bs.length
    let t : Tlp := { owner := o, addr := pa, data := bs.take n }
    let s := match s.pcieSend k t with
      | (true, s) => s
      | (false, s) =>
        let q := s.pcie.links.atD k {}
        let q := { q with queue := q.queue ++ [t] }
        { s with pcie := { s.pcie with links := s.pcie.links.put k q } }
    barWriteN fuel o k (pa + n) (bs.drop n) s
def State.barWrite (s : State) (o : Option (Nat × Nat)) (pa : Nat) (bs : Bytes) : State :=
  match s.barLink pa with
  | some k => barWriteN (bs.length + 1) o k pa bs s
  | none => s

/-- A write of bytes by address; a write to a BAR window leaves on its link, and one to a register leaves for it: it arrives as that
register's own command (log entry 30). -/
def State.writeAt (s : State) (key pa : Nat) (bs : Bytes) : State :=
  match s.region pa with
  | .hbm | .ddr | .cxl => s.cohWrite key pa bs
  | .pod => s.sramWrite pa bs
  | .tstore => if s.windowUp pa then (s.ioTouch pa).sramWrite pa bs else s.ioTouch pa
  | .mmio => s.emit (.ioWrite pa bs)
  | .bar => s.barWrite none pa bs
  | _ => s

/-- Reads the pieces of a translated range coherently, or names the first uncorrectable address. -/
def State.readPieces (s : State) (ps : List (Nat × Nat × Nat × Nat)) : Except Nat Bytes :=
  match ps.findSome? (fun p => s.rangeBad p.1 p.2.1) with
  | some pa => .error pa
  | none => .ok (ps.flatMap (fun p => s.readAt p.2.2.2 p.1 p.2.1))

/-- A coherent read of a virtual range (RD_ONCE): the bytes, or a status with the failing address. -/
def State.vread (s : State) (u : XUnit) (ctx va n node : Nat) : Except (Nat × Nat) Bytes × State :=
  match s.xlRange u ctx va n accLoad node with
  | (.error e, s) => (.error e, s)
  | (.ok ps, s) =>
    match s.readPieces ps with
    | .ok b => (.ok b, s.ioTouches ps)
    | .error pa => (.error (St.memUncorrectable, va), s.badRead node u.agent pa)

/-- Writes bytes over translated pieces. -/
def State.writePieces (s : State) : List (Nat × Nat × Nat × Nat) → Bytes → State
  | [], _ => s
  | p :: ps, bs =>
    let d := bs.take p.2.1
    State.writePieces (s.writeAt p.2.2.2 p.1 d) ps (bs.drop p.2.1)

/-- A line of the pieces is open at its home. -/
def State.piecesOpen (s : State) (ps : List (Nat × Nat × Nat × Nat)) : Bool :=
  ps.any (fun p => encrypted p.1 && (linesOf p.1 p.2.1).any s.lineOpen)
/-- A coherent write of a virtual range. While one of its lines is open the write waits, as on a locked page, so that a unit's writes are
performed in their order. -/
def State.vwrite (s : State) (u : XUnit) (ctx va : Nat) (bs : Bytes) (node : Nat) : Except (Nat × Nat) Unit × State :=
  match s.xlRange u ctx va bs.length accStore node with
  | (.error e, s) => (.error e, s)
  | (.ok ps, s) =>
    if s.piecesOpen ps then
      (.error (0, va), if s.xl.lineWait.contains u then s else { s with xl := { s.xl with lineWait := s.xl.lineWait ++ [u] } })
    else (.ok (), s.writePieces ps bs)

end Sys2Proof.Machine
end

