-- ==== Sys2Proof/Machine/Coherence.lean ====
section
/-! DEFINITION. The message protocol between caching agents and homes (R89 to R103): requests accepted, queued or waiting
for a way, snoops answered, data and grants installed, write-backs, and the same transactions performed in one piece for
the units that reach memory inside one command. -/

namespace Sys2Proof.Machine

def State.sendC (s : State) (m : CMsg) : State := s.onCoh fun h => { h with net := h.net ++ [m] }
/-- Takes the oldest message that p picks out of the network. -/
def takeFirst {α : Type} (p : α → Bool) : List α → Option (α × List α)
  | [] => none
  | x :: r => if p x then some (x, r) else (takeFirst p r).map (fun q => (q.1, x :: q.2))
def State.recvC (s : State) (p : CMsg → Bool) : Option (CMsg × State) :=
  (takeFirst p s.coh.net).map (fun q => (q.1, s.onCoh fun h => { h with net := q.2 }))
def State.setTxn (s : State) (line : Nat) (t : Txn) : State := s.onCoh fun h => { h with txns := h.txns.put line t }
def State.delTxn (s : State) (line : Nat) : State := s.onCoh fun h => { h with txns := h.txns.del line }

/-- Agents a snoop goes to: pointers, or every enabled in-service tile of a coarse group and each other holder (R99). -/
def State.snoopList (s : State) (e : DirEnt) : List Nat :=
  let base := if e.cond = 0 then e.sharers else if e.cond = 1 then [e.owner] else e.owner :: e.sharers
  if e.coarse then
    let gs := (base.filter agentIsTile).map (· / 36)
    (List.range 1152).filter (fun t => gs.contains (t / 36) && s.tileIn t) ++ base.filter (fun a => !agentIsTile a)
  else base

/-- The 80-bit entry of a line that VENDOR debug access reads (R98); 0 where none is in use. -/
def State.dirWord (s : State) (line : Nat) : Nat :=
  match s.dirEnt? line with
  | none => 0
  | some e =>
    let pa := line * 64
    let tag := bitsN pa 51 31 + 2 ^ 21 * bitsN pa 17 10
    let ids := if e.cond = 1 then [e.owner] else e.sharers
    let ptrs := ((List.range 4).map (fun i => ids.getD i agentNone * 2 ^ (11 * i))).sum
    let has := fun (f : Nat → Bool) => bN (ids.any f)
    let groups := ((List.range 32).map (fun g => has (fun a => agentIsTile a && a / 36 = g) * 2 ^ g)).sum
    let others := ((List.range 2).map (fun m => has (· = agentH m) * 2 ^ m)).sum + 4 * ((List.range 8).map (fun n => has (· = agentSeq n) * 2 ^ n)).sum
    1 + 2 * e.cond + 8 * bN (s.pinned line) + 16 * bN e.coarse + 32 * (if e.cond = 2 then e.owner - agentH 0 else 0) + 64 * tag +
      2 ^ 35 * (if e.coarse then groups + 2 ^ 32 * others else ptrs)

/-- Entries of one directory set, and the victim of R101: least recently allocated, not pinned. -/
def sameSet (s : State) (a b : Nat) : Bool :=
  s.homeOf (a * 64) == s.homeOf (b * 64) && sliceOf (a * 64) == sliceOf (b * 64) && setOf (a * 64) == setOf (b * 64)
def State.setEntries (s : State) (line : Nat) : List (Nat × DirEnt) :=
  s.coh.dir.rows.filter (fun r => sameSet s r.1 line)
def State.victimOf (s : State) (line : Nat) : Option Nat :=
  ((s.setEntries line).filter (fun r => !s.pinned r.1)).foldl
    (fun best r => match best with
      | none => some r.1
      | some b => if r.2.seq < (s.coh.dir.atD b {}).seq then some r.1 else best) none

def needsEntry : ReqKind → Bool | .rdShared => true | .rdOwn => true | .watch => true | _ => false
/-- E is given when no other copy exists and the requester is a tile or an H-die (R91). -/
def giveAlone (r : Req) : Moesi :=
  match r.kind with
  | .rdOwn => .M
  | .watch => .S
  | _ => if agentIsTile r.agent || agentIsH r.agent then .E else .S

/-- The entry of an owned line once its owner keeps nothing: its other sharers stay, and a new one joins them (R88, R99). -/
def DirEnt.withoutOwner (e : DirEnt) (a new : Nat) : DirEnt :=
  ({ cond := 0, sharers := e.sharers.filter (· != a), coarse := e.coarse, seq := e.seq } : DirEnt).addSharer new
/-- The entry of an owned line whose owner keeps it in S. -/
def DirEnt.ownerShares (e : DirEnt) (a new : Nat) : DirEnt :=
  (({ cond := 0, sharers := e.sharers, coarse := e.coarse, seq := e.seq } : DirEnt).addSharer a).addSharer new
/-- The entry of an owned line whose H-die owner keeps it in O. -/
def DirEnt.ownerKeeps (e : DirEnt) (a new : Nat) : DirEnt := ({ e with cond := 2, owner := a } : DirEnt).addSharer new
/-- The entry of a line that one agent holds alone. -/
def aloneEnt (e : DirEnt) (a : Nat) (st : Moesi) : DirEnt :=
  if st = .S then { cond := 0, sharers := [a], seq := e.seq } else { cond := 1, owner := a, seq := e.seq }

/-- Writes a new entry with its presence bit; the NME's acknowledgement is due when its region's count rises from zero (R108). -/
def State.openDir (s : State) (line : Nat) (e : DirEnt) : State × Option (Nat × Nat) :=
  let (s, rose) := s.newDir line e
  match if rose then s.presOf line else none with
  | some k => (s.presSet k, some (k / 2 ^ 21, k % 2 ^ 21))
  | none => (s, none)

/-- Opens the transaction of a request whose line needs no way, or has one (R91). -/
def State.startReq (s : State) (r : Req) : State :=
  let line := r.line
  let t : Txn := { req := r }
  match r.kind, s.dirEnt? line with
  | .backInval, some e =>
    let snoops := s.snoopList e
    (s.setTxn line { t with acks := snoops }).each snoops (fun a s => s.sendC (.snpInv a line))
  | .backInval, none => s
  | .rebuild, _ => s
  | .writeBack data, _ => s.setTxn line { t with memW := some (data, r.key) }
  | .clean, none => s.setTxn line { t with sent := true, done := true }
  | .clean, some e =>
    if e.cond = 0 then s.setTxn line { t with sent := true, done := true }
    else (s.setTxn line { t with acks := [e.owner] }).sendC (.snpOnce e.owner line)
  | k, none =>
    if needsEntry k then
      let give := giveAlone r
      let (s, pres) := s.openDir line (aloneEnt {} r.agent give)
      s.setTxn line { t with memDue := true, give := give, presDue := pres }
    else
      match k with
      | .wrFull _ => s.setTxn line t
      | _ => s.setTxn line { t with memDue := true }
  | .rdOnce, some e =>
    if e.cond = 0 then s.setTxn line { t with memDue := true }
    else (s.setTxn line { t with acks := [e.owner] }).sendC (.snpOnce e.owner line)
  | .rdShared, some e =>
    if e.cond = 0 then (s.setDir line (e.addSharer r.agent)).setTxn line { t with memDue := true, give := .S }
    else (s.setTxn line { t with acks := [e.owner], give := .S }).sendC (.snpShared e.owner line)
  | .watch, some e =>
    if e.cond = 0 then (s.setDir line (e.addSharer r.agent)).setTxn line { t with memDue := true, give := .S }
    else (s.setTxn line { t with acks := [e.owner], give := .S }).sendC (.snpShared e.owner line)
  | .upgrade, some e =>
    let snoops := (s.snoopList e).filter (· != r.agent)
    let s := s.setDir line (aloneEnt e r.agent .M)
    (s.setTxn line { t with acks := snoops, give := .M }).each snoops (fun a s => s.sendC (.snpInv a line))
  | .rdOwn, some e =>
    -- an owner answers even where it is the requester: its write-back may be on the way (R91, R94)
    let snoops := (s.snoopList e).filter (fun a => a != r.agent || (e.cond ≠ 0 && a == e.owner))
    let s := s.setDir line (aloneEnt e r.agent .M)
    (s.setTxn line { t with acks := snoops, memDue := e.cond = 0, give := .M }).each snoops (fun a s => s.sendC (.snpInv a line))
  | k, some e =>
    -- WR_FULL, WR_PARTIAL and ATOMIC invalidate every holder
    let snoops := s.snoopList e
    let full := match k with | .wrFull _ => true | _ => false
    (s.setTxn line { t with acks := snoops, memDue := !full && e.cond = 0 }).each snoops (fun a s => s.sendC (.snpInv a line))

/-- Answers an atomic's requester with the old value. -/
def State.atomDone (s : State) (r : Req) (off size old : Nat) : State :=
  match r.peer with
  | some p => s.emit (.peerCpl p.1 p.2 0 (leBytes size old))
  | none => s.emit (.atomicOld r.agent (r.line * 64 + off) old)

/-- What the home does once nothing is due: sends DATA or GRANT, or starts its memory write. -/
def State.txnSend (s : State) (t : Txn) : State :=
  let line := t.req.line
  let a := t.req.agent
  let key := t.req.key
  let data := (t.dirty.map (asKey line key)).orElse (fun _ => t.memData)
  match t.req.kind with
  | .backInval => s.setTxn line { t with memW := t.dirty, dirty := none, done := true, sent := true }
  | .clean => s.setTxn line { t with memW := t.dirty, dirty := none, done := true, sent := true }
  | .writeBack _ => s
  | .rebuild => s
  | .wrFull d => s.setTxn line { t with memW := some (sliceB d 0 64, key), sent := true, done := true }
  | .wrPartial m d =>
    match data with
    | some o => s.setTxn line { t with memW := some (mergeMask m (sliceB d 0 64) o, key), sent := true, done := true }
    | none => s.setTxn line { t with memDue := true }
  | .atomic off size aop opnd newVal =>
    match data with
    | some o =>
      let old := fieldB o off size
      (s.setTxn line { t with memW := some (setFieldB o off size (atomicNew aop size old opnd newVal), key), sent := true, done := true }).atomDone
        t.req off size old
    | none => s.setTxn line { t with memDue := true }
  | .upgrade => (s.setTxn line { t with sent := true }).sendC (.grant a line)
  | k =>
    let give : Option Moesi := match k with | .rdOnce => none | _ => some t.give
    let keep : Bool := match k with | .rdOwn => false | .rdOnce => false | _ => true
    let memW := if keep then t.dirty else none
    if t.byOwner then s.setTxn line { t with sent := true, memW := memW, dirty := none }
    else
      match data with
      | some b => (s.setTxn line { t with sent := true, memW := memW, dirty := none }).sendC (.data a line give b key)
      | none => s.setTxn line { t with memDue := true }

/-- A write-back at a home whose line is not open: it is written, or, where a snoop has overtaken it, found stale (R94). -/
def State.wbAt (s : State) (a line : Nat) (d : Bytes) (key : Nat) : State :=
  match s.dirEnt? line with
  | some e =>
    if e.cond ≠ 0 && e.owner = a && (s.wbBuf? a line).isSome then
      s.startReq { kind := .writeBack d, agent := a, line := line, key := key, since := s.now }
    else s.sendC (.wbAck a line)
  | none => s.sendC (.wbAck a line)
/-- The line of a closed transaction unpins; the write-backs accepted meanwhile take their turn (R90, R94). -/
def State.unpin (s : State) (t : Txn) : State :=
  let line := t.req.line
  (s.delTxn line).each t.wbs (fun w s =>
    match s.txn? line with
    | some u => s.setTxn line { u with wbs := u.wbs ++ [w] }
    | none => s.wbAt w.1 line w.2.1 w.2.2)

/-- Closes a transaction: it unpins the line; a freed victim lets the request that waited for its way start (R93, R101). -/
def State.txnClose (s : State) (t : Txn) : State :=
  let line := t.req.line
  let s := match t.req.kind with
    | .wrFull _ => s.freeDir line
    | .wrPartial .. => s.freeDir line
    | .atomic .. => s.freeDir line
    | .backInval => s.freeDir line
    | .clean => s.emit (.cleanDone t.req.agent line)
    | .writeBack _ =>
      let s := s.sendC (.wbAck t.req.agent line)
      match s.dirEnt? line with
      | some e =>
        if e.owner = t.req.agent && e.cond = 2 && e.sharers ≠ [] then s.setDir line { e with cond := 0 }
        else if e.owner = t.req.agent && e.cond ≠ 0 then s.freeDir line else s
      | none => s
    | _ => s
  let s := s.unpin t
  match t.req.kind with
  | .backInval =>
    match s.coh.txns.rows.find? (fun r => r.2.victim == some line) with
    | some r => (s.delTxn r.1).startReq r.2.req
    | none => s
  | _ => s

/-- Advances the transaction of a line as far as it goes (R92, R93). -/
def State.txnStep (s : State) (line : Nat) : State :=
  match s.txn? line with
  | none => s
  | some t =>
    if t.acks ≠ [] || t.dataDue || t.memDue || t.presDue.isSome || t.victim.isSome then s
    else
      let s := if t.sent || t.memW.isSome then s else s.txnSend t
      match s.txn? line with
      | none => s
      | some t => if t.done && t.sent && t.memW.isNone && !t.memDue then s.txnClose t else s

/-- The directory lists the requester of a line (R91). -/
def State.lists (s : State) (r : Req) : Bool :=
  match s.dirEnt? r.line with
  | some e => (e.cond ≠ 0 && e.owner = r.agent) || e.sharers.contains r.agent
  | none => false
/-- An UPGRADE of a requester that the directory no longer lists is an RD_OWN, with the way an RD_OWN needs (R91, R95). -/
def State.asOwn (s : State) (r : Req) : Req := if r.kind == .upgrade && !s.lists r then { r with kind := .rdOwn } else r

/-- An uncorrectable entry is rebuilt (R100): every copy of its line is invalidated, dirty data is written to memory, and the entry is
freed. The transaction is performed whole. -/
def State.dirRebuild (s : State) (line : Nat) : State :=
  let s := match s.dirtyOf line with
    | some (d, k) => s.memLine k line d
    | none => s
  s.invalidateAll line

/-- The wait of a request for a way or for credits ends as it is accepted (R103). -/
def State.waited (s : State) (node : Nat) (r : Req) : State :=
  if !r.held then s
  else s.pf F.HA_RETRY_MAX_max_ns (haIdx node) (max (min ((s.now + 2 ^ 64 - r.since) % 2 ^ 64) (2 ^ 32 - 1)) (s.gf F.HA_RETRY_MAX_max_ns (haIdx node)))

/-- The request needs a way of a set in which others wait for one, or whose every way is pinned (R102). -/
def State.wayless (s : State) (r : Req) : Bool :=
  needsEntry r.kind && (s.dirEnt? r.line).isNone &&
  (s.coh.retryQ.any (fun q => sameSet s q.line r.line) || ((s.setEntries r.line).length ≥ 16 && (s.victimOf r.line).isNone))
def State.retryFull (s : State) (line : Nat) : Bool := (s.coh.retryQ.filter (fun q => sameSlice s q.line line)).length ≥ 32
def State.hold' (s : State) (r : Req) : State := s.onCoh fun h => { h with waitQ := h.waitQ ++ [{ r with held := true }] }

/-- The home accepts a request for a line that is not open: at once, or behind a victim's back-invalidation (R93, R101). -/
def State.openReq (s : State) (node : Nat) (r : Req) : State :=
  let s := s.waited node r
  if r.kind == .rebuild then s.dirRebuild r.line
  else if needsEntry r.kind && (s.dirEnt? r.line).isNone && (s.setEntries r.line).length ≥ 16 then
    match s.victimOf r.line with
    | some v => ((s.setTxn r.line { req := r, victim := some v }).startReq { kind := .backInval, agent := agentNone, line := v, since := s.now }).txnStep v
    | none => s
  else (s.startReq r).txnStep r.line
/-- It does so, or queues the request for a way while its set has none to give (R102). -/
def State.acceptReq (s : State) (node : Nat) (r : Req) : State :=
  let r := s.asOwn r
  if !s.wayless r then s.openReq node r
  else if s.retryFull r.line then s.hold' r
  else (s.onCoh fun h => { h with retryQ := h.retryQ ++ [{ r with held := true }] }).bump .HA_RETRY_COUNT (haIdx node)

/-- A station waits for credits of the slice that serves a line (R93, R102). -/
def State.stationHeld (s : State) (r : Req) : Bool :=
  s.coh.waitQ.any (fun q => agentNode q.agent == agentNode r.agent && sameSlice s q.line r.line)
/-- A request reaches its home: behind the requests that its station already holds for want of credits, into the conflict queue of an
open line, or to acceptance (R93, R102). A line without a home takes none (R85). -/
def State.homeReq (s : State) (r : Req) : State :=
  match s.homeOf (r.line * 64) with
  | none =>
    if s.region (r.line * 64) = .hole then (s.hole (r.line * 64) (agentNode r.agent)).emit (.reqFailed r.agent (r.line * 64) St.addrHole) else s
  | some node =>
    let r := { r with since := s.now }
    if s.stationHeld r then s.hold' r else if s.lineOpen r.line then s.enqueue r else s.acceptReq node r

/-- A held request cannot be admitted yet: the queue it needs is full. -/
def State.stuckReq (s : State) (r : Req) : Bool :=
  if s.pinned r.line || s.coh.conflictQ.any (·.line == r.line) then (s.coh.conflictQ.filter (fun q => sameSlice s q.line r.line)).length ≥ 64
  else s.wayless (s.asOwn r) && s.retryFull r.line
/-- Key of a slice. -/
def sliceKey (s : State) (line : Nat) : Nat := ((s.homeOf (line * 64)).getD 15) * 16 + sliceOf (line * 64)
/-- The station that comes next for admission: round robin after the one admitted last (R102). -/
def State.nextHeld (s : State) (line : Nat) : Option Req :=
  let l := s.coh.waitQ.filter (fun q => sameSlice s q.line line)
  let last := s.coh.admitted.atD (sliceKey s line) 10
  (List.range 11).findSome? (fun i => l.find? (fun q => agentNode q.agent = (last + 1 + i) % 11))
/-- Credits return to the stations that wait for a slice while its queues have room. -/
def admitN : Nat → State → Nat → State
  | 0, s, _ => s
  | fuel + 1, s, line =>
    match s.nextHeld line, s.homeOf (line * 64) with
    | some r, some node =>
      if s.stuckReq r then s
      else
        let s := s.onCoh fun h => { h with
          waitQ := ((takeFirst (· == r) h.waitQ).map (·.2)).getD h.waitQ, admitted := h.admitted.put (sliceKey s line) (agentNode r.agent) }
        admitN fuel (if s.pinned r.line || s.coh.conflictQ.any (·.line == r.line) then s.onCoh (fun h => { h with conflictQ := h.conflictQ ++ [r] })
          else s.acceptReq node r) line
    | _, _ => s
def State.letIn (s : State) (line : Nat) : State := admitN (s.coh.waitQ.length) s line

/-! ### At the agents -/

/-- What an agent would answer a snoop with: its copy, or its write-back buffer as owner (R94). -/
def State.held (s : State) (a line : Nat) : Option (Copy × Bool) :=
  match s.copy? a line with
  | some c => if c.st = .S then (match s.wbBuf? a line with | some b => some (b, true) | none => some (c, false)) else some (c, false)
  | none => (s.wbBuf? a line).map (fun b => (b, true))
def State.requesterOf (s : State) (line : Nat) : Nat := match s.txn? line with | some t => t.req.agent | none => agentNone
/-- A woken sequencer complex re-issues WATCH, which waits behind the transaction that woke it (R110). -/
def State.rewatchOpen (s : State) (a line : Nat) : State :=
  if s.coh.rewatch.contains (a, line) && s.lineOpen line then
    (s.onCoh fun h => { h with rewatch := h.rewatch.filter (· != (a, line)) }).homeReq { kind := .watch, agent := a, line := line, key := s.lineKey.atD line (s.keyOf 0 0) }
  else s

/-- R87, R92: a shared snoop at an agent. -/
def State.onSnpShared (s : State) (a line : Nat) : State :=
  match s.recvC (fun m => m == .snpShared a line) with
  | none => s
  | some (_, s) =>
    let rq := s.requesterOf line
    match s.held a line with
    | none => s.sendC (.snpAck a line none false false)
    | some (c, true) =>
      ((s.sendC (.data rq line (some .S) c.data c.key)).sendC (.snpAck a line none true true)).sendC (.snpData a line c.data c.key)
    | some (c, false) =>
      match c.st with
      | .S => s.sendC (.snpAck a line (some .S) false false)
      | .O => (s.sendC (.data rq line (some .S) c.data c.key)).sendC (.snpAck a line (some .O) true false)
      | .E => ((s.setCopy a line { c with st := .S }).sendC (.data rq line (some .S) c.data c.key)).sendC
                (.snpAck a line (some .S) true false)
      | .M =>
        if agentIsH a then
          ((s.setCopy a line { c with st := .O }).sendC (.data rq line (some .S) c.data c.key)).sendC
            (.snpAck a line (some .O) true false)
        else
          (((s.setCopy a line { c with st := .S }).sendC (.data rq line (some .S) c.data c.key)).sendC
            (.snpAck a line (some .S) true true)).sendC (.snpData a line c.data c.key)

/-- R91, R92: an invalidating snoop. Owner data goes to the requester of RD_OWN, and to the home where the home needs it. -/
def State.onSnpInv (s : State) (a line : Nat) : State :=
  match s.recvC (fun m => m == .snpInv a line) with
  | none => s
  | some (_, s) =>
    let rq := s.requesterOf line
    let h := s.held a line
    let s := s.dropCopy a line
    let s := s.onCoh fun h => { h with wbBuf := h.wbBuf.del (copyKey a line) }
    let s := (s.wakeAgent a line).rewatchOpen a line
    match h, s.txn? line with
    | some (c, buf), some t =>
      let owner := buf || c.st ≠ .S
      let dirty := buf || dirtyMoesi c.st
      match t.req.kind with
      | .rdOwn =>
        if owner then (s.sendC (.data rq line (some .M) c.data c.key)).sendC (.snpAck a line none true false)
        else s.sendC (.snpAck a line none false false)
      | .upgrade => s.sendC (.snpAck a line none false false)
      | .wrFull _ => s.sendC (.snpAck a line none false false)
      | .wrPartial .. =>
        if owner then (s.sendC (.snpAck a line none false true)).sendC (.snpData a line c.data c.key)
        else s.sendC (.snpAck a line none false false)
      | _ =>
        if dirty then (s.sendC (.snpAck a line none false true)).sendC (.snpData a line c.data c.key)
        else s.sendC (.snpAck a line none false false)
    | _, _ => s.sendC (.snpAck a line none false false)

/-- R91: the owner sends a copy and keeps its state. For a clean (R75) it sends dirty data to the home and keeps the line clean: E for M,
O as it is (DESIGN CHOICE, log entry 128). -/
def State.onSnpOnce (s : State) (a line : Nat) : State :=
  match s.recvC (fun m => m == .snpOnce a line) with
  | none => s
  | some (_, s) =>
    let cleans : Bool := match s.txn? line with | some t => t.req.kind == ReqKind.clean | none => false
    match s.held a line with
    | some ((c : Copy), (buf : Bool)) =>
      if cleans then
        let left : Option Moesi := if buf then none else some (if c.st = .M then Moesi.E else c.st)
        let s := if buf || c.st ≠ .M then s else s.setCopy a line { c with st := .E }
        if buf || dirtyMoesi c.st then (s.sendC (.snpAck a line left false true)).sendC (.snpData a line c.data c.key)
        else s.sendC (.snpAck a line left false false)
      else if c.st = .S then s.sendC (.snpAck a line (some .S) false false)
      else (s.sendC (.data (s.requesterOf line) line none c.data c.key)).sendC (.snpAck a line (some c.st) true false)
    | none => s.sendC (.snpAck a line none false false)

/-! ### Back at the home -/

/-- R92: a snoop response; the directory follows the state it names. -/
def State.onSnpAck (s : State) (a line : Nat) : State :=
  match s.recvC (fun m => match m with | .snpAck x l _ _ _ => x == a && l == line | _ => false) with
  | some (.snpAck _ _ left gave carries, s) =>
    match s.txn? line with
    | none => s
    | some t =>
      let e := (s.dirEnt? line).getD {}
      let rq := t.req.agent
      let (s, give) : State × Moesi := match t.req.kind with
        | .rdShared | .watch =>
          match left with
          | some .O => (s.setDir line (e.ownerKeeps a rq), .S)
          | some _ => (s.setDir line (e.ownerShares a rq), .S)
          | none =>
            if gave || e.sharers.any (· != a) then (s.setDir line (e.withoutOwner a rq), .S)
            else (s.setDir line (aloneEnt e rq (giveAlone t.req)), giveAlone t.req)
        | _ => (s, t.give)
      let t := { t with acks := t.acks.filter (· != a), byOwner := t.byOwner || gave, give := give,
                        dataDue := t.dataDue || (carries && t.dirty.isNone) }
      (s.setTxn line t).txnStep line
  | _ => s

def State.onSnpData (s : State) (a line : Nat) : State :=
  match s.recvC (fun m => match m with | .snpData x l _ _ => x == a && l == line | _ => false) with
  | some (.snpData _ _ d k, s) =>
    match s.txn? line with
    | some t => (s.setTxn line { t with dirty := some (d, k), dataDue := false }).txnStep line
    | none => s
  | _ => s

/-- R107, R108: the NME acknowledges a presence set, so the request that raised the count goes on. -/
def State.onPresence (s : State) (stack region : Nat) : State :=
  match s.coh.txns.rows.find? (fun r => r.2.presDue == some (stack, region)) with
  | some r => (s.setTxn r.1 { r.2 with presDue := none }).txnStep r.1
  | none => s

/-- A core's write in the H-die cache, on a line held in M (R105): a store, or the AMO, whose old value the core gets. Data of a page whose
vis_floor is SYSTEM goes on to memory with it (R66, R73; DEDUCED, log entry 129). -/
def State.coreWrite (s : State) (a line : Nat) (wr : CoreWr) (floor : Bool) : State :=
  match s.copy? a line with
  | none => s
  | some c =>
    let put := fun (s : State) (d : Bytes) => (s.setCopy a line { c with st := .M, data := d }).when floor (fun s => s.memLine c.key line d)
    match wr with
    | .none => s
    | .store off d => put s (sliceB (setSliceB c.data (off % 64) (d.take (64 - off % 64))) 0 64)
    | .amo off size aop opnd nv =>
      let old := fieldB c.data off size
      (put s (setFieldB c.data off size (atomicNew aop size old opnd nv))).emit (.atomicOld a (line * 64 + off) old)

/-! ### Evictions (R86, R94) -/

def State.evict (s : State) (a line : Nat) : State :=
  match s.copy? a line with
  | none => s
  | some c =>
    let s := s.dropCopy a line
    match c.st with
    | .S => s
    | .E => s.sendC (.evictClean a line)
    | _ => (s.onCoh fun h => { h with wbBuf := h.wbBuf.put (copyKey a line) c }).sendC (.wb a line c.data c.key)

/-- Lines the caches of one H-die hold: 224 MiB (R377). -/
def hLines : Nat := 3670016
/-- Lines of agent a one of which gives way to a new line: those of its set where a tile's thread cache (128 sets of 8 ways) or an H-die's
caches are full (R377). Watched lines stay while others can go. -/
def cacheVictims (s : State) (a line : Nat) : List Nat :=
  let same := fun (k : Nat) => k / 2 ^ 46 == a && (agentIsH a || k % 128 == line % 128)
  let l := s.coh.copies.rows.filter (fun r => same r.1)
  if (s.copy? a line).isSome || !(agentIsTile a || agentIsH a) || l.length < (if agentIsH a then hLines else 8) then []
  else
    let free := l.filter (fun r => !r.2.watch)
    (if free = [] then l else free).map (·.1 % 2 ^ 46)
/-- A line enters a cache: where there is no room another is evicted, any of those that can go (log entry 155). -/
def State.fillCopy (s : State) (a line : Nat) (c : Copy) : State :=
  let s := match cacheVictims s a line with
    | [] => s
    | l =>
      let (w, s) := s.free
      let v := l.getD (w.toNat % l.length) 0
      let watched := match s.copy? a v with | some c => c.watch | none => false
      (s.evict a v).when watched (fun s => s.wakeAgent a v)
  s.setCopy a line c

/-- R92: data arrives at the requester, which installs it in the granted state, performs the write it was for and sends COMPLETE. -/
def State.onData (s : State) (a line : Nat) : State :=
  match s.recvC (fun m => match m with | .data x l _ _ _ => x == a && l == line | _ => false) with
  | some (.data _ _ give b k, s) =>
    let rq : Req := match s.txn? line with | some t => t.req | none => { kind := .rdOnce, agent := a, line := line, key := k }
    let watch := rq.kind == .watch
    let b := asKey line rq.key (b, k)
    let s := match give with
      | some st => (s.fillCopy a line { st := st, data := b, key := rq.key, watch := watch }).coreWrite a line rq.wr rq.floor
      | none => s.emit (.readData a (line * 64) b)
    let s := if watch && agentIsTile a then
        s.setTile a (fun tl => { tl with watches := tl.watches.mapVals (fun _ w => if w.line = line then { w with armed := true } else w) })
      else s
    s.sendC (.complete a line)
  | _ => s

/-- R91: GRANT makes an upgraded copy M. -/
def State.onGrant (s : State) (a line : Nat) : State :=
  match s.recvC (fun m => m == .grant a line) with
  | some (_, s) =>
    let rq : Req := match s.txn? line with | some t => t.req | none => { kind := .upgrade, agent := a, line := line }
    let s := match s.copy? a line with
      | some c => (s.setCopy a line { c with st := .M }).coreWrite a line rq.wr rq.floor
      | none => s
    s.sendC (.complete a line)
  | none => s

def State.onComplete (s : State) (a line : Nat) : State :=
  match s.recvC (fun m => m == .complete a line) with
  | some (_, s) =>
    match s.txn? line with
    | some t => if t.req.agent = a then (s.setTxn line { t with done := true }).txnStep line else s
    | none => s
  | none => s

/-- R93: the oldest request waiting for a closed line is accepted, and its place goes to a request held for credits. -/
def State.conflictAccept (s : State) (line : Nat) : State :=
  if s.pinned line then s else
  match takeFirst (fun q => q.line == line) s.coh.conflictQ, s.homeOf (line * 64) with
  | some (r, rest), some node => ((s.onCoh fun h => { h with conflictQ := rest }).acceptReq node r).letIn line
  | _, _ => s

/-- R102, R103: the oldest queued request for the line's set takes a way that unpinned; its wait is recorded. -/
def State.retryGrant (s : State) (line : Nat) : State :=
  match takeFirst (fun q => sameSet s q.line line) s.coh.retryQ, s.homeOf (line * 64) with
  | some (r, rest), some node =>
    if (s.setEntries r.line).length ≥ 16 && (s.victimOf r.line).isNone then s
    else
      let s := s.onCoh fun h => { h with retryQ := rest }
      (if s.pinned r.line then s.enqueue r else s.openReq node r).letIn line
  | _, _ => s

/-- R90, R94: a write-back at the home, which accepts it whatever requests wait. Behind an open transaction of its line it takes its turn as
that closes. -/
def State.onWb (s : State) (a line : Nat) : State :=
  match s.recvC (fun m => match m with | .wb x l _ _ => x == a && l == line | _ => false) with
  | some (.wb _ _ d k, s) =>
    match s.txn? line with
    | some t => s.setTxn line { t with wbs := t.wbs ++ [(a, d, k)] }
    | none => s.wbAt a line d k
  | _ => s

def State.onEvictClean (s : State) (a line : Nat) : State :=
  match s.recvC (fun m => m == .evictClean a line) with
  | some (_, s) =>
    match s.dirEnt? line with
    | some e => if !s.pinned line && e.cond = 1 && e.owner = a then s.freeDir line else s
    | none => s
  | none => s

def State.onWbAck (s : State) (a line : Nat) : State :=
  match s.recvC (fun m => m == .wbAck a line) with
  | some (_, s) => s.onCoh fun h => { h with wbBuf := h.wbBuf.del (copyKey a line) }
  | none => s

/-! ### Memory (R92, R449) -/

/-- A corrected line counts and raises its controller's F1 notice (R441, R449). -/
def State.memCorrected (s : State) (pa : Nat) : State :=
  match s.region pa with
  | .hbm => let i := hbmStack s.hbmMode pa; (s.bump64 .HBM_CE_COUNT i).notice (stackDie i) (10 + i % 2) 0
  | .ddr => let c := ddrChannel s.ddrMode s.ddrChans pa; (s.bump64 .MC_CE_COUNT c).notice (8 + c / 8) (8 + c % 8) 0
  | _ => s

/-- A memory read of an open transaction ends: its data arrives, or the request ends without any (R449). -/
def State.onMemRead (s : State) (line : Nat) (o : ScrubResult) : State :=
  match s.txn? line with
  | none => s
  | some t =>
    if !t.memDue then s
    else if o = .uncorrectable || s.memBad line then
      let s := { s with badLines := (if s.memBad line then s.badLines else line :: s.badLines) }
      let wr := match t.req.kind with | .wrPartial .. => true | _ => false
      let s := s.memErrAt (line * 64) wr false none
      let s := if needsEntry t.req.kind then
          match s.dirEnt? line with
          | some e =>
            if e.cond = 1 && e.owner = t.req.agent then s.freeDir line
            else
              let r := e.sharers.filter (· != t.req.agent)
              if e.cond = 0 && r = [] then s.freeDir line else s.setDir line { e with sharers := r }
          | none => s
        else s.freeDir line
      let s := s.unpin t
      if wr then s else s.emit (.reqFailed t.req.agent (line * 64) St.memUncorrectable)
    else
      let s := if o = .corrected then s.memCorrected (line * 64) else s
      let data := s.memBytes t.req.key (line * 64) 64
      (s.setTxn line { t with memDue := false, memData := some data }).txnStep line

/-- R92: the memory controller acknowledges a write, which is then performed. -/
def State.onMemWriteAck (s : State) (line : Nat) : State :=
  match s.txn? line with
  | none => s
  | some t =>
    match t.memW with
    | none => s
    | some (d, key) =>
      let t' := match t.req.kind with
        | .writeBack _ => { t with memW := none, done := true, sent := true }
        | _ => { t with memW := none }
      ((s.memLine key line d).setTxn line t').txnStep line

/-! ### Transactions performed in one piece -/

/-- Makes room for a new entry: back-invalidates the victim of a full set (R101). False while every way is pinned or a queued request is to
take the next one (R102). -/
def State.roomFor (s : State) (line : Nat) : Bool × State :=
  if (s.dirEnt? line).isSome then (true, s)
  else if s.coh.retryQ.any (fun q => sameSet s q.line line) then (false, s)
  else if (s.setEntries line).length < 16 then (true, s)
  else
    match s.victimOf line with
    | none => (false, s)
    | some v =>
      let s := match s.dirtyOf v with
        | some (d, k) => s.memLine k v d
        | none => s
      (true, s.invalidateAll v)

/-- The entry and the copies of an owned line after a shared snoop of its owner, performed whole (R87, R88, R92, R94): an H-die keeps dirty
data in O, any other owner's goes to memory; an owner that answers from its write-back buffer keeps nothing. The state given to the
requester comes with it. -/
def State.snoopShared (s : State) (e : DirEnt) (a line : Nat) (alone : Moesi) : Moesi × State :=
  match s.held e.owner line with
  | some (c, true) => (.S, ((s.memLine c.key line c.data).onCoh fun h => { h with wbBuf := h.wbBuf.del (copyKey e.owner line) }).setDir line (e.withoutOwner e.owner a))
  | some (c, false) =>
    if agentIsH e.owner && dirtyMoesi c.st then (.S, (s.setCopy e.owner line { c with st := .O }).setDir line (e.ownerKeeps e.owner a))
    else
      let s := if dirtyMoesi c.st then s.memLine c.key line c.data else s
      (.S, (s.setCopy e.owner line { c with st := .S }).setDir line (e.ownerShares e.owner a))
  | none =>
    if e.sharers.any (· != e.owner) then (.S, s.setDir line (e.withoutOwner e.owner a))
    else (alone, s.setDir line (aloneEnt e a alone))

/-- A watch on a line that the tile itself holds in M or E: it goes on in S (R91, R109). -/
def State.shareOwn (s : State) (a line : Nat) (c : Copy) : State :=
  let s := if dirtyMoesi c.st then s.memLine c.key line c.data else s
  let s := match s.dirEnt? line with
    | some e => if e.cond = 1 then s.setDir line (aloneEnt e a .S) else s
    | none => s
  s.setCopy a line { c with st := .S, watch := true }

/-- RD_SHARED or WATCH by an agent, performed whole: it holds the line in S, or in E when it is alone (R87, R91). The
flag is false when the line is open or no way is free, so that the request waits. -/
def State.shareNow (s : State) (a line key : Nat) (watch : Bool) : Bool × State :=
  if s.lineOpen line then (false, s)
  else
    match s.copy? a line with
    | some c => (true, if watch then s.shareOwn a line c else s)
    | none =>
      let (ok, s) := s.roomFor line
      if !ok then (false, s) else
      let data := s.cohLine key line
      let alone : Moesi := if watch || !(agentIsTile a || agentIsH a) then .S else .E
      let (st, s) : Moesi × State := match s.dirEnt? line with
        | none => (alone, (s.openDir line (aloneEnt {} a alone)).1)
        | some e => if e.cond = 0 then (.S, s.setDir line (e.addSharer a)) else s.snoopShared e a line alone
      (true, s.fillCopy a line { st := st, data := data, key := key, watch := watch })

/-- RD_OWN or UPGRADE by an agent, performed whole: it holds the line in M and every other copy is gone (R91). -/
def State.ownNow (s : State) (a line key : Nat) : Bool × State :=
  if s.lineOpen line then (false, s)
  else
    let (ok, s) := s.roomFor line
    if !ok then (false, s) else
    let data := s.cohLine key line
    let mine := s.copy? a line
    let others := (s.holders line).filter (· != a)
    let s := s.onCoh fun h => { h with
      copies := h.copies.keep (fun k _ => !(isLine line k))
      wbBuf := h.wbBuf.keep (fun k _ => !(isLine line k)) }
    let s := match s.dirEnt? line with
      | some e => s.setDir line (aloneEnt e a .M)
      | none => (s.openDir line (aloneEnt {} a .M)).1
    let s := s.fillCopy a line { st := .M, data := data, key := key, watch := (mine.map (·.watch)).getD false }
    (true, s.each others (fun o s => s.wakeAgent o line))

/-- A tile's store into a line it holds in M; `floor`: to a page whose vis_floor is SYSTEM (R73). -/
def State.storeInto (s : State) (a line off : Nat) (bs : Bytes) (floor : Bool) : State :=
  match s.copy? a line with
  | some c => (s.setCopy a line { c with st := .M, data := setSliceB c.data off bs }).setTile a
      (fun tl => { tl with written := tl.written.put line (tl.written.atD line false || floor) })
  | none => s

/-- The dirty data of a line goes to memory, and a holder in M goes on in E (R73, R76). -/
def State.lineToMem (s : State) (line : Nat) : State :=
  match s.dirtyOf line with
  | none => s
  | some (d, k) => (s.memLine k line d).onCoh fun h => { h with
      copies := h.copies.mapVals (fun i c => if isLine line i && c.st == .M then { c with st := .E } else c) }
/-- A release of a tile. At SYSTEM scope every line with a write of its own since its last one is made good in memory, whoever holds it dirty
by now (R73, R76); at a narrower scope, those with writes to pages whose vis_floor is SYSTEM. -/
def State.tileRelease (s : State) (t scope : Nat) : State :=
  let due := fun (floor : Bool) => scope = 3 || floor
  (s.each ((s.tile t).written.rows.filter (fun r => due r.2)) (fun r s => s.lineToMem r.1)).setTile t
    (fun tl => { tl with written := tl.written.keep (fun _ fl => !due fl) })

/-! ### Leaving service (R79, R115) -/

/-- A caching agent leaves gracefully: M and O lines are written back, E lines and every record of it are dropped. -/
def State.agentLeave (s : State) (a : Nat) : State :=
  let mine := s.coh.copies.rows.filter (fun r => r.1 / 2 ^ 46 == a)
  let s := s.each mine (fun r s => if dirtyMoesi r.2.st then s.memLine r.2.key (r.1 % 2 ^ 46) r.2.data else s)
  let bufs := s.coh.wbBuf.rows.filter (fun r => r.1 / 2 ^ 46 == a)
  let s := s.each bufs (fun r s => s.memLine r.2.key (r.1 % 2 ^ 46) r.2.data)
  s.onCoh fun h => { h with
    copies := h.copies.keep (fun k _ => k / 2 ^ 46 != a)
    wbBuf := h.wbBuf.keep (fun k _ => k / 2 ^ 46 != a) }

/-- The homes clear every directory record that names an agent (R79 step 3, R115). -/
def State.dirForget (s : State) (a : Nat) : State :=
  s.each s.coh.dir.rows (fun r s =>
    let e := r.2
    if e.cond ≠ 0 && e.owner = a then
      (if e.sharers.filter (· != a) = [] then s.freeDir r.1 else s.setDir r.1 { e with cond := 0, sharers := e.sharers.filter (· != a) })
    else if e.sharers.contains a then
      let sh := e.sharers.filter (· != a)
      if e.cond = 0 && sh = [] then s.freeDir r.1 else s.setDir r.1 { e with sharers := sh }
    else s)

/-- A tile whose thread cache failed leaves: nothing is written back, and each line it held in M or E reverts to the
memory copy and is counted lost at its home (R115). -/
def State.agentLost (s : State) (a : Nat) : State :=
  let mine := s.coh.copies.rows.filter (fun r => r.1 / 2 ^ 46 == a && (r.2.st == .M || r.2.st == .E))
  let s := s.onCoh fun h => { h with
    copies := h.copies.keep (fun k _ => k / 2 ^ 46 != a)
    wbBuf := h.wbBuf.keep (fun k _ => k / 2 ^ 46 != a) }
  let s := s.dirForget a
  s.each mine (fun r s =>
    match s.homeOf (r.1 % 2 ^ 46 * 64) with
    | some node =>
      ((s.bump .HA_LOST_DIRTY (haIdx node)).pf F.HA_STATUS_lost_dirty (haIdx node) 1).notice node (if node < 8 then 6 else 2) 2
    | none => s)

end Sys2Proof.Machine
end

