-- ==== Sys2Proof/Machine/Tile.lean ====
section
/-! DEFINITION. What every TTIS instruction shares (R147 to R160, R183 to R186): issue and instruction fetch, the end of a
lap by a status, lane generators (R139, R140, R178), scaling slots, and element packing (R190). -/

namespace Sys2Proof.Machine

/-! ### Philox4x32-10 (R139) -/

def mul32 (a b : Nat) : Nat × Nat := (a * b / 2 ^ 32, a * b % 2 ^ 32)
def philoxRound (k0 k1 : Nat) (c : Nat × Nat × Nat × Nat) : Nat × Nat × Nat × Nat :=
  let (h0, l0) := mul32 0xD2511F53 c.1
  let (h1, l1) := mul32 0xCD9E8D57 c.2.2.1
  (Nat.xor (Nat.xor h1 c.2.1) k0, l1, Nat.xor (Nat.xor h0 c.2.2.2) k1, l0)
def philoxFrom : Nat → Nat → Nat → Nat × Nat × Nat × Nat → Nat × Nat × Nat × Nat
  | 0, _, _, c => c
  | n + 1, k0, k1, c =>
    philoxFrom n ((k0 + 0x9E3779B9) % 2 ^ 32) ((k1 + 0xBB67AE85) % 2 ^ 32) (philoxRound k0 k1 c)
/-- Word w of the result for a 64-bit key and a 128-bit counter. -/
def philox (key ctr w : Nat) : Nat :=
  let r := philoxFrom 10 (key % 2 ^ 32) (key / 2 ^ 32 % 2 ^ 32)
    (ctr % 2 ^ 32, ctr / 2 ^ 32 % 2 ^ 32, ctr / 2 ^ 64 % 2 ^ 32, ctr / 2 ^ 96 % 2 ^ 32)
  match w % 4 with
  | 0 => r.1 | 1 => r.2.1 | 2 => r.2.2.1 | _ => r.2.2.2

/-- The counter of R140. -/
def fixedCtr (elem stream tid step : Nat) : Nat :=
  elem % 2 ^ 40 + (stream % 256) * 2 ^ 40 + (tid % 2 ^ 16) * 2 ^ 48 + (tid / 2 ^ 16 % 256) * 2 ^ 64 +
    (step % 2 ^ 24) * 2 ^ 72 + (step / 2 ^ 24 % 2 ^ 32) * 2 ^ 96

/-- A word of a lane generator: by the counter of R140 in Fixed gear, else the next result (R139). -/
def State.laneWord (s : State) (t lane : Nat) (fixed : Bool) (ctr word : Nat) : Nat × State :=
  let tl := s.tile t
  let key := tl.rngKey.atD lane 0
  if fixed then (philox key ctr word, s)
  else
    let c := tl.rngCtr.atD lane 0
    (philox key c word, s.setTile t (fun tl => { tl with rngCtr := tl.rngCtr.put lane ((c + 1) % 2 ^ 128) }))

/-- Lane of a group's thread: its vector half is g mod 2 (R117). -/
def laneOf (g th : Nat) : Nat := 32 * (g % 2) + th

/-! ### Packing (R190) -/

def packFrom (w : Nat) : List Nat → Nat
  | [] => 0
  | c :: r => c % 2 ^ w + 2 ^ w * packFrom w r
/-- Bytes that hold elements of type t, as R190 packs them. -/
def packElems (t : Nat) (cs : List Nat) : Bytes :=
  leBytes (ceilDiv (cs.length * typeBits t) 8) (packFrom (typeBits t) cs)
def unpackElems (t n : Nat) (bs : Bytes) : List Nat :=
  let v := leVal bs
  (List.range n).map (fun i => v / 2 ^ (i * typeBits t) % 2 ^ typeBits t)
def rowBytes (t n : Nat) : Nat := ceilDiv (n * typeBits t) 8

/-- Slot k of width w of a register (R151), and a register with it replaced. -/
def slotGet (v k w : Nat) : Nat := v / 2 ^ (k * w) % 2 ^ w
def slotPut (v k w x : Nat) : Nat := setBitsN v (k * w + w - 1) (k * w) x

/-! ### The end of a lap by a status (R184, R186) -/

/-- Units of TILE_ERR_INFO.unit. -/
abbrev uThread : Nat := 0
abbrev uArray : Nat := 1
abbrev uDma (ch : Nat) : Nat := 2 + ch
abbrev uPan : Nat := 6
abbrev uFetch : Nat := 7

/-- The first job-ending status stops the lap: it is recorded, no further instruction issues, and queued tile-level
instructions that have not started are discarded. -/
def State.lapStop (s : State) (t status g th unit pc addr : Nat) : State :=
  if (s.tile t).stopped || (s.tile t).lap.isNone then s
  else
    let s := s.setTile t (fun tl => { tl with
      stopped := true
      arrQ := if tl.arrBusy then tl.arrQ.take 1 else []
      dmaQ := tl.dmaQ.mapVals (fun ch q => if tl.dmaBusy.contains ch then q.take 1 else [])
      panQ := tl.panQ.filter (·.started) })
    ((((((s.pf F.TILE_ERR_PC_pc t pc).pf F.TILE_ERR_INFO_status t status).pf F.TILE_ERR_INFO_group t g).pf
      F.TILE_ERR_INFO_thread t th).pf F.TILE_ERR_INFO_unit t unit).pf F.TILE_ERR_ADDR_addr t addr)

/-! ### Issue and fetch (R147, R149, R159) -/

/-- A group issues while its tile runs a lap without a status, is in service, and the group waits for nothing. -/
def State.canIssue (s : State) (t g : Nat) : Bool :=
  match (s.tile t).lap with
  | some l => !(s.tile t).stopped && s.tileIn t && g < l.groups && (s.group t g).wait == .ready
  | none => false

def State.lapOf (s : State) (t : Nat) : Lap := (s.tile t).lap.getD {}

/-- Lines the instruction cache holds: 32 KiB (R147). -/
def icacheLines : Nat := 512
/-- A fetched line enters the instruction cache. The spec names no victim when it is full: any of its lines (log entry 131). -/
def State.icacheFill (s : State) (t line : Nat) : State :=
  if (s.tile t).icache.length < icacheLines then s.setTile t (fun tl => { tl with icache := line :: tl.icache })
  else
    let (v, s) := s.free
    s.setTile t (fun tl => { tl with icache := line :: tl.icache.eraseIdx (v.toNat % icacheLines) })
/-- Fetches the word at the group's pc through the instruction cache. A failed check of R63 ends the job; on a locked
page the group waits. -/
def State.fetch (s : State) (t g : Nat) : Bool × State :=
  let pc := (s.group t g).pc
  let l := s.lapOf t
  if (s.tile t).icache.contains (pc / 64 * 64) then (true, s)
  else
    match s.xlate (.tile t) l.ctx pc accFetch (tileDie t) with
    | (.ok pa _ _ _, s) =>
      if s.lineBad (lineOf pa) then (false, (s.memErr pa).lapStop t St.memUncorrectable g 0 uFetch pc pc)
      else (true, s.icacheFill t (pc / 64 * 64))
    | (.fail st, s) => (false, s.lapStop t st g 0 uFetch pc pc)
    | (.locked, s) => (false, (s.lockWaitFor (.tile t) l.ctx pc accFetch).setGroup t g (fun x => { x with wait := .lock }))

/-- Runs an instruction that group g of tile t issues. -/
def State.issue (s : State) (t g : Nat) (body : State → State) : State :=
  if s.canIssue t g then
    match s.fetch t g with
    | (true, s) => body s
    | (false, s) => s
  else s

/-- The group goes on at the next word. -/
def State.advance (s : State) (t g : Nat) : State := s.setGroup t g Group.next

/-- A thread instruction: f acts in every executing thread in ascending order, flags are ORed into the group's (R149). -/
def State.vec (s : State) (t g pred : Nat) (pneg : Bool) (f : Group → Nat → Group × Nat) : State :=
  let old := s.group t g
  let r := (threadsOf (old.execMask pred pneg)).foldl
    (fun acc th => let x := f acc.1 th; (x.1, flOr acc.2 x.2)) (old, 0)
  s.setGroup t g (fun _ => { r.1 with flags := flOr r.1.flags r.2 }.next)

/-- The leader of an instruction, if any thread executes it. -/
def State.leader (s : State) (t g pred : Nat) (pneg : Bool) : Option Nat :=
  leaderOf ((s.group t g).execMask pred pneg)

def State.vecDaz (s : State) (t : Nat) : Bool := s.gb F.TILE_NUM_CTRL_vec_daz t
def State.vecFtz (s : State) (t : Nat) : Bool := s.gb F.TILE_NUM_CTRL_vec_ftz t

/-- The lap runs in Fixed gear (R310). -/
def State.lapFixed (s : State) (t : Nat) : Bool := (s.lapOf t).gear == gearFixed

/-! ### Scaling slots (R168) -/

def State.slot (s : State) (t k : Nat) : Slot := (s.tile t).slots.atD k { complete := true }
def State.setSlot (s : State) (t k : Nat) (f : Slot → Slot) : State :=
  s.setTile t (fun tl => { tl with slots := tl.slots.put k (f (tl.slots.atD k { complete := true })) })
/-- The mode of a slot's expansion record; an unbound slot behaves as mode 0 (R208). -/
def Slot.mode (sl : Slot) : Nat := if sl.bound then fieldB sl.record 64 1 else 0
/-- The slot's binding is complete, so an instruction that names it may issue (R159). -/
def State.slotReady (s : State) (t k : Nat) : Bool := (s.slot t k).complete
/-- A finite magnitude merged into the slot's maximum: FP32 bit patterns order as values (R217). -/
def State.slotMax (s : State) (t k m : Nat) : State := s.setSlot t k (fun x => { x with max := max x.max m })
def State.slotMark (s : State) (t k bits : Nat) : State := s.setSlot t k (fun x => { x with marks := Nat.lor x.marks bits })

namespace Mk
abbrev touched : Nat := 1
abbrev nonfinite : Nat := 2
abbrev overflow : Nat := 4
abbrev nzWritten : Nat := 8
abbrev wideBreach : Nat := 16
abbrev extraDone : Nat := 32
end Mk

/-- The exponent k of a scale that is a power of two from 2^−126 to 2^127 (R216); none for any other bits. -/
def scaleExp (bits : Nat) : Option Int :=
  let e := bitsN bits 30 23
  if bits < 2 ^ 31 && bits % 2 ^ 23 = 0 && 1 ≤ e && e ≤ 254 then some ((e : Int) - 127) else none
def expScale (k : Int) : Nat := (k + 127).toNat * 2 ^ 23

/-- Sets bits of TILE_NUM_STATUS (R201). -/
def State.arrFlags (s : State) (t fl : Nat) (out : Bool) : State :=
  let s := s.when (fl &&& Fl.fz != 0) (fun s => s.pf (if out then F.TILE_NUM_STATUS_arr_out_fz else F.TILE_NUM_STATUS_arr_in_fz) t 1)
  let s := s.when (fl &&& Fl.sat != 0) (fun s => s.pf F.TILE_NUM_STATUS_arr_sat t 1)
  let s := s.when (fl &&& Fl.of != 0) (fun s => s.pf F.TILE_NUM_STATUS_arr_of t 1)
  s.when (fl &&& Fl.nv != 0) (fun s => s.pf F.TILE_NUM_STATUS_arr_nv t 1)

/-! ### Queue counts (R160, R182) -/

/-- Incomplete tile-level instructions of a group on a unit: 0 the array, 1–4 DMA channels, 5 the Pannier. -/
def Tile.outstanding (tl : Tile) (g unit : Nat) : Nat :=
  if unit = 0 then (tl.arrQ.filter (·.group == g)).length
  else if unit = 5 then (tl.panQ.filter (·.group == g)).length
  else ((tl.dmaQ.atD (unit - 1) []).filter (·.group == g)).length

/-- Groups whose WAITQ condition now holds go on (R182). -/
def Tile.settleQueues (tl : Tile) : Tile :=
  { tl with groups := tl.groups.mapVals (fun g x =>
      match x.wait with
      | .queue u lim => if tl.outstanding g u ≤ lim then ({ x with wait := .ready } : Group).next else x
      | _ => x) }
def State.settleQueues (s : State) (t : Nat) : State := s.setTile t Tile.settleQueues

end Sys2Proof.Machine
end

