-- ==== Sys2Proof/Machine/Flags.lean ====
section
/-! DEFINITION. The value and flag computations of the vector engine (R154, R165 to R170, R183, R198): one function per
kind of operation, from operand bits to result bits and group flags. -/

namespace Sys2Proof.Machine

/-! Modifiers (R150): abs_a, then neg_a, on source a; neg_b on source b. They act on the value as the instruction reads it: a float's
sign, a 32-bit integer's two's complement, a typed value's number. SEL and SHFL move FP32 values (log entry 12). -/

/-- Sources read as FP32. -/
def modA (w : FmtV) (v : Nat) : Nat :=
  let v := if w.absA then v % 2 ^ 31 else v
  if w.negA then Nat.xor v (2 ^ 31) else v
def modB (w : FmtV) (v : Nat) : Nat := if w.negB then Nat.xor v (2 ^ 31) else v

/-- Sources read as 32-bit integers. -/
def intNeg (v : Nat) : Nat := (2 ^ 32 - v % 2 ^ 32) % 2 ^ 32
def intA (w : FmtV) (v : Nat) : Nat :=
  let v := if w.absA && bitN v 31 then intNeg v else v
  if w.negA then intNeg v else v
def intB (w : FmtV) (v : Nat) : Nat := if w.negB then intNeg v else v
/-- A typed source as a number; an integer has no negative zero. -/
def valA (w : FmtV) (ts : Nat) (x : FV) : FV :=
  let x := if w.absA then x.abs else x
  if w.negA && !(isIntType ts && x.isZero) then x.negate else x
/-- A 4-bit code, as an INT4 value. -/
def codeA (w : FmtV) (c : Nat) : Nat :=
  let c := if w.absA && bitN c 3 then 16 - c % 16 else c % 16
  if w.negA then (16 - c) % 16 else c

/-- rm of the arithmetic of R154: SR and the reserved codes apply as RNE (R152). -/
def arithRm (rm : Nat) : Nat := if rm ≤ 3 then rm else 0

/-- Two-operand float arithmetic, rounded once. -/
def fp2 (op : FV → FV → Nat → FV × Nat) (w : FmtV) (daz ftz : Bool) (a b : Nat) : Nat × Nat :=
  let (x, f1) := readFV 0 (modA w a) daz
  let (y, f2) := readFV 0 (modB w b) daz
  let (r, f3) := outF32 (op x y (arithRm w.rm)) (arithRm w.rm) w.sat ftz
  (r, flOr f1 (flOr f2 f3))
def fpAdd (w : FmtV) := fp2 addFV w
def fpSub (w : FmtV) := fp2 (fun x y rm => addFV x y.negate rm) w
def fpMul (w : FmtV) := fp2 (fun x y _ => mulFV x y) w
def fpDiv (w : FmtV) := fp2 (fun x y _ => divFV x y) w
def fpFma (w : FmtV) (daz ftz : Bool) (a b c : Nat) : Nat × Nat :=
  let (x, f1) := readFV 0 (modA w a) daz
  let (y, f2) := readFV 0 (modB w b) daz
  let (z, f3) := readFV 0 c daz
  let (r, f4) := outF32 (fmaFV x y z (arithRm w.rm)) (arithRm w.rm) w.sat ftz
  (r, flOr (flOr f1 f2) (flOr f3 f4))
def fpSqrt (w : FmtV) (daz ftz : Bool) (a : Nat) : Nat × Nat :=
  let (x, f1) := readFV 0 (modA w a) daz
  let (r, f2) := outF32 (sqrtFV x) (arithRm w.rm) w.sat ftz
  (r, flOr f1 f2)

/-- The bits of an exactly representable FP32 value that no rounding made: flushed by the engine's mode, never uf. -/
def keepF32 (x : FV) (ftz : Bool) : Nat × Nat :=
  let b := (convFV x 0 0 0 false false).1
  if ftz && isSubnormal 0 b then (signBit 0 (bitN b 31), Fl.fz) else (b, 0)
def fpMinMax (isMax : Bool) (w : FmtV) (daz ftz : Bool) (a b : Nat) : Nat × Nat :=
  let (x, f1) := readFV 0 (modA w a) daz
  let (y, f2) := readFV 0 (modB w b) daz
  let (r, f3) := keepF32 (if isMax then maxFV x y else minFV x y) ftz
  (r, flOr f1 (flOr f2 f3))
/-- FCMP answers its condition. -/
def fpCmp (w : FmtV) (daz : Bool) (a b : Nat) : Bool × Nat :=
  let (x, f1) := readFV 0 (modA w a) daz
  let (y, f2) := readFV 0 (modB w b) daz
  (fcmp w.rm x y, flOr f1 f2)
/-- FRCP, FRSQ (1 ulp), FEXP2, FLOG2, FTANH (2 ulp); they ignore rm. -/
def fpApprox (op ulps : Nat) (w : FmtV) (daz ftz : Bool) (a : Nat) : Nat × Nat :=
  let v := modA w a
  let (x, f1) := readFV 0 v daz
  let (r, f2) := fApprox op x v ulps ftz
  (r, flOr f1 f2)

/-- ICMP conditions (R154): 0–5 signed, 6 unsigned LT, 7 unsigned GE. -/
def icmpCond (cond a b : Nat) : Bool :=
  let x := sgnN 32 a
  let y := sgnN 32 b
  match cond with
  | 0 => x == y
  | 1 => x != y
  | 2 => decide (x < y)
  | 3 => decide (x ≤ y)
  | 4 => decide (y < x)
  | 5 => decide (y ≤ x)
  | 6 => decide (a < b)
  | _ => decide (b ≤ a)

def iAdd (a b : Nat) : Nat := (a + b) % 2 ^ 32
def iSub (a b : Nat) : Nat := (a + 2 ^ 32 - b % 2 ^ 32) % 2 ^ 32
def iMul (a b : Nat) : Nat := a * b % 2 ^ 32
def iShl (a b : Nat) : Nat := a * 2 ^ (b % 32) % 2 ^ 32
def iShr (a b : Nat) : Nat := a / 2 ^ (b % 32)
def iSar (a b : Nat) : Nat := uN 32 (sgnN 32 a / (2 ^ (b % 32) : Int))
def iMin (a b : Nat) : Nat := if sgnN 32 a ≤ sgnN 32 b then a else b
def iMax (a b : Nat) : Nat := if sgnN 32 a ≤ sgnN 32 b then b else a

/-- A slot number beyond the count of its type is applied as 0 (R153). -/
def slotNo (k w : Nat) : Nat := if k < 32 / w then k else 0
def slotBad (k w : Nat) : Bool := w < 32 && !(k < 32 / w)
/-- A type field: reserved values apply as the default. -/
def typeNo (t : Nat) : Nat := if t ≤ 11 then t else 0

/-- Reads a source of type ts from slot k of a register; 32-bit sources ignore k (R165). -/
def srcOf (ts k v : Nat) : Nat := if slotBits ts = 32 then v else slotGet v (slotNo k (slotBits ts)) (slotBits ts) % 2 ^ typeBits ts
/-- Writes a destination of type td into slot k; other bits keep their values (R165). -/
def dstOf (td k old r : Nat) : Nat := if slotBits td = 32 then r else slotPut old (slotNo k (slotBits td)) (slotBits td) r

/-- CVT: type ts to td (R166). -/
def cvtBits (w : FmtV) (ts td v rm u : Nat) (daz ftz : Bool) : Nat × Nat :=
  let (x, f1) := readFV ts v daz
  let (b, f2) := convFV (valA w ts x) td rm u w.sat ftz
  (b, flOr f1 f2)
/-- CVTS: the exact product of a source and an FP32 scale, rounded once (R166, R194 step 3). -/
def cvtsBits (w : FmtV) (ts td v scale rm u : Nat) (daz ftz : Bool) : Nat × Nat :=
  let sat := w.sat
  let (x, f1) := readFV ts v daz
  let x := valA w ts x
  let (y, f2) := readFV 0 (modB w scale) daz
  if x.isNan then (let (b, f) := convFV .nan td rm u sat ftz; (b, flOr f (flOr f1 f2)))
  else
    let (p, f3) := mulFV x y
    let (b, f4) := convFV p td rm u sat ftz
    (b, flOr (flOr f1 f2) (flOr f3 f4))

/-- XSZP: (q − z) × scale, one rounding to FP32 by RNE (R167). -/
def xszpBits (w : FmtV) (ts q z scale : Nat) (daz ftz : Bool) : Nat × Nat :=
  let q := sgnN (typeBits ts) q
  let q : Int := if w.absA then q.natAbs else q
  let d := (if w.negA then -q else q) - sgnN 32 z
  let (y, f1) := readFV 0 (modB w scale) daz
  let (r, f2) := outF32 (mulFV (.fin (d < 0) d.natAbs 0) y) 0 false ftz
  (r, flOr f1 f2)

/-- emax of R170, for types 3 to 7. -/
def emaxOf (td : Nat) : Int := match td with | 3 => 8 | 4 => 15 | 5 => 4 | 6 => 2 | _ => 2
/-- BSCALE's exponent: ⌊log₂ a⌋ − emax, clamped; 0 when a = 0 (R170). -/
def bscaleExp (td : Nat) (a : FV) : Int :=
  match a with
  | .fin _ m e => if m = 0 then 0 else max (-127) (min 127 (leadExp m e - emaxOf td))
  | _ => 0
/-- One element of BSCALE: va × 2^−e rounded once into td; a value beyond the largest finite value is clamped to it, and
each clamp sets sat, as the worked example of R170 shows. -/
def bscaleElem (td rm : Nat) (x : FV) (e : Int) (ftz : Bool) : Nat × Nat :=
  match x with
  | .fin n m xe =>
    if !magLe m (xe - e) (maxFin td).1 (maxFin td).2 then (maxFinOf td n, Fl.sat)
    else convFV (.fin n m (xe - e)) td rm 0 true ftz
  | _ => (0, 0)

end Sys2Proof.Machine
end

