-- ==== Sys2Proof/Machine/Vector.lean ====
section
/-! DEFINITION. The thread instructions of TTIS but memory accesses (R154 to R170, R178): NOP to VOTE, float and integer
arithmetic, conversion, slots, block scales and random bits. -/

namespace Sys2Proof.Machine

abbrev Res := Host.Outcome State Fault Refusal

/-- A reserved field of a thread instruction is noted when a thread executes it (R153, R155). -/
def State.vecRes (s : State) (t g pred : Nat) (pneg : Bool) (c : Bool) : State :=
  s.tileRes t (c && (s.group t g).execMask pred pneg != 0)

/-- A reserved type in ts or td, whether or not the instruction reads the field (R151, R153). -/
def typeRes (w : FmtV) : Bool := w.ts > 11 || w.td > 11
/-- Reserved values in the fields of format V, noted. In the rm field of an instruction other than CVT and CVTS a value above 3 is reserved,
unless it is a condition (R152). -/
def State.rmRes (s : State) (t g : Nat) (w : FmtV) : State := s.vecRes t g w.pred w.pneg (w.rm > 3 || typeRes w)

/-! Operand forms: what one thread's instruction does to its registers. -/

def v1 (w : FmtV) (f : Nat → Nat × Nat) (g : Group) (th : Nat) : Group × Nat :=
  let r := f (g.reg th w.va); (g.setReg th w.vd r.1, r.2)
def v2 (w : FmtV) (f : Nat → Nat → Nat × Nat) (g : Group) (th : Nat) : Group × Nat :=
  let r := f (g.reg th w.va) (g.reg th w.vb); (g.setReg th w.vd r.1, r.2)
def v3 (w : FmtV) (f : Nat → Nat → Nat → Nat × Nat) (g : Group) (th : Nat) : Group × Nat :=
  let r := f (g.reg th w.va) (g.reg th w.vb) (g.reg th w.vc); (g.setReg th w.vd r.1, r.2)
def vp (w : FmtV) (f : Nat → Nat → Bool × Nat) (g : Group) (th : Nat) : Group × Nat :=
  let r := f (g.reg th w.va) (g.reg th w.vb); (g.setPred th w.pd r.1, r.2)
/-- A two-operand integer instruction: operands modified as integers (R150). -/
def int2 (w : FmtV) (f : Nat → Nat → Nat) : Group → Nat → Group × Nat := v2 w (fun a b => (f (intA w a) (intB w b), 0))

/-- A V-format instruction with the rm check of R152. -/
def State.vecV (s : State) (t g : Nat) (w : FmtV) (f : Group → Nat → Group × Nat) : State :=
  s.issue t g fun s => (s.rmRes t g w).vec t g w.pred w.pneg f

/-! ### Class 0: control (R154, R156, R158) -/

/-- NOP: the group goes on. -/
def execNop (t g : Nat) (_w : FmtI) (s : State) : Res := .next (s.issue t g fun s => s.advance t g)
/-- A reserved opcode executes as NOP and is noted (R153). -/
def execReservedOpcode (t g _op : Nat) (_w : FmtI) (s : State) : Res :=
  .next (s.issue t g fun s => (s.tileRes t true).advance t g)

/-- Splits a group at a divergent branch: not-taken threads run first (R156); an entry of the same reconvergence
address takes the paths (R157), the new one behind those that already wait: the spec does not order them (DESIGN CHOICE, log entry
136). None: the stack would need a seventeenth entry. -/
def Group.branch (g : Group) (taken : Nat) (rpc : Option Nat) (target : Nat) : Option Group :=
  let nt := maskSub g.active taken
  if taken = 0 then some g.next
  else if nt = 0 then some (g.jump target)
  else
    let path : Path := ⟨target % 2 ^ 64, taken⟩
    match g.stack with
    | e :: rest =>
      if e.rpc = rpc && rpc.isSome then some ({ g with active := nt, stack := { e with paths := e.paths ++ [path] } :: rest }.next)
      else if g.stack.length ≥ 16 then none
      else some ({ g with active := nt, stack := ⟨rpc, g.active, [path]⟩ :: g.stack }.next)
    | [] => some ({ g with active := nt, stack := [⟨rpc, g.active, [path]⟩] }.next)

/-- BRA (R156, R157). -/
def execBra (t g : Nat) (w : FmtB) (s : State) : Res :=
  .next (s.issue t g fun s =>
    let x := s.group t g
    let off := fun (o : Int) => uN 64 ((x.pc : Int) + 8 * o)
    let rpc := if w.rpcOff = 0 then none else some (off w.rpcOff)
    match x.branch (x.execMask w.pred w.pneg) rpc (off w.tgtOff) with
    | some y => s.setGroup t g (fun _ => y)
    | none => s.lapStop t St.divergeDepth g ((leaderOf x.active).getD 0) uThread x.pc x.pc)

/-- Groups not yet ended (TILE_STATUS.groups_live). -/
def Tile.live (tl : Tile) (n : Nat) : Nat :=
  ((List.range n).filter (fun g => (tl.groups.atD g {}).wait != .ended)).length
def State.countLive (s : State) (t : Nat) : State :=
  s.pf F.TILE_STATUS_groups_live t ((s.tile t).live (s.lapOf t).groups)

/-- The barrier deadlock of R181: every live group waits at a BAR, and no barrier has its count. -/
def State.barCheck (s : State) (t : Nat) : State :=
  let live := (List.range (s.lapOf t).groups).filter (fun g => (s.group t g).wait != .ended)
  let atBar := fun (g : Nat) => match (s.group t g).wait with | .bar _ _ => true | _ => false
  match live with
  | [] => s
  | g :: _ =>
    if live.all atBar then s.lapStop t St.barDeadlock g ((leaderOf (s.group t g).active).getD 0) uThread (s.group t g).pc (s.group t g).pc
    else s

/-- EXIT: the executing threads leave the group and every mask of its stack (R158). -/
def execExit (t g : Nat) (w : FmtI) (s : State) : Res :=
  .next (s.issue t g fun s =>
    let x := s.group t g
    let gone := x.execMask w.pred w.pneg
    let y : Group := { x with exited := maskOr x.exited gone, active := maskSub x.active gone }
    let y := y.next
    ((s.setGroup t g (fun _ => y)).countLive t).barCheck t)

/-- The S2R values (R154). -/
def s2rVal (s : State) (t g : Nat) (x : Group) (th imm : Nat) : Nat :=
  let l := s.lapOf t
  match imm with
  | 0 => th
  | 1 => g
  | 2 => t
  | 3 => l.index
  | 4 => l.step % 2 ^ 32
  | 5 => l.step / 2 ^ 32 % 2 ^ 32
  | 6 => s.dieTime (tileDie t) % 2 ^ 32
  | 7 => x.held.atD th 0
  | 8 => x.flags
  | 9 => l.gear
  | 10 => l.args % 2 ^ 32
  | 11 => l.args / 2 ^ 32 % 2 ^ 32
  | _ => th

/-- S2R: imm 6 also holds DIE_TIME[63:32] for imm 7 of the same thread; a reserved imm is applied as 0 (R153). -/
def execS2r (t g : Nat) (w : FmtI) (s : State) : Res :=
  .next (s.issue t g fun s =>
    (s.vecRes t g w.pred w.pneg (decide (w.imm > 11))).vec t g w.pred w.pneg fun x th =>
      let y := x.setReg th w.vd (s2rVal s t g x th w.imm)
      (if w.imm = 6 then { y with held := y.held.put th (s.dieTime (tileDie t) / 2 ^ 32 % 2 ^ 32) } else y, 0))

/-- FLGCLR clears the flags imm[7:0] names, when some thread executes it. -/
def execFlgclr (t g : Nat) (w : FmtI) (s : State) : Res :=
  .next (s.issue t g fun s =>
    (s.setGroup t g fun x =>
      if x.execMask w.pred w.pneg = 0 then x else { x with flags := maskSub x.flags (w.imm % 256) }).advance t g)

/-- VOTE: the mask of active threads whose predicate pd is 1. -/
def execVote (t g : Nat) (w : FmtV) (s : State) : Res :=
  .next (s.vecV t g w fun x th => (x.setReg th w.vd (maskAnd (s.group t g).active ((s.group t g).predMask w.pd)), 0))

/-! ### Class 1: float arithmetic -/

def execFadd (t g : Nat) (w : FmtV) (s : State) : Res := .next (s.vecV t g w (v2 w (fpAdd w (s.vecDaz t) (s.vecFtz t))))
def execFsub (t g : Nat) (w : FmtV) (s : State) : Res := .next (s.vecV t g w (v2 w (fpSub w (s.vecDaz t) (s.vecFtz t))))
def execFmul (t g : Nat) (w : FmtV) (s : State) : Res := .next (s.vecV t g w (v2 w (fpMul w (s.vecDaz t) (s.vecFtz t))))
def execFfma (t g : Nat) (w : FmtV) (s : State) : Res := .next (s.vecV t g w (v3 w (fpFma w (s.vecDaz t) (s.vecFtz t))))
def execFmin (t g : Nat) (w : FmtV) (s : State) : Res := .next (s.vecV t g w (v2 w (fpMinMax false w (s.vecDaz t) (s.vecFtz t))))
def execFmax (t g : Nat) (w : FmtV) (s : State) : Res := .next (s.vecV t g w (v2 w (fpMinMax true w (s.vecDaz t) (s.vecFtz t))))
/-- FCMP: rm is the condition. -/
def execFcmp (t g : Nat) (w : FmtV) (s : State) : Res :=
  .next (s.issue t g fun s => (s.vecRes t g w.pred w.pneg (typeRes w)).vec t g w.pred w.pneg (vp w (fpCmp w (s.vecDaz t))))
def execFdiv (t g : Nat) (w : FmtV) (s : State) : Res := .next (s.vecV t g w (v2 w (fpDiv w (s.vecDaz t) (s.vecFtz t))))
def execFsqrt (t g : Nat) (w : FmtV) (s : State) : Res := .next (s.vecV t g w (v1 w (fpSqrt w (s.vecDaz t) (s.vecFtz t))))
def execFrcp (t g : Nat) (w : FmtV) (s : State) : Res := .next (s.vecV t g w (v1 w (fpApprox 0x19 1 w (s.vecDaz t) (s.vecFtz t))))
def execFrsq (t g : Nat) (w : FmtV) (s : State) : Res := .next (s.vecV t g w (v1 w (fpApprox 0x1A 1 w (s.vecDaz t) (s.vecFtz t))))
def execFexp2 (t g : Nat) (w : FmtV) (s : State) : Res := .next (s.vecV t g w (v1 w (fpApprox 0x1B 2 w (s.vecDaz t) (s.vecFtz t))))
def execFlog2 (t g : Nat) (w : FmtV) (s : State) : Res := .next (s.vecV t g w (v1 w (fpApprox 0x1C 2 w (s.vecDaz t) (s.vecFtz t))))
def execFtanh (t g : Nat) (w : FmtV) (s : State) : Res := .next (s.vecV t g w (v1 w (fpApprox 0x1D 2 w (s.vecDaz t) (s.vecFtz t))))

/-! ### Class 2: integers, bits, selection -/

def execIadd (t g : Nat) (w : FmtV) (s : State) : Res := .next (s.vecV t g w (int2 w iAdd))
def execIsub (t g : Nat) (w : FmtV) (s : State) : Res := .next (s.vecV t g w (int2 w iSub))
def execImul (t g : Nat) (w : FmtV) (s : State) : Res := .next (s.vecV t g w (int2 w iMul))
def execImad (t g : Nat) (w : FmtV) (s : State) : Res :=
  .next (s.vecV t g w (v3 w (fun a b c => (iAdd (iMul (intA w a) (intB w b)) c, 0))))
def execAnd (t g : Nat) (w : FmtV) (s : State) : Res := .next (s.vecV t g w (int2 w Nat.land))
def execOr (t g : Nat) (w : FmtV) (s : State) : Res := .next (s.vecV t g w (int2 w Nat.lor))
def execXor (t g : Nat) (w : FmtV) (s : State) : Res := .next (s.vecV t g w (int2 w Nat.xor))
def execShl (t g : Nat) (w : FmtV) (s : State) : Res := .next (s.vecV t g w (int2 w iShl))
def execShr (t g : Nat) (w : FmtV) (s : State) : Res := .next (s.vecV t g w (int2 w iShr))
def execSar (t g : Nat) (w : FmtV) (s : State) : Res := .next (s.vecV t g w (int2 w iSar))
def execImin (t g : Nat) (w : FmtV) (s : State) : Res := .next (s.vecV t g w (int2 w iMin))
def execImax (t g : Nat) (w : FmtV) (s : State) : Res := .next (s.vecV t g w (int2 w iMax))
/-- ICMP: rm is the condition. -/
def execIcmp (t g : Nat) (w : FmtV) (s : State) : Res :=
  .next (s.issue t g fun s => (s.vecRes t g w.pred w.pneg (typeRes w)).vec t g w.pred w.pneg
    (vp w (fun a b => (icmpCond w.rm (intA w a) (intB w b), 0))))
/-- SEL: pd names the selecting predicate. -/
def execSel (t g : Nat) (w : FmtV) (s : State) : Res :=
  .next (s.vecV t g w fun x th =>
    (x.setReg th w.vd (if bitN (x.predMask w.pd) th then modA w (x.reg th w.va) else modB w (x.reg th w.vb)), 0))
def execMovi (t g : Nat) (w : FmtI) (s : State) : Res :=
  .next (s.issue t g fun s => s.vec t g w.pred w.pneg fun x th => (x.setReg th w.vd w.imm, 0))
/-- SHFL reads the registers as they stood before the instruction. -/
def execShfl (t g : Nat) (w : FmtV) (s : State) : Res :=
  .next (s.vecV t g w fun x th =>
    (x.setReg th w.vd (modA w ((s.group t g).reg (intB w ((s.group t g).reg th w.vb) % 32) w.va)), 0))

/-! ### Class 3: conversion (R165 to R167, R194 to R197, R211) -/

/-- Random bits of vector conversion for one thread: stream 1, word 0 (R166, R238). -/
def State.cvtRandom (s : State) (t g th : Nat) (w : FmtV) : Nat × State :=
  let x := s.group t g
  if w.rm = 4 && typeNo w.td ≠ 11 then
    s.laneWord t (laneOf g th) (s.lapFixed t) (fixedCtr (x.reg th w.vc + 2 ^ 32 * x.srHi) 1 x.srTid (s.lapOf t).step) 0
  else (0, s)

/-- Draws for every executing thread, lowest first; answers the words by thread. -/
def State.drawAll (s : State) (ths : List Nat) (f : State → Nat → Nat × State) : Tab Nat × State :=
  ths.foldl (fun acc th => let r := f acc.2 th; (acc.1.put th r.1, r.2)) ({}, s)

/-- CVT or CVTS in one thread. A slot number that only one side's type has no place for is applied as 0 on that side, and the other side
keeps it: the spec does not say (DESIGN CHOICE, log entry 137). -/
def cvtBody (w : FmtV) (scaled daz ftz : Bool) (us : Tab Nat) (x : Group) (th : Nat) : Group × Nat :=
  let ts := typeNo w.ts
  let td := typeNo w.td
  let rm := if w.rm ≤ 4 then w.rm else 0
  let v := srcOf ts w.slot (x.reg th w.va)
  let u := us.atD th 0 % 65536
  let r := if scaled then cvtsBits w ts td v (x.reg th w.vb) rm u daz ftz else cvtBits w ts td v rm u daz ftz
  (x.setReg th w.vd (dstOf td w.slot (x.reg th w.vd) r.1), r.2)

def State.cvtRun (s : State) (t g : Nat) (w : FmtV) (scaled : Bool) : State :=
  s.issue t g fun s =>
    let res := w.ts > 11 || w.td > 11 || w.rm > 4 || slotBad w.slot (slotBits (typeNo w.ts)) || slotBad w.slot (slotBits (typeNo w.td))
    let s := s.vecRes t g w.pred w.pneg res
    let x := s.group t g
    let (us, s) := s.drawAll (threadsOf (x.execMask w.pred w.pneg)) (fun s th => s.cvtRandom t g th w)
    s.vec t g w.pred w.pneg (cvtBody w scaled (s.vecDaz t) (s.vecFtz t) us)

def execCvt (t g : Nat) (w : FmtV) (s : State) : Res := .next (s.cvtRun t g w false)
def execCvts (t g : Nat) (w : FmtV) (s : State) : Res := .next (s.cvtRun t g w true)

/-- Entry c of a slot's table as FP32, or the code as an INT4 value where there is no table (R211). -/
def xlutVal (sl : Slot) (c : Nat) (ftz : Bool) : Nat × Nat :=
  if sl.mode = 1 then
    let v := fieldB sl.record (4 * c) 4
    if ftz && isSubnormal 0 v then (signBit 0 (bitN v 31), Fl.fz) else (v, 0)
  else ((convFV (decType 9 c) 0 0 0 false false).1, 0)

/-- XLUT waits while a slot it names is still binding (R159). -/
def execXlut (t g : Nat) (w : FmtV) (s : State) : Res :=
  let x := s.group t g
  let slotOf := fun (x : Group) (th : Nat) => intB w (x.reg th w.vb) % 16
  let ths := threadsOf (x.execMask w.pred w.pneg)
  if ths.any (fun th => !s.slotReady t (slotOf x th)) then .next s
  else
    -- a reserved mode of a record is applied as 0 (R208)
    let badMode := ths.any (fun th => (s.slot t (slotOf x th)).mode > 2)
    .next (s.issue t g fun s => ((s.rmRes t g w).vecRes t g w.pred w.pneg (slotBad w.slot 4 || badMode)).vec t g w.pred w.pneg fun x th =>
      let c := codeA w (slotGet (x.reg th w.va) (slotNo w.slot 4) 4)
      let r := xlutVal (s.slot t (slotOf x th)) c (s.vecFtz t)
      (x.setReg th w.vd r.1, r.2))

def execXszp (t g : Nat) (w : FmtV) (s : State) : Res :=
  let ts := if w.ts = 9 then 9 else 8
  .next (s.issue t g fun s =>
    ((s.rmRes t g w).vecRes t g w.pred w.pneg (w.ts ≠ 8 && w.ts ≠ 9 || slotBad w.slot (slotBits ts))).vec t g w.pred w.pneg fun x th =>
      let r := xszpBits w ts (srcOf ts w.slot (x.reg th w.va)) (x.reg th w.vc) (x.reg th w.vb) (s.vecDaz t) (s.vecFtz t)
      (x.setReg th w.vd r.1, r.2))

/-! ### Scaling slots read and marked by thread instructions (R168 to R170) -/

/-- SGET: the slot's scale as FP32 (td 0) or as an E8M0 byte in slot 0 (td 11), bits [31:8] of vd kept as for any destination slot of
R165 (DESIGN CHOICE, log entry 138); an unbound slot gives 1.0. -/
def execSget (t g : Nat) (w : FmtV) (s : State) : Res :=
  if !s.slotReady t (w.slot % 16) then .next s else
  let sl := s.slot t (w.slot % 16)
  let sc := if sl.bound then sl.scale else 0x3F800000
  .next (s.issue t g fun s =>
    ((s.rmRes t g w).vecRes t g w.pred w.pneg (w.td ≠ 0 && w.td ≠ 11)).vec t g w.pred w.pneg fun x th =>
      if w.td = 11 then
        (x.setReg th w.vd (slotPut (x.reg th w.vd) 0 8 (convFV (decType 0 sc) 11 0 0 false false).1), 0)
      else (x.setReg th w.vd sc, 0))

/-- AMAX: the largest finite |va| of the executing threads, into their vd and the slot's maximum (R169); the result is
flushed by the engine's mode (R198). Without a finite value it is +0: the spec names none (DESIGN CHOICE, log entry 140). -/
def execAmax (t g : Nat) (w : FmtV) (s : State) : Res :=
  if !s.slotReady t (w.slot % 16) then .next s else
  .next (s.issue t g fun s =>
    let x := s.group t g
    let ths := threadsOf (x.execMask w.pred w.pneg)
    let daz := s.vecDaz t
    let vals := ths.map (fun th => modA w (x.reg th w.va))
    let mags := vals.map (fun v => if daz && isSubnormal 0 v then 0 else v % 2 ^ 31)
    let fl := if daz && vals.any (isSubnormal 0) then Fl.fz else 0
    let r := keepF32 (decFloat 0 (maxList (mags.filter (fun v => v < 0x7F800000)))) (s.vecFtz t)
    let bad := mags.any (fun v => v ≥ 0x7F800000)
    let s := (s.rmRes t g w)
    let s := if ths = [] then s else s.slotMax t (w.slot % 16) r.1
    let s := s.when bad (fun s => s.slotMark t (w.slot % 16) Mk.nonfinite)
    s.vec t g w.pred w.pneg fun y th => (y.setReg th w.vd r.1, flOr (flOr fl r.2) (if bad then Fl.nf else 0)))

/-- BSCALE (R170): one block of up to 32 values, its scale byte in vb, its elements in slot k of vd. -/
def execBscale (t g : Nat) (w : FmtV) (s : State) : Res :=
  let td := if 3 ≤ w.td && w.td ≤ 7 then w.td else 3
  .next (s.issue t g fun s =>
    let x := s.group t g
    let ths := threadsOf (x.execMask w.pred w.pneg)
    let daz := s.vecDaz t
    let vals := ths.map (fun th => readFV 0 (modA w (x.reg th w.va)) daz)
    let bad := vals.any (fun v => !v.1.isFin)
    let a := vals.foldl (fun m v => maxFV m v.1.abs) (.fin false 0 0)
    let e := bscaleExp td a
    let byte := if bad then 0xFF else (e + 127).toNat
    let s := ((s.rmRes t g w).vecRes t g w.pred w.pneg (w.td ≠ td || slotBad w.slot (slotBits td)))
    s.vec t g w.pred w.pneg fun y th =>
      let r := readFV 0 (modA w (x.reg th w.va)) daz
      let el := if bad then (0, Fl.nf) else bscaleElem td (arithRm w.rm) r.1 e (s.vecFtz t)
      ((y.setReg th w.vd (dstOf td w.slot (y.reg th w.vd) el.1)).setReg th w.vb byte, flOr r.2 el.2))

/-! ### Class 9: random bits (R166, R178) -/

def execRand (t g : Nat) (w : FmtV) (s : State) : Res :=
  .next (s.issue t g fun s =>
    let x := s.group t g
    let (us, s) := (s.rmRes t g w).drawAll (threadsOf (x.execMask w.pred w.pneg)) fun s th =>
      s.laneWord t (laneOf g th) (s.lapFixed t)
        (fixedCtr (intA w (x.reg th w.va) + 2 ^ 32 * (intB w (x.reg th w.vb) / 2 ^ 24)) (x.reg th w.vc % 256)
          (intB w (x.reg th w.vb) % 2 ^ 24) (s.lapOf t).step)
        (w.slot % 4)
    s.vec t g w.pred w.pneg fun y th => (y.setReg th w.vd (us.atD th 0), 0))

/-- SRCTX: the leader's va sets the group's stochastic-rounding context. -/
def execSrctx (t g : Nat) (w : FmtV) (s : State) : Res :=
  .next (s.issue t g fun s =>
    let s := s.rmRes t g w
    match s.leader t g w.pred w.pneg with
    | some th => (s.setGroup t g fun x => { x with srTid := intA w (x.reg th w.va) % 2 ^ 24, srHi := intA w (x.reg th w.va) / 2 ^ 24 % 256 }).advance t g
    | none => s.advance t g)

end Sys2Proof.Machine
end

