-- ==== Sys2Proof/Machine/Array.lean ====
section
/-! DEFINITION. The matrix array (R120 to R132, R161 to R164, R198, R202 to R210, R221, R230 to R234): stationary blocks,
streams, drains, and the queue they run through (R160). An operation's effect is performed when it completes; its range
and alignment are checked when it is issued. -/

namespace Sys2Proof.Machine

/-! ### Formats of a block (R122, R205, R206) -/

/-- Rank of a format's row of R122: FP32, then 16-bit, then FP8 and INT8, then FP6, then FP4 and INT4. -/
def rowRank (t : Nat) : Nat :=
  match t with
  | 0 => 4 | 1 => 3 | 2 => 3 | 3 => 2 | 4 => 2 | 8 => 2 | 5 => 1 | 6 => 1 | _ => 0
/-- E8M0, INT32 and unlisted types are reserved in f1 and f2 and apply as the default (R153, R161). -/
def arrType (t : Nat) : Nat := if t ≤ 9 then t else 0

/-- What an MLOAD fixes: f1, the partner, the cells' format X (none: exact integers q − z or floats as loaded), whether
both are integers, the governing rank, and whether a reserved encoding was met. -/
structure MixPlan where
  f1 : Nat
  partner : Nat
  ints : Bool
  /-- 0 elements as loaded, 1 table entries converted into `x`, 2 integers less a zero point. -/
  path : Nat
  x : Nat
  rank : Nat
  res : Bool
  deriving DecidableEq, Repr

def mixPlan (w : FmtT) (sl : Slot) : MixPlan :=
  let f1 := arrType w.f1
  let p0 := if w.zero then arrType w.f2 else f1
  let badP := isFloatType f1 && isIntType p0
  let partner := if badP then f1 else p0
  let res0 := w.f1 > 9 || (w.zero && w.f2 > 9) || badP
  if isFloatType f1 then ⟨f1, partner, false, 0, f1, max (rowRank f1) (rowRank partner), res0⟩
  else if isIntType partner then ⟨f1, partner, true, 0, f1, max (rowRank f1) (rowRank partner), res0 || sl.mode > 2⟩
  else
    let mode := sl.mode
    if mode = 1 && f1 = 9 then
      let x := if rowRank partner ≥ 2 then partner else 3
      ⟨f1, partner, false, 1, x, max (rowRank x) (rowRank partner), res0⟩
    else
      let x := if partner ≤ 2 then partner else 1
      ⟨f1, partner, false, 2, x, max (rowRank x) (rowRank partner), res0 || (mode = 1 && f1 = 8) || mode > 2⟩

/-- Axis-0 reduction length of a governing row: 128 for FP4 and INT4, 64 otherwise (R122). -/
def blkRows (rank : Nat) : Nat := if rank = 0 then 128 else 64
/-- Tile cycles per stream row of a governing row (R122). -/
def rowCycles (rank : Nat) : Nat := if rank = 4 then 8 else if rank = 3 then 2 else 1
/-- A block scale cannot go with this format (R162, R203). -/
def bscOk (f : Nat) (ints : Bool) : Bool := !(f = 0 || f = 1 || f = 2) && !ints

/-! ### Elements -/

/-- Reads an array operand, flushing subnormals as its path does (R198). -/
def arrRead (t v : Nat) (wideFtz : Bool) : FV × Nat :=
  let narrow := t = 3 || t = 4 || t = 5 || t = 6 || t = 7
  readFV t v (narrow || (wideFtz && t ≤ 2))

/-- The zero point of a slot's record, and whether it lies outside the range for f1 (R208). -/
def zeroPoint (sl : Slot) (f1 : Nat) : Int × Bool :=
  if sl.mode = 2 || (sl.mode = 1 && f1 = 8) then
    let z := sgnN 8 (fieldB sl.record 65 1)
    if f1 = 9 && (z < -8 || z > 7) then (0, true) else (z, false)
  else (0, false)

/-- The 16 table entries converted into X by RNE with sat = 1 and the drain's subnormal rule (R209): value, flags, and
whether any changed. -/
def tableVals (sl : Slot) (x : Nat) (wideFtz : Bool) : List FV × Nat × Bool :=
  (List.range 16).foldl (fun acc c =>
    let v := fieldB sl.record (4 * c) 4
    let narrow := x ≥ 3
    let r := convBits 0 x v 0 0 true false (narrow || wideFtz)
    let back := decType x r.1
    let orig := decType 0 v
    let changed := !(eqFV back orig || (back.isNan && orig.isNan))
    (acc.1 ++ [back], flOr acc.2.1 (r.2 &&& (Fl.fz ||| Fl.sat ||| Fl.of ||| Fl.nv)), acc.2.2 || changed)) ([], 0, false)

/-- Bytes of row r of the block: from the tile store or the Pod of the tile's die (R161). -/
def State.blkBytes (s : State) (t : Nat) (src a n : Nat) : Bytes :=
  if src = 0 then s.sramRead (tstoreBase t + a) n else s.sramRead (podBase (tileDie t) + a) n

/-- Element codes of the stationary block in row-major order over R rows of 64, from the stored rows; src 2 transposes
each 64 × 64 part (R161). -/
def blkCodes (row : Nat → List Nat) (rows : Nat) (transposed : Bool) : List Nat :=
  if transposed then
    (List.range rows).flatMap (fun i => (List.range 64).map (fun j => (row (i / 64 * 64 + j)).getD (i % 64) 0))
  else (List.range rows).flatMap row

/-- MLOAD's effect on the shadow registers (R161, R162, R205 to R210, R221). -/
def State.doMload (s : State) (t : Nat) (o : ArrOp) : State :=
  let sl := s.slot t (o.w.slot % 16)
  let p := mixPlan o.w sl
  let rows := blkRows p.rank
  let src := if o.w.src = 3 then 0 else o.w.src
  let wide := s.gb F.TILE_NUM_CTRL_arr_wide_ftz t
  let nB := rowBytes p.f1 64
  let codes := blkCodes (fun i => unpackElems p.f1 64 (s.blkBytes t src (o.a + i * o.stride) nB)) rows (src = 2)
  let (z, zBad) := zeroPoint sl p.f1
  let (tbl, tblFl, inexact) := if p.path = 1 then tableVals sl p.x wide else ([], 0, false)
  let vals := codes.map (fun c =>
    if p.path = 1 then (tbl.getD c (.fin false 0 0), 0)
    else if p.path = 2 then
      (let v := sgnN (typeBits p.f1) c - z; ((.fin (v < 0) v.natAbs 0 : FV), 0))
    else arrRead p.f1 c wide)
  let inFl := vals.foldl (fun f v => flOr f v.2) 0
  let bsc := o.w.bsc && bscOk p.f1 p.ints
  let G := rows / 32
  let scales := if bsc then (s.sramRead (tstoreBase t + o.b) (64 * G)).map (·.toNat) else []
  let sclOn := o.w.scl && !p.ints
  let k := if sclOn then (scaleExp (if sl.bound && !sl.cold then sl.scale else 0x3F800000)).getD 0 else 0
  let s := s.tileRes t (p.res || zBad || (o.w.bsc && !bsc) || (o.w.scl && p.ints) || o.w.src = 3)
  let s := s.arrFlags t (inFl &&& Fl.fz) false
  let s := s.arrFlags t (tblFl &&& Fl.fz) true
  let s := s.when inexact (fun s => s.pf F.TILE_NUM_STATUS_table_inexact t 1)
  let blk : Block := { rows := rows, elems := vals.map (·.1), ints := p.ints, scales := scales, partner := p.partner,
                       cycles := rowCycles p.rank, sclK := k }
  s.setTile t (fun tl => { tl with shadow := some blk })

/-! ### Streams (R126, R127, R163, R202, R203) -/

/-- Rounds an exact array value to FP32 by RNE; overflow to infinity flags arr_of (R202). -/
def arrRound (x : FV × Nat) : FV × Nat :=
  let r := convFV x.1 0 0 0 false false
  (decFloat 0 r.1, flOr x.2 (r.2 &&& Fl.of))
/-- Multiplies by 2^e and rounds. -/
def arrScale (x : FV) (e : Int) : FV × Nat :=
  if e = 0 then (x, 0) else match x with
  | .fin n m xe => arrRound (.fin n m (xe + e), 0)
  | v => (v, 0)
/-- An E8M0 byte as an exponent; none for 0xFF, which makes its elements NaN (R191). -/
def e8m0Exp (b : Nat) : Option Int := if b % 256 = 255 then none else some ((b % 256 : Nat) - 127)

/-- A cell freewheels for this product: one operand is zero and the other is finite (R127, R131). -/
def arrGated (a b : FV) : Bool := (a.isZero && b.isFin) || (b.isZero && a.isFin)

/-- One product (R202, R127): none when it contributes nothing. The block scale and the scale that R221 removes are powers
of two in the exact value, which is rounded once. -/
def arrProduct (a b : FV) (sc : Option Int) (k : Int) : Option (FV × Nat) :=
  match sc with
  | none => some (.nan, 0)
  | some e =>
    if arrGated a b then none
    else
      let p := mulFV a b
      some (arrRound (match p.1 with | .fin n m x => .fin n m (x + e - k) | v => v, p.2))

/-- Sums a group's contributing products in ascending order, each addition rounded (R126 step 2). -/
def arrSum : List (Option (FV × Nat)) → Option (FV × Nat)
  | ps => ps.foldl (fun acc p => match acc, p with
      | none, p => p
      | some a, none => some a
      | some a, some p => let r := arrRound (addFV a.1 p.1 0); some (r.1, flOr a.2 (flOr p.2 r.2))) none

/-- One float output of one stream row: the groups in ascending order, each scaled and added to the accumulator entry. The elements of a
group whose stream scale is 0xFF are NaN, so its products flag nothing (R191, R202). -/
def arrOutF (acc : Nat) (as bs : List FV) (sSc : Nat → Option Int) (tSc : Nat → Option Int) (kS kT : Int) : Nat × Nat :=
  let n := (as.length + 31) / 32
  let r := (List.range n).foldl (fun (a : FV × Nat) g =>
    let prods := ((as.drop (32 * g)).take 32).zip ((bs.drop (32 * g)).take 32) |>.map (fun p => arrProduct p.1 p.2 (sSc g) kS)
    match tSc g, arrSum prods with
    | none, _ => (FV.nan, a.2)
    | some _, none => a
    | some e, some x =>
      let y := arrScale x.1 (e - kT)
      let r := arrRound (addFV a.1 y.1 0)
      (r.1, flOr (flOr a.2 x.2) (flOr y.2 r.2))) (decFloat 0 acc, 0)
  ((convFV r.1 0 0 0 false false).1, r.2)

def fvInt : FV → Int
  | .fin n m e => let v : Int := m * 2 ^ e.toNat; if n then -v else v
  | _ => 0
/-- One integer output: exact group sums, each addition into the entry clamped (R203). -/
def arrOutI (acc : Nat) (as bs : List FV) : Nat × Nat :=
  let n := (as.length + 31) / 32
  let r := (List.range n).foldl (fun (a : Int × Nat) g =>
    let sum := (((as.drop (32 * g)).take 32).zip ((bs.drop (32 * g)).take 32) |>.map (fun p => fvInt p.1 * fvInt p.2)).sum
    let v := a.1 + sum
    if v > 2 ^ 31 - 1 then (2 ^ 31 - 1, Fl.sat) else if v < -(2 ^ 31) then (-(2 ^ 31), Fl.sat) else (v, a.2)) (sgnN 32 acc, 0)
  (uN 32 r.1, r.2)

/-- The block a stream uses: the active one, or an all-zero block before any swap (R163). -/
def activeBlock (tl : Tile) (w : FmtT) : Block :=
  match tl.active with
  | some b => b
  | none =>
    let f := arrType w.f2
    { rows := blkRows (rowRank f), cols := 64, elems := List.replicate (blkRows (rowRank f) * 64) (.fin false 0 0),
      ints := isIntType f, partner := f, cycles := rowCycles (rowRank f) }

/-- Gated products of one output (R131): an element whose scale byte is 0xFF is NaN and gates nothing. -/
def arrGatedIn (as bs : List FV) (sSc tSc : Nat → Option Int) : Nat :=
  ((as.zip bs).zipIdx.filter (fun p => (sSc (p.2 / 32)).isSome && (tSc (p.2 / 32)).isSome && arrGated p.1.1 p.1.2)).length

/-- Counts gated products in TILE_FW_UNITS, in units of 65,536, while gating is on (R131, R132). -/
def State.freewheel (s : State) (t n : Nat) : State :=
  s.when (s.gb F.TILE_CTRL_fw_enable t) fun s =>
    let k := (s.tile t).fwRem + n
    (s.setTile t (fun tl => { tl with fwRem := k % 65536 })).bump64 .TILE_FW_UNITS t (k / 65536)

/-- Outputs of one stream row r of M. Where a float and an integer stream meet in one accumulator row, its entries keep their bits and the
whole row takes the type of the stream that came last: the spec is silent (DESIGN CHOICE, log entry 132). -/
def State.streamRow (s : State) (t : Nat) (o : ArrOp) (b : Block) (kT : Int) (bsc : Bool) (r : Nat) : State :=
  let axis1 := o.w.axis
  let red := if axis1 then b.cols else b.rows
  let outs := if axis1 then b.rows else b.cols
  let wide := s.gb F.TILE_NUM_CTRL_arr_wide_ftz t
  let raw := unpackElems b.partner red (s.sramRead (tstoreBase t + o.a + r * o.stride) (rowBytes b.partner red))
  let vals := raw.map (fun c => arrRead b.partner c wide)
  let bs := vals.map (·.1)
  let inFl := vals.foldl (fun f v => flOr f v.2) 0
  let G' := red / 32
  let tBytes := if bsc then (s.sramRead (tstoreBase t + o.b + r * G') G').map (·.toNat) else []
  let tSc : Nat → Option Int := fun g => if bsc then e8m0Exp (tBytes.getD g 0) else some 0
  let G := b.rows / 32
  let row := o.w.accRow + r
  let s := s.arrFlags t (inFl &&& Fl.fz) false
  let res := (List.range outs).map (fun j =>
    let as := (List.range red).map (fun i => if axis1 then b.elems.getD (j * b.cols + i) (.fin false 0 0) else b.elems.getD (i * b.cols + j) (.fin false 0 0))
    let acc := ((s.tile t).acc.atD (row * 128 + j) 0).toNat
    let unit : Nat → Option Int := fun _ => some 0
    let gated := fun (as : List FV) (sSc : Nat → Option Int) => arrGatedIn as bs sSc tSc
    if b.ints then (arrOutI acc as bs, gated as unit)
    else if b.scales = [] then (arrOutF acc as bs unit tSc b.sclK kT, gated as unit)
    else if axis1 then
      -- in axis 1 the block scale of element (j, i) is that of its axis-0 group: it varies along the reduction
      let as' := (List.range red).map (fun i =>
        match e8m0Exp (b.scales.getD (i * G + j / 32) 0) with
        | none => FV.nan
        | some e => (match as.getD i (.fin false 0 0) with | .fin n m x => .fin n m (x + e) | v => v))
      (arrOutF acc as' bs unit tSc b.sclK kT, gated as' unit)
    else
      let sSc := fun (g : Nat) => e8m0Exp (b.scales.getD (j * G + g) 0)
      (arrOutF acc as bs sSc tSc b.sclK kT, gated as sSc))
  let s := s.arrFlags t (res.foldl (fun f v => flOr f v.1.2) 0) false
  let s := s.freewheel t ((res.map (·.2)).sum)
  s.setTile t (fun tl => { tl with
    acc := (res.zipIdx).foldl (fun a v => a.put (row * 128 + v.2) (BitVec.ofNat 32 v.1.1.1)) tl.acc
    accInt := if b.ints then (if tl.accInt.contains row then tl.accInt else row :: tl.accInt) else tl.accInt.filter (· != row) })

/-- MSTREAM (R163). -/
def State.doMstream (s : State) (t : Nat) (o : ArrOp) : State :=
  let b := activeBlock (s.tile t) o.w
  let bsc := o.w.bsc && bscOk b.partner b.ints
  let sl := s.slot t (o.w.slot % 16)
  let kT := if o.w.scl && !b.ints then (scaleExp (if sl.bound && !sl.cold then sl.scale else 0x3F800000)).getD 0 else 0
  let s := s.tileRes t (o.w.f2 ≠ b.partner || (o.w.bsc && !bsc) || (o.w.scl && b.ints))
  let s := s.each (List.range (o.w.mMinus1 + 1)) (fun r s => s.streamRow t o b kT bsc r)
  s.bump64 .TILE_ARRAY_CYCLES t ((o.w.mMinus1 + 1) * b.cycles)

/-! ### Drains (R129, R164, R204, R230 to R234) -/

/-- Value of an accumulator entry. -/
def accVal (tl : Tile) (row j : Nat) : FV :=
  let v := (tl.acc.atD (row * 128 + j) 0).toNat
  if tl.accInt.contains row then decType 10 v else decFloat 0 v

/-- One drained entry: written code, drain flags, magnitude for the maximum, non-finite, overflow of R194 step 6. -/
structure DrainEnt where
  code : Nat
  fl : Nat
  mag : Nat
  bad : Bool
  ovf : Bool
  x : FV

/-- A NaN or an infinity drained into a format without it (TILE_NUM_STATUS.arr_nv). -/
def drainNv (y : FV) (f1 : Nat) : Nat :=
  match y with
  | .nan => if f1 ≤ 4 then 0 else Fl.nv
  | .inf _ => if f1 ≤ 2 || f1 = 4 then 0 else Fl.nv
  | .fin .. => 0

/-- The entry's conversion (R164, R204). A finite entry whose scaled value overflows FP32 counts as an overflow (R231). -/
def drainEnt (x : FV) (f1 rm u : Nat) (sat ftz scl : Bool) (scale : Nat) : DrainEnt :=
  let (y, f0) := if scl then arrRound (mulFV x (decFloat 0 scale)) else (x, 0)
  let (c, f) := convFV y f1 rm u sat ftz
  let finite := x.isFin
  { code := c, fl := flOr (flOr (f0 &&& (Fl.of ||| Fl.nv)) (drainNv y f1)) f
    mag := if finite then (convFV x.abs 0 0 0 false false).1 else 0
    bad := !finite
    ovf := finite && 2 ≤ f1 && f1 ≤ 7 && (!y.isFin || f &&& (Fl.of ||| Fl.sat) != 0), x := x }

/-- FP32 arithmetic of the shadow path (R231), rounded to nearest. -/
def f32add (a b : FV) : FV := (arrRound (addFV a b 0)).1
def f32mul (a b : FV) : FV := (arrRound (mulFV a b)).1
def f32div (a b : FV) : FV := (arrRound (divFV a b)).1
def f32sqrt (a : FV) : FV := (arrRound (sqrtFV a)).1
def fvBits (x : FV) : Nat := (convFV x 0 0 0 false false).1
def fvNat (n : Nat) : FV := .fin false n 0
/-- x × 65,536 rounded down, saturating at 65,535. -/
def frac16 (x : FV) : Nat :=
  match x with
  | .fin _ m e => min 65535 ((roundMag false m (e + 16) 0 1 0).1)
  | _ => 65535

/-- Shadow metrics (R231) over the drained entries. -/
def shadowMetrics (es : List DrainEnt) (f1 : Nat) (k : Int) : FV × FV × FV :=
  let fin := es.filter (fun e => e.x.isFin)
  let mm := maxFin f1
  let cs := fin.map (fun e =>
    let b := decType 1 (convFV e.x 1 0 0 false false).1
    let q := decType f1 e.code
    let d : FV := match q with
      | .fin n m x => .fin n m (x - k)
      | _ => .fin e.x.neg mm.1 (mm.2 - k)
    (b, d, q.isZero))
  let num := cs.foldl (fun a c => let df := (arrRound (addFV c.2.1 c.1.negate 0)).1; f32add a (f32mul df df)) (fvNat 0)
  let den := cs.foldl (fun a c => f32add a (f32mul c.1 c.1)) (fvNat 0)
  let err := if den.isZero then fvNat 0 else f32sqrt (f32div num den)
  let sat := if fin = [] then fvNat 0 else f32div (fvNat (fin.filter (fun e => e.ovf)).length) (fvNat fin.length)
  let nzb := cs.filter (fun c => !c.1.isZero)
  let flush := if nzb = [] then fvNat 0 else f32div (fvNat (nzb.filter (fun c => c.2.2)).length) (fvNat nzb.length)
  (err, sat, flush)

/-- Sampling and alert of one drain (R230, R232). -/
def State.shadow (s : State) (t : Nat) (o : ArrOp) (sl : Slot) (es : List DrainEnt) : State :=
  let d := s.domainOf (tileDie t)
  let f1 := arrType o.w.f1
  let eligible := o.w.scl && 3 ≤ f1 && f1 ≤ 7 && sl.bound && sl.cls ≤ 2 && !sl.noShadow &&
    s.gb F.NUM_TABLE_BASE_enable d && s.gb F.NUM_TABLE_BASE_shadow_en d
  if !eligible then s else
  let gear := (s.lapOf t).gear
  let N := if gear = gearSprint then 4096 else if gear = gearFixed then 64 else 1024
  let (w, s) := s.laneWord t 0 (s.lapFixed t) (fixedCtr o.b 8 sl.tid (s.lapOf t).step) 0
  if w * N ≥ 2 ^ 32 then s else
  let (err, sat, flush) := shadowMetrics es f1 ((scaleExp sl.scale).getD 0)
  let wd : Int := (fmtOf f1).mb
  let cfg := s.num.cfg.atD d {}
  let thr := match decFloat 0 cfg.f with | .fin n m e => FV.fin n m (e - wd - 1) | v => v
  let eh := ltFV thr err
  let sh := ltFV (decFloat 0 cfg.sat) sat
  let fh := ltFV (decFloat 0 cfg.flush) flush
  if !(eh || sh || fh) then s else
  let s := s.bump .NUM_SHADOW_ALERTS d
  let s := ((((s.pf F.NUM_SHADOW_LAST_tensor d sl.tid).pf F.NUM_SHADOW_LAST_pkg_tile d t).pb F.NUM_SHADOW_LAST_err_hit d eh).pb
    F.NUM_SHADOW_LAST_sat_hit d sh).pb F.NUM_SHADOW_LAST_flush_hit d fh
  let s := ((s.pf F.NUM_SHADOW_METRIC_err d (fvBits err)).pf F.NUM_SHADOW_METRIC_sat_frac d (frac16 sat)).pf
    F.NUM_SHADOW_METRIC_flush_frac d (frac16 flush)
  s.notice (tileDie t) 2 2

/-- Tensor id of a drain's random counter (R164): the slot's. An unbound slot has none, and the spec gives no other. -/
def drainTid (o : ArrOp) (sl : Slot) : Nat := if sl.bound then sl.tid else (Config.openResult 0x73 (o.w.slot % 16)).toNat % 2 ^ 24

/-- Drains one row: answers its entries and the state after its random draws. Under stochastic rounding every entry draws, one that is exact
in f1 too: the spec does not say whether it does (DESIGN CHOICE, log entry 134). -/
def State.drainRow (s : State) (t : Nat) (o : ArrOp) (sl : Slot) (r : Nat) : List DrainEnt × State :=
  let n := if o.w.axis then 128 else 64
  let f1 := arrType o.w.f1
  let rm := if o.w.rm ≤ 4 then o.w.rm else 0
  let ftz := f1 ≥ 3 && f1 ≤ 7 || (f1 ≤ 2 && s.gb F.TILE_NUM_CTRL_arr_wide_ftz t)
  let scale := if sl.bound && !sl.cold then sl.scale else 0x3F800000
  let row := o.w.accRow + r
  (List.range n).foldl (fun acc j =>
    let (u, s) := if rm = 4 then
        acc.2.laneWord t (j % 64) (acc.2.lapFixed t)
          (fixedCtr ((o.b + r * (o.b1) + j) % 2 ^ 32) 0 (drainTid o sl) (acc.2.lapOf t).step) 0
      else (0, acc.2)
    (acc.1 ++ [drainEnt (accVal (s.tile t) row j) f1 rm (u % 65536) o.w.sat ftz o.w.scl scale], s)) ([], s)

/-- The lap has drained through the slot with scl = 1 (R224, R225); in Fixed gear a tensor of non-zero age counts as cold
for the job's decision (R223). -/
def State.noteDrain (s : State) (t k : Nat) (els : List (Nat × Nat)) : State :=
  let l := s.lapOf t
  let sl := s.slot t k
  if !sl.bound then s else
  let key := l.die * 64 + l.job
  let rows := els.map (fun e => (sl.tid, e.1, e.2))
  { s with seq := { s.seq with jobs := s.seq.jobs.mapVals (fun j x =>
      if j = key then
        { x with
          drained := if x.drained.contains (l.index, sl.tid) then x.drained else x.drained ++ [(l.index, sl.tid)]
          drows := x.drows ++ rows
          stale := if sl.aged && l.gear = gearFixed && !x.stale.contains sl.tid then sl.tid :: x.stale else x.stale }
      else x) } }

/-- MDRAIN (R164, R204, R214, R221). A queued MLOAD, MSTREAM or MDRAIN uses its slot as it stands when the array performs it, a later SBIND
of the slot included: the spec does not say (DESIGN CHOICE, log entry 139). -/
def State.doMdrain (s : State) (t : Nat) (o : ArrOp) : State :=
  let k := o.w.slot % 16
  let sl := s.slot t k
  let f1 := arrType o.w.f1
  let rows := List.range (o.w.mMinus1 + 1)
  let (ents, s) := rows.foldl (fun acc r =>
    let (es, s) := acc.2.drainRow t o sl r
    let s := s.sramWrite (tstoreBase t + o.a + r * o.stride) (packElems f1 (es.map (·.code)))
    let s := if o.w.zero then s.setTile t (fun tl => { tl with
        acc := tl.acc.keep (fun key _ => key / 128 != o.w.accRow + r), accInt := tl.accInt.filter (· != o.w.accRow + r) }) else s
    (acc.1 ++ es, s)) ([], s)
  let s := s.tileRes t (o.w.f1 > 9 || o.w.rm > 4)
  let fl := ents.foldl (fun f e => flOr f e.fl) 0
  let s := s.arrFlags t (fl &&& (Fl.fz ||| Fl.sat ||| Fl.of ||| Fl.nv)) true
  let s := s.grpFlags t o.group (if ents.any (·.bad) then Fl.nf else 0)
  if !o.w.scl then s else
  let s := s.slotMax t k (maxList (ents.map (·.mag)))
  let s := s.when (ents.any (·.bad)) (fun s => s.slotMark t k Mk.nonfinite)
  let s := s.when (ents.any (·.ovf)) (fun s => s.slotMark t k Mk.overflow)
  let s := s.when (ents.any (fun e => e.code % 2 ^ (typeBits f1 - (if isFloatType f1 then 1 else 0)) ≠ 0)) (fun s => s.slotMark t k Mk.nzWritten)
  let s := s.when (sl.bound && sl.cls = 3 && f1 ≠ 0) fun s =>
    ((s.slotMark t k Mk.wideBreach).bump .NUM_WIDE_COUNT (s.domainOf (tileDie t))).notice (tileDie t) 2 3
  let s := s.noteDrain t k (rows.map (fun r => ((o.b + r * o.b1) % 2 ^ 32, if o.w.axis then 128 else 64)))
  s.shadow t o sl ents
/-- MZERO (R164). -/
def State.doMzero (s : State) (t : Nat) (o : ArrOp) : State :=
  let lo := o.w.accRow
  let hi := o.w.accRow + o.w.mMinus1
  s.setTile t (fun tl => { tl with
    acc := tl.acc.keep (fun key _ => !(lo ≤ key / 128 && key / 128 ≤ hi)), accInt := tl.accInt.filter (fun r => !(lo ≤ r && r ≤ hi)) })

/-! ### Issue (R149, R160, R161) -/

/-- Rows of stored data an array instruction touches: row bytes, row count. -/
def arrExtent (s : State) (t : Nat) (o : ArrOp) : Nat × Nat :=
  match o.kind with
  | .mload => let p := mixPlan o.w (s.slot t (o.w.slot % 16)); (rowBytes p.f1 64, blkRows p.rank)
  | .mstream =>
    let b := activeBlock (s.tile t) o.w
    (rowBytes b.partner (if o.w.axis then b.cols else b.rows), o.w.mMinus1 + 1)
  | .mdrain => (rowBytes (arrType o.w.f1) (if o.w.axis then 128 else 64), o.w.mMinus1 + 1)
  | _ => (0, 0)
/-- Bytes of block scales it reads at vb (R162). -/
def arrScaleBytes (s : State) (t : Nat) (o : ArrOp) : Nat :=
  match o.kind with
  | .mload =>
    let p := mixPlan o.w (s.slot t (o.w.slot % 16))
    if o.w.bsc && bscOk p.f1 p.ints then 64 * (blkRows p.rank / 32) else 0
  | .mstream =>
    let b := activeBlock (s.tile t) o.w
    if o.w.bsc && bscOk b.partner b.ints then (o.w.mMinus1 + 1) * ((if o.w.axis then b.cols else b.rows) / 32) else 0
  | _ => 0

/-- A range of the tile store or the Pod beyond its end, with the address it names (R161, R162, R185). -/
def arrRange (s : State) (t : Nat) (o : ArrOp) : Option (Nat × Nat) :=
  let (nB, n) := arrExtent s t o
  let sc := arrScaleBytes s t o
  let last := o.a + (n - 1) * o.stride + nB
  let pod := o.kind = .mload && (o.w.src = 1 || o.w.src = 2)
  if n = 0 then none
  else if pod && last > 0x40000000 then some (St.podRange, o.a)
  else if !pod && last > tstoreBytes then some (St.tstoreRange, o.a)
  else if sc ≠ 0 && o.b + sc > tstoreBytes then some (St.tstoreRange, o.b) else none
/-- A stream behind a queued MLOAD or MSWAP: the block it will use is not known before it starts. -/
def arrLater (s : State) (t : Nat) (k : ArrKind) : Bool :=
  k = .mstream && (s.tile t).arrQ.any (fun q => q.kind = .mload || q.kind = .mswap)
/-- The status that stops an array instruction at issue, with the address it names. R164 gives a drain no alignment rule. -/
def arrCheck (s : State) (t : Nat) (o : ArrOp) : Option (Nat × Nat) :=
  if (o.kind = .mload || o.kind = .mstream) && (o.a % 16 ≠ 0 || o.stride % 16 ≠ 0) then some (St.misaligned, o.a)
  else
    match (if arrLater s t o.kind then none else arrRange s t o) with
    | some r => some r
    | none =>
      match o.kind with
      | .mstream | .mdrain | .mzero => if o.w.accRow + o.w.mMinus1 + 1 > 512 then some (St.accRange, o.a) else none
      | _ => none

/-- Reserved values in the fields of format T, read or not (R151 to R153): E8M0 and INT32 in an array instruction's formats, SR outside
MDRAIN. -/
def fmtTRes (w : FmtT) (arr drain : Bool) : Bool :=
  let top := if arr then 9 else 11
  w.f1 > top || w.f2 > top || w.rm > (if drain then 4 else 3)

/-- Queues an array instruction for its group, whose operands the leader gives. A full queue stalls the group. -/
def State.arrIssue (s : State) (t g : Nat) (k : ArrKind) (w : FmtT) : State :=
  s.issue t g fun s =>
    match s.leader t g w.pred w.pneg with
    | none => s.advance t g
    | some th =>
      if (s.tile t).arrQ.length ≥ 16 then s
      else
        let s := s.tileRes t (fmtTRes w true (k = .mdrain))
        let x := s.group t g
        let o : ArrOp := { kind := k, w := w, a := x.reg th w.va, stride := x.reg th (w.va + 1), b := x.reg th w.vb, b1 := x.reg th (w.vb + 1),
                           group := g, leader := th, pc := x.pc }
        match arrCheck s t o with
        | some (st, addr) => s.lapStop t st g th uArray x.pc addr
        | none => (s.setTile t (fun tl => { tl with arrQ := tl.arrQ ++ [o] })).advance t g

/-- An array instruction that names a slot waits while the slot binds (R159). -/
def State.arrSlotOk (s : State) (t : Nat) (w : FmtT) : Bool := s.slotReady t (w.slot % 16)

/-- Cold consumption (R224): MLOAD or MSTREAM with scl = 1, which is applied as 0 between integers (R221), through a slot whose tensor was
cold at binding. -/
def State.coldConsume (s : State) (t : Nat) (w : FmtT) (ints : Bool) : State :=
  let sl := s.slot t (w.slot % 16)
  s.when (w.scl && !ints && sl.bound && sl.cold) fun s =>
    (s.pf F.NUM_STATUS_cold_consume (s.domainOf (tileDie t)) 1).notice (tileDie t) 2 0

def execMload (t g : Nat) (w : FmtT) (s : State) : Res :=
  if s.arrSlotOk t w then .next (s.arrIssue t g .mload w) else .next s
def execMswap (t g : Nat) (w : FmtT) (s : State) : Res := .next (s.arrIssue t g .mswap w)
def execMstream (t g : Nat) (w : FmtT) (s : State) : Res :=
  if s.arrSlotOk t w then .next (s.arrIssue t g .mstream w) else .next s
def execMdrain (t g : Nat) (w : FmtT) (s : State) : Res :=
  if s.arrSlotOk t w then .next (s.arrIssue t g .mdrain w) else .next s
def execMzero (t g : Nat) (w : FmtT) (s : State) : Res := .next (s.arrIssue t g .mzero w)

/-- The array starts its oldest queued instruction (R160). The ranges of a stream are known once its block is active. -/
def execArrayQueueStart (t : Nat) (s : State) : Res :=
  match (s.tile t).arrQ.head? with
  | none => .next s
  | some o =>
    if (s.tile t).arrBusy || !s.tileIn t then .next s
    else
      match (if o.kind = .mstream then arrRange s t o else none) with
      | some (st, addr) => .next (s.lapStop t st o.group o.leader uArray o.pc addr)
      | none => .next (s.setTile t (fun tl => { tl with arrBusy := true }))

/-- Uncorrectable tile-store or Pod words an array read meets (R449): the tile store's raise tstore_ue, the Pod's are held. -/
def State.arrBad (s : State) (t : Nat) (o : ArrOp) : Option Nat :=
  let (nB, n) := arrExtent s t o
  let base := if o.kind = .mload && (o.w.src = 1 || o.w.src = 2) then podBase (tileDie t) else tstoreBase t
  match o.kind with
  | .mload | .mstream =>
    ((List.range n).findSome? (fun r => s.rangeBad (base + o.a + r * o.stride) nB)).orElse (fun _ =>
      let sc := arrScaleBytes s t o
      if sc = 0 then none else s.rangeBad (tstoreBase t + o.b) sc)
  | _ => none

/-- The operation in the array completes: its effect is performed and its group's count falls (R124, R160). -/
def State.arrDone (s : State) (t : Nat) : State :=
  match (s.tile t).arrQ, (s.tile t).arrBusy with
  | o :: rest, true =>
    let s := match o.kind with
      | .mload => (s.coldConsume t o.w (mixPlan o.w (s.slot t (o.w.slot % 16))).ints).doMload t o
      | .mswap => s.setTile t (fun tl => { tl with shadow := tl.active, active := tl.shadow })
      | .mstream => (s.coldConsume t o.w (activeBlock (s.tile t) o.w).ints).doMstream t o
      | .mdrain => s.doMdrain t o
      | .mzero => s.doMzero t o
    (s.setTile t (fun tl => { tl with arrQ := rest, arrBusy := false })).settleQueues t
  | _, _ => s

end Sys2Proof.Machine
end

