-- ==== Sys2Proof/Machine/Phys.lean ====
section
/-! DEFINITION. Accesses by physical address, as the registers and tables of the chapters name them (table bases, result
areas, delivery entries): a line is read and written under the key it was last written with (log entry 6); and the CRC-64
of R283. -/

namespace Sys2Proof.Machine

/-- Key identity of a physically addressed access. -/
def State.physKey (s : State) (pa : Nat) : Nat := s.lineKey.atD (lineOf pa) (s.keyOf 0 0)

def State.physReadN : Nat → State → Nat → Nat → Bytes
  | 0, _, _, _ => []
  | fuel + 1, s, pa, n =>
    if n = 0 then [] else
    let k := min (64 - pa % 64) n
    s.readAt (s.physKey pa) pa k ++ State.physReadN fuel s (pa + k) (n - k)
/-- Reads n bytes at a physical address, coherently. -/
def State.physRead (s : State) (pa n : Nat) : Bytes := State.physReadN (n / 64 + 2) s pa n
def State.physVal (s : State) (pa n : Nat) : Nat := leVal (s.physRead pa n)

def State.physWriteN : Nat → State → Nat → Bytes → State
  | 0, s, _, _ => s
  | fuel + 1, s, pa, bs =>
    if bs = [] then s else
    let k := min (64 - pa % 64) bs.length
    State.physWriteN fuel (s.writeAt (s.physKey pa) pa (bs.take k)) (pa + k) (bs.drop k)
/-- Writes bytes at a physical address, coherently. -/
def State.physWrite (s : State) (pa : Nat) (bs : Bytes) : State := State.physWriteN (bs.length / 64 + 2) s pa bs
/-- The first uncorrectable line of a physical range. -/
def State.physBad (s : State) (pa n : Nat) : Option Nat := s.rangeBad pa n

/-- A 32-bit MSI write leaves a unit: performed in memory and windows, sent to a peer, and delivered where its address names a register or
an interrupt file (R80, R314). -/
def State.msiOut (s : State) (node addr data : Nat) : State :=
  match s.region addr with
  | .mmio => s.emit (.msi addr data)
  | .hole => s.hole addr node
  | _ => s.physWrite addr (leBytes 4 data)

/-! ### CRC-64 (R283) -/

def crcPoly : Nat := 0x42F0E1EBA9EA3693
def crcBits : Nat → Nat → Nat
  | 0, c => c
  | n + 1, c => crcBits n (if 2 ^ 63 ≤ c then Nat.xor (c * 2 % 2 ^ 64) crcPoly else c * 2)
def crcByte (c : Nat) (b : Byte) : Nat := crcBits 8 (Nat.xor c (b.toNat * 2 ^ 56))
/-- CRC-64 of a byte string: most significant bit first, initial value 0, no final XOR. -/
def crc64 (bs : Bytes) : Nat := bs.foldl crcByte 0

end Sys2Proof.Machine
end

