-- ==== Sys2Proof/Machine/Scaling.lean ====
section
/-! DEFINITION. Tensor state and scaling units (R212 to R229, R235 to R237): bindings, handovers, merges, the extra pass,
re-conversion, and the folds of the NMEs. -/

namespace Sys2Proof.Machine

/-! ### The entry of a tensor (R212, R214) -/

def State.tableOn (s : State) (d : Nat) : Bool := s.gb F.NUM_TABLE_BASE_enable d
def State.entPa (s : State) (d tid : Nat) : Nat := s.gf F.NUM_TABLE_BASE_base d * 256 + 256 * tid
def State.entRead (s : State) (d tid : Nat) : Bytes := s.physRead (s.entPa d tid) 256
def State.entWrite (s : State) (d tid : Nat) (e : Bytes) : State := s.physWrite (s.entPa d tid) (sliceB e 0 256)

/-- The page is locked by a re-encryption: far atomics and folds wait for it (R290). -/
def State.pageLocked (s : State) (pa : Nat) : Bool := s.nme.locked.any (fun r => r.1 ≤ pa && pa < r.1 + r.2)
/-- The entry of a tensor lies in a locked page. -/
def State.entLocked (s : State) (d tid : Nat) : Bool := s.tableOn d && s.pageLocked (s.entPa d tid)

def entAmax (e : Bytes) : Nat := fieldB e 192 4
def entMarks (e : Bytes) : Nat := fieldB e 196 4
def entScale (e : Bytes) : Nat := fieldB e 200 4
def entHead (e : Bytes) : Nat := fieldB e 204 1
def entCount (e : Bytes) : Nat := fieldB e 205 1
def entAge (e : Bytes) : Nat := fieldB e 206 1
def entHist (e : Bytes) (j : Nat) : Nat := fieldB e (4 * (j % 16)) 4
def entPolicy (e : Bytes) : Nat := fieldB e 211 1
/-- Fields software owns, with reserved values applied as their defaults (R214). -/
def entCls (e : Bytes) : Nat := let v := fieldB e 207 1; if v ≤ 3 then v else 0
def entTarget (e : Bytes) : Nat := let v := fieldB e 208 1; if 2 ≤ v && v ≤ 7 then v else 3
def entMargin (e : Bytes) : Int := let v := sgnN 8 (fieldB e 209 1); if -8 ≤ v && v ≤ 8 then v else 0
def entGexp (e : Bytes) : Int := let v := sgnN 8 (fieldB e 210 1); if -32 ≤ v && v ≤ 32 then v else 0
/-- A reserved cls, target, margin or gexp stands in the entry. -/
def entReserved (e : Bytes) : Bool :=
  fieldB e 207 1 > 3 || !(2 ≤ fieldB e 208 1 && fieldB e 208 1 ≤ 7) ||
  !(-8 ≤ sgnN 8 (fieldB e 209 1) && sgnN 8 (fieldB e 209 1) ≤ 8) || !(-32 ≤ sgnN 8 (fieldB e 210 1) && sgnN 8 (fieldB e 210 1) ≤ 32)
def entCrc (e : Bytes) : Nat := crc64 (sliceB e 0 64 ++ sliceB e 204 3)
def entPutCrc (e : Bytes) : Bytes := setFieldB e 216 8 (entCrc e)
/-- The newest count hist entries. -/
def entNewest (e : Bytes) : List Nat := (List.range (min (entCount e) 16)).map (fun i => entHist e (entHead e + 16 - i))
/-- R222: the entry is invalid. -/
def entInvalid (e : Bytes) : Bool :=
  fieldB e 216 8 ≠ entCrc e || entCount e > 16 || entHead e > 15 ||
  (entNewest e).any (fun v => v ≥ 0x7F800000)
def entCold (e : Bytes) : Bool := entInvalid e || entCount e = 0

/-- NUM_STATUS.reserved_encoding of a domain sets, with the notice of R441. -/
def State.numReserved (s : State) (d : Nat) (c : Bool) : State :=
  s.when c (fun s => (s.pf F.NUM_STATUS_reserved_encoding d 1).notice 10 3 0)

/-- ⌊log₂(F ÷ A)⌋ for magnitudes m · 2^e, exactly. -/
def floorLog2Ratio (fm : Nat) (fe : Int) (am : Nat) (ae : Int) : Int :=
  let l := leadExp fm fe - leadExp am ae
  if magLe am (ae + l) fm fe then l else l - 1

/-- The scale of R216 from A (FP32 bits) as FP32 bits. -/
def formScale (e : Bytes) (A : Nat) : Nat :=
  if entCls e = 3 then 0x3F800000
  else
    match decFloat 0 A with
    | .fin _ am ae =>
      if am = 0 then (if (scaleExp (entScale e)).isSome then entScale e else 0x3F800000)
      else
        let f := maxFin (entTarget e)
        let k := floorLog2Ratio f.1 f.2 am ae - entMargin e + (if entCls e = 2 then entGexp e else 0)
        expScale (max (-126) (min 127 k))
    | _ => if (scaleExp (entScale e)).isSome then entScale e else 0x3F800000
/-- The scale from the history. -/
def foldScale (e : Bytes) : Nat := formScale e (maxList (entNewest e))
/-- The scale field as a unit uses it: 1.0 for cls 3 and unless a power of two in range (R216, R233). -/
def useScale (e : Bytes) : Nat := if entCls e ≠ 3 && (scaleExp (entScale e)).isSome then entScale e else 0x3F800000
/-- A scale field that is used as 1.0 because it is no power of two in range (R216); cls 3 does not use the field. -/
def scaleBad (e : Bytes) : Bool := entCls e ≠ 3 && (scaleExp (entScale e)).isNone

/-! ### The local non-finite flag (R235) -/

def State.stepOf (s : State) (d : Nat) : Nat := s.gf F.STEP_NUMBER_number d
def State.nfOrigin (s : State) (d tid tile : Nat) : State :=
  if s.gb F.NUM_NF_ORIGIN_valid d then s
  else (((s.pf F.NUM_NF_ORIGIN_tensor d tid).pf F.NUM_NF_ORIGIN_pkg_tile d tile).pf F.NUM_NF_ORIGIN_valid d 1).pf
    F.NUM_NF_ORIGIN_step d (s.stepOf d)
def State.localNf (s : State) (d tid tile : Nat) : State :=
  if s.gb F.NUM_VERDICT_local_nf d then s
  else
    let held := s.gb F.NUM_NF_ORIGIN_valid d
    ((s.pf F.NUM_VERDICT_local_nf d 1).nfOrigin d tid tile).when (!held) (fun s => s.notice (tileDie tile) 2 1)

/-! ### Jobs -/

def jobKey (n j : Nat) : Nat := n * 64 + j
def State.job? (s : State) (n j : Nat) : Option Job := s.seq.jobs.at? (jobKey n j)
def State.setJob (s : State) (n j : Nat) (x : Job) : State := { s with seq := { s.seq with jobs := s.seq.jobs.put (jobKey n j) x } }
def State.onJob (s : State) (n j : Nat) (f : Job → Job) : State :=
  match s.job? n j with
  | some x => s.setJob n j (f x)
  | none => s
def Job.flagBit (x : Job) (i : Nat) : Bool := bitN (fieldB x.entry 1 1) i
def Job.recompute (x : Job) : Bool := x.flagBit 1
def Job.reverse (x : Job) : Bool := x.flagBit 2
def Job.pin (x : Job) : Bool := x.flagBit 3
def Job.laps (x : Job) : Nat := fieldB x.entry 24 4
def Job.ctx (x : Job) : Nat := fieldB x.entry 4 1
/-- No lap of the job runs or stands in a queued slot. -/
def State.jobQuiet (s : State) (n j : Nat) : Bool :=
  s.tiles.rows.all fun r =>
    let off := fun (l : Option Lap) => match l with | some l => !(l.die = n && l.job = j) | none => true
    off r.2.lap && off r.2.queued

/-! ### Handover (R168, R217, R244, R225) -/

def mergeHand (h : Hand) : List Hand → List Hand
  | [] => [h]
  | x :: r =>
    if x.tid = h.tid then
      { x with max := max x.max h.max, marks := Nat.lor x.marks h.marks
               tile := if x.marks &&& Mk.nonfinite != 0 then x.tile else h.tile } :: r
    else x :: mergeHand h r

/-- Hands a bound slot over to the scaling unit. Without a table only a non-finite mark acts (R213). -/
def State.handover (s : State) (t k : Nat) : State :=
  let sl := s.slot t k
  let l := s.lapOf t
  let d := s.domainOf (tileDie t)
  if !sl.bound then s
  else if !s.tableOn d then s.when (sl.marks &&& Mk.nonfinite != 0) (fun s => s.localNf d sl.tid t)
  else
    let h : Hand := { tid := sl.tid, max := if l.rerun || l.recompute then 0 else sl.max
                      marks := Nat.lor sl.marks Mk.touched, tile := t, lap := l.index }
    s.onJob l.die l.job fun x => { x with hands := mergeHand h x.hands }

/-! ### SBIND (R168, R212, R213, R220) -/

def execSbind (t g : Nat) (w : FmtV) (s : State) : Res :=
  let k := w.slot % 16
  if !s.slotReady t k then .next s else
  .next (s.issue t g fun s =>
    let s := s.rmRes t g w
    match s.leader t g w.pred w.pneg with
    | none => s.advance t g
    | some th =>
      let tid := (s.group t g).reg th w.va % 2 ^ 24
      let d := s.domainOf (tileDie t)
      let s := s.handover t k
      let s :=
        if !s.tableOn d then s.setSlot t k (fun _ => { tid := tid, complete := true, bound := true })
        else if tid ≥ s.gf F.NUM_TABLE_COUNT_count d then
          (s.setSlot t k (fun _ => { complete := true })).pf F.NUM_STATUS_id_range d 1
        else s.setSlot t k (fun _ => { tid := tid, complete := false, group := g, leader := th, pc := (s.group t g).pc })
      s.advance t g)

/-- The binding is performed: the entry and its record are read, once no fold of the entry is due (R208, R220, R222). A table that has been
disabled meanwhile has no entry to read (R213). -/
def execSbindComplete (t k : Nat) (s : State) : Res :=
  let k := k % 16
  let sl := s.slot t k
  let d := s.domainOf (tileDie t)
  let pa := s.entPa d sl.tid
  let stop := fun (s : State) (st a : Nat) =>
    Host.Outcome.next ((s.setSlot t k (fun x => { x with complete := true })).lapStop t st sl.group sl.leader uThread sl.pc a)
  if sl.complete || (s.tile t).lap.isNone then .next s
  else if !s.tableOn d then .next (s.setSlot t k (fun x => { tid := x.tid, complete := true, bound := true }))
  else if (s.num.foldDue.atD d []).any (·.stack = hbmStack s.hbmMode pa) then .next s
  else if s.pageLocked pa then .next s
  else if s.region pa ≠ .hbm then stop s St.addrHole pa
  else
    match s.physBad pa 256 with
    | some bad => stop (s.memErr bad) St.memUncorrectable bad
    | none =>
      let e := s.entRead d sl.tid
      let l := s.lapOf t
      let cold := entCold e && !l.recompute
      let s := s.numReserved d (entReserved e || scaleBad e)
      .next (s.setSlot t k fun x => { x with
        complete := true, bound := true, cold := cold
        scale := if cold then 0x3F800000 else useScale e
        aged := entAge e ≠ 0 && !l.recompute
        cls := entCls e
        noShadow := bitN (entPolicy e) 1 || l.recompute
        record := sliceB e 64 128 })

/-! ### Job end: merges and the extra-pass decision (R217, R222 to R225) -/

/-- Two far atomics merge a tensor: UMAX into step_amax, OR into marks. -/
def State.mergeTensor (s : State) (d : Nat) (h : Hand) : State :=
  if !s.tableOn d then s
  else
    let pa := s.entPa d h.tid
    let s := match s.physBad pa 256 with
      | some bad => s.memErrAt bad true false none
      | none =>
        let s := (s.atomicMem (s.physKey (pa + 192)) (pa + 192) 4 7 h.max 0).2
        (s.atomicMem (s.physKey (pa + 192)) (pa + 196) 4 2 (h.marks % 64) 0).2
    s.when (h.marks &&& Mk.nonfinite != 0) (fun s => s.localNf d h.tid h.tile)

/-- A produced tensor triggers an extra pass (R224). -/
def State.triggers (s : State) (d : Nat) (x : Job) (hands : List Hand) (tid : Nat) : Bool :=
  let e := s.entRead d tid
  let ovf := hands.any (fun h => h.tid = tid && h.marks &&& Mk.overflow != 0)
  entCls e ≠ 3 && entMarks e &&& Mk.nonfinite == 0 && (entCold e || x.stale.contains tid || ovf)

/-- R225 step 1 for one triggering tensor. -/
def State.rescale (s : State) (d : Nat) (x : Job) (tid : Nat) : State :=
  let e := s.entRead d tid
  let cold := entCold e || x.stale.contains tid
  let A := entAmax e
  let s := s.numReserved d (entReserved e || scaleBad e)
  let e' := setFieldB (setFieldB e 200 4 (formScale e A)) 196 4 (Nat.lor (entMarks e) Mk.extraDone)
  let e' := if cold then
      entPutCrc (setSliceB (setSliceB e' 0 ((List.replicate 16 (leBytes 4 A)).flatten)) 204
        [BitVec.ofNat 8 15, BitVec.ofNat 8 16, BitVec.ofNat 8 0])
    else e'
  (s.entWrite d tid e').when cold (fun s => s.bump .NUM_COLD_COUNT d)

/-- The tensors a job has drained with scl = 1, each once. -/
def Job.produced (x : Job) : List Nat :=
  x.drained.foldl (fun l p => if l.contains p.2 then l else l ++ [p.2]) []

/-- Phase after the laps: re-runs, then re-conversions, then completion. -/
def Job.nextPhase (x : Job) : Nat := if x.rerun ≠ [] then 1 else if x.todo ≠ [] then 2 else 3

/-- The last lap has ended: merges, the decision, and the start of any extra pass. After re-run laps only marks merge. -/
def execJobLastLapEnd (n j : Nat) (s : State) : Res :=
  match s.job? n j with
  | none => .next s
  | some x =>
    let d := s.domainOf n
    let past := x.status ≠ 0 || (x.phase = 0 && x.ended ≥ x.laps) || (x.phase = 1 && x.rerun = [])
    if x.phase > 1 || !past || !s.jobQuiet n j || (x.hands.map (·.tid) ++ x.produced).any (s.entLocked d) then .next s
    else
      let hands := x.hands
      let s := s.each hands (fun h s => s.mergeTensor d h)
      let x := { x with hands := [] }
      if x.phase = 1 || x.status ≠ 0 || x.recompute || !s.tableOn d then
        let x := if x.status ≠ 0 then { x with rerun := [], todo := [] } else x
        .next (s.setJob n j { x with phase := if x.status ≠ 0 then 3 else x.nextPhase })
      else
        let trig := x.produced.filter (fun tid => s.triggers d x hands tid)
        if trig = [] then .next (s.setJob n j { x with phase := 3 })
        else
          let s := (s.each trig (fun tid s => s.rescale d x tid)).bump .NUM_EXTRA_COUNT d
          let hasRec := fun tid => x.reconv.any (fun r => fieldB r 0 3 = tid)
          let again := trig.filter (fun tid => !hasRec tid)
          let laps := (x.drained.filter (fun p => again.contains p.2)).map (·.1)
          let laps := laps.foldl (fun l i => if l.contains i then l else l ++ [i]) []
          let laps := sortBy (fun a b => if x.reverse then b ≤ a else a ≤ b) laps
          let x := { x with extra := true, trigger := trig, rerun := laps
                            todo := x.reconv.filter (fun r => trig.contains (fieldB r 0 3)) }
          .next (s.setJob n j { x with phase := x.nextPhase })

/-! ### Re-conversion (R227, R303) -/

/-- Numerics mode of a job's laps (R200, R298). -/
def State.jobMode (s : State) (x : Job) : Nat := if x.flagBit 4 then fieldB x.entry 3 1 % 8 else s.odN 0xA010 1 % 8

/-- Re-converts one run of elements e0 … e0 + n − 1 as a drain converts them, under the job's flush mode (R198, R227): the codes. The spec
does not say which generators it draws from outside Fixed gear: element e takes lane e mod 64 of the job's tiles in turn, 64 elements each
(DESIGN CHOICE, log entry 146). -/
def State.reconvRun (s : State) (n : Nat) (x : Job) (r : Bytes) (scale e0 cnt : Nat) : Except (Nat × Nat) (List Nat) × State :=
  let f1 := fieldB r 3 1
  let rm := let v := fieldB r 4 1 % 8; if v ≤ 4 then v else 0
  let sat := bitN (fieldB r 4 1) 3
  let tid := fieldB r 0 3
  let d := s.domainOf n
  let fixed := s.gearOf n == gearFixed
  let ftz := f1 ≥ 3 || bitN (s.jobMode x) 2
  match s.vread (.seq n) x.ctx (fieldB r 8 8 + 4 * e0) (4 * cnt) n with
  | (.error f, s) => (.error f, s)
  | (.ok bs, s) =>
    let (cs, s) := (List.range cnt).foldl (fun (acc : List Nat × State) i =>
      let e := e0 + i
      let s := acc.2
      let (u, s) := if rm ≠ 4 then (0, s)
        else if fixed then (philox (s.seedOf d).toNat (fixedCtr e 0 tid (s.stepOf d)) 0, s)
        else s.laneWord (x.tiles.getD (e / 64 % max 1 x.tiles.length) 0) (e % 64) false 0 0
      (acc.1 ++ [(drainEnt (decFloat 0 (fieldB bs (4 * i) 4)) f1 rm (u % 65536) sat ftz true scale).code], s)) ([], s)
    (.ok cs, s)

/-- One triggering tensor is re-converted, while its table is enabled (R213). The spec names no destination of the elements: they are written
to an address that nothing constrains but its tensor (log entry 13). -/
def execReconversionDone (n j : Nat) (s : State) : Res :=
  match s.job? n j with
  | none => .next s
  | some x =>
    match x.phase, x.todo with
    | 2, r :: rest =>
      let d := s.domainOf n
      let tid := fieldB r 0 3
      let scale := useScale (s.entRead d tid)
      let dst := (Config.openResult 0x74 tid).toNat + 2 ^ 32 * (Config.openResult 0x75 tid).toNat
      let runs := if s.tableOn d then x.drows.filter (fun p => p.1 = tid) else []
      let s := runs.foldl (fun s p =>
        match s.reconvRun n x r scale p.2.1 p.2.2 with
        | (.ok cs, s) =>
          (s.vwrite (.seq n) x.ctx (dst % 2 ^ 47 + p.2.1 * typeBits (fieldB r 3 1) / 8) (packElems (fieldB r 3 1) cs) n).2
        | (.error f, s) =>
          s.onJob n j fun x => if x.status ≠ 0 then x else { x with status := f.1, failAddr := f.2 }) s
      .next (s.onJob n j fun x => { x with todo := rest, phase := if rest = [] then 3 else 2 })
    | _, _ => .next s

/-! ### The fold (R218, R219, R228, R229) -/

/-- A zero-watch step of the fold for a cls-2 tensor: the new entry, and whether a notice is due. -/
def zeroWatch (cfg : NumCfg) (e : Bytes) : Bytes × Bool :=
  if entCls e ≠ 2 then (e, false)
  else if entMarks e &&& Mk.nzWritten != 0 then (setFieldB e 212 2 0, false)
  else
    let old := fieldB e 212 2
    let z := min 65535 (old + 1)
    let e := setFieldB e 212 2 z
    if z = old || cfg.t = 0 || z % cfg.t ≠ 0 then (e, false)
    else
      let p := min (entGexp e + cfg.r) 32
      let e := setFieldB e 214 1 (uN 8 p)
      if bitN (entPolicy e) 0 then (setFieldB (setFieldB e 210 1 (uN 8 p)) 212 2 0, true) else (e, true)

/-- Steps 1 to 5 of R218 on one entry. -/
def foldEntry (cfg : NumCfg) (skipped validation : Bool) (e : Bytes) : Bytes × Bool :=
  let (e, w) :=
    if entInvalid e then (setFieldB e 205 1 0, false)
    else if validation then (e, false)
    else if skipped || entMarks e &&& Mk.touched == 0 then (setFieldB e 206 1 (min 255 (entAge e + 1)), false)
    else
      let h := (entHead e + 1) % 16
      let c := min (entCount e + 1) 16
      zeroWatch cfg (setSliceB (setFieldB e (4 * h) 4 (entAmax e)) 204 [BitVec.ofNat 8 h, BitVec.ofNat 8 c, 0])
  (entPutCrc (setFieldB (setFieldB (setFieldB e 200 4 (foldScale e)) 192 4 0) 196 4 0), w)

/-- An entry that reads uncorrectable is rewritten whole (R449). -/
def State.foldOne (s : State) (d tid : Nat) (skipped validation : Bool) : State :=
  let pa := s.entPa d tid
  match s.physBad pa 256 with
  | some bad => (s.memErr bad).entWrite d tid (entPutCrc (setFieldB (setFieldB (zerosB 256) 208 1 3) 200 4 0x3F800000))
  | none =>
    let e := s.entRead d tid
    let s := s.numReserved d (entReserved e)
    let (e', w) := foldEntry (s.num.cfg.atD d {}) skipped validation e
    let s := s.entWrite d tid e'
    s.when w fun s =>
      (((s.pf F.NUM_ZERO_LAST_tensor d tid).pf F.NUM_ZERO_LAST_proposal d (fieldB e' 214 1)).bump .NUM_ZERO_COUNT d).notice
        ((s.leadDie d).getD 0) 2 4

/-- The NME of stack st folds the domain's entries in its stack, in ascending id. It needs its NME in service. -/
def execFold (st d : Nat) (s : State) : Res :=
  let due := s.num.foldDue.atD d []
  match due.find? (·.stack = st) with
  | none => .next s
  | some f =>
    if s.blkState (stackDie st) (8 + st % 2) ≠ 0 then .next s
    else
      let ids := (List.range (s.gf F.NUM_TABLE_COUNT_count d)).filter (fun i => hbmStack s.hbmMode (s.entPa d i) = st)
      if ids.any (s.entLocked d) then .next s else
      let s := if s.tableOn d then s.each ids (fun i s => s.foldOne d i f.skipped f.validation) else s
      let rest := due.erase f
      let s := { s with num := { s.num with foldDue := s.num.foldDue.put d rest } }
      .next (s.when (rest = []) (fun s => s.pf F.NUM_STATUS_fold_busy d 0))

/-- A fold becomes due on every NME of the domain, behind those still due. -/
def State.startFold (s : State) (d : Nat) (skipped validation : Bool) : State :=
  let all : List FoldDue := (s.domainDies d).flatMap (fun n => [⟨2 * n, skipped, validation⟩, ⟨2 * n + 1, skipped, validation⟩])
  if !s.tableOn d || all = [] then s else
  ({ s with num := { s.num with foldDue := s.num.foldDue.put d (s.num.foldDue.atD d [] ++ all) } }).pf F.NUM_STATUS_fold_busy d 1

/-- Who may write a register set of a partition's domain or context: the RoT always, software outside a sealed partition. -/
def State.mayWriteDom (s : State) (role : Role) (d : Nat) : Bool :=
  privRole role || s.mmioRole role && !s.sealedPart d

/-- The whole table lies in HBM4 (R212). -/
def tableFits (s : State) (d : Nat) : Bool := s.entPa d (s.gf F.NUM_TABLE_COUNT_count d) ≤ 0x014000000000
/-- Setting NUM_TABLE_BASE.enable (R212, R215, R219). -/
def execValidationFold (role : Role) (d : Nat) (s : State) : Res :=
  if d ≥ 16 || !s.mayWriteDom role d || s.tableOn d || !tableFits s d then .next s
  else .next ((s.pf F.NUM_TABLE_BASE_enable d 1).startFold d false true)

end Sys2Proof.Machine
end

