-- ==== Sys2Proof/Machine/Pannier.lean ====
section
/-! DEFINITION. The Pannier (spec/08): stacks, frames, pushes and pops, the mover, and its registers' writes. -/

namespace Sys2Proof.Machine

def mib : Nat := 2 ^ 20
def pk (n k : Nat) : Nat := n * 144 + k
def panRing (s : State) (n : Nat) : Nat := s.gf F.PAN_SIZES_ring_mib n * mib
/-- Capacity of a stack (R246). -/
def panCap (s : State) (n : Nat) : Nat :=
  if s.gf F.PAN_SIZES_seed_mib n ≠ 0 then s.gf F.PAN_SIZES_seed_mib n * mib else panRing s n
def panTop (s : State) (n k : Nat) : Nat := s.gf F.PAN_TOP_top (pk n k)
def panEnd (s : State) (n k : Nat) : Nat := s.gf F.PAN_END_end (pk n k)
def panBottom (s : State) (n k : Nat) : Nat := s.gf F.PAN_BOTTOM_bottom (pk n k)
def panFrames (s : State) (n k : Nat) : Nat := s.gf F.PAN_INFO_frames (pk n k)
def panHeld (s : State) (n k : Nat) : Bool := s.gb F.PAN_INFO_held (pk n k)
def panSet (s : State) (n k top fin bottom frames : Nat) : State :=
  (((s.pf F.PAN_TOP_top (pk n k) top).pf F.PAN_END_end (pk n k) fin).pf F.PAN_BOTTOM_bottom (pk n k) bottom).pf
    F.PAN_INFO_frames (pk n k) frames
def frameSize (len : Nat) : Nat := len + 128
/-- The Pannier unit is fault block 3 of its die (R441). -/
def panUp (s : State) (n : Nat) : Bool := s.blkIn n 3

/-- Virtual pieces (address, length) of logical bytes o … o + len − 1 of a stack: in the ring, which wraps, or in the
Seedbank (R246). -/
def panSpans (s : State) (n k o len : Nat) (resident : Bool) : List (Nat × Nat) :=
  let ring := panRing s n
  if resident then
    let base := s.gf F.PAN_RING_BASE_base n * 2 ^ 21 + k * ring
    let a := o % max ring 1
    if a + len ≤ ring then [(base + a, len)] else [(base + a, ring - a), (base, len - (ring - a))]
  else [(s.gf F.PAN_SEED_BASE_base n * 2 ^ 21 + k * (s.gf F.PAN_SIZES_seed_mib n * mib) + o, len)]

def panReadSpans (n ctx : Nat) : List (Nat × Nat) → State → Except (Nat × Nat) Bytes × State
  | [], s => (.ok [], s)
  | p :: ps, s =>
    match s.vread (.pannier n) ctx p.1 p.2 n with
    | (.error f, s) => (.error f, s)
    | (.ok b, s) =>
      match panReadSpans n ctx ps s with
      | (.ok r, s) => (.ok (b ++ r), s)
      | (.error f, s) => (.error f, s)
def panWriteSpans (n ctx : Nat) : List (Nat × Nat) → Bytes → State → Except (Nat × Nat) Unit × State
  | [], _, s => (.ok (), s)
  | p :: ps, bs, s =>
    match s.vwrite (.pannier n) ctx p.1 (bs.take p.2) n with
    | (.error f, s) => (.error f, s)
    | (.ok _, s) => panWriteSpans n ctx ps (bs.drop p.2) s
def State.panRead (s : State) (n k o len : Nat) (resident : Bool) : Except (Nat × Nat) Bytes × State :=
  panReadSpans n (s.gf F.PAN_CTRL_ctx n) (panSpans s n k o len resident) s
def State.panWrite (s : State) (n k o : Nat) (bs : Bytes) (resident : Bool) : Except (Nat × Nat) Unit × State :=
  panWriteSpans n (s.gf F.PAN_CTRL_ctx n) (panSpans s n k o bs.length resident) bs s

/-- The record of a frame (R248). -/
def panRecord (len tag index lap step : Nat) : Bytes :=
  leBytes 4 len ++ leBytes 2 tag ++ zerosB 2 ++ leBytes 4 index ++ leBytes 4 lap ++ leBytes 8 step ++ zerosB 40

def State.panMove? (s : State) (n k : Nat) : Option PanMove := s.pan.moves.at? (pk n k)
def State.panMoving (s : State) (n : Nat) : Nat := s.pan.moves.count (fun key _ => key / 144 = n)
/-- Puts or drops a move, with PAN_INFO.move and PAN_STATUS.busy. -/
def State.panSetMove (s : State) (n k : Nat) (m : Option PanMove) : State :=
  let s := { s with pan := { s.pan with moves := match m with
    | some m => s.pan.moves.put (pk n k) m
    | none => s.pan.moves.del (pk n k) } }
  let s := s.pf F.PAN_INFO_move (pk n k) (match m with | none => 0 | some m => if m.spill then 1 else 2)
  s.pf F.PAN_STATUS_busy n (bN (s.panMoving n ≠ 0))

/-- Empties a stack, abandoning its move (R255). -/
def State.panEmpty (s : State) (n k : Nat) : State :=
  let s := (panSet s n k 0 0 0 0).panSetMove n k none
  { s with pan := { s.pan with fails := s.pan.fails.del (pk n k) } }
/-- Every stack of the die becomes empty and lost sets (R258). -/
def State.panLose (s : State) (n : Nat) : State :=
  (s.each (List.range 144) (fun k s => s.panEmpty n k)).pf F.PAN_STATUS_lost n 1

/-- A mover access fails: the stack's moves stop (R255). -/
def State.panFail (s : State) (n k status : Nat) : State :=
  let s := s.panSetMove n k none
  let s := { s with pan := { s.pan with fails := s.pan.fails.put (pk n k) (status, false) } }
  (s.pf F.PAN_STATUS_mover_fault n 1).notice n 3 2
def State.panFull (s : State) (n : Nat) : State := (s.pf F.PAN_STATUS_full n 1).notice n 3 0

/-! ### The tile's queue (R160, R176, R177) -/

/-- Pannier operations of a tile: drops the finished one and lets channel 3 and waiting groups go on. -/
def State.panFinish (s : State) (t : Nat) : State :=
  (s.setTile t fun tl => { tl with
    panQ := tl.panQ.drop 1
    dmaQ := tl.dmaQ.mapVals (fun ch q => if ch = 3 then q.map (fun d => { d with behind := d.behind - 1 }) else q) }).settleQueues t

/-- A push or pop ends its job with a status: it leaves the queue, and those that have not started are discarded (R184). A started push is
the oldest when it fails. -/
def State.panStop (s : State) (t status : Nat) (o : PanOp) (addr : Nat) : State :=
  ((s.when o.started (fun s => s.setTile t (fun tl => { tl with panQ := tl.panQ.drop 1 }))).lapStop t status o.group o.leader uPan
    o.pc addr).settleQueues t
/-- The Pannier unit leaves service: each push and pop on its die ends its job with UNIT_RESET (R258). -/
def State.panAbort (s : State) (n : Nat) : State :=
  s.each s.tiles.rows fun r s =>
    match r.2.lap, r.2.panQ with
    | some l, o :: _ =>
      if l.die = n then ((s.panStop r.1 St.unitReset o o.addr).setTile r.1 (fun tl => { tl with panQ := [] })).settleQueues r.1 else s
    | _, _ => s

/-- Queues PPUSH or PPOP for its group. -/
def State.panIssue (s : State) (t g : Nat) (push : Bool) (w : FmtT) : State :=
  s.issue t g fun s =>
    match s.leader t g w.pred w.pneg with
    | none => s.advance t g
    | some th =>
      if (s.tile t).panQ.length ≥ 8 then s
      else
        let x := s.group t g
        let addr := x.reg th w.va
        let len := x.reg th (w.va + 1)
        let fmt := if w.f1 ≤ 11 then w.f1 else 0
        let s := s.tileRes t (fmtTRes w false false)
        let blk := 4096 * typeBits fmt / 8
        if (push && (len % 64 ≠ 0 || len < 64 || len > 2 ^ 21)) || (!push && w.axis && len % blk ≠ 0) then
          s.lapStop t St.descInvalid g th uPan x.pc addr
        else if addr + len > tstoreBytes then s.lapStop t St.tstoreRange g th uPan x.pc addr
        else
          let o : PanOp := { push := push, addr := addr, len := len, tag := w.accRow, xpose := w.axis && !push, fmt := fmt,
                             group := g, leader := th, pc := x.pc, behind := ((s.tile t).dmaQ.atD 3 []).length }
          (s.setTile t (fun tl => { tl with panQ := tl.panQ ++ [o] })).advance t g

def execPpush (t g : Nat) (w : FmtT) (s : State) : Res := .next (s.panIssue t g true w)
def execPpop (t g : Nat) (w : FmtT) (s : State) : Res := .next (s.panIssue t g false w)

/-- What stops a tile's operation on a stack: the unit out of service, or a failed mover access whose status no operation has yet
ended with (R255, R258). -/
def panBlocked (s : State) (n k : Nat) : Option Nat :=
  if !panUp s n then some St.unitReset
  else match s.pan.fails.at? (pk n k) with
    | some (st, false) => some st
    | _ => none
/-- The status of the stack's stopped mover, for an operation that needs a move (R255). -/
def panStopped (s : State) (n k : Nat) : Option Nat := (s.pan.fails.at? (pk n k)).map (fun x => x.1)
/-- An operation has ended with the stack's mover failure; its moves stay stopped. -/
def State.panTold (s : State) (n k : Nat) : State :=
  match s.pan.fails.at? (pk n k) with
  | some (st, _) => { s with pan := { s.pan with fails := s.pan.fails.put (pk n k) (st, true) } }
  | none => s

/-- The lowest byte the ring test counts as resident: a fill in flight counts as resident (R249). -/
def panLow (s : State) (n k : Nat) : Nat :=
  match s.panMove? n k with
  | some m => if m.spill then panBottom s n k else m.off
  | none => panBottom s n k
/-- A move of the frame at offset o is in flight. -/
def panBusyAt (s : State) (n k o : Nat) : Bool :=
  match s.panMove? n k with
  | some m => m.off = o
  | none => false

/-- The first operation that has not started, with the room its started predecessors take. -/
def panNextPush : List PanOp → Nat → Option (Nat × PanOp × Nat)
  | [], _ => none
  | o :: r, i => if o.push && o.started then (panNextPush r (i + 1)).map (fun x => (x.1, x.2.1, x.2.2 + frameSize o.len))
                 else some (i, o, 0)

def State.setLap (s : State) (t : Nat) (f : Lap → Lap) : State := s.setTile t (fun tl => { tl with lap := tl.lap.map f })
def State.panMark (s : State) (t i : Nat) (f : PanOp → PanOp) : State :=
  s.setTile t (fun tl => { tl with panQ := tl.panQ.zipIdx.map (fun p => if p.2 = i then f p.1 else p.1) })

/-- A push starts once its whole frame fits in the ring (R249, R251, R256, R257). -/
def execPpushStart (t : Nat) (s : State) : Res :=
  match (s.tile t).lap, panNextPush (s.tile t).panQ 0 with
  | some l, some (i, o, pend) =>
    let n := l.die
    let k := l.panStack
    if !o.push || o.behind ≠ 0 then .next s
    else
      match panBlocked s n k with
      | some st => .next ((s.panTold n k).panStop t st o o.addr)
      | none =>
        let F := frameSize o.len
        let origin := fun (s : State) => s.onJob n l.job fun x =>
          if x.pushOrg.has l.index then x else { x with pushOrg := x.pushOrg.put l.index (panEnd s n k) }
        if l.rerun then
          let at' := l.pushAt.getD (((s.job? n l.job).map (fun x => x.pushOrg.atD l.index (panEnd s n k))).getD 0) + pend
          let bad := fun (r : Bytes) => fieldB r 0 4 ≠ o.len || fieldB r 4 2 ≠ o.tag
          if panBusyAt s n k at' then .next s
          else if at' + F > panEnd s n k then .next (s.panStop t St.pannierOrder o o.addr)
          else
            match s.panRead n k at' 64 (panBottom s n k ≤ at') with
            | (.error f, s) => if f.1 = 0 then .next s else .next (s.panStop t f.1 o f.2)
            | (.ok r1, s) =>
              match s.panRead n k (at' + F - 64) 64 (panBottom s n k ≤ at') with
              | (.error f, s) => if f.1 = 0 then .next s else .next (s.panStop t f.1 o f.2)
              | (.ok r2, s) =>
                if bad r1 || bad r2 then .next (s.panStop t St.pannierOrder o o.addr)
                else .next (s.panMark t i (fun o => { o with started := true, off := at' }))
        else if panTop s n k < panEnd s n k then .next (s.panStop t St.pannierOrder o o.addr)
        else if panEnd s n k + pend + F > panCap s n then .next ((s.panFull n).panStop t St.pannierFull o o.addr)
        else if panEnd s n k + pend + F - panLow s n k > panRing s n then
          let s := if o.waited then s else (s.panMark t i (fun o => { o with waited := true })).bump .PAN_PUSH_WAITS n
          .next (match panStopped s n k with | some st => s.panStop t st o o.addr | none => s)
        else .next ((origin s).panMark t i (fun o => { o with started := true, off := panEnd s n k + pend }))
  | _, _ => .next s

/-- Blocks of 64 × 64 elements of f1, each transposed (R177). -/
def transposeBlocks (fmt : Nat) (bs : Bytes) : Bytes :=
  let blk := 4096 * typeBits fmt / 8
  (List.range (bs.length / blk)).flatMap fun b =>
    let cs := unpackElems fmt 4096 (sliceB bs (b * blk) blk)
    packElems fmt ((List.range 4096).map (fun i => cs.getD (i % 64 * 64 + i / 64) 0))

/-- The frame a pop takes: its start and whether the records agree, or the status that ends the job (R250, R256). -/
def State.panFrame (s : State) (n k top : Nat) (o : PanOp) (rerun : Bool) : Except (Nat × Nat) Nat × State :=
  if !rerun && panFrames s n k = 0 then (.error (St.pannierEmpty, o.addr), s)
  else if top < frameSize o.len then (.error (St.pannierOrder, o.addr), s)
  else
    let bottom := panBottom s n k
    match s.panRead n k (top - 64) 64 (bottom < top) with
    | (.error f, s) => (.error f, s)
    | (.ok r2, s) =>
      let start := top - frameSize o.len
      if fieldB r2 4 2 ≠ o.tag || fieldB r2 0 4 ≠ o.len then (.error (St.pannierOrder, o.addr), s)
      else if !rerun && fieldB r2 16 8 ≠ s.stepOf (s.domainOf n) then (.error (St.pannierOrder, o.addr), s)
      else
        match s.panRead n k start 64 (bottom ≤ start) with
        | (.error f, s) => (.error f, s)
        | (.ok r1, s) =>
          if r1 ≠ r2 || (!rerun && fieldB r2 8 4 ≠ panFrames s n k - 1) then (.error (St.pannierOrder, o.addr), s)
          else (.ok start, s)

/-- A pop runs its checks and, when its frame is resident, completes (R250, R253, R255, R256). -/
def execPpopDone (t : Nat) (s : State) : Res :=
  match (s.tile t).lap, (s.tile t).panQ with
  | some l, o :: _ =>
    let n := l.die
    let k := l.panStack
    if o.push || o.behind ≠ 0 then .next s
    else
      match panBlocked s n k with
      | some st => .next ((s.panTold n k).panStop t st o o.addr)
      | none =>
        let s := if l.rerun then s else s.onJob n l.job fun x =>
          if x.popOrg.has l.index then x else { x with popOrg := x.popOrg.put l.index (panTop s n k) }
        let top := if l.rerun then l.popAt.getD (((s.job? n l.job).map (fun x => x.popOrg.atD l.index 0)).getD 0) else panTop s n k
        match s.panFrame n k top o l.rerun with
        | (.error f, s) => if f.1 = 0 then .next s else .next (s.panStop t f.1 o f.2)
        | (.ok start, s) =>
          let resident := panBottom s n k ≤ start
          if l.rerun && panBusyAt s n k start then .next s
          else if !l.rerun && !resident then
            let s := if o.waited then s else (s.panMark t 0 (fun o => { o with waited := true })).bump .PAN_FILL_WAITS n
            if let some st := panStopped s n k then .next (s.panStop t st o o.addr)
            else if (s.panMove? n k).isNone && panEnd s n k - panBottom s n k + frameSize o.len > panRing s n then
              .next ((s.panFull n).panStop t St.pannierFull o o.addr)
            else .next s
          else
            match s.panRead n k (start + 64) o.len resident with
            | (.error f, s) => if f.1 = 0 then .next s else .next (s.panStop t f.1 o f.2)
            | (.ok data, s) =>
              let data := if o.xpose then transposeBlocks o.fmt data else data
              let s := s.sramWrite (tstoreBase t + o.addr) data
              if l.rerun then .next ((s.setLap t (fun l => { l with popAt := some start })).panFinish t)
              else
                let s := if panBusyAt s n k start then s.panSetMove n k none else s
                let s := panSet s n k start (panEnd s n k) (panBottom s n k) (panFrames s n k - 1)
                let s := s.onJob n l.job fun x => if x.popped.contains k then x else { x with popped := k :: x.popped }
                .next (s.panFinish t)
  | _, _ => .next s

/-- At job end end falls to top on every stack the job popped from (R251). -/
def State.panRelease (s : State) (n : Nat) (ks : List Nat) : State :=
  s.each ks fun k s => panSet s n k (panTop s n k) (panTop s n k) (min (panBottom s n k) (panTop s n k)) (panFrames s n k)

/-! ### The mover (R252 to R255) -/

/-- Length of the frame whose record stands at offset o, or the failure. -/
def State.panLenAt (s : State) (n k o : Nat) (resident : Bool) : Except (Nat × Nat) Nat × State :=
  match s.panRead n k o 64 resident with
  | (.ok r, s) => (.ok (fieldB r 0 4), s)
  | (.error f, s) => (.error f, s)

/-- The front pop of the lap that holds stack k, while it waits and its frame lies below bottom. -/
def panDemand (s : State) (n k : Nat) : Option PanOp :=
  (s.tiles.rows.findSome? fun r =>
    match r.2.lap, r.2.panQ with
    | some l, o :: _ => if l.die = n && l.panStack = k && !l.rerun && !o.push && o.waited && o.behind = 0 &&
        panTop s n k < panBottom s n k + frameSize o.len then some o else none
    | _, _ => none)

def panMovable (s : State) (n k : Nat) : Bool :=
  k < 144 && panUp s n && (s.panMove? n k).isNone && !s.pan.fails.has (pk n k) && s.panMoving n < 8
/-- Length of the frame just below bottom, as the Seedbank's record gives it. -/
def panBelow (s : State) (n k : Nat) : Option Nat :=
  if panBottom s n k < 128 then none
  else match (s.panLenAt n k (panBottom s n k - 64) false).1 with | .ok l => some l | .error _ => none
/-- Sizes of the started pushes of the lap that holds the stack (R249). -/
def panPending (s : State) (n k : Nat) : Nat :=
  s.tiles.rows.foldl (fun a r => match r.2.lap with
    | some l => if l.die = n && l.panStack = k && !l.rerun then
        r.2.panQ.foldl (fun a o => if o.push && o.started then a + frameSize o.len else a) a else a
    | none => a) 0
/-- A frame of size F fits in the ring above the bytes from end and the pending ones (R249, R253). -/
def panFits (s : State) (n k pend F : Nat) : Bool := panEnd s n k + pend + F ≤ panBottom s n k + panRing s n
def panSpillable (s : State) (n k : Nat) : Bool :=
  panMovable s n k && s.gf F.PAN_SIZES_seed_mib n ≠ 0 &&
  panEnd s n k - panBottom s n k > s.gf F.PAN_SIZES_wmark_mib n * mib && panBottom s n k < panTop s n k
def panPrefetchable (s : State) (n k : Nat) : Bool :=
  panMovable s n k && panBottom s n k > 0 && panTop s n k < panBottom s n k + s.gf F.PAN_SIZES_prefetch_mib n * mib &&
  (match panBelow s n k with | some l => panFits s n k (panPending s n k) (frameSize l) | none => true)
def panDemandable (s : State) (n k : Nat) : Bool :=
  panMovable s n k && panBottom s n k > 0 &&
  (match panDemand s n k with | some o => panFits s n k 0 (frameSize o.len) | none => false)

/-- The stack a class serves next: round robin from the one after the last served (R254). -/
def panTurn (s : State) (n cls : Nat) (ok : Nat → Bool) : Option Nat :=
  let last := s.pan.served.atD (n * 4 + cls) 143
  ((List.range 144).map (fun i => (last + 1 + i) % 144)).find? ok

def State.panStart (s : State) (n k cls : Nat) (m : PanMove) : State :=
  let s := s.panSetMove n k (some m)
  { s with pan := { s.pan with served := s.pan.served.put (n * 4 + cls) k } }

def execSpillStart (n k : Nat) (s : State) : Res :=
  if (panTurn s n 0 (panDemandable s n)).isSome || (panTurn s n 1 (panPrefetchable s n)).isSome ||
     panTurn s n 2 (panSpillable s n) ≠ some k then .next s
  else
    match s.panLenAt n k (panBottom s n k) true with
    | (.ok len, s) => .next (s.panStart n k 2 { spill := true, off := panBottom s n k, size := frameSize len })
    | (.error f, s) => if f.1 = 0 then .next s else .next (s.panFail n k f.1)

def State.panFill (s : State) (n k cls : Nat) : State :=
  match s.panLenAt n k (panBottom s n k - 64) false with
  | (.ok len, s) =>
    if panBottom s n k < frameSize len then s.panFail n k St.pannierOrder
    else s.panStart n k cls { spill := false, off := panBottom s n k - frameSize len, size := frameSize len, demand := cls = 0 }
  | (.error f, s) => if f.1 = 0 then s else s.panFail n k f.1

def execPrefetchFillStart (n k : Nat) (s : State) : Res :=
  if (panTurn s n 0 (panDemandable s n)).isSome || panTurn s n 1 (panPrefetchable s n) ≠ some k then .next s
  else .next (s.panFill n k 1)

/-- A demand fill for a waiting pop, one frame at a time from just below bottom. -/
def execDemandFillStart (n k : Nat) (s : State) : Res :=
  if panTurn s n 0 (panDemandable s n) ≠ some k then .next s else .next (s.panFill n k 0)

/-- A move completes: its bytes are copied, its lines counted, and bottom changes (R252 to R254). -/
def execMoveDone (n k : Nat) (s : State) : Res :=
  match s.panMove? n k with
  | none => .next s
  | some m =>
    match s.panRead n k m.off m.size m.spill with
    | (.error f, s) => if f.1 = 0 then .next s else .next (s.panFail n k f.1)
    | (.ok bs, s) =>
      match s.panWrite n k m.off bs (!m.spill) with
      | (.error f, s) => if f.1 = 0 then .next s else .next (s.panFail n k f.1)
      | (.ok _, s) =>
        let s := s.bump64 (if m.spill then .PAN_SPILL_LINES else .PAN_FILL_LINES) n (m.size / 64)
        let s := s.pf F.PAN_BOTTOM_bottom (pk n k) (if m.spill then m.off + m.size else m.off)
        .next (s.panSetMove n k none)

/-! ### Register writes (R255, R260) -/

def State.panClearOne (s : State) (n k : Nat) : State :=
  if panHeld s n k then s.pf F.PAN_STATUS_clear_refused n 1 else s.panEmpty n k

/-- PAN_CMD: stack and all are stored; clear empties the named stacks. -/
def execPanClear (role : Role) (n : Nat) (v : Word32) (s : State) : Res :=
  if n ≥ 8 || !s.mmioRole role then .next s
  else
    let k := bitsN v.toNat 7 0
    let all := bitN v.toNat 8
    let s := (s.pf F.PAN_CMD_stack n k).pb F.PAN_CMD_all n all
    if !bitN v.toNat 9 then .next s
    else if all then .next (s.each (List.range 144) (fun k s => s.panClearOne n k))
    else if k < 144 then .next (s.panClearOne n k)
    else .next s

/-- PAN_SIZES with its clamps; ignored while enable = 1. -/
def execPanSizesWrite (role : Role) (n : Nat) (v : Word64) (s : State) : Res :=
  if n ≥ 8 || !s.mmioRole role || s.gb F.PAN_CTRL_enable n then .next s
  else
    let x := v.toNat
    let ring := max 8 (min 4096 (bitsN x 15 0))
    let wm := max 4 (min (ring - 3) (bitsN x 31 16))
    let pre := max 1 (min (wm - 3) (bitsN x 47 32))
    let sd := bitsN x 63 48
    let seed := if 1 ≤ sd && sd < ring then ring else sd
    let s := (((s.pf F.PAN_SIZES_ring_mib n ring).pf F.PAN_SIZES_wmark_mib n wm).pf F.PAN_SIZES_prefetch_mib n pre).pf F.PAN_SIZES_seed_mib n seed
    .next (s.when (ring ≠ bitsN x 15 0 || wm ≠ bitsN x 31 16 || pre ≠ bitsN x 47 32 || seed ≠ sd)
      (fun s => s.pf F.PAN_STATUS_clamped n 1))

/-- PAN_CTRL: setting enable clears every stack; clearing it waits for no held stack; ctx is fixed while enabled. -/
def execPanEnable (role : Role) (n : Nat) (v : Word32) (s : State) : Res :=
  if n ≥ 8 || !s.mmioRole role then .next s
  else
    let on := s.gb F.PAN_CTRL_enable n
    let new := bitN v.toNat 0
    let s := if on then s else s.pf F.PAN_CTRL_ctx n (bitsN v.toNat 6 1)
    if new && !on then .next ((s.each (List.range 144) (fun k s => s.panEmpty n k)).pf F.PAN_CTRL_enable n 1)
    else if !new && on && !(List.range 144).any (fun k => panHeld s n k) then .next (s.pf F.PAN_CTRL_enable n 0)
    else .next s

end Sys2Proof.Machine
end

