-- ==== Sys2Proof/Machine/Streams.lean ====
section
/-! DEFINITION. Command streams (spec/10): rings and tails, entries and their start order, jobs and laps, micro-batch
groups, waits, and completion. -/

namespace Sys2Proof.Machine

/-! ### Streams (R291 to R294, R316, R317) -/

def sk (n st : Nat) : Nat := n * 64 + st
def State.strm (s : State) (n st : Nat) : Strm := s.seq.streams.atD (sk n st) {}
def State.setStrm (s : State) (n st : Nat) (f : Strm → Strm) : State :=
  { s with seq := { s.seq with streams := s.seq.streams.put (sk n st) (f (s.strm n st)) } }
def State.onSeq (s : State) (f : SeqSt → SeqSt) : State := { s with seq := f s.seq }
def strmOn (s : State) (n st : Nat) : Bool := s.gb F.SEQ_STREAM_CTRL_enable (sk n st)
def strmCtx (s : State) (n st : Nat) : Nat := s.gf F.SEQ_STREAM_CTRL_ctx (sk n st)
def strmHalted (s : State) (n st : Nat) : Bool := s.gb F.SEQ_STREAM_STATUS_halted (sk n st)
/-- Ring slots E (R292). -/
def strmSlots (s : State) (n st : Nat) : Nat := 2 ^ s.gf F.SEQ_STREAM_CTRL_ring_log2 (sk n st)
def strmScb (s : State) (n st : Nat) : Nat := s.gf F.SEQ_STREAM_BASE_scb (sk n st) * 64
/-- The sequencer complex is fault block 1 of its die (R441). -/
def seqUp (s : State) (n : Nat) : Bool := n < 8 && s.blkIn n 1
/-- R310: between READY and the boundary the complex starts nothing. -/
def seqHeld (s : State) (n : Nat) : Bool := s.gb F.SEQ_STATUS_ready_sent n

/-! ### Writes of a complex to its control blocks and records -/

/-- Performs what waits of die n, in order within each stream; an MSI leaves once its record is performed (R64, R314). -/
def State.seqGo (s : State) (n : Nat) : State :=
  let l := s.seq.writes
  (s.onSeq (fun q => { q with writes := [] })).each l fun w s =>
    let wait := fun (s : State) => s.onSeq (fun q => { q with writes := q.writes ++ [w] })
    if w.die ≠ n || s.seq.writes.any (fun v => v.die = n && v.stream = w.stream) then wait s
    else
      let put := if w.data = [] then (.ok (), s) else s.vwrite (.seq n) w.ctx w.va w.data n
      match put with
      | (.error (0, _), s) => wait s
      | (_, s) => match w.msi with | some m => s.msiOut n m.1 m.2 | none => s
def State.seqPut (s : State) (w : SeqWrite) : State := (s.onSeq (fun q => { q with writes := q.writes ++ [w] })).seqGo w.die
/-- A write to the SCB of a stream. -/
def State.scbPut (s : State) (n st off : Nat) (v : Nat) : State :=
  s.seqPut { die := n, stream := st, ctx := strmCtx s n st, va := strmScb s n st + off, data := leBytes 8 v }

/-- Halts a stream: halt_pos is stored in the SCB and halted sets (R293, R316). -/
def State.halt (s : State) (n st pos : Nat) (stuck : Bool) : State :=
  let s := (s.setStrm n st (fun x => { x with haltPos := pos, stuck := x.stuck || stuck })).pf F.SEQ_STREAM_STATUS_halted (sk n st) 1
  s.scbPut n st 80 pos
def State.haltWith (s : State) (n st status : Nat) : State :=
  (s.pf F.SEQ_STREAM_STATUS_last_status (sk n st) status).halt n st (s.strm n st).head true

/-- Compares a tail with the last one seen (R293). The first look after enabling is no wake. -/
def State.tailCheck (s : State) (n st tail : Nat) (wake : Bool) : State :=
  let x := s.strm n st
  if tail = x.seen && (wake || tail = x.head) then s.when wake (fun s => s.bump .SEQ_WAKES n)
  else if x.seen ≤ tail && tail ≤ x.head + strmSlots s n st then s.setStrm n st (fun x => { x with seen := tail, limit := tail })
  else (((s.setStrm n st (fun x => { x with limit := x.head })).pf F.SEQ_STREAM_STATUS_tail_error (sk n st) 1).halt n st x.head true).notice n 1 0

/-- Watches a sequencer complex holds or has due (R109). -/
def seqWatches (s : State) (n : Nat) : Nat :=
  (s.seq.streams.rows.filter (fun r => r.1 / 64 = n && r.2.watch.isSome)).length +
  (s.seq.ents.filter (fun e => e.die = n && fieldB e.entry 0 1 = 5)).length

/-- Where a watch of a virtual address would be armed: its physical address and key, the failing status, or nothing yet
on a locked page (R109). -/
def State.watchTarget (s : State) (u : XUnit) (ctx va node : Nat) : Except Nat (Nat × Nat) × State :=
  match s.xlate u ctx va accLoad node with
  | (.fail st, s) => (.error st, s)
  | (.locked, s) => (.error 0, s.lockWaitFor u ctx va accLoad)
  | (.ok pa _ ty key, s) =>
    let r := s.region pa
    if (ty = 0 || ty = 1) && (r = .hbm || r = .ddr || r = .cxl) then (.ok (pa, key), s) else (.error St.watchType, s)

/-- Releases the watch line of a stream or wait: the copy is dropped unless another watch holds it. -/
def State.unwatch (s : State) (n line : Nat) : State :=
  if s.seq.streams.rows.any (fun r => r.1 / 64 = n && r.2.watch == some line) ||
     s.seq.ents.any (fun e => e.die = n && fieldB e.entry 0 1 = 5 && e.line = line) then s
  else s.dropCopy (agentSeq n) line

/-- The watch of a stream that is no longer enabled is released (R316). -/
def State.releaseWatch (s : State) (n st : Nat) : State :=
  let w := (s.strm n st).watch
  let s := (s.setStrm n st (fun x => { x with watch := none, fresh := false })).pf F.SEQ_STREAM_STATUS_armed (sk n st) 0
  match w with | some l => s.unwatch n l | none => s

/-- Arms the watch on SCB line 0 and reads the tail (R293). A line that is open makes the WATCH wait at its home. -/
def State.streamArm (s : State) (n st : Nat) : State :=
  match s.watchTarget (.seq n) (strmCtx s n st) (strmScb s n st) n with
  | (.error 0, s) => s
  | (.error e, s) => s.haltWith n st e
  | (.ok (pa, key), s) =>
    let line := lineOf pa
    let old := (s.strm n st).watch
    let s := s.setStrm n st (fun x => { x with watch := some line, fresh := true, stuck := false })
    let s := match old with | some l => if l = line then s else s.unwatch n l | none => s
    if s.lineBad line then (s.memErr pa).haltWith n st St.memUncorrectable
    else
      match s.shareNow (agentSeq n) line key true with
      | (false, s) => s.homeReq { kind := .watch, agent := agentSeq n, line := line, key := key }
      | (true, s) =>
        let tail := match s.copy? (agentSeq n) line with | some c => fieldB c.data (pa % 64) 8 | none => 0
        ((s.setStrm n st (fun x => { x with fresh := false })).pf F.SEQ_STREAM_STATUS_armed (sk n st) 1).tailCheck n st tail false

/-- Enabling reads ring and head and arms the watch (R293). Entries started before go on (R316). -/
def State.streamOpen (s : State) (n st : Nat) : State :=
  let s := s.setStrm n st (fun x => { x with opening := true, stuck := false, waits := false })
  match s.vread (.seq n) (strmCtx s n st) (strmScb s n st + 64) 16 n with
  | (.error f, s) => if f.1 = 0 then s else (s.setStrm n st (fun x => { x with opening := false })).haltWith n st f.1
  | (.ok b, s) =>
    let head := fieldB b 8 8
    ((s.setStrm n st (fun x => { x with opening := false, ring := fieldB b 0 8, head := head, seen := head, limit := head })).wr .SEQ_STREAM_HEAD
      (sk n st) head).streamArm n st

/-- A stream whose context has a part_id is written through the RoT only (R317). -/
def State.mayWriteStream (s : State) (role : Role) (n st : Nat) (ctx : Nat) : Bool :=
  privRole role || s.mmioRole role && s.gf F.TRANS_ATTR_part_id (strmCtx s n st) = 0 && s.gf F.TRANS_ATTR_part_id ctx = 0

/-! ### Completion records (R312 to R316) -/

structure CRec where
  status : Nat := 0
  flags : Nat := 0
  lapsDone : Nat := 0
  round : Nat := 0
  failTile : Nat := 0xFFFF
  failLap : Nat := 0
  detail : Nat := 0
  failAddr : Nat := 0
  unacked : Nat := 0
  tStart : Nat := 0
  tEnd : Nat := 0

/-- The scope an entry names, with reserved values applied as the default (R295, R296). -/
def entScopeOf (s : State) (e : Bytes) : Nat := let v := fieldB e 62 1 % 8; if v ≤ 3 then v else s.odN 0x8030 1 % 4
def recBytes (e : Bytes) (pos scope : Nat) (r : CRec) : Bytes :=
  leBytes 8 pos ++ sliceB e 56 4 ++ leBytes 1 r.status ++ leBytes 1 r.flags ++ leBytes 1 scope ++ leBytes 1 1 ++
  leBytes 4 r.lapsDone ++ leBytes 2 r.round ++ leBytes 2 r.failTile ++ leBytes 4 r.failLap ++ leBytes 1 r.detail ++ zerosB 3 ++
  leBytes 8 r.failAddr ++ leBytes 4 r.unacked ++ zerosB 4 ++ leBytes 8 r.tStart ++ leBytes 8 r.tEnd

/-- Steps 4 to 6 of R313: release, record, MSI. A record on a locked page waits, and its MSI with it (R64, R314). -/
def State.finish (s : State) (n st pos : Nat) (e : Bytes) (tiles : List Nat) (r : CRec) : State :=
  let scope := entScopeOf s e
  let s := s.each tiles (fun t s => s.tileRelease t scope)
  let va := fieldB e 48 8
  let i := fieldB e 60 2
  let s := s.seqPut { die := n, stream := st, ctx := strmCtx s n st, va := va, data := if va = 0 || va % 64 ≠ 0 then [] else recBytes e pos scope r
                      msi := if i < 256 then some (s.gf F.SEQ_MSI_ADDR_addr (n * 256 + i) * 4, s.gf F.SEQ_MSI_DATA_data (n * 256 + i)) else none }
  s.pf F.SEQ_STREAM_STATUS_last_status (sk n st) r.status

/-- R316: a status other than OK halts the stream when halt_on_error is set. -/
def State.haltOnError (s : State) (n st pos status : Nat) : State :=
  s.when (status ≠ 0 && s.gb F.SEQ_STREAM_CTRL_halt_on_error (sk n st)) (fun s => s.halt n st pos false)

def State.countJobs (s : State) (n : Nat) : State :=
  s.pf F.SEQ_STATUS_jobs_active n
    ((s.seq.ents.filter (fun e => e.die = n && (fieldB e.entry 0 1 = 1 || fieldB e.entry 0 1 = 2))).length)

/-- Completes a started entry: record and interrupt, its place among the started entries, and a halt. -/
def State.completeEnt (s : State) (e : Ent) (tiles : List Nat) (r : CRec) : State :=
  let s := s.finish e.die e.stream e.pos e.entry tiles { r with tStart := e.tStart }
  let s := s.onSeq (fun q => { q with ents := q.ents.filter (fun x => !(x.die = e.die && x.stream = e.stream && x.pos = e.pos)) })
  let s := s.countJobs e.die
  let s := s.when (!strmOn s e.die e.stream && (s.strm e.die e.stream).watch.isSome && !s.seq.ents.any (fun x => x.die = e.die && x.stream = e.stream))
    (fun s => s.releaseWatch e.die e.stream)
  s.haltOnError e.die e.stream e.pos r.status

/-! ### Starting entries (R296, R297, R310) -/

def entType (e : Bytes) : Nat := fieldB e 0 1
def entAfter (e : Bytes) : Bool := bitN (fieldB e 1 1) 0 || entType e = 6
/-- Reserved type, msi or scope values (R296). -/
def entRes (e : Bytes) : Bool :=
  entType e > 6 || (256 ≤ fieldB e 60 2 && fieldB e 60 2 ≠ 0xFFFF) || (5 ≤ fieldB e 62 1 % 8)
/-- cmpl breaks its rule. -/
def cmplBad (e : Bytes) : Bool := fieldB e 48 8 % 64 ≠ 0

/-- Slots of jobs and groups in use on a die. -/
def slotsUsed (s : State) (n : Nat) : List Nat :=
  (s.seq.ents.filter (fun e => e.die = n && (entType e.entry = 1 || entType e.entry = 2))).map (·.slot)
def freeSlot (s : State) (n : Nat) : Option Nat := (List.range 64).find? (fun j => !(slotsUsed s n).contains j)
def waitsUsed (s : State) (n : Nat) : List Nat :=
  (s.seq.ents.filter (fun e => e.die = n && entType e.entry = 5)).map (·.slot)
def freeWait (s : State) (n : Nat) : Option Nat := (List.range 192).find? (fun j => !(waitsUsed s n).contains j)

/-- The entry a stream would start next: a job of its running round, or the first fetched entry. Entries behind an open
group start once the group's jobs have; a second group waits for the first. -/
def nextEntry (s : State) (n st : Nat) : Option (Nat × Bytes × Bool) :=
  match (s.strm n st).group with
  | some g =>
    if g.running && g.toStart ≠ [] then g.toStart.head?.map (fun p => (p.1, p.2, true))
    else if g.ran = 0 && !g.running then none
    else ((s.strm n st).fetched.head?.filter (fun p => fieldB p.2 0 1 ≠ 2)).map (fun p => (p.1, p.2, false))
  | none => (s.strm n st).fetched.head?.map (fun p => (p.1, p.2, false))

/-! The tile set of a job (R299). -/
def tsetFirst (e : Bytes) : Nat := fieldB e 6 1
def tsetCount (e : Bytes) : Nat := let c := fieldB e 7 1; if c = 0 then 144 else c
def tset (n : Nat) (e : Bytes) : List Nat := (List.range (tsetCount e)).map (fun i => n * 144 + tsetFirst e + i)
/-- The tile is usable: fused enabled and not isolated. -/
def usable (s : State) (t : Nat) : Bool := s.enabled t && s.blkState (tileDie t) (tileBlk t) = 0
/-- R298: the fields of a JOB entry break a rule. -/
def jobBad (s : State) (e : Bytes) : Bool :=
  fieldB e 2 1 = 0 || fieldB e 24 4 = 0 || fieldB e 5 1 > 143 || tsetFirst e > 143 || tsetFirst e + tsetCount e > 144 ||
  fieldB e 8 8 % 8 ≠ 0 || fieldB e 4 1 > 63 || !s.gb F.TRANS_ROOT_enable (fieldB e 4 1) || cmplBad e
/-- The job waits for a tile of its set to be restored. -/
def jobWaits (s : State) (n : Nat) (e : Bytes) : Bool :=
  !jobBad s e && !(tset n e).any (usable s) && (tset n e).any (fun t => s.enabled t)

/-- The resources an entry needs are free (R297). -/
def entRoom (s : State) (n st : Nat) (e : Bytes) (inGroup : Bool) : Bool :=
  match entType e with
  | 1 => (freeSlot s n).isSome && !jobWaits s n e
  | 2 => (freeSlot s n).isSome && (s.strm n st).fetched.length > fieldB e 18 1 || fieldB e 18 1 > 15
  | 5 => (freeWait s n).isSome
  | _ => !inGroup

/-- The stream's next entry may start now (R297). The jobs of a started group start though the stream is halted or disabled (R316). -/
def startable (s : State) (n st : Nat) : Bool :=
  seqUp s n && !seqHeld s n &&
  match nextEntry s n st with
  | none => false
  | some (_, e, inGroup) =>
    let open' := s.seq.ents.any (fun x => x.die = n && x.stream = st && x.inGroup == inGroup) || s.seq.writes.any (fun w => w.die = n && w.stream = st)
    (inGroup || strmOn s n st && !strmHalted s n st) && !(entAfter e && open') && entRoom s n st e inGroup

/-- The stream whose entry starts next: the highest priority, then round robin after the one served last (R297). A start that has met
something it waits for holds back no other stream; it is tried again when stream `again` is. -/
def seqPick (s : State) (n again : Nat) : Option Nat :=
  let cand := (List.range 64).filter (fun st => startable s n st && (st = again || !(s.strm n st).waits))
  let pr := fun st => s.gf F.SEQ_STREAM_CTRL_priority (sk n st)
  let best := maxList (cand.map pr)
  let last := s.seq.served.atD n 63
  ((List.range 64).map (fun i => (last + 1 + i) % 64)).find? (fun st => cand.contains st && pr st = best)

/-- Takes the next entry of a stream off its list and puts it among the started entries. -/
def State.takeEntry (s : State) (n st : Nat) (slot : Nat) : Option (Ent × State) :=
  match nextEntry s n st with
  | none => none
  | some (pos, e, inGroup) =>
    let round := match (s.strm n st).group with
      | some g => if inGroup then g.cur else 0
      | none => 0
    let ent : Ent := { die := n, stream := st, pos := pos, entry := e, slot := slot, tStart := s.dieTime n, round := round, inGroup := inGroup }
    let s := s.setStrm n st fun x =>
      if inGroup then { x with waits := false, group := x.group.map (fun g => { g with toStart := g.toStart.drop 1 }) }
      else { x with waits := false, fetched := x.fetched.drop 1 }
    let s := s.onSeq (fun q => { q with ents := q.ents ++ [ent], served := q.served.put n st })
    some (ent, (s.when (entRes e) (fun s => s.pf F.SEQ_STATUS_reserved_encoding n 1)).countJobs n)

/-- Starts the next entry of stream st when it is the complex's choice and of one of the types named. Where f answers
none the start waits, on a locked page (R64) or for its engine, and the entry has not started. -/
def State.startEntry (s : State) (n st : Nat) (types : Nat → Bool) (f : Ent → State → Option State) : State :=
  if seqPick s n st ≠ some st then s
  else
    match nextEntry s n st with
    | none => s
    | some (_, e, _) =>
      if !types (entType e) then s
      else
        let slot := match entType e with
          | 5 => (freeWait s n).getD 0
          | _ => (freeSlot s n).getD 0
        match s.takeEntry n st slot with
        | some (ent, s') => (f ent s').getD (s.setStrm n st (fun x => { x with waits := true }))
        | none => s

def State.endEnt (s : State) (e : Ent) (status detail failAddr : Nat) : State :=
  s.completeEnt e [] { status := status, detail := detail, failAddr := failAddr, tEnd := s.dieTime e.die }

/-- NOP entries and entries of reserved type (R296). -/
def execNopEntry (n st : Nat) (s : State) : Res :=
  .next (s.startEntry n st (fun t => t = 0 || t > 6) fun e s => some (s.endEnt e (if cmplBad e.entry then St.entryInvalid else 0) 0 0))

/-! ### Fetching and enabling -/

/-- Fetched entries that have not started are cancelled; started ones run on, and the watch is released when they have ended (R316). -/
def execStreamDisable (role : Role) (n st : Nat) (s : State) : Res :=
  if n ≥ 8 || st ≥ 64 || !s.mayWriteStream role n st (strmCtx s n st) || !strmOn s n st then .next s
  else
    let x := s.strm n st
    let s := s.each x.fetched (fun p s => s.finish n st p.1 p.2 [] { status := St.cancelled, tStart := s.dieTime n, tEnd := s.dieTime n })
    let s := s.pf F.SEQ_STREAM_CTRL_enable (sk n st) 0
    let s := s.setStrm n st (fun x => { x with fetched := [], opening := false, limit := x.head })
    .next (if s.seq.ents.any (fun e => e.die = n && e.stream = st) then s else s.releaseWatch n st)

/-- SEQ_STREAM_CTRL: the fields but enable are fixed while the stream is enabled; ring_log2 is clamped (R317). -/
def execStreamEnable (role : Role) (n st : Nat) (v : Word32) (s : State) : Res :=
  let w := v.toNat
  let i := sk n st
  if n ≥ 8 || st ≥ 64 || !s.mayWriteStream role n st (bitsN w 6 1) then .next s
  else if strmOn s n st then (if bitN w 0 then .next s else execStreamDisable role n st s)
  else
    let s := (((((s.pf F.SEQ_STREAM_CTRL_ctx i (bitsN w 6 1)).pf F.SEQ_STREAM_CTRL_step_bound i (bitsN w 7 7)).pf
      F.SEQ_STREAM_CTRL_halt_on_error i (bitsN w 8 8)).pf F.SEQ_STREAM_CTRL_priority i (bitsN w 10 9)).pf
      F.SEQ_STREAM_CTRL_ring_log2 i (max 6 (min 20 (bitsN w 15 11))))
    .next (if bitN w 0 then (s.pf F.SEQ_STREAM_CTRL_enable i 1).streamOpen n st else s)

/-- Writing 1 to halted resumes the stream at the entry after halt_pos; after a failed arming, tail or fetch the tail is
read again from head (R293, R316). -/
def execHaltClear (role : Role) (n st : Nat) (s : State) : Res :=
  if n ≥ 8 || st ≥ 64 || !s.mayWriteStream role n st (strmCtx s n st) || !strmHalted s n st then .next s
  else
    let s := s.pf F.SEQ_STREAM_STATUS_halted (sk n st) 0
    let x := s.strm n st
    .next (if x.stuck && strmOn s n st then (s.setStrm n st (fun x => { x with seen := x.head, stuck := false })).streamArm n st else s)

def execEntryFetch (n st : Nat) (s : State) : Res :=
  let x := s.strm n st
  if n ≥ 8 || st ≥ 64 || !seqUp s n || !strmOn s n st || strmHalted s n st || x.head ≥ x.limit || x.fetched.length ≥ 16 then .next s
  else
    match s.vread (.seq n) (strmCtx s n st) (x.ring + x.head % strmSlots s n st * 64) 64 n with
    | (.error f, s) => .next (if f.1 = 0 then s else s.haltWith n st f.1)
    | (.ok b, s) =>
      let s := (s.setStrm n st (fun x => { x with fetched := x.fetched ++ [(x.head, b)], head := x.head + 1 })).wr .SEQ_STREAM_HEAD (sk n st)
        (x.head + 1)
      .next (s.scbPut n st 72 (x.head + 1))

/-! ### Jobs (R298 to R303) -/

/-- The re-conversion table (R303): its records, or the status that ends the job. -/
def State.reconvTable (s : State) (n : Nat) (e : Bytes) : Except (Nat × Nat) (List Bytes) × State :=
  let va := fieldB e 40 8
  let ctx := fieldB e 4 1
  if va = 0 then (.ok [], s)
  else
    match s.vread (.seq n) ctx va 4 n with
    | (.error f, s) => (.error f, s)
    | (.ok b, s) =>
      let c := leVal b
      if c = 0 || c > 16 then (.error (St.entryInvalid, va), s)
      else
        match s.vread (.seq n) ctx (va + 16) (16 * c) n with
        | (.error f, s) => (.error f, s)
        | (.ok b, s) =>
          let rs := (List.range c).map (fun i => sliceB b (16 * i) 16)
          if rs.any (fun r => !(2 ≤ fieldB r 3 1 && fieldB r 3 1 ≤ 7)) then (.error (St.entryInvalid, va), s) else (.ok rs, s)

/-- A pinned lap of the job falls to a fused-disabled tile (R300). -/
def pinAbsent (s : State) (n : Nat) (e : Bytes) : Bool :=
  bitN (fieldB e 1 1) 3 &&
  (List.range (min (fieldB e 24 4) (tsetCount e))).any (fun i => !s.enabled (n * 144 + tsetFirst e + i))

def State.groupAdvance (s : State) (n st : Nat) : State :=
  match (s.strm n st).group with
  | none => s
  | some g =>
    if !g.running || g.toStart ≠ [] || s.seq.ents.any (fun e => e.die = n && e.stream = st && e.inGroup) then s
    else
      let g := { g with running := false, ran := g.ran + 1 }
      if g.sched ≠ [] then s.setStrm n st (fun x => { x with group := some g })
      else
        let s := s.setStrm n st (fun x => { x with group := none })
        match s.seq.ents.find? (fun e => e.die = n && e.stream = st && e.pos = g.pos) with
        | some e =>
          s.completeEnt e [] { status := if g.status = 0 && g.exceeded then St.roundsExceeded else g.status, round := g.ran, tEnd := s.dieTime n }
        | none => s

/-- Ends a job entry: inside a group the first failing status is the group's (R304, log entry 50). -/
def State.endJobEnt (s : State) (e : Ent) (tiles : List Nat) (r : CRec) : State :=
  let s := s.completeEnt e tiles { r with round := e.round }
  if e.inGroup then
    (s.setStrm e.die e.stream (fun x => { x with group := x.group.map (fun g => if g.status = 0 then { g with status := r.status } else g) })).groupAdvance
      e.die e.stream
  else s

/-- JOB_ENTRY_START (R298, R299, R303). -/
def execJobEntryStart (n st : Nat) (s : State) : Res :=
  .next (s.startEntry n st (· = 1) fun ent s =>
    let e := ent.entry
    let fail := fun (s : State) (status addr : Nat) => s.endJobEnt ent [] { status := status, failAddr := addr, tEnd := s.dieTime n }
    if jobBad s e then some (fail s St.entryInvalid 0)
    else if !(tset n e).any (usable s) || pinAbsent s n e then some (fail s St.tileAbsent 0)
    else
      match s.reconvTable n e with
      | (.error f, s) => if f.1 = 0 then none else some (fail s f.1 f.2)
      | (.ok rs, s) =>
        let x : Job := { stream := st, pos := ent.pos, entry := e, order := s.seq.nextOrder, round := ent.round, inGroup := ent.inGroup
                         tiles := (tset n e).filter (usable s), reconv := rs, tStart := s.dieTime n }
        some ((s.setJob n ent.slot x).onSeq (fun q => { q with nextOrder := q.nextOrder + 1 })))

/-- The lap a tile would run next of a job: its index in tile order (R300). -/
def nextLapOf (n : Nat) (x : Job) (t : Nat) : Option Nat :=
  let i := x.sent.atD t 0
  if x.pin then
    let cnt := tsetCount x.entry
    let first := n * 144 + tsetFirst x.entry
    if t < first || t ≥ first + cnt then none
    else
      let q := t - first
      let c := if q < x.laps then (x.laps - q + cnt - 1) / cnt else 0
      if i ≥ c then none else some (if x.reverse then q + (c - 1 - i) * cnt else q + i * cnt)
  else
    match x.tiles.idxOf? t with
    | none => none
    | some p =>
      let j := p + i * x.tiles.length
      if j ≥ x.laps then none else some (if x.reverse then x.laps - 1 - j else j)

/-- The next lap for a tile: index and whether it is a re-run (R225, R300). -/
def lapFor (n : Nat) (x : Job) (t : Nat) : Option (Nat × Bool) :=
  if x.status ≠ 0 then none
  else if x.phase = 0 then (nextLapOf n x t).map (fun i => (i, false))
  else if x.phase = 1 && (tset n x.entry).contains t then x.rerun.head?.map (fun i => (i, true))
  else none

/-- Jobs of a die in start order, with their slots. -/
def jobsOf (s : State) (n : Nat) : List (Nat × Job) :=
  let l := (s.seq.jobs.rows.filter (fun r => r.1 / 64 = n)).map (fun r => (r.1 % 64, r.2))
  sortBy (fun a b => a.2.order ≤ b.2.order) l

/-- A unit's epoch is current (R48, R311). -/
def tileCurrent (s : State) (t : Nat) : Bool := s.gf F.TILE_UNIT_EPOCH_epoch t ≥ s.pkgEpoch && !s.redo.contains (.tile t)

/-- A lap of the job that is dispatched before lap i has still to go to a tile in service: a job's laps are dispatched in ascending index, or
in descending index with the reverse bit (R247). -/
def lapBefore (s : State) (n : Nat) (x : Job) (i : Nat) : Bool :=
  (tset n x.entry).any (fun t => s.tileIn t && match nextLapOf n x t with
    | some j => if x.reverse then i < j else j < i
    | none => false)

/-- The sequencer places the next lap in a tile's queued slot, after the epoch check (R300, R311). -/
def execLapDispatch (t : Nat) (s : State) : Res :=
  let n := tileDie t
  if !s.tileIn t || !seqUp s n || seqHeld s n || !tileCurrent s t || (s.tile t).queued.isSome then .next s
  else
    match (jobsOf s n).findSome? (fun p => (lapFor n p.2 t).map (fun l => (p.1, p.2, l.1, l.2))) with
    | none => .next s
    | some (j, x, i, again) =>
      if !again && lapBefore s n x i then .next s else
      let e := x.entry
      let base := fieldB e 5 1 + (if x.inGroup then x.round * x.laps else 0)
      let l : Lap := { die := n, job := j, index := i, round := x.round, ctx := x.ctx, code := fieldB e 8 8
                       args := (fieldB e 16 8 + x.round * fieldB e 32 4 + i * fieldB e 28 4) % 2 ^ 64
                       groups := min 64 (fieldB e 2 1), panStack := (base + i) % 144, seq := s.seq.nextLap
                       recompute := x.recompute, rerun := again }
      let x := if again then { x with rerun := x.rerun.drop 1 } else { x with sent := x.sent.put t (x.sent.atD t 0 + 1) }
      let s := s.when (s.tileState t = 3) (fun s => s.pf F.TILE_STATUS_state t 1)
      let s := s.onSeq (fun q => { q with nextLap := q.nextLap + 1 })
      .next ((s.setJob n j x).setTile t (fun tl => { tl with queued := some l }))

/-- Laps of a job that share lap i's stack, and i's rank among them in grant order (R247). -/
def stackLaps (x : Job) (i : Nat) : Nat := if i % 144 < x.laps then (x.laps - i % 144 + 143) / 144 else 0
def stackRank (x : Job) (i : Nat) : Nat := if x.reverse then stackLaps x i - 1 - i / 144 else i / 144
/-- The stack's holder and the grants of the lap's own stream let it have its stack: no lap holds it and no earlier lap or job of the stream
waits for it. -/
def stackMine (s : State) (l : Lap) : Bool :=
  !panHeld s l.die l.panStack && (l.rerun ||
    match s.job? l.die l.job with
    | none => true
    | some x =>
      x.granted.atD (l.index % 144) 0 = stackRank x l.index &&
      (jobsOf s l.die).all (fun p =>
        !(p.2.stream = x.stream && p.2.order < x.order && p.2.status = 0 && p.2.phase = 0) ||
        (let base := fieldB p.2.entry 5 1 + (if p.2.inGroup then p.2.round * p.2.laps else 0)
         let r := (l.panStack + 144 * (base / 144 + 1) - base) % 144
         p.2.granted.atD r 0 ≥ stackLaps p.2 r)))
/-- The lap may be granted its stack now: laps of different streams take a shared stack in dispatch order (R247). -/
def stackFree (s : State) (l : Lap) : Bool :=
  stackMine s l && s.tiles.rows.all fun r =>
    match r.2.queued with
    | some q => !(q.die = l.die && q.panStack = l.panStack && q.seq < l.seq && r.2.lap.isNone && stackMine s q)
    | none => true

/-- A lap starts (R118, R148, R186, R200, R201, R247, R301). The stationary blocks stay in the array from lap to lap: the spec empties them
nowhere (DESIGN CHOICE, log entry 133). -/
def execLapStart (t : Nat) (s : State) : Res :=
  match (s.tile t).queued, (s.tile t).lap with
  | some l, none =>
    if !s.tileIn t || !seqUp s l.die || seqHeld s l.die || !tileCurrent s t || !stackFree s l then .next s
    else
      let l := { l with gear := s.gearOf l.die, step := s.stepOf (s.domainOf l.die) }
      let g0 : Group := { pc := l.code, active := allMask }
      let s := s.setTile t fun tl => { tl with
        lap := some l, queued := none, stopped := false, icache := [], slots := {}, watches := {}
        acc := {}, accInt := []
        groups := ⟨(List.range l.groups).map (fun g => (g, g0))⟩ }
      let s := s.onJob l.die l.job fun x => { x with
        used := if x.used.contains t then x.used else x.used ++ [t]
        granted := if l.rerun then x.granted else x.granted.put (l.index % 144) (x.granted.atD (l.index % 144) 0 + 1) }
      let s := (s.wr .TILE_NUM_CTRL t (((s.job? l.die l.job).map (s.jobMode ·)).getD 0)).wr .TILE_NUM_STATUS t 0
      let s := (((s.wr .TILE_ERR_PC t 0).wr .TILE_ERR_INFO t 0).wr .TILE_ERR_ADDR t 0).wr .TILE_ERR_AUX t 0
      let s := (s.pf F.TILE_STATUS_state t 2).pf F.TILE_STATUS_groups_live t l.groups
      let i := pk l.die l.panStack
      .next (((s.pf F.PAN_INFO_held i 1).pf F.PAN_INFO_holder i t).bump64 .SEQ_LAPS l.die)
  | _, _ => .next s

/-- Flags of a lap: its groups' and the array's (R183, R201). -/
def lapFlags (s : State) (t : Nat) : Nat :=
  let g := (s.tile t).groups.rows.foldl (fun f r => flOr f r.2.flags) 0
  let b := fun (f : Fld) (x : Nat) => if s.gb f t then x else 0
  flOr g (flOr (b F.TILE_NUM_STATUS_arr_in_fz Fl.fz) (flOr (b F.TILE_NUM_STATUS_arr_out_fz Fl.fz)
    (flOr (b F.TILE_NUM_STATUS_arr_sat Fl.sat) (flOr (b F.TILE_NUM_STATUS_arr_of Fl.of) (b F.TILE_NUM_STATUS_arr_nv Fl.nv)))))

/-- The first failing status of a job: its other laps are discarded or stopped (R302). -/
def State.jobFail (s : State) (n j status tile lap addr unacked : Nat) : State :=
  match s.job? n j with
  | none => s
  | some x =>
    if x.status ≠ 0 then s
    else
      let s := s.setJob n j { x with status := status, failTile := tile, failLap := lap, failAddr := addr, unacked := unacked, rerun := [] }
      let mine : Option Lap → Bool := fun l => match l with | some l => l.die = n && l.job = j | none => false
      s.each (s.tiles.rows.filter (fun r => mine r.2.lap || mine r.2.queued)) fun r s =>
        s.setTile r.1 fun tl =>
          let tl : Tile := if mine tl.queued then { tl with queued := none } else tl
          if mine tl.lap then { tl with
            stopped := true
            arrQ := if tl.arrBusy then tl.arrQ.take 1 else []
            dmaQ := tl.dmaQ.mapVals (fun ch q => if tl.dmaBusy.contains ch then q.take 1 else [])
            panQ := tl.panQ.filter (·.started) } else tl

/-- A lap's stack is released, its watches end and the tile is idle (R158, R173, R247). -/
def State.lapClear (s : State) (t : Nat) : State :=
  let l := s.lapOf t
  let i := pk l.die l.panStack
  let s := (s.pf F.PAN_INFO_held i 0).pf F.PAN_INFO_holder i 0
  let s := s.each (s.tile t).watches.rows fun r s =>
    match s.copy? t r.2.line with
    | some c => s.setCopy t r.2.line { c with watch := false }
    | none => s
  let s := s.setTile t fun tl => { tl with lap := none, groups := {}, stopped := false, watches := {}, slots := {}, icache := [] }
  (s.pf F.TILE_STATUS_state t 1).pf F.TILE_STATUS_groups_live t 0

/-- Every group has ended or the lap has stopped, and no tile-level instruction is left. -/
def lapOver (s : State) (t : Nat) : Bool :=
  let tl := s.tile t
  (tl.stopped || (List.range (s.lapOf t).groups).all (fun g => (tl.groups.atD g {}).wait = .ended)) &&
  tl.arrQ = [] && tl.panQ = [] && tl.dmaQ.rows.all (fun r => r.2 = [])

/-- A lap ends and reports to the complex (R158, R168, R302). -/
def execLapEnd (t : Nat) (s : State) : Res :=
  match (s.tile t).lap with
  | none => .next s
  | some l =>
    if !lapOver s t then .next s
    else
      let status := if (s.tile t).stopped then s.gf F.TILE_ERR_INFO_status t else 0
      let clean := !(s.tile t).stopped
      let fl := lapFlags s t
      let s := s.each (List.range 16) (fun k s => s.handover t k)
      let s := s.onJob l.die l.job fun x => { x with
        lapFlags := if fl = 0 then x.lapFlags.del l.index else x.lapFlags.put l.index fl
        ended := if l.rerun then x.ended else x.ended + 1
        clean := if clean && !l.rerun then x.clean + 1 else x.clean }
      let s := if status ≠ 0 then
          s.jobFail l.die l.job status t l.index (s.gf F.TILE_ERR_ADDR_addr t) (s.gf F.TILE_ERR_AUX_count t)
        else s
      .next (s.lapClear t)

/-- Completion of a job after its laps, merges and any extra pass (R251, R313). -/
def execJobComplete (n j : Nat) (s : State) : Res :=
  match s.job? n j with
  | none => .next s
  | some x =>
    if x.phase ≠ 3 || !s.jobQuiet n j then .next s
    else
      let s := s.panRelease n x.popped
      let s := s.onSeq (fun q => { q with jobs := q.jobs.del (jobKey n j) })
      let fl := flOr (x.lapFlags.rows.foldl (fun f r => flOr f r.2) 0 % 128) (if x.extra then 128 else 0)
      match s.seq.ents.find? (fun e => e.die = n && e.stream = x.stream && e.pos = x.pos) with
      | none => .next s
      | some e =>
        .next (s.endJobEnt e x.used { status := x.status, flags := fl, lapsDone := x.clean, failTile := x.failTile, failLap := x.failLap
                                      failAddr := x.failAddr, unacked := x.unacked, tEnd := s.dieTime n })

/-! ### Micro-batch groups (R304, R305) -/

/-- A reported capacity overflow appends one round behind the last round scheduled; beyond max_rounds the group is to end with
ROUNDS_EXCEEDED (R305). -/
def MbGroup.append (g : MbGroup) (tokens : Nat) : MbGroup :=
  if g.rounds + 1 > g.maxRounds then { g with exceeded := true }
  else { g with rounds := g.rounds + 1, sched := g.sched ++ [g.rounds], tokens := g.tokens ++ [tokens] }

/-- MB_BEGIN. The capacity report of the stream's last DISPATCH applies to the first forward group, which names no group in rounds_from
(R305, R369). -/
def execMbBegin (n st : Nat) (s : State) : Res :=
  .next (s.startEntry n st (· = 2) fun ent s =>
    let e := ent.entry
    let k := fieldB e 18 1
    let jobs := (s.strm n st).fetched.take k
    let maxR := fieldB e 16 2
    if k = 0 || k > 15 || maxR = 0 || cmplBad e || jobs.any (fun p => entType p.2 ≠ 1) then some (s.endEnt ent St.entryInvalid 0 0)
    else
      let from' := fieldB e 24 8
      let (r, s) : Except (Nat × Nat) Nat × State :=
        if from' ≠ 0 then
          match s.vread (.seq n) (strmCtx s n st) from' 64 n with
          | (.ok b, s) => (.ok (fieldB b 20 2), s)
          | (.error f, s) => (.error f, s)
        else
          let B := if fieldB e 12 4 = 0 then s.odN 0x8020 1 else fieldB e 12 4
          (.ok (ceilDiv (fieldB e 8 4) (max B 1)), s)
      match r with
      | .error f => if f.1 = 0 then none else some (s.endEnt ent f.1 0 f.2)
      | .ok R =>
        let forward := from' = 0
        let rep := if forward then (s.strm n st).report else []
        let R' := min R maxR
        let up := List.range R'
        let g : MbGroup := { pos := ent.pos, entry := e, jobs := jobs, rounds := R', maxRounds := maxR
                             sched := if bitN (fieldB e 19 1) 0 then up.reverse else up, exceeded := R > maxR, tStart := ent.tStart }
        let g := rep.foldl MbGroup.append g
        let s := s.setStrm n st (fun x => { x with fetched := x.fetched.drop k, report := if forward then [] else x.report })
        some (if g.sched = [] then s.endEnt ent 0 0 0 else s.setStrm n st (fun x => { x with group := some g })))

/-- The next round of the group in job slot m starts (R304). -/
def execMbRoundStart (n m : Nat) (s : State) : Res :=
  match s.seq.ents.find? (fun e => e.die = n && entType e.entry = 2 && e.slot = m) with
  | none => .next s
  | some e =>
    match (s.strm n e.stream).group with
    | some g =>
      match g.sched with
      | [] => .next s
      | r :: rest =>
        if g.running || !seqUp s n || seqHeld s n then .next s
        else .next (s.setStrm n e.stream (fun x => { x with group := some { g with running := true, cur := r, sched := rest, toStart := g.jobs } }))
    | none => .next s

/-! ### WAIT (R308) -/

def waitMet (e value : Bytes) : Bool :=
  let v := leVal value
  let x := fieldB e 16 8
  if fieldB e 24 1 = 1 then x ≤ v else v = x

/-- Ends a WAIT and releases its watch. -/
def State.endWait (s : State) (e : Ent) (status : Nat) : State := (s.endEnt e status 0 0).unwatch e.die e.line

/-- A WAIT keeps the value it saw last (R111). -/
def State.waitSaw (s : State) (e : Ent) (v : Nat) : State :=
  s.onSeq (fun q => { q with ents := q.ents.map (fun x => if x.die = e.die && x.stream = e.stream && x.pos = e.pos then { x with seen := some v } else x) })

def execWaitEntry (n st : Nat) (s : State) : Res :=
  .next (s.startEntry n st (· = 5) fun ent s =>
    let e := ent.entry
    let va := fieldB e 8 8
    let s := s.when (fieldB e 24 1 > 1) (fun s => s.pf F.SEQ_STATUS_reserved_encoding n 1)
    if va % 8 ≠ 0 || cmplBad e then some (s.endEnt ent St.entryInvalid 0 0)
    else
      match s.watchTarget (.seq n) (fieldB e 25 1 % 64) va n with
      | (.error st', s) => if st' = 0 then none else some (s.endEnt ent st' 0 va)
      | (.ok (pa, key), s) =>
        if s.lineBad (lineOf pa) then some ((s.memErr pa).endEnt ent St.memUncorrectable 0 va)
        else
          let line := lineOf pa
          let s := s.onSeq (fun q => { q with ents := q.ents.map (fun x =>
            if x.die = n && x.stream = st && x.pos = ent.pos then { x with line := line } else x) })
          match s.shareNow (agentSeq n) line key true with
          | (false, s) => some (s.homeReq { kind := .watch, agent := agentSeq n, line := line, key := key })
          | (true, s) =>
            let v := s.cohRead key pa 8
            some (if waitMet e v then s.endWait { ent with line := line } 0 else s.waitSaw ent (leVal v)))

def execWaitTimeout (n w : Nat) (s : State) : Res :=
  match s.seq.ents.find? (fun e => e.die = n && entType e.entry = 5 && e.slot = w) with
  | some e => if fieldB e.entry 28 4 = 0 then .next s else .next (s.endWait e St.timeout)
  | none => .next s

/-- A re-armed watch of a sequencer complex returns: tails and WAIT entries on the line look at its value (R111, R293,
R308). The first look is no wake; a value that has not changed since counts as a spurious one. -/
def State.seqWatched (s : State) (n line : Nat) (data : Bytes) : State :=
  let s := s.each (s.seq.streams.rows.filter (fun r => r.1 / 64 = n && r.2.watch == some line && strmOn s n (r.1 % 64))) fun r s =>
    ((s.setStrm n (r.1 % 64) (fun x => { x with fresh := false })).pf F.SEQ_STREAM_STATUS_armed r.1 1).tailCheck n (r.1 % 64) (fieldB data 0 8) (!r.2.fresh)
  s.each (s.seq.ents.filter (fun e => e.die = n && entType e.entry = 5 && e.line = line)) fun e s =>
    let v := sliceB data (fieldB e.entry 8 8 % 64) 8
    if e.seen = some (leVal v) then s.bump .SEQ_WAKES n
    else if waitMet e.entry v then s.endWait e 0 else s.waitSaw e (leVal v)

/-- DATA at an agent: it installs the line and sends COMPLETE; a sequencer complex acts on a watched value (R92, R111). -/
def State.dataAt (s : State) (a line : Nat) : State :=
  let due := s.coh.net.findSome? (fun m => match m with | .data x l (some _) b _ => if x = a && l = line then some b else none | _ => none)
  let s := s.onData a line
  match due with
  | some b => if agentIsSeq a then s.seqWatched (a - agentSeq 0) line b else s
  | none => s

end Sys2Proof.Machine
end

