-- ==== Sys2Proof/Machine/Tx.lean ====
section
/-! DEFINITION. Sequences of accesses that stop at the first failure: an error is a status of R315 with the address that
failed, and status 0 is an access that waits on a locked page (R64); statuses of a unit's own stand above 256. -/

namespace Sys2Proof.Machine

/-- A computation over the state that may stop with a status and an address. -/
def Tx (α : Type) : Type := State → Except (Nat × Nat) α × State

variable {α β : Type}

def Tx.pure (a : α) : Tx α := fun s => (.ok a, s)
def Tx.andThen (m : Tx α) (f : α → Tx β) : Tx β := fun s =>
  match m s with
  | (.ok a, s) => f a s
  | (.error e, s) => (.error e, s)
def Tx.fail (code addr : Nat) : Tx α := fun s => (.error (code, addr), s)
/-- Stops where c holds. -/
def Tx.stopIf (c : Bool) (code addr : Nat) : Tx Unit := if c then Tx.fail code addr else Tx.pure ()
def Tx.act (f : State → State) : Tx Unit := fun s => (.ok (), f s)
def Tx.get (f : State → α) : Tx α := fun s => (.ok (f s), s)
def Tx.read (u : XUnit) (ctx va n node : Nat) : Tx Bytes := fun s => s.vread u ctx va n node
def Tx.write (u : XUnit) (ctx va : Nat) (bs : Bytes) (node : Nat) : Tx Unit := fun s => s.vwrite u ctx va bs node
/-- Runs over a list, threading a value. -/
def Tx.fold (f : β → α → Tx β) : List α → β → Tx β
  | [], b => Tx.pure b
  | x :: xs, b => Tx.andThen (f b x) (Tx.fold f xs)
def Tx.each (f : α → Tx Unit) (l : List α) : Tx Unit := Tx.fold (fun _ x => f x) l ()
def Tx.map (f : α → Tx β) (l : List α) : Tx (List β) :=
  Tx.fold (fun acc x => Tx.andThen (f x) (fun y => Tx.pure (acc ++ [y]))) l []

/-- Runs m. Where it waits on a locked page nothing has happened but the wait; where it stops, g gets the status and the
address. -/
def State.run (s : State) (m : Tx State) (g : State → Nat → Nat → State) : State :=
  match m s with
  | (.ok t, _) => t
  | (.error (0, _), t) => { s with xl := { s.xl with lockWait := t.xl.lockWait, lineWait := t.xl.lineWait } }
  | (.error (c, a), t) => g t c a
/-- Whether m has gone through or stopped, rather than wait, and what `run` answers. -/
def State.runOk (s : State) (m : Tx State) (g : State → Nat → Nat → State) : Bool × State :=
  (match (m s).1 with | .error (0, _) => false | _ => true, s.run m g)
/-- Ends a sequence with the state it has reached. -/
def Tx.done : Tx State := fun s => (.ok s, s)

end Sys2Proof.Machine
end

