-- ==== Sys2Proof/Machine/Nme.lean ====
section
/-! DEFINITION. Near-memory engines (spec/09): update programs, sweeps, digests and shard repair, re-encryption; and the
SWEEP entries of command streams (R306). -/

namespace Sys2Proof.Machine

/-! ### The engine -/

def State.setNme (s : State) (st : Nat) (f : Nme → Nme) : State :=
  { s with nme := { s.nme with units := s.nme.units.put st (f (s.nmeU st)) } }
def State.nmeNotice (s : State) (st src : Nat) : State := s.notice (stackDie st) (nmeBlk st) src
/-- The NME is in service and awake: the isolation of its die leaves it in service (R42, R444). -/
def nmeIn (s : State) (st : Nat) : Bool :=
  st < 16 && s.blkState (stackDie st) (nmeBlk st) = 0 && !s.asleep.contains (.nme st)
def nmeCurrent (s : State) (st : Nat) : Bool := s.gf F.NME_UNIT_EPOCH_epoch st ≥ s.pkgEpoch && !s.redo.contains (.nme st)
/-- It may work on its sweep: in service, and re-initialised after a reset (R286). -/
def nmeRuns (s : State) (st : Nat) : Bool := nmeIn s st && !(s.nmeU st).restart

/-- Pages of a sealed range that lie in a stack: the first ones decide in modes 0 and 1 of an area, and the stack's own
base in mode 2 (R53). -/
def rangeInStack (mode st : Nat) (r : Nat × Nat) : Bool :=
  let cands := (List.range 32).map (fun i => r.1 + 4096 * i) ++ (List.range 16).flatMap (fun i =>
    [80 * 2 ^ 30 * i, 80 * 2 ^ 30 * i + 4096])
  cands.any (fun a => r.1 ≤ a && a < r.1 + r.2 && a < 0x014000000000 && hbmStack mode a = st)
/-- The stack holds memory of a sealed partition (R263). -/
def nmeSealed (s : State) (st : Nat) : Bool :=
  s.sec.parts.rows.any (fun p => p.1 ≠ 0 && p.2.ranges.any (rangeInStack s.hbmMode st))
def State.mayWriteNme (s : State) (role : Role) (st : Nat) : Bool :=
  st < 16 && (privRole role || s.mmioRole role && !nmeSealed s st)

/-! ### Programs (R264 to R267) -/

def progIdx (st bank i : Nat) : Nat := st * 128 + bank % 2 * 64 + i % 64

/-- A word of the program store, or a bank's entries register (i = 64), refused on the active bank and while a commit is
pending (R267). -/
def execNmeProgWrite (role : Role) (st bank i : Nat) (v : Word64) (s : State) : Res :=
  if !s.mayWriteNme role st then .next s
  else if s.gf F.NME_PROG_CTRL_active st = bank % 2 || s.gb F.NME_PROG_CTRL_commit st then
    .next (s.pf F.NME_STATUS_prog_write_refused st 1)
  else if i < 64 then .next (s.pf F.NME_PROG_word (progIdx st bank i) v.toNat)
  else if bank % 2 = 0 then .next (s.wr .NME_PROG_ENTRIES_0 st v.toNat)
  else .next (s.wr .NME_PROG_ENTRIES_1 st v.toNat)

def execProgCommit (role : Role) (st : Nat) (s : State) : Res :=
  if !s.mayWriteNme role st then .next s else .next (s.pf F.NME_PROG_CTRL_commit st 1)

/-- Fields of an instruction word (R264). -/
def nmeArgs (w : Nat) : Nat × NmeArgs := (w % 64, { rd := bitsN w 9 6, sa := bitsN w 14 10, sb := bitsN w 19 15, sc := bitsN w 24 20 })

/-- What an opcode computes from its sources in one lane: bits and flags; none for NOP and unlisted opcodes (R265,
R266). MOV copies bits; every other NaN result is canonical (R188, log entry 116). -/
def nmeOp (op : Nat) (ftz : Bool) (a b c : Nat) : Option (Nat × Nat) :=
  let (x, fx) := readFV 0 a ftz
  let (y, fy) := readFV 0 b ftz
  let (z, fz) := readFV 0 c ftz
  let out := fun (r : FV × Nat) (f : Nat) => let (v, g) := outF32 r 0 false ftz; some (v, flOr g f)
  let keep := fun (r : FV) (f : Nat) => let (v, g) := keepF32 r ftz; some (v, flOr g f)
  -- a source as it stands, flushed
  let pass := fun (v : Nat) => if ftz && isSubnormal 0 v then some (signBit 0 (bitN v 31), Fl.fz) else some (v, 0)
  let approx := fun (o ulps : Nat) => let (v, g) := fApprox o x a ulps ftz; some (v, flOr g fx)
  match op with
  | 0x02 => pass a
  | 0x03 => out (addFV x y 0) (flOr fx fy)
  | 0x04 => out (addFV x y.negate 0) (flOr fx fy)
  | 0x05 => out (mulFV x y) (flOr fx fy)
  | 0x06 => out (fmaFV x y z 0) (flOr fx (flOr fy fz))
  | 0x07 => out (fmaFV x.negate y z 0) (flOr fx (flOr fy fz))
  | 0x08 => out (divFV x y) (flOr fx fy)
  | 0x09 => out (sqrtFV x) fx
  | 0x0A => approx 0x1A 1
  | 0x0B => approx 0x1B 2
  | 0x0C => approx 0x1C 2
  | 0x0D => keep (minFV x y) (flOr fx fy)
  | 0x0E => keep (maxFV x y) (flOr fx fy)
  | 0x0F => keep x.abs fx
  | 0x10 => keep x.negate fx
  | 0x11 =>
    if x.isNan || x.isZero then keep x fx else some (if x.neg then 0xBF800000 else 0x3F800000, fx)
  | 0x12 => if x.isNan then some (nanOf 0, 0) else keep (minFV (maxFV x y.abs.negate) y.abs) (flOr fx fy)
  | 0x13 => keep (if !x.isNan && !ltFV x (.fin false 0 0) then y else z) (flOr fx (flOr fy fz))
  | _ => none

/-- A source of a lane: r0–r15 or c0–c15 (R264). -/
def laneSrc (lane cs : List Nat) (i : Nat) : Nat := if i < 16 then lane.getD i 0 else cs.getD (i % 16) 0
/-- One instruction in one lane: its registers and flags. -/
def laneStep (op : Nat) (a : NmeArgs) (ftz : Bool) (cs lane : List Nat) : List Nat × Nat :=
  match nmeOp op ftz (laneSrc lane cs a.sa) (laneSrc lane cs a.sb) (laneSrc lane cs a.sc) with
  | some (v, f) => (lane.set a.rd v, f)
  | none => (lane, 0)

/-- The words of the active bank from an entry on: those executed, and whether one is unlisted (R265, R266). -/
def progFrom (s : State) (st : Nat) : Nat → Nat → List (Nat × NmeArgs)
  | 0, _ => []
  | n + 1, i =>
    if i ≥ 64 then [] else
    let (op, a) := nmeArgs (s.rdN .NME_PROG (progIdx st (s.gf F.NME_PROG_CTRL_active st) i))
    if op = 1 then [] else (op, a) :: progFrom s st n (i + 1)
def nmeProg (s : State) (st entry : Nat) : List (Nat × NmeArgs) := progFrom s st 64 entry
/-- A whole program in one lane. -/
def laneRun (ops : List (Nat × NmeArgs)) (ftz : Bool) (cs lane : List Nat) : List Nat × Nat :=
  ops.foldl (fun acc o => let (l, f) := laneStep o.1 o.2 ftz cs acc.1; (l, flOr acc.2 f)) (lane, 0)

/-- NME_FLAGS from the flags of R183. -/
def State.nmeFlags (s : State) (st fl : Nat) : State :=
  let b := fun (s : State) (f : Fld) (x : Nat) => s.when (fl &&& x ≠ 0) (fun s => s.pf f st 1)
  b (b (b (b s F.NME_FLAGS_nv Fl.nv) F.NME_FLAGS_dz Fl.dz) F.NME_FLAGS_of Fl.of) F.NME_FLAGS_fz Fl.fz

/-! ### Descriptors, lists and shards (R268, R269) -/

def NmeSweep.flag (x : NmeSweep) (i : Nat) : Bool := bitN (fieldB x.bytes 3 1) i
def NmeSweep.ftz (x : NmeSweep) : Bool := x.flag 1
def NmeSweep.normMode (x : NmeSweep) : Nat := fieldB x.bytes 2 1
def NmeSweep.vcoll (x : NmeSweep) : Nat := fieldB x.bytes 4 2
def NmeSweep.dcoll (x : NmeSweep) : Nat := fieldB x.bytes 6 2
def NmeSweep.res (x : NmeSweep) : Nat := fieldB x.bytes 32 8
def NmeSweep.consts (x : NmeSweep) : List Nat := (List.range 16).map (fun j => fieldB x.bytes (64 + 4 * j) 4)
def NmeSweep.list (x : NmeSweep) (st : Nat) : Nat := fieldB x.bytes (128 + 8 * st) 8
def NmeSweep.count (x : NmeSweep) : Nat := x.shards.length
def NmeSweep.shard (x : NmeSweep) (i : Nat) : Bytes := x.shards.getD i []
def sweepParts (b : Bytes) : List Nat := (List.range 16).filter (fun st => fieldB b (128 + 8 * st) 8 ≠ 0)

def shMaster (b : Bytes) : Nat := fieldB b 0 8
def shGrad (b : Bytes) : Nat := fieldB b 8 8
def shDir (b : Bytes) : Nat := fieldB b 16 8
def shState (b : Bytes) : Nat := fieldB b 24 8
def shWc (b : Bytes) : Nat := fieldB b 32 8
def shElems (b : Bytes) : Nat := fieldB b 40 4
def shWcTid (b : Bytes) : Nat := fieldB b 44 3
/-- A reserved wc_fmt counts as 0 (R273). -/
def shWcFmt (b : Bytes) : Nat := let v := fieldB b 47 1; if v < 8 then v else 0
def shGTid (b : Bytes) : Nat := fieldB b 48 3
def shGFmt (b : Bytes) : Nat := fieldB b 51 1
def shNstate (b : Bytes) : Nat := fieldB b 52 1
def shBase (b : Bytes) : Nat := fieldB b 53 5
def gradSize (f : Nat) : Nat := if f = 0 then 4 else 2

/-- Sweep status of an access failure (R272): statuses of R315, or a sweep status given as 256 and more. -/
def sweepCode (c : Nat) : Nat := if c ≥ 256 then c - 256 else if c = St.memUncorrectable then 9 else if c = 0 then 0 else c - 1

def State.onSweep (s : State) (st : Nat) (f : NmeSweep → NmeSweep) : State :=
  s.setNme st (fun u => { u with sweep := u.sweep.map f })
def topOf (s : State) (x : NmeSweep) : Option SweepTop := s.nme.sweeps.find? (fun t => t.ctx = x.ctx && t.desc = x.desc)
def State.setTop (s : State) (x : NmeSweep) (f : SweepTop → SweepTop) : State :=
  { s with nme := { s.nme with sweeps := s.nme.sweeps.map (fun t => if t.ctx = x.ctx && t.desc = x.desc then f t else t) } }

/-- An access of NME st to its own stack whose region's presence bit is clear goes straight to memory (R107). -/
def State.nmeDirect (s : State) (st pa : Nat) : Bool :=
  match s.presOf (lineOf pa) with
  | some k => k / 2 ^ 21 = st && !s.coh.presBits.contains k
  | none => false
/-- A write of part of one line straight to memory. -/
def State.directLine (s : State) (key line off : Nat) (bs : Bytes) : State :=
  if bs.length < 64 && s.memBad line then s.memErrAt (line * 64) true false none
  else s.memLine key line (setSliceB (s.memBytes key (line * 64) 64) off bs)
def directN : Nat → State → Nat → Nat → Bytes → State
  | 0, s, _, _, _ => s
  | fuel + 1, s, key, pa, bs =>
    if bs = [] then s else
    let n := min (64 - pa % 64) bs.length
    directN fuel (s.directLine key (lineOf pa) (pa % 64) (bs.take n)) key (pa + n) (bs.drop n)

/-- A far atomic on the result record (R270). -/
def Tx.resOp (st : Nat) (x : NmeSweep) (off aop opnd newVal : Nat) : Tx Unit := fun s =>
  match s.xlate (.nme st) x.ctx (x.res + off) accStore (stackDie st) with
  | (.fail c, s) => (.error (c, x.res + off), s)
  | (.locked, s) => (.error (0, x.res + off), s.lockWaitFor (.nme st) x.ctx (x.res + off) accStore)
  | (.ok pa _ _ key, s) =>
    if s.nmeDirect st pa then (.ok (), directN 2 s key pa (leBytes 4 (atomicNew aop 4 (leVal (s.memBytes key pa 4)) opnd newVal)))
    else (.ok (), (s.atomicMem key pa 4 aop opnd newVal).2)
/-- A read of a sweep: RD_ONCE through the home, or straight from memory (R107). -/
def Tx.nread (st : Nat) (x : NmeSweep) (va n : Nat) : Tx Bytes := fun s =>
  match s.xlRange (.nme st) x.ctx va n accLoad (stackDie st) with
  | (.error e, s) => (.error e, s)
  | (.ok ps, s) =>
    let ty := fun (p : Nat × Nat × Nat × Nat) => if s.nmeDirect st p.1 then 2 else 0
    match ps.findSome? (fun p => s.pieceBad p.1 p.2.1 (ty p)) with
    | some pa => (.error (St.memUncorrectable, va), s.badRead (stackDie st) (agentNme st) pa)
    | none => (.ok (ps.flatMap (fun p => if s.nmeDirect st p.1 then s.memBytes p.2.2.2 p.1 p.2.1 else s.readAt p.2.2.2 p.1 p.2.1)), s.ioTouches ps)
/-- A write of a sweep: through the home, where it waits on an open line, or straight to memory (R107). -/
def Tx.nwrite (st : Nat) (x : NmeSweep) (va : Nat) (b : Bytes) : Tx Unit := fun s =>
  match s.xlRange (.nme st) x.ctx va b.length accStore (stackDie st) with
  | (.error e, s) => (.error e, s)
  | (.ok ps, s) =>
    if s.piecesOpen (ps.filter (fun p => !s.nmeDirect st p.1)) then (.error (0, va), s)
    else (.ok (), (ps.foldl (fun (a : State × Bytes) p =>
      let d := a.2.take p.2.1
      (if a.1.nmeDirect st p.1 then directN (p.2.1 + 1) a.1 p.2.2.2 p.1 d else a.1.writeAt p.2.2.2 p.1 d, a.2.drop p.2.1)) (s, b)).1)
/-- Runs m for its effect where it succeeds; a failure of a status write is dropped. -/
def State.tryTx (s : State) (m : Tx Unit) : State := (m s).2

/-! ### The end of a sweep (R270, R306) -/

/-- The entries that name a sweep, on every die: SWEEP entries complete, STEP_END entries hold the status. -/
def State.sweepEnds (s : State) (ctx desc status failVa : Nat) : State :=
  let names := fun (e : Ent) => (entType e.entry = 3 || entType e.entry = 6) && fieldB e.entry 8 8 = desc && fieldB e.entry 16 1 % 64 = ctx
  let s := s.onSeq fun q => { q with ents := q.ents.map (fun e => if names e && entType e.entry = 6 then { e with swept := some status, sweptVa := failVa } else e) }
  s.each (s.seq.ents.filter (fun e => names e && entType e.entry = 3)) fun e s =>
    if status ≤ 1 then s.endEnt e 0 status 0 else s.endEnt e St.sweepFailed status failVa

/-- Every participant has committed, been skipped or stopped, or waits behind one that stopped: the sweep is over. -/
def State.sweepSettle (s : State) (x : NmeSweep) : State :=
  match topOf s x with
  | none => s
  | some t =>
    let us := t.parts.filterMap (fun st => (s.nmeU st).sweep.map (fun y => (st, y)))
    let stuck := us.any (fun p => p.2.ended && p.2.status > 1 && !p.2.early)
    if us.any (fun p => !p.2.ended && !(stuck && p.2.done)) then s
    else
      let skipped := us.any (fun p => p.2.status = 1)
      let s := s.each t.parts fun st s =>
        (s.setNme st (fun u => { u with sweep := none, loaded := false, blk := 0, sweepRng := none })).pf F.NME_STATUS_sweep_active st 0
      let s := s.each (List.range 16) (fun st s => if (s.nmeU st).sweep.isSome then s else s.setNme st (fun u => { u with pref := [], prefNet := [], prefLost := [] }))
      let s := { s with nme := { s.nme with sweeps := s.nme.sweeps.filter (fun t => !(t.ctx = x.ctx && t.desc = x.desc)) } }
      s.sweepEnds t.ctx t.desc (if t.first ≠ 0 then t.first else bN skipped) t.failVa

/-- NME st stops with a sweep status (R272, R273): header, result record and registers. -/
def State.sweepFail (s : State) (st code va : Nat) : State :=
  match (s.nmeU st).sweep with
  | none => s
  | some x =>
    let s := (s.pf F.NME_STATUS_last_status st code).when (4 ≤ code && code ≤ 9) (fun s => s.wr .NME_SWEEP_ERR_ADDR st va)
    let s := s.tryTx (Tx.nwrite st x (x.list st + 6) (leBytes 1 code))
    let s := s.tryTx (Tx.resOp st x 20 9 0 (code + 256 * st))
    let s := s.setTop x (fun t => if t.first = 0 then { t with first := code, firstRec := code + 256 * st, failVa := s.rdN .NME_SWEEP_ERR_ADDR st } else t)
    (s.onSweep st (fun x => { x with ended := true, status := code, early := x.phase = 1 })).sweepSettle x

/-- NME st leaves service in a sweep: UNIT_RESET in its registers, header and result record (R272). -/
def State.sweepLeft (s : State) (st : Nat) : State :=
  match (s.nmeU st).sweep with
  | none => s
  | some x =>
    let s := s.pf F.NME_STATUS_last_status st 11
    if x.ended || x.phase = 1 then s
    else (s.tryTx (Tx.nwrite st x (x.list st + 6) (leBytes 1 11))).tryTx (Tx.resOp st x 20 9 0 (11 + 256 * st))
/-- NME st resumes: UNIT_RESET is informational and gives way, in the record to a failure met since (R272, R286;
DEDUCED, log entry 143). -/
def State.sweepResumes (s : State) (st : Nat) : State :=
  match (s.nmeU st).sweep with
  | none => s
  | some x =>
    if x.ended || x.phase = 1 then s
    else (s.tryTx (Tx.nwrite st x (x.list st + 6) (leBytes 1 0))).tryTx
      (Tx.resOp st x 20 9 (11 + 256 * st) (match topOf s x with | some t => t.firstRec | none => 0))

/-- Runs a part of a sweep on NME st; a failure stops the NME's sweep. -/
def State.sweepRun (s : State) (st : Nat) (m : Tx State) : State := s.run m (fun s c a => s.sweepFail st (sweepCode c) a)

/-- The NME enters a phase: header and status (R269, R271). -/
def Tx.enter (st : Nat) (x : NmeSweep) (ph : Nat) : Tx Unit :=
  Tx.andThen (Tx.nwrite st x (x.list st + 5) (leBytes 1 ph)) fun _ => Tx.act fun s =>
    (s.pf F.NME_STATUS_phase st ph).onSweep st fun x =>
      let fin := (ph = 3 && x.curU ≥ x.count) || (ph = 5 && x.curD ≥ x.count) || (ph = 6 && !x.digest)
      { x with phase := ph, done := fin }

/-! ### Starting a sweep (R306) -/

/-- Starts the sweep that an entry names, for a SWEEP or a STEP_END entry; none while an access waits, or while an NME
that takes part is in another sweep. -/
def State.sweepStart (s : State) (e : Ent) : Option State :=
  let n := e.die
  let va := fieldB e.entry 8 8
  let ctx := fieldB e.entry 16 1 % 64
  let ends := fun (s : State) (code addr : Nat) =>
    if entType e.entry = 3 then (if code ≤ 1 then s.endEnt e 0 code 0 else s.endEnt e St.sweepFailed code addr)
    else s.onSeq (fun q => { q with ents := q.ents.map (fun x =>
      if x.die = e.die && x.stream = e.stream && x.pos = e.pos then { x with swept := some code, sweptVa := addr } else x) })
  match s.vread (.seq n) ctx va 256 n with
  | (.error f, s) => if f.1 = 0 then none else some (ends s (sweepCode f.1) f.2)
  | (.ok b, s) =>
    let res := fieldB b 32 8
    let parts := sweepParts b
    if res % 64 ≠ 0 then some (ends s 12 res)
    else
      match s.vread (.seq n) ctx res 64 n with
      | (.error f, s) => if f.1 = 0 then none else some (ends s (sweepCode f.1) f.2)
      | (.ok r, s) =>
        let d := s.domainOf n
        if parts = [] then some (ends s 0 0)
        else if fieldB r 8 8 = s.stepOf d && fieldB r 28 4 ≠ 0 && fieldB r 24 4 = fieldB r 28 4 then
          some (ends s (fieldB r 20 1) (if fieldB r 20 1 ≤ 1 then 0 else s.rdN .NME_SWEEP_ERR_ADDR (fieldB r 21 1 % 16)))
        else if s.nme.sweeps.any (fun t => t.ctx = ctx && t.desc = va) then some s
        else if parts.any (fun st => (s.nmeU st).sweep.isSome) then none
        else
          let x : NmeSweep := { ctx := ctx, desc := va, bytes := b, dom := d, step := s.stepOf d, gear := s.gearOf n }
          let top : SweepTop := { ctx := ctx, desc := va, dom := d, res := res, parts := parts }
          let s := { s with nme := { s.nme with sweeps := s.nme.sweeps ++ [top] } }
          some (s.each parts fun st s =>
            (((s.setNme st (fun u => { u with sweep := some x, pref := [], loaded := false, blk := 0 })).pf F.NME_STATUS_sweep_active st 1).pf
              F.NME_STATUS_phase st 1).pf F.NME_CTRL_ftz st (bN x.ftz))

def execSweep (n st : Nat) (s : State) : Res := .next (s.startEntry n st (· = 3) fun e s => if cmplBad e.entry then some (s.endEnt e St.entryInvalid 0 0) else s.sweepStart e)

/-! ### Phase N (R271, R273 to R276) -/

/-- A finite positive FP32 value. -/
def posF32 (v : Nat) : Bool := match decFloat 0 v with | .fin false m _ => m ≠ 0 | _ => false

/-- A sweep of the step has its verdict (R236). -/
def State.verdictKnown (s : State) (d : Nat) (v : Bool) : State :=
  { s with num := { s.num with verdict := s.num.verdict.put d (s.num.verdict.atD d false || v) } }
/-- A VERDICT of the step has ended with the OR it delivers (R359). -/
def State.verdictHeard (s : State) (d : Nat) (v : Bool) : State :=
  { s with num := { s.num with heard := s.num.heard.put d (s.num.heard.atD d false || v) } }
/-- local_nf is taken and cleared once in a step; a later taker of the step gets what was taken (R236). -/
def State.takeNf (s : State) (d : Nat) : Bool × State :=
  if s.num.taken.has d then (s.num.taken.atD d false, s)
  else
    let v := s.gb F.NUM_VERDICT_local_nf d
    (v, ({ s with num := { s.num with taken := s.num.taken.put d v } }).pf F.NUM_VERDICT_local_nf d 0)
/-- The verdict of the step that ends (R236): its sweeps', and in a step without one what was taken, with what its VERDICTs delivered
(DEDUCED, log entry 145). -/
def State.stepVerdict (s : State) (d : Nat) : Bool :=
  if s.num.verdict.has d then s.num.verdict.atD d false else s.num.taken.atD d false || s.num.heard.atD d false
/-- The verdict acts at the boundary of its step (R237). -/
def State.verdictEnd (s : State) (d step : Nat) : State :=
  let v := s.stepVerdict d
  let s := s.pf F.NUM_VERDICT_last_verdict d (bN v)
  s.when v (fun s => (s.bump .NUM_SKIP_COUNT d).pf F.NUM_VERDICT_skipped_step d step)

/-- Delivery entry of a collective at a die's Derailleur, when it is the one of the step (R361, R271). -/
def delivery (s : State) (n coll step : Nat) : Option Bytes :=
  if s.gf F.DRL_DELIV_BASE_pa n = 0 && !s.gb F.DRL_CTRL_enable n then none
  else
    let e := s.physRead (s.gf F.DRL_DELIV_BASE_pa n + 32 * coll) 32
    if fieldB e 0 8 = step then some e else none
/-- The die whose Derailleur an NME asks: its own, or the lead die while its own is isolated (R42). -/
def deliveryDie (s : State) (d st : Nat) : Nat := if s.dieIn (stackDie st) then stackDie st else (s.leadDie d).getD (stackDie st)

/-- The first participant that has not stopped: it takes the verdict and writes the result record (R270). -/
def sweepLead (s : State) (t : SweepTop) : Option Nat :=
  t.parts.find? (fun st => match (s.nmeU st).sweep with | some y => !(y.ended && y.early) | none => false)

/-- R274, R275: norm factor, norm, and norm_used. -/
def normOf (x : NmeSweep) (q : Nat) (qv : Bool) : Nat × Nat × Nat :=
  let one := 0x3F800000
  match x.normMode with
  | 0 => (one, 0, 0)
  | 2 => (one, 0, 2)
  | _ =>
    let n := (outF32 (sqrtFV (decFloat 0 q)) 0 false false).1
    let m := fieldB x.bytes 8 4
    if x.vcoll = 0xFFFF || !qv || !(decFloat 0 n).isFin then (one, 0, 3)
    else if !ltFV (decFloat 0 m) (decFloat 0 n) then (one, n, 1)
    else ((outF32 (divFV (decFloat 0 m) (decFloat 0 n)) 0 false false).1, n, 1)

/-- Checks of R273, R276 and R267 with what they read: the sweep with its list, and whether the header resumes. -/
def Tx.phaseN (st : Nat) (x : NmeSweep) : Tx (NmeSweep × Bytes) :=
  let b := x.bytes
  let lst := x.list st
  let bad0 := fieldB b 0 2 ≠ 1 || x.normMode > 2 || (x.normMode = 1 && !posF32 (fieldB b 8 4)) ||
    (x.normMode ≠ 0 && !posF32 (fieldB b 12 4)) || x.desc % 64 ≠ 0 || x.res % 64 ≠ 0 || lst % 64 ≠ 0 ||
    (x.flag 0 && fieldB b 24 8 % 64 ≠ 0)
  Tx.andThen (Tx.stopIf bad0 (256 + 12) 0) fun _ =>
  Tx.andThen (fun s => match s.xlate (.nme st) x.ctx x.res accStore (stackDie st) with
    | (.fail c, s) => (.error (c, x.res), s)
    | (.locked, s) => (.error (0, x.res), s.lockWaitFor (.nme st) x.ctx x.res accStore)
    | (.ok pa _ _ _, s) => (.ok (s.region pa), s)) fun reg =>
  Tx.andThen (Tx.stopIf (reg = .mmio || reg = .bar) (256 + 12) 0) fun _ =>
  Tx.andThen (Tx.nread st x lst 64) fun h =>
  Tx.andThen (Tx.nread st x (lst + 64) (64 * (fieldB h 0 4 % 65536))) fun sb =>
  let shards := (List.range (fieldB h 0 4 % 65536)).map (fun i => sliceB sb (64 * i) 64)
  let ph := fieldB h 5 1
  let bad1 := shards.any (fun q => shNstate q > 4 || shGFmt q > 2) || (ph ≠ 0 && fieldB h 16 8 ≠ x.step) || fieldB h 40 8 % 16 ≠ 0
  Tx.andThen (Tx.stopIf bad1 (256 + 12) 0) fun _ =>
  Tx.andThen (Tx.get (fun s => x.flag 0 && (s.domainDies x.dom).length < 2)) fun alone =>
  Tx.andThen (Tx.stopIf alone (256 + 2) 0) fun _ =>
  Tx.andThen (Tx.get (fun s =>
    !bitN (s.rdN (if s.gf F.NME_PROG_CTRL_active st = 0 then .NME_PROG_ENTRIES_0 else .NME_PROG_ENTRIES_1) st) (fieldB b 20 1 % 64))) fun miss =>
  Tx.andThen (if miss then Tx.act (fun s => s.nmeNotice st 0) else Tx.pure ()) fun _ =>
  Tx.andThen (Tx.stopIf miss (256 + 3) 0) fun _ =>
  Tx.andThen (Tx.get (fun s => if fieldB b 16 4 = 0 then s.odN 0xA005 1 else fieldB b 16 4)) fun nd =>
  Tx.andThen (Tx.get (fun s => shards.foldl (fun (g : Tab Int) q =>
    let tid := shGTid q
    if tid = 0xFFFFFF || !s.tableOn x.dom || tid ≥ s.gf F.NUM_TABLE_COUNT_count x.dom then g
    else g.put tid ((scaleExp (useScale (s.entRead x.dom tid))).getD 0)) {})) fun gk =>
  Tx.andThen (Tx.act (fun s => s.when (shards.any (fun q => fieldB q 47 1 ≥ 8)) (fun s => s.pf F.NME_STATUS_reserved_encoding st 1))) fun _ =>
  Tx.andThen (Tx.act (fun s => s.numReserved x.dom (s.tableOn x.dom && shards.any (fun q =>
    gk.has (shGTid q) && scaleBad (s.entRead x.dom (shGTid q)))))) fun _ =>
  let y : NmeSweep := { x with
    live := fieldB h 4 1 % 2
    curU := (if ph = 0 then 0 else fieldB h 8 4)
    curD := (if ph = 0 then 0 else fieldB h 12 4)
    stride := fieldB h 32 8
    dtab := fieldB h 40 8
    shards := shards
    gk := gk
    digest := x.dcoll ≠ 0xFFFF && x.step ≥ fieldB h 24 8 + nd }
  Tx.pure (y, h)

/-- The verdict and the norm factor as the result record of this step holds them, or as the NME that writes it forms
them: c, norm, norm_used, verdict; none while what they need is not there yet. -/
def Tx.verdictOf (st : Nat) (x : NmeSweep) (t : SweepTop) : Tx (Option (Nat × Nat × Nat × Bool)) :=
  Tx.andThen (Tx.nread st x x.res 64) fun r =>
  Tx.andThen (Tx.get (fun s => (deliveryDie s x.dom st, sweepLead s t == some st))) fun p =>
  Tx.andThen (Tx.get (fun s => if x.vcoll = 0xFFFF then none else delivery s p.1 x.vcoll x.step)) fun del =>
  let failed := match del with | some e => fieldB e 8 1 ≠ 0 | none => false
  if x.vcoll ≠ 0xFFFF && del.isNone then Tx.pure none
  else if fieldB r 8 8 = x.step && fieldB r 16 1 = 1 then
    Tx.pure (some (fieldB r 0 4, fieldB r 4 4, fieldB r 18 1, fieldB r 17 1 ≠ 0 || failed))
  else if !p.2 then Tx.pure none
  else
    Tx.andThen (fun s =>
      match del with
      | some e => (.ok (failed || bitN (fieldB e 10 1) 0), s)
      | none => let (v, s) := s.takeNf x.dom; (.ok v, s)) fun v =>
    let q := match del with | some e => fieldB e 12 4 | none => 0
    let qv := match del with | some e => bitN (fieldB e 10 1) 1 | none => false
    let (c, n, u) := if v then (0x3F800000, 0, 0) else normOf x q qv
    Tx.andThen (if u = 3 then Tx.act (fun s => (s.bump .NME_CLAMP_FALLBACK st).nmeNotice st 1) else Tx.pure ()) fun _ =>
    Tx.andThen (Tx.nwrite st x x.res (leBytes 4 c ++ leBytes 4 n ++ leBytes 8 x.step)) fun _ =>
    Tx.andThen (Tx.nwrite st x (x.res + 28) (leBytes 4 t.parts.length)) fun _ =>
    Tx.andThen (Tx.nwrite st x (x.res + 16) [1, BitVec.ofNat 8 (bN v), BitVec.ofNat 8 u]) fun _ =>
    Tx.andThen (Tx.act (fun s => s.verdictKnown x.dom v)) fun _ =>
    Tx.pure (some (c, n, u, v))

/-- A skipped NME: header, record and count (R270, R272). -/
def Tx.skip (st : Nat) (x : NmeSweep) : Tx Unit :=
  Tx.andThen (Tx.nwrite st x (x.list st + 5) [0, 1]) fun _ =>
  Tx.andThen (Tx.resOp st x 20 9 0 (1 + 256 * st)) fun _ =>
  Tx.andThen (Tx.resOp st x 24 0 1 0) fun _ =>
  Tx.act fun s => ((s.pf F.NME_STATUS_last_status st 1).pf F.NME_STATUS_phase st 0).onSweep st (fun x => { x with ended := true, status := 1 })

/-- SWEEP_PHASE_N. An NME whose header shows that it has committed in this step takes no further part (R286). -/
def execSweepPhaseN (st : Nat) (s : State) : Res :=
  match (s.nmeU st).sweep with
  | none => .next s
  | some x =>
    match topOf s x with
    | none => .next s
    | some t =>
      if x.phase ≠ 1 || x.ended || !nmeRuns s st || !nmeCurrent s st then .next s
      else
        -- a verdict that is not there yet leaves everything as it is
        let wait := 256 + 255
        let m : Tx State :=
          Tx.andThen (Tx.phaseN st x) fun p =>
          let (y, h) := p
          let ph := fieldB h 5 1
          Tx.andThen (Tx.nread st x x.res 64) fun r =>
          let committed := ph = 0 && fieldB h 16 8 = x.step && fieldB h 6 1 = 0 && fieldB r 8 8 = x.step && fieldB r 16 1 = 1 && fieldB r 24 4 ≠ 0
          if committed then
            Tx.andThen (Tx.act (fun s => s.onSweep st (fun x => { x with ended := true }))) fun _ => Tx.done
          else
            Tx.andThen (Tx.verdictOf st y t) fun v =>
            match v with
            | none => Tx.fail wait 0
            | some (c, _, u, skip) =>
              Tx.andThen (if ph = 0 then Tx.nwrite st y (y.list st + 5) ([1, 0, 0] ++ zerosB 8 ++ leBytes 8 y.step) else Tx.pure ()) fun _ =>
              Tx.andThen (Tx.act (fun s => s.onSweep st (fun _ => { y with c := c, used := u }))) fun _ =>
              if skip then Tx.andThen (Tx.act (fun s => s.verdictKnown x.dom true)) fun _ => Tx.andThen (Tx.skip st y) fun _ => Tx.done
              else
                Tx.andThen (Tx.enter st y (if ph ≥ 3 then ph else if y.flag 0 then 2 else 3)) fun _ => Tx.done
        .next (match m s with
          | (.ok t, _) => t.sweepSettle x
          | (.error (511, _), _) => s
          | r => s.run (fun _ => r) (fun s c a => s.sweepFail st (sweepCode c) a))

/-- SWEEP_MR_DONE: the record of the matrix-rule job shows completion. -/
def execSweepMrDone (st : Nat) (s : State) : Res :=
  match (s.nmeU st).sweep with
  | none => .next s
  | some x =>
    if x.phase ≠ 2 || x.ended || !nmeRuns s st then .next s
    else .next (s.sweepRun st (
      Tx.andThen (Tx.nread st x (fieldB x.bytes 24 8) 16) fun r =>
      if fieldB r 15 1 ≠ 1 then Tx.done else Tx.andThen (Tx.enter st x 3) fun _ => Tx.done))

/-! ### Barriers -/

/-- Requests for prefolds of a domain's tensors are all served (R271, phase P). -/
def prefServed (s : State) : Bool := s.nme.units.rows.all (fun r => r.2.prefNet = [] && r.2.prefLost = [] && r.2.pref.all (·.2))

/-- Every participant has finished the phase: each that has not stopped starts the next. Where the others only wait behind
one that stopped, the sweep is over. -/
def State.sweepNext (s : State) (t : SweepTop) : State :=
  let us := t.parts.filterMap (fun st => (s.nmeU st).sweep.map (fun y => (st, y)))
  let live := us.filter (fun p => !p.2.ended)
  let low := (minList (live.map (·.2.phase))).getD 0
  let ready := live ≠ [] && us.all (fun p => !(p.2.ended && p.2.status > 1 && !p.2.early)) && 3 ≤ low && low ≤ 6 &&
    live.all (fun p => p.2.phase > low || p.2.done) && (low ≠ 4 || prefServed s)
  if !ready then (match us.head? with | some p => s.sweepSettle p.2 | none => s)
  else
    match (Tx.each (fun p => Tx.enter p.1 p.2 (low + 1)) (live.filter (fun p => p.2.phase = low))) s with
    | (.ok _, s) => s
    | (.error (0, _), s') => { s with xl := { s.xl with lockWait := s'.xl.lockWait, lineWait := s'.xl.lineWait } }
    | (.error (c, a), s') =>
      match live.find? (fun p => p.2.phase = low && (match (s'.nmeU p.1).sweep with | some y => y.phase = low | none => false)) with
      | some p => s'.sweepFail p.1 (sweepCode c) a
      | none => s'

def execSweepBarrier (d : Nat) (s : State) : Res :=
  .next (s.each (s.nme.sweeps.filter (fun t => t.dom = d)) (fun t s => s.sweepNext t))

/-! ### Phase U (R266, R274, R278, R283) -/

/-- Operand ranges lie in the NME's own stack (R55, R272 SHARD_STACK). -/
def Tx.inStack (st : Nat) (x : NmeSweep) (va n acc : Nat) : Tx Unit :=
  if n = 0 then Tx.pure () else
  Tx.andThen (fun s => s.xlRange (.nme st) x.ctx va n acc (stackDie st)) fun ps =>
  Tx.andThen (Tx.get (fun s => ps.all (fun p => s.region p.1 = .hbm && hbmStack s.hbmMode p.1 = st))) fun ok =>
  Tx.stopIf (!ok) (256 + 4) va

/-- r1 of an element, under the flush mode (R198, R274). -/
def gradIn (x : NmeSweep) (q : Bytes) (raw : Nat) : Nat :=
  let v := decFloat (shGFmt q) raw
  let out := fun (r : FV) => (convFV r 0 0 0 false x.ftz).1
  let rd := fun (b : Nat) => (readFV 0 b x.ftz).1
  let g := match x.gk.at? (shGTid q) with
    | some k => out (mulFV (rd (convFV v 0 0 0 false false).1) (.fin false 1 (-k))).1
    | none => out v
  if x.used = 2 || x.used = 3 then
    let c := rd (fieldB x.bytes 12 4)
    out (minFV (maxFV (rd g) c.negate) c)
  else if x.used = 1 && x.c ≠ 0x3F800000 then (outF32 (mulFV (rd g) (rd x.c)) 0 false x.ftz).1
  else g

/-- The lanes of a shard's elements as a program starts on them (R266). -/
def Tx.shardIn (st : Nat) (x : NmeSweep) (q : Bytes) (from' n : Nat) : Tx (List (List Nat)) :=
  let off := x.live * x.stride
  let gs := gradSize (shGFmt q)
  let ns := shNstate q
  Tx.andThen (Tx.nread st x (shMaster q + off + 4 * from') (4 * n)) fun m =>
  Tx.andThen (Tx.nread st x (shGrad q + gs * from') (gs * n)) fun g =>
  Tx.andThen (if x.flag 0 then Tx.nread st x (shDir q + 4 * from') (4 * n) else Tx.pure (zerosB (4 * n))) fun d =>
  Tx.andThen (Tx.map (fun j => Tx.nread st x (shState q + off + 4 * shElems q * j + 4 * from') (4 * n)) (List.range ns)) fun ss =>
  Tx.pure ((List.range n).map fun e =>
    [fieldB m (4 * e) 4, gradIn x q (fieldB g (gs * e) gs), fieldB d (4 * e) 4] ++
    (List.range 4).map (fun j => if j < ns then fieldB (ss.getD j []) (4 * e) 4 else 0) ++ List.replicate 9 0)

/-- Writes the results of lanes into the output bank (R266, R281). -/
def Tx.shardOut (st : Nat) (x : NmeSweep) (q : Bytes) (from' : Nat) (lanes : List (List Nat)) : Tx Unit :=
  let off := (1 - x.live) * x.stride
  let col := fun (r : Nat) => lanes.flatMap (fun l => leBytes 4 (l.getD r 0))
  Tx.andThen (Tx.nwrite st x (shMaster q + off + 4 * from') (col 0)) fun _ =>
  Tx.each (fun j => Tx.nwrite st x (shState q + off + 4 * shElems q * j + 4 * from') (col (3 + j))) (List.range (shNstate q))

/-- Every operand range of a shard's update. -/
def Tx.shardRanges (st : Nat) (x : NmeSweep) (q : Bytes) : Tx Unit :=
  let n := shElems q
  let i := x.live * x.stride
  let o := (1 - x.live) * x.stride
  Tx.each (fun r => Tx.inStack st x r.1 r.2.1 r.2.2)
    [(shMaster q + i, 4 * n, accLoad), (shGrad q, gradSize (shGFmt q) * n, accLoad), (shDir q, if x.flag 0 then 4 * n else 0, accLoad),
     (shState q + i, 4 * n * shNstate q, accLoad), (shMaster q + o, 4 * n, accStore), (shState q + o, 4 * n * shNstate q, accStore)]

/-- The shard image of a bank: master, then state slots (R283, R285). -/
def Tx.image (st : Nat) (x : NmeSweep) (q : Bytes) (bank : Nat) : Tx Bytes :=
  Tx.andThen (Tx.nread st x (shMaster q + bank * x.stride) (4 * shElems q)) fun m =>
  Tx.andThen (Tx.nread st x (shState q + bank * x.stride) (4 * shElems q * shNstate q)) fun t => Tx.pure (m ++ t)

/-- Largest finite magnitude of new master elements, as bits. -/
def amaxOf (lanes : List (List Nat)) : Nat :=
  maxList (lanes.map (fun l => let m := l.getD 0 0 % 2 ^ 31; if m < 0x7F800000 then m else 0))

/-- The holder of a tensor's entry gets a prefold request of NME st (R278). -/
def State.prefoldSend (s : State) (st d tid : Nat) : State :=
  if !s.tableOn d || tid ≥ s.gf F.NUM_TABLE_COUNT_count d then s
  else
    let h := hbmStack s.hbmMode (s.entPa d tid)
    let u := s.nmeU h
    if u.prefNet.any (·.1 = tid) then s else s.setNme h (fun u => { u with prefNet := u.prefNet ++ [(tid, st)] })

/-- The entry of a tensor that the sweep is to merge into does not lie in a locked page; the sweep waits where it does (R290). -/
def Tx.entFree (x : NmeSweep) (tid : Nat) (needed : Bool) : Tx Unit :=
  Tx.andThen (Tx.get (fun s => needed && s.entLocked x.dom tid)) fun l => Tx.stopIf l 0 0

/-- One shard's phase U. -/
def Tx.update (st : Nat) (x : NmeSweep) (i : Nat) : Tx Unit :=
  let q := x.shard i
  let n := shElems q
  Tx.andThen (Tx.entFree x (shWcTid q) (2 ≤ shWcFmt q)) fun _ =>
  Tx.andThen (Tx.shardRanges st x q) fun _ =>
  Tx.andThen (Tx.shardIn st x q 0 n) fun ls =>
  Tx.andThen (Tx.get (fun s => nmeProg s st (fieldB x.bytes 20 1 % 64))) fun ops =>
  let rs := ls.map (laneRun ops x.ftz x.consts)
  let out := rs.map (·.1)
  Tx.andThen (Tx.shardOut st x q 0 out) fun _ =>
  Tx.andThen (Tx.act (fun s => (s.nmeFlags st (rs.foldl (fun f r => flOr f r.2) 0)).when
    (n ≠ 0 && ops.any (fun o => o.1 > 0x13)) (fun s => s.pf F.NME_STATUS_reserved_encoding st 1))) fun _ =>
  Tx.andThen (Tx.act (fun s => s.bump64 .NME_SWEEP_BLOCKS st (ceilDiv n 512))) fun _ =>
  Tx.andThen (if x.digest then
      Tx.andThen (Tx.image st x q (1 - x.live)) fun img =>
      Tx.andThen (Tx.inStack st x (x.dtab + 16 * i) 16 accStore) fun _ =>
      Tx.nwrite st x (x.dtab + 16 * i) (leBytes 8 (crc64 img) ++ leBytes 8 x.step)
    else Tx.pure ()) fun _ =>
  if 2 ≤ shWcFmt q then
    Tx.act fun s =>
      let s := if s.tableOn x.dom && shWcTid q ≥ s.gf F.NUM_TABLE_COUNT_count x.dom then s.pf F.NUM_STATUS_id_range x.dom 1
        else s.mergeTensor x.dom { tid := shWcTid q, max := amaxOf out, marks := 0, tile := 0, lap := 0 }
      s.prefoldSend st x.dom (shWcTid q)
  else Tx.pure ()

/-- SWEEP_SHARD_UPDATE. A held shard makes the sweep wait at it (R284). -/
def execSweepShardUpdate (st : Nat) (s : State) : Res :=
  match (s.nmeU st).sweep with
  | none => .next s
  | some x =>
    if x.phase ≠ 3 || x.ended || x.done || !nmeRuns s st || (s.nmeU st).held.contains x.curU then .next s
    else .next (s.sweepRun st (
      Tx.andThen (Tx.update st x x.curU) fun _ =>
      Tx.andThen (Tx.nwrite st x (x.list st + 8) (leBytes 4 (x.curU + 1))) fun _ =>
      Tx.andThen (Tx.act (fun s => (s.setNme st (fun u => { u with loaded := false, blk := 0 })).onSweep st
        (fun x => { x with curU := x.curU + 1, done := x.curU + 1 ≥ x.count }))) fun _ => Tx.done))

/-! Single instructions of a program, on the block of the shard at cursor_u that the lanes hold (R265, R266). -/

/-- Loads the next block of the shard at cursor_u into the lanes, where a sweep is in phase U. -/
def State.loadBlock (s : State) (st : Nat) : State :=
  let u := s.nmeU st
  match u.sweep with
  | none => s
  | some x =>
    let q := x.shard x.curU
    if x.phase ≠ 3 || x.ended || x.done || u.loaded || !nmeRuns s st || u.held.contains x.curU || 512 * u.blk ≥ shElems q then s
    else s.sweepRun st (
      Tx.andThen (Tx.shardRanges st x q) fun _ =>
      Tx.andThen (Tx.shardIn st x q (512 * u.blk) (min 512 (shElems q - 512 * u.blk))) fun ls =>
      Tx.andThen (Tx.act (fun s => s.setNme st (fun u => { u with
        loaded := true, lanes := ls ++ List.replicate (512 - ls.length) (List.replicate 16 0) }))) fun _ => Tx.done)

/-- One instruction in every lane. -/
def State.nmeExec (s : State) (st op : Nat) (a : NmeArgs) : State :=
  if !nmeIn s st then s
  else
    let s := s.loadBlock st
    let u := s.nmeU st
    let cs := match u.sweep with | some x => x.consts | none => []
    let a := { rd := a.rd % 16, sa := a.sa % 32, sb := a.sb % 32, sc := a.sc % 32 }
    let rs := u.lanes.map (laneStep op a (s.gb F.NME_CTRL_ftz st) cs)
    (s.setNme st (fun u => { u with lanes := rs.map (·.1) })).nmeFlags st (rs.foldl (fun f r => flOr f r.2) 0)

/-- NOP, and an opcode the table does not list (R265). -/
def execNmeNop (st op : Nat) (s : State) : Res :=
  .next (if !nmeIn s st then s else (s.loadBlock st).when (op ≠ 0) (fun s => s.pf F.NME_STATUS_reserved_encoding st 1))
/-- END writes the block's results to the output bank; the next instruction finds the next block (R266). -/
def execNmeEnd (st : Nat) (s : State) : Res :=
  let u := s.nmeU st
  match u.sweep with
  | none => .next s
  | some x =>
    if !u.loaded || x.ended || !nmeRuns s st then .next s
    else
      let q := x.shard x.curU
      .next (s.sweepRun st (
        Tx.andThen (Tx.shardRanges st x q) fun _ =>
        Tx.andThen (Tx.shardOut st x q (512 * u.blk) (u.lanes.take (min 512 (shElems q - 512 * u.blk)))) fun _ =>
        Tx.andThen (Tx.act (fun s => s.setNme st (fun u => { u with loaded := false, blk := u.blk + 1 }))) fun _ => Tx.done))
def execNmeMov (st : Nat) (a : NmeArgs) (s : State) : Res := .next (s.nmeExec st 0x02 a)
def execNmeAdd (st : Nat) (a : NmeArgs) (s : State) : Res := .next (s.nmeExec st 0x03 a)
def execNmeSub (st : Nat) (a : NmeArgs) (s : State) : Res := .next (s.nmeExec st 0x04 a)
def execNmeMul (st : Nat) (a : NmeArgs) (s : State) : Res := .next (s.nmeExec st 0x05 a)
def execNmeFma (st : Nat) (a : NmeArgs) (s : State) : Res := .next (s.nmeExec st 0x06 a)
def execNmeFnma (st : Nat) (a : NmeArgs) (s : State) : Res := .next (s.nmeExec st 0x07 a)
def execNmeDiv (st : Nat) (a : NmeArgs) (s : State) : Res := .next (s.nmeExec st 0x08 a)
def execNmeSqrt (st : Nat) (a : NmeArgs) (s : State) : Res := .next (s.nmeExec st 0x09 a)
def execNmeRsq (st : Nat) (a : NmeArgs) (s : State) : Res := .next (s.nmeExec st 0x0A a)
def execNmeExp2 (st : Nat) (a : NmeArgs) (s : State) : Res := .next (s.nmeExec st 0x0B a)
def execNmeLog2 (st : Nat) (a : NmeArgs) (s : State) : Res := .next (s.nmeExec st 0x0C a)
def execNmeMin (st : Nat) (a : NmeArgs) (s : State) : Res := .next (s.nmeExec st 0x0D a)
def execNmeMax (st : Nat) (a : NmeArgs) (s : State) : Res := .next (s.nmeExec st 0x0E a)
def execNmeAbs (st : Nat) (a : NmeArgs) (s : State) : Res := .next (s.nmeExec st 0x0F a)
def execNmeNeg (st : Nat) (a : NmeArgs) (s : State) : Res := .next (s.nmeExec st 0x10 a)
def execNmeSign (st : Nat) (a : NmeArgs) (s : State) : Res := .next (s.nmeExec st 0x11 a)
def execNmeClamp (st : Nat) (a : NmeArgs) (s : State) : Res := .next (s.nmeExec st 0x12 a)
def execNmeSelge (st : Nat) (a : NmeArgs) (s : State) : Res := .next (s.nmeExec st 0x13 a)

/-! ### Phase P (R278) -/

/-- A prefold request arrives at the NME that holds the entry: 4,096 distinct ids, and a further one ends its sweep. -/
def execPrefoldRequest (st tid : Nat) (s : State) : Res :=
  let u := s.nmeU st
  if !u.prefNet.any (·.1 = tid) || !nmeIn s st then .next s
  else
    let s := s.setNme st (fun u => { u with prefNet := u.prefNet.filter (·.1 ≠ tid) })
    if u.pref.any (·.1 = tid) then .next s
    else if u.pref.length ≥ 4096 then .next (s.sweepFail st 13 0)
    else .next (s.setNme st (fun u => { u with pref := u.pref ++ [(tid, false)] }))

/-- Steps 1 to 4 of R278, while the table is enabled (R213). In Fixed gear an entry with an age is cold. -/
def State.prefoldOne (s : State) (d tid : Nat) : State :=
  if !s.tableOn d then s else
  match s.physBad (s.entPa d tid) 256 with
  | some bad => s.memErr bad
  | none =>
    let e := s.entRead d tid
    let cold := entCold e || (s.domGear d = gearFixed && entAge e ≠ 0)
    let s := s.numReserved d (entReserved e)
    let A := entAmax e
    let e' := if cold then
        setSliceB (setSliceB e 0 ((List.replicate 16 (leBytes 4 A)).flatten)) 204 [BitVec.ofNat 8 15, BitVec.ofNat 8 16, 0]
      else e
    let newest := (List.range (min (entCount e') 15)).map (fun i => entHist e' (entHead e' + 16 - i))
    let e' := setFieldB (setFieldB e' 200 4 (formScale e' (max A (maxList newest)))) 196 4 (Nat.lor (entMarks e') Mk.touched)
    (s.entWrite d tid (entPutCrc e')).when cold (fun s => s.bump .NUM_COLD_COUNT d)

/-- SWEEP_PREFOLD: the NME serves the requests it holds. -/
def execSweepPrefold (st : Nat) (s : State) : Res :=
  let u := s.nmeU st
  let p4 := s.nme.sweeps.find? (fun t => t.parts.any (fun k => match (s.nmeU k).sweep with | some y => y.phase = 4 && !y.ended | none => false))
  match p4 with
  | none => .next s
  | some t =>
    if !nmeIn s st || u.restart then .next s
    else
      if u.pref.any (fun p => !p.2 && s.entLocked t.dom p.1) then .next s else
      let s := s.each (u.pref.filter (fun p => !p.2)) (fun p s => s.prefoldOne t.dom p.1)
      let s := s.setNme st (fun u => { u with pref := u.pref.map (fun p => (p.1, true)) })
      .next (s.onSweep st (fun x => if x.phase = 4 && !x.ended then { x with done := true } else x))

/-! ### Phase D (R279) -/

/-- Word 0 of the next result of a lane of the derivation unit, or in Fixed gear of the element's counter (R238). A sweep that has started goes
on with the generators it started with, so that what a reset cuts off is derived as if it had not been (R282; DEDUCED, log entry 147). -/
def State.nmeRandom (s : State) (st lane : Nat) (fixed : Bool) (ctr : Nat) : Nat × State :=
  let u := s.nmeU st
  let (keys, ctrs) := u.sweepRng.getD (u.rngKey, u.rngCtr)
  let key := keys.atD lane 0
  if fixed then (philox key ctr 0, s)
  else
    let next := ctrs.put lane (ctrs.atD lane 0 + 1)
    (philox key (ctrs.atD lane 0) 0, s.setNme st (fun u =>
      if u.sweepRng.isSome then { u with sweepRng := some (keys, next) } else { u with rngCtr := next }))

/-- One element of a working copy: code, flags, marks, and whether it was not finite. An overflow is marked under a negative margin (R279). -/
def deriveElem (fmt : Nat) (scale : Nat) (ftz neg : Bool) (x rm u : Nat) : Nat × Nat × Nat × Bool :=
  let (v, f0) := readFV 0 x ftz
  if !v.isFin then ((convFV .nan fmt rm u false ftz).1, 0, if fmt ≤ 4 then Mk.nzWritten else 0, true)
  else
    let v := if fmt = 1 then v else (mulFV v (decFloat 0 scale)).1
    let (b, f) := convFV v fmt rm u (fmt ≠ 1) ftz
    (b, flOr f0 (f &&& flOr Fl.fz (if fmt = 1 then Fl.of else 0)),
     flOr (if b % 2 ^ (typeBits fmt - 1) ≠ 0 then Mk.nzWritten else 0) (if neg && fmt ≠ 1 && f &&& Fl.sat ≠ 0 then Mk.overflow else 0), false)

/-- Derives the working copy of a shard from a bank. -/
def Tx.derive (st : Nat) (x : NmeSweep) (i bank : Nat) : Tx Unit :=
  let q := x.shard i
  let fmt := shWcFmt q
  let n := shElems q
  let tid := shWcTid q
  if fmt = 0 then Tx.pure () else
  let src := shMaster q + bank * x.stride
  Tx.andThen (Tx.entFree x tid (fmt ≠ 1)) fun _ =>
  Tx.andThen (Tx.inStack st x src (4 * n) accLoad) fun _ =>
  Tx.andThen (Tx.inStack st x (shWc q) (ceilDiv (typeBits fmt * n) 8) accStore) fun _ =>
  Tx.andThen (Tx.nread st x src (4 * n)) fun b =>
  Tx.andThen (Tx.get (fun s =>
    if fmt = 1 || !s.tableOn x.dom || tid ≥ s.gf F.NUM_TABLE_COUNT_count x.dom then (0x3F800000, false)
    else let e := s.entRead x.dom tid; (useScale e, decide (entMargin e < 0)))) fun p =>
  let (scale, neg) := p
  let fixed := x.gear == gearFixed
  let rm := if !fixed || x.flag 2 then 4 else 0
  Tx.andThen (fun s =>
    let r := (List.range n).foldl (fun (acc : List (Nat × Nat × Nat × Bool) × State) e =>
      let (u, t) := if rm = 4 then acc.2.nmeRandom st (e % 512) fixed (fixedCtr (shBase q + e) 2 tid x.step) else (0, acc.2)
      (acc.1 ++ [deriveElem fmt scale x.ftz neg (fieldB b (4 * e) 4) rm (u % 65536)], t)) ([], s)
    (.ok r.1, r.2)) fun rs =>
  Tx.andThen (Tx.nwrite st x (shWc q) (packElems fmt (rs.map (·.1)))) fun _ =>
  Tx.act fun s =>
    let s := s.nmeFlags st (rs.foldl (fun f r => flOr f r.2.1) 0)
    let s := s.when (rs.any (·.2.2.2)) (fun s => (s.pf F.NME_FLAGS_nf_master st 1).nmeNotice st 2)
    let marks := rs.foldl (fun f r => flOr f r.2.2.1) 0
    s.when (fmt ≠ 1 && marks ≠ 0 && (!s.tableOn x.dom || tid < s.gf F.NUM_TABLE_COUNT_count x.dom))
      (fun s => s.mergeTensor x.dom { tid := tid, max := 0, marks := marks, tile := 0, lap := 0 })

/-- SWEEP_SHARD_DERIVE. After an uncorrectable read of the output bank, phase U runs again for the shard first (R286). -/
def execSweepShardDerive (st : Nat) (s : State) : Res :=
  match (s.nmeU st).sweep with
  | none => .next s
  | some x =>
    if x.phase ≠ 5 || x.ended || x.done || !nmeRuns s st || (s.nmeU st).held.contains x.curD then .next s
    else
      let m := Tx.andThen (if (s.nmeU st).redo = some x.curD then Tx.update st x x.curD else Tx.pure ()) fun _ =>
        Tx.andThen (Tx.act (fun s => s.setNme st (fun u => { u with redo := none }))) fun _ =>
        Tx.andThen (Tx.derive st x x.curD (1 - x.live)) fun _ =>
        Tx.andThen (Tx.nwrite st x (x.list st + 12) (leBytes 4 (x.curD + 1))) fun _ =>
        Tx.andThen (Tx.act (fun s => s.onSweep st (fun x => { x with curD := x.curD + 1, done := x.curD + 1 ≥ x.count }))) fun _ => Tx.done
      let u := s.nmeU st
      .next (s.run m (fun s c a =>
        -- the shard is derived again from its first element, with the same random words
        let s := s.setNme st (fun v => { v with rngCtr := u.rngCtr, sweepRng := u.sweepRng })
        (s.when (c = St.memUncorrectable) (fun s => s.setNme st (fun u => { u with redo := some x.curD }))).sweepFail st (sweepCode c) a))

/-! ### Shard repairs of an NME (R284) -/

/-- F2 on the digest source: the shard is held. -/
def State.digestF2 (s : State) (st i : Nat) : State :=
  ((s.pf F.NME_DIGEST_LAST_held st 1).raise (stackDie st) (nmeBlk st) 3 false i).setNme st fun u => { u with
    held := if u.held.contains i then u.held else u.held ++ [i] }
/-- More than 8 mismatches of the shard in an hour: it stays held until the operator acts. -/
def digestOften (s : State) (st i : Nat) : Bool := ((s.nmeU st).miss.filter (·.1 = i)).length > 8
/-- A shard differs from the reference: counted, named, and held. -/
def State.digestMiss (s : State) (st i step : Nat) : State :=
  let s := ((s.bump .NME_DIGEST_MISMATCH st).pf F.NME_DIGEST_LAST_shard st i).pf F.NME_DIGEST_LAST_step st step
  let now := s.now
  (s.digestF2 st i).setNme st fun u => { u with miss := (i, now) :: u.miss.filter (fun p => now < p.2 + 3600000000000) }
def State.onRepair (s : State) (st i : Nat) (f : Repair → Repair) : State :=
  s.setNme st (fun u => { u with repairs := u.repairs.map (fun r => if r.shard = i then f r else r) })
/-- The repair is to be repeated after the quiet period, or waits for the operator. -/
def State.repairLater (s : State) (st i : Nat) : State := s.onRepair st i (fun r => { r with phase := if digestOften s st i then 2 else 1 })
/-- An exchange ends without a repair: a further F2, and the request is to be repeated (R285). -/
def State.repairFails (s : State) (st i : Nat) : State := (s.digestF2 st i).repairLater st i
/-- A connection of a die has failed: the exchanges over it end (R285). -/
def State.repairBroken (s : State) (n c : Nat) : State :=
  s.each [2 * n, 2 * n + 1] fun st s =>
    s.each ((s.nmeU st).repairs.filter (fun r => r.conn = c && r.phase = 0)) fun r s => s.repairFails st r.shard
/-- The operator has acted on the NME: repairs that waited for it may be repeated (R284; DESIGN CHOICE, log entry 149). -/
def State.repairActed (s : State) (node b : Nat) : State :=
  if node < 8 && (b = 8 || b = 9) then
    s.setNme (2 * node + (b - 8)) fun u => { u with miss := [], repairs := u.repairs.map (fun r => if r.phase = 2 then { r with phase := 1 } else r) }
  else s

/-! ### Re-encryption (R287 to R290, R387) -/

/-- Unit number of a re-encryption: NME s, or 16 + m for the memory controllers of H-die m. -/
def rkUnit (mc : Bool) (k : Nat) : Nat := if mc then 16 + k else k
def rkX (u : Nat) : XUnit := if u < 16 then .nme u else .core (u - 16)
def rkNode (u : Nat) : Nat := if u < 16 then stackDie u else 8 + (u - 16)
def State.rk? (s : State) (u : Nat) : Option Rekey := s.nme.rekeys.at? u
def State.setRk (s : State) (u : Nat) (r : Rekey) : State := { s with nme := { s.nme with rekeys := s.nme.rekeys.put u r } }
/-- go and rekey_active clear. -/
def State.rkStop (s : State) (u : Nat) : State :=
  let s := { s with nme := { s.nme with rekeys := s.nme.rekeys.del u } }
  if u < 16 then (s.pf F.NME_REKEY_CTRL_go u 0).pf F.NME_STATUS_rekey_active u 0 else s.pf F.MC_REKEY_CTRL_go (u - 16) 0
def rkProgress (r : Rekey) (jv : Bool) : Bytes :=
  leBytes 4 r.page ++ leBytes 2 r.chunk ++ leBytes 1 (bN jv) ++ leBytes 1 r.status
def Tx.rkSave (u : Nat) (r : Rekey) (jv : Bool) : Tx Unit := Tx.write (rkX u) r.ctx (r.desc + 24) (rkProgress r jv) (rkNode u)

/-- The page lies wholly where the unit re-encrypts: its stack, or its channels and windows (R288, R387). -/
def rkOwns (s : State) (u pa size : Nat) : Bool :=
  (List.range (min (size / 4096) 64)).all (fun i => rkOne s u (pa + 4096 * i)) && rkOne s u (pa + size - 4096)
where
  rkOne (s : State) (u pa : Nat) : Bool :=
    match s.region pa with
    | .hbm => u = hbmStack s.hbmMode pa
    | .ddr => u = 16 + ddrChannel s.ddrMode s.ddrChans pa / 8
    | .cxl => some u = (s.homeOf pa).map (· + 8)
    | _ => false

/-- Sizes a page at pa can have: 4 KiB, 2 MiB, 1 GiB (R60). -/
def pageSizes (pa : Nat) : List Nat := [2 ^ 12, 2 ^ 21, 2 ^ 30].filter (fun n => pa % n = 0)

/-- Drops a page from every translation cache (R65, R288). -/
def State.dropPage (s : State) (pa size : Nat) : State :=
  { s with xl := { s.xl with tlb := s.xl.tlb.filter (fun e =>
      let a := if e.isAttr then e.va else pePpn e.entry / 2 ^ e.lg * 2 ^ e.lg
      !(a < pa + size && pa < a + 2 ^ e.lg)) } }

/-- Writes f of every listed leaf entry. -/
def State.onLeaves (s : State) (l : List Nat) (f : Nat → Nat) : State :=
  s.each l (fun a s => s.physWrite a (leBytes 8 (f (s.physVal a 8))))

/-- Finds the next page the re-encryption takes: checks its leaves, locks and invalidates it (R288 steps 1, 2); skips
pages of other tags with status 1 and pages outside with status 2. A leaf names no page size: where the alignment of its
frame allows several, which it is is free, the same each time the leaf is met (log entry 14). -/
def Tx.rkSeek (u : Nat) : Nat → Rekey → Tx Unit
  | 0, r => Tx.andThen (Tx.rkSave u r false) fun _ => Tx.act (fun s => s.rkStop u)
  | fuel + 1, r =>
    if r.page ≥ r.count then Tx.andThen (Tx.rkSave u r false) fun _ => Tx.act (fun s => s.rkStop u)
    else
      Tx.andThen (Tx.read (rkX u) r.ctx (r.list + 32 * r.page) 32 (rkNode u)) fun b =>
      let ls := [fieldB b 0 8, fieldB b 8 8, fieldB b 16 8].filter (· ≠ 0)
      Tx.andThen (Tx.get (fun s => ls.map (fun a => s.physVal a 8))) fun es =>
      let pa := pePpn (es.headD 0)
      let sizes := pageSizes pa
      let size := sizes.getD ((Config.openResult 0x76 (ls.headD 0 + 2 ^ 52 * pa)).toNat % max 1 sizes.length) 4096
      Tx.andThen (Tx.get (fun s => rkOwns s u pa size)) fun own =>
      let code := if ls = [] || es.any (fun e => pePart e ≠ r.part || peGen e ≠ r.oldG) then 1 else if !own then 2 else 0
      if code ≠ 0 then
        let r := { r with status := code, page := r.page + 1, chunk := 0 }
        Tx.andThen (Tx.rkSave u r false) fun _ => Tx.rkSeek u fuel r
      else Tx.act fun s =>
        let s := { s with nme := { s.nme with locked := if s.nme.locked.contains (pa, size) then s.nme.locked else (pa, size) :: s.nme.locked } }
        ((s.onLeaves ls (fun e => setBitsN e 4 4 1)).dropPage pa size).setRk u { r with leaves := ls, pa := pa, size := size }

def rkUp (s : State) (u : Nat) : Bool := if u < 16 then nmeIn s u && !(s.nmeU u).restart else s.dieIn (8 + (u - 16))

/-- Writes a 4 KiB chunk in place under the new generation. -/
def State.rkPut (s : State) (r : Rekey) (data : Bytes) : State :=
  s.each (List.range 64) fun i s =>
    s.memLine (s.keyOf r.part r.newG) (lineOf (r.pa + 4096 * r.chunk) + i) (sliceB data (64 * i) 64)

/-- Starts or resumes a re-encryption from the descriptor's progress (R287, R289). -/
def State.rkGo (s : State) (u ctx desc : Nat) : State :=
  let m : Tx State :=
    Tx.andThen (Tx.read (rkX u) ctx desc 64 (rkNode u)) fun b =>
    let r : Rekey := { ctx := ctx, desc := desc, part := fieldB b 0 1 % 16, oldG := fieldB b 1 1 % 4, newG := fieldB b 2 1 % 4
                       count := fieldB b 4 4, list := fieldB b 8 8, journal := fieldB b 16 8
                       page := fieldB b 24 4, chunk := fieldB b 28 2 }
    Tx.andThen (Tx.act (fun s =>
      if u < 16 then (s.pf F.NME_REKEY_CTRL_go u 1).pf F.NME_STATUS_rekey_active u 1 else s.pf F.MC_REKEY_CTRL_go (u - 16) 1)) fun _ =>
    Tx.andThen (Tx.rkSeek u (r.count - r.page + 1) r) fun _ =>
    Tx.andThen (Tx.get (fun s => s.rk? u)) fun r? =>
    match r? with
    | some r =>
      if bitN (fieldB b 30 1) 0 && r.leaves ≠ [] then
        Tx.andThen (Tx.read (rkX u) ctx r.journal 4096 (rkNode u)) fun j =>
        let r' := { r with chunk := r.chunk + 1 }
        Tx.andThen (Tx.act (fun s => (s.rkPut r j).setRk u r')) fun _ =>
        Tx.andThen (Tx.rkSave u r' false) fun _ => Tx.done
      else Tx.done
    | none => Tx.done
  s.run m (fun s _ _ => s.rkStop u)

def execRekeyGo (role : Role) (st : Nat) (v : Word64) (s : State) : Res :=
  let w := v.toNat
  if !s.mayWriteNme role st || (s.rk? st).isSome then .next s
  else
    let s := (s.pf F.NME_REKEY_CTRL_ctx st (bitsN w 5 0)).pf F.NME_REKEY_CTRL_desc st (bitsN w 47 8)
    .next (if bitN w 6 && rkUp s st then s.rkGo st (bitsN w 5 0) (bitsN w 47 8 * 256) else s)

/-- The memory controllers of an H-die re-encrypt DDR5 and CXL.mem pages (R387). -/
def execMcRekeyGo (role : Role) (m : Nat) (v : Word64) (s : State) : Res :=
  let w := v.toNat
  if m ≥ 2 || !(s.mmioRole role || privRole role) || (s.rk? (16 + m)).isSome then .next s
  else
    let s := (s.pf F.MC_REKEY_CTRL_ctx m (bitsN w 5 0)).pf F.MC_REKEY_CTRL_desc m (bitsN w 47 8)
    .next (if bitN w 6 && rkUp s (16 + m) then s.rkGo (16 + m) (bitsN w 5 0) (bitsN w 47 8 * 256) else s)

/-- R288 step 3 for one chunk. -/
def execRekeyChunkDone (mc : Bool) (k : Nat) (s : State) : Res :=
  let u := rkUnit mc k
  match s.rk? u with
  | none => .next s
  | some r =>
    if r.leaves = [] || 4096 * r.chunk ≥ r.size || !rkUp s u then .next s
    else
      let pa := r.pa + 4096 * r.chunk
      match s.rangeBad pa 4096 with
      | some bad => .next (((s.memErr bad).tryTx (Tx.rkSave u { r with status := 3 } false)).rkStop u)
      | none =>
        let data := s.cohRead (s.keyOf r.part r.oldG) pa 4096
        let r' := { r with chunk := r.chunk + 1 }
        let m : Tx State :=
          Tx.andThen (Tx.write (rkX u) r.ctx r.journal data (rkNode u)) fun _ =>
          Tx.andThen (Tx.act (fun s => ((s.each (List.range 64) (fun i s => s.invalidateAll (lineOf pa + i))).rkPut r data).setRk u r')) fun _ =>
          Tx.andThen (Tx.rkSave u r' false) fun _ => Tx.done
        .next (s.run m (fun s _ _ => s.rkStop u))

/-- 4 KiB units a partition has tagged with a generation (R426). -/
def State.unitsOf (s : State) (p g : Nat) : Nat :=
  match (s.sec.parts.atD p {}).units.at? g with
  | some n => n
  | none => if p = 0 && g = 0 then (16 * 80 * 2 ^ 30 + (s.ddrChans.map (·.2)).sum + (s.cxlWins.map (·.2.1)).sum) / 4096 else 0
def State.setPart (s : State) (p : Nat) (f : Part → Part) : State :=
  { s with sec := { s.sec with parts := s.sec.parts.put p (f (s.sec.parts.atD p {})) } }
/-- A generation that is not current and tags nothing is zeroised (R428). -/
def State.dropGen (s : State) (p g : Nat) : State :=
  let x := s.sec.parts.atD p {}
  if g = x.gen || s.unitsOf p g ≠ 0 then s
  else { s.setPart p (fun x => { x with live := x.live.filter (· != g) }) with keyIds := s.keyIds.put (p * 4 + g) s.keyNext, keyNext := s.keyNext + 1 }
/-- A page moves its units from one generation to another (R426). -/
def State.moveUnits (s : State) (p old new n : Nat) : State :=
  let o := s.unitsOf p old
  let w := s.unitsOf p new
  (s.setPart p (fun x => { x with units := if old = new then x.units else (x.units.put old (o - n)).put new (w + n) })).dropGen p old

/-- R288 steps 4 and 5. -/
def execRekeyPageDone (mc : Bool) (k : Nat) (s : State) : Res :=
  let u := rkUnit mc k
  match s.rk? u with
  | none => .next s
  | some r =>
    if r.leaves = [] || 4096 * r.chunk < r.size || !rkUp s u then .next s
    else
      let n := r.size / 4096
      let s := ((s.onLeaves r.leaves (fun e => setBitsN (setBitsN e 53 52 r.newG) 4 4 0)).dropPage r.pa r.size).moveUnits r.part r.oldG r.newG n
      let s := { s with nme := { s.nme with locked := s.nme.locked.filter (· != (r.pa, r.size)) } }
      let s := if u < 16 then s.bump64 .NME_REKEY_PAGES u n else s.bump64 .MC_REKEY_PAGES (u - 16) n
      let r' := { r with page := r.page + 1, chunk := 0, leaves := [] }
      .next ((s.setRk u r').run
        (Tx.andThen (Tx.rkSave u r' false) fun _ => Tx.andThen (Tx.rkSeek u (r.count - r'.page + 1) r') fun _ => Tx.done)
        (fun s _ _ => s.rkStop u))

end Sys2Proof.Machine
end

