-- ==== Sys2Proof/WellFormed.lean ====
section
/-! DEFINITION. Well-formed commands: every operand lies in the range the spec gives it. A command outside these ranges
names nothing of the package. -/

namespace Sys2Proof

/-! ### Fields of instruction words (R150, R264): each within its bits -/

def FmtV.wf (w : FmtV) : Bool :=
  w.pred < 8 && w.vd < 64 && w.va < 64 && w.vb < 64 && w.vc < 64 && w.ts < 16 && w.td < 16 && w.rm < 8 && w.pd < 8 && w.slot < 16
def FmtI.wf (w : FmtI) : Bool := w.pred < 8 && w.vd < 64 && w.va < 64 && w.pd < 8 && w.imm < 2 ^ 32
def FmtB.wf (w : FmtB) : Bool :=
  w.pred < 8 && -524288 ≤ w.rpcOff && w.rpcOff < 524288 && -2147483648 ≤ w.tgtOff && w.tgtOff < 2147483648
def FmtM.wf (w : FmtM) : Bool :=
  w.pred < 8 && w.vd < 64 && w.va < 64 && w.vb < 64 && w.space < 4 && w.size < 8 && w.order < 4 && w.scope < 4 && w.aop < 16 &&
  -524288 ≤ w.offset && w.offset < 524288
def FmtT.wf (w : FmtT) : Bool :=
  w.pred < 8 && w.va < 64 && w.vb < 64 && w.f1 < 16 && w.f2 < 16 && w.src < 4 && w.rm < 8 && w.slot < 16 && w.mMinus1 < 512 && w.accRow < 512
def NmeArgs.wf (w : NmeArgs) : Bool := w.rd < 16 && w.sa < 32 && w.sb < 32 && w.sc < 32

/-! ### Names of the package's parts (R1, R9, R20, R22, R97) -/

def isTile (t : Nat) : Bool := t < 1152
def isPart (p : Nat) : Bool := 1 ≤ p && p < 16
/-- Coherence agents: tiles, H-dies, complexes, Derailleurs, NMEs, and 2047 for an access that no agent makes (R97). -/
def isAgent (a : Nat) : Bool :=
  a < 1152 || a == 2047 || a == 1152 || a == 1153 || (1160 ≤ a && a < 1168) || (1168 ≤ a && a < 1176) || (1176 ≤ a && a < 1192)
def UnitId.wf : UnitId → Bool
  | .tile t => isTile t
  | .nme s => s < 16
  | .drl n => n < 8
def Role.wf : Role → Bool
  | .tenant p => isPart p
  | _ => true
def MemCtl.wf : MemCtl → Bool
  | .hbm s => s < 16
  | .ddr ch => ch < 16
def RefClk.wf : RefClk → Bool
  | .pcie r => r < 8
  | .eth n => n < 8
  | .sys => true
def Door.wf : Door → Bool
  | .dtls s => s < 4
  | .i3c => true
  | .chan c => c < 23
def BmpHdr.wf (h : BmpHdr) : Bool := h.door.wf && h.seq < 2 ^ 32 && h.odMajor < 256
/-- The base header of R334. -/
def AtHdr.wf (h : AtHdr) : Bool :=
  h.version < 16 && h.incarn < 256 && h.conn < 65536 && h.psn < 2 ^ 32 && h.ack < 2 ^ 32 && h.path < 4
/-- The payload of R343. -/
def HelloBody.wf (b : HelloBody) : Bool :=
  b.minVer < 256 && b.maxVer < 256 && b.maxPayload < 65536 && b.window < 65536 && b.npaths < 256 && b.incarn < 256 &&
  b.features < 2 ^ 32 && b.senderConn < 65536 && b.senderPkg < 65536
/-- Sizes of an atomic in bytes (R104). -/
def atomicSize (n : Nat) : Bool := n == 4 || n == 8
/-- A message may come in a packet of a connection, whose base header it then has (R334). -/
def atHdrWf (h : Option AtHdr) : Bool := h.all AtHdr.wf
def ReqTag.wf (t : ReqTag) : Bool := t.part < 16 && t.gen < 4 && t.hart.all (· < 128) && t.pbmt < 3
/-- A write of a core lies inside its line (R104, R105). -/
def CoreWr.wf : CoreWr → Bool
  | .none => true
  | .store off data => off + data.length ≤ 64
  | .amo off size aop operand newVal =>
    atomicSize size && off % size == 0 && off < 64 && aop < 10 && operand < 2 ^ 64 && newVal < 2 ^ 64
def PeerOp.wf : PeerOp → Bool
  | .read len => len ≤ 4096
  | .write data mask _ => data.length ≤ 512 && mask.length == data.length
  | .fetchAdd size _ | .swap size _ | .cas size _ _ => atomicSize size
/-- Opcodes that R154 does not list. -/
def reservedOp (op : Nat) : Bool :=
  op < 256 && !(op ≤ 5 || (0x10 ≤ op && op ≤ 0x1D) || (0x20 ≤ op && op ≤ 0x33) || (0x40 ≤ op && op ≤ 0x43) || op == 0x60 ||
    (0x70 ≤ op && op ≤ 0x74) || (0x80 ≤ op && op ≤ 0x83) || op == 0x90 || op == 0x91 || op == 0xA0 || op == 0xA1 ||
    (0xB0 ≤ op && op ≤ 0xB3))

def Instr.wf : Instr → Bool
  | .absentTileAccess t off _ => isTile t && off < 0x200000
  | .islandWake u => u.wf
  | .tbAdj _ => true
  | .slewDone => true
  | .tbIncrWrite _ => true
  | .replicaRealign node _ => node < 10
  | .ppsInEdge _ => true
  | .ppsMissing => true
  | .ppsOutPulse => true
  | .ppsOutEnd => true
  | .tbSourceLost => true
  | .sendReady n => n < 8
  | .ready n => n < 8
  | .tBBroadcast n => n < 8
  | .stepBoundary n => n < 8
  | .tandemCtrlWrite role _ => role.wf
  | .unitReinit u _ => u.wf
  | .transCtxWrite role _ c _ => role.wf && c < 64
  | .transInval role _ => role.wf
  | .transInvalDone => true
  | .catRootWrite role _ => role.wf
  | .lockedAccessRetry _ => true
  | .coreResetGraceful role => role.wf
  | .coreResetForced role => role.wf
  | .coreFlushDone => true
  | .coreBoot _ => true
  | .rdShared agent line tag => isAgent agent && line < 2 ^ 46 && tag.wf
  | .rdOwn agent line tag wr => isAgent agent && line < 2 ^ 46 && tag.wf && wr.wf
  | .upgrade agent line tag wr => isAgent agent && line < 2 ^ 46 && tag.wf && wr.wf
  | .rdOnce agent line tag _ => isAgent agent && line < 2 ^ 46 && tag.wf
  | .wrFull agent line data tag => isAgent agent && line < 2 ^ 46 && tag.wf && data.length = 64
  | .wrPartial agent line mask data tag => isAgent agent && line < 2 ^ 46 && tag.wf && mask.length = 64 && data.length = 64
  | .atomicReq agent pa size aop operand newVal tag => isAgent agent && pa < 2 ^ 52 && atomicSize size && aop < 10 && operand < 2 ^ 64 && newVal < 2 ^ 64 && tag.wf
  | .watchReq agent line tag => isAgent agent && line < 2 ^ 46 && tag.wf
  | .presenceSetAck stack region => stack < 16 && region < 1310720
  | .snpShared agent line => isAgent agent && line < 2 ^ 46
  | .snpInv agent line => isAgent agent && line < 2 ^ 46
  | .snpOnce agent line => isAgent agent && line < 2 ^ 46
  | .snpAck agent line => isAgent agent && line < 2 ^ 46
  | .snpData agent line => isAgent agent && line < 2 ^ 46
  | .grantMsg agent line => isAgent agent && line < 2 ^ 46
  | .dataMsg agent line => isAgent agent && line < 2 ^ 46
  | .complete agent line => isAgent agent && line < 2 ^ 46
  | .conflictQueueAccept line => line < 2 ^ 46
  | .retryQueueGrant line => line < 2 ^ 46
  | .cacheEvict agent line => isAgent agent && line < 2 ^ 46
  | .wb agent line => isAgent agent && line < 2 ^ 46
  | .evictClean agent line => isAgent agent && line < 2 ^ 46
  | .wbAck agent line => isAgent agent && line < 2 ^ 46
  | .memReadDone line _ => line < 2 ^ 46
  | .memWriteAck line => line < 2 ^ 46
  | .tileRngKeyWrite role t _ => role.wf && isTile t
  | .nop t g w => isTile t && g < 64 && w.wf
  | .reservedOpcode t g op w => isTile t && g < 64 && reservedOp op && w.wf
  | .bra t g w => isTile t && g < 64 && w.wf
  | .exit t g w => isTile t && g < 64 && w.wf
  | .s2r t g w => isTile t && g < 64 && w.wf
  | .flgclr t g w => isTile t && g < 64 && w.wf
  | .vote t g w => isTile t && g < 64 && w.wf
  | .fadd t g w => isTile t && g < 64 && w.wf
  | .fsub t g w => isTile t && g < 64 && w.wf
  | .fmul t g w => isTile t && g < 64 && w.wf
  | .ffma t g w => isTile t && g < 64 && w.wf
  | .fmin t g w => isTile t && g < 64 && w.wf
  | .fmax t g w => isTile t && g < 64 && w.wf
  | .fcmp t g w => isTile t && g < 64 && w.wf
  | .fdiv t g w => isTile t && g < 64 && w.wf
  | .fsqrt t g w => isTile t && g < 64 && w.wf
  | .frcp t g w => isTile t && g < 64 && w.wf
  | .frsq t g w => isTile t && g < 64 && w.wf
  | .fexp2 t g w => isTile t && g < 64 && w.wf
  | .flog2 t g w => isTile t && g < 64 && w.wf
  | .ftanh t g w => isTile t && g < 64 && w.wf
  | .iadd t g w => isTile t && g < 64 && w.wf
  | .isub t g w => isTile t && g < 64 && w.wf
  | .imul t g w => isTile t && g < 64 && w.wf
  | .imad t g w => isTile t && g < 64 && w.wf
  | .and t g w => isTile t && g < 64 && w.wf
  | .or t g w => isTile t && g < 64 && w.wf
  | .xor t g w => isTile t && g < 64 && w.wf
  | .shl t g w => isTile t && g < 64 && w.wf
  | .shr t g w => isTile t && g < 64 && w.wf
  | .sar t g w => isTile t && g < 64 && w.wf
  | .imin t g w => isTile t && g < 64 && w.wf
  | .imax t g w => isTile t && g < 64 && w.wf
  | .icmp t g w => isTile t && g < 64 && w.wf
  | .sel t g w => isTile t && g < 64 && w.wf
  | .movi t g w => isTile t && g < 64 && w.wf
  | .shfl t g w => isTile t && g < 64 && w.wf
  | .cvt t g w => isTile t && g < 64 && w.wf
  | .cvts t g w => isTile t && g < 64 && w.wf
  | .xlut t g w => isTile t && g < 64 && w.wf
  | .xszp t g w => isTile t && g < 64 && w.wf
  | .ld t g w => isTile t && g < 64 && w.wf
  | .st t g w => isTile t && g < 64 && w.wf
  | .atom t g w => isTile t && g < 64 && w.wf
  | .watch t g w => isTile t && g < 64 && w.wf
  | .dma t g w => isTile t && g < 64 && w.wf
  | .mload t g w => isTile t && g < 64 && w.wf
  | .mswap t g w => isTile t && g < 64 && w.wf
  | .mstream t g w => isTile t && g < 64 && w.wf
  | .mdrain t g w => isTile t && g < 64 && w.wf
  | .mzero t g w => isTile t && g < 64 && w.wf
  | .sbind t g w => isTile t && g < 64 && w.wf
  | .sget t g w => isTile t && g < 64 && w.wf
  | .amax t g w => isTile t && g < 64 && w.wf
  | .bscale t g w => isTile t && g < 64 && w.wf
  | .rand t g w => isTile t && g < 64 && w.wf
  | .srctx t g w => isTile t && g < 64 && w.wf
  | .ppush t g w => isTile t && g < 64 && w.wf
  | .ppop t g w => isTile t && g < 64 && w.wf
  | .fence t g w => isTile t && g < 64 && w.wf
  | .bar t g w => isTile t && g < 64 && w.wf
  | .waitq t g w => isTile t && g < 64 && w.wf
  | .wwait t g w => isTile t && g < 64 && w.wf
  | .wwaitTimeout t g => isTile t && g < 64
  | .arrayQueueStart t => isTile t
  | .arrayOpDone t => isTile t
  | .dmaDescStart t ch => isTile t && ch < 4
  | .dmaDescDone t ch => isTile t && ch < 4
  | .lapDispatch t => isTile t
  | .lapStart t => isTile t
  | .lapEnd t => isTile t
  | .sbindComplete t slot => isTile t && slot < 16
  | .jobLastLapEnd n _ => n < 8
  | .reconversionDone n _ => n < 8
  | .jobComplete n _ => n < 8
  | .validationFold role d => role.wf && d < 16
  | .fold s d => s < 16 && d < 16
  | .ppushStart t => isTile t
  | .ppushDone t => isTile t
  | .ppopDone t => isTile t
  | .spillStart n s => n < 8 && s < 144
  | .prefetchFillStart n s => n < 8 && s < 144
  | .demandFillStart n s => n < 8 && s < 144
  | .moveDone n s => n < 8 && s < 144
  | .panClear role n _ => role.wf && n < 8
  | .panSizesWrite role n _ => role.wf && n < 8
  | .panEnable role n _ => role.wf && n < 8
  | .nmeProgWrite role s bank i _ => role.wf && s < 16 && bank < 2 && i < 65
  | .progCommit role s => role.wf && s < 16
  | .sweep n sq => n < 8 && sq < 64
  | .sweepPhaseN s => s < 16
  | .sweepMrDone s => s < 16
  | .sweepBarrier d => d < 16
  | .sweepShardUpdate s => s < 16
  | .prefoldRequest s tid => s < 16 && tid < 2 ^ 24
  | .sweepPrefold s => s < 16
  | .sweepShardDerive s => s < 16
  | .sweepPhaseX s => s < 16
  | .sweepCommit s => s < 16
  | .repairReq s shard step die h => s < 16 && shard < 65536 && step < 2 ^ 32 && die < 8 && atHdrWf h
  | .repairData s shard step off data h => s < 16 && shard < 65536 && step < 2 ^ 32 && off < 2 ^ 32 && data.length ≤ 8192 && atHdrWf h
  | .repairEnd s shard step crc h => s < 16 && shard < 65536 && step < 2 ^ 32 && crc < 2 ^ 64 && atHdrWf h
  | .repairNak s shard step reason h => s < 16 && shard < 65536 && step < 2 ^ 32 && reason < 256 && atHdrWf h
  | .repairRetry s shard => s < 16 && shard < 65536
  | .nmeNop s op => s < 16 && (op == 0 || (0x14 ≤ op && op < 64))
  | .nmeEnd s => s < 16
  | .nmeMov s a => s < 16 && a.wf
  | .nmeAdd s a => s < 16 && a.wf
  | .nmeSub s a => s < 16 && a.wf
  | .nmeMul s a => s < 16 && a.wf
  | .nmeFma s a => s < 16 && a.wf
  | .nmeFnma s a => s < 16 && a.wf
  | .nmeDiv s a => s < 16 && a.wf
  | .nmeSqrt s a => s < 16 && a.wf
  | .nmeRsq s a => s < 16 && a.wf
  | .nmeExp2 s a => s < 16 && a.wf
  | .nmeLog2 s a => s < 16 && a.wf
  | .nmeMin s a => s < 16 && a.wf
  | .nmeMax s a => s < 16 && a.wf
  | .nmeAbs s a => s < 16 && a.wf
  | .nmeNeg s a => s < 16 && a.wf
  | .nmeSign s a => s < 16 && a.wf
  | .nmeClamp s a => s < 16 && a.wf
  | .nmeSelge s a => s < 16 && a.wf
  | .rekeyGo role s _ => role.wf && s < 16
  | .rekeyChunkDone _ s => s < 16
  | .rekeyPageDone _ s => s < 16
  | .mcRekeyGo role m _ => role.wf && m < 16
  | .streamEnable role n sq _ => role.wf && n < 8 && sq < 64
  | .streamDisable role n sq => role.wf && n < 8 && sq < 64
  | .haltClear role n sq => role.wf && n < 8 && sq < 64
  | .entryFetch n sq => n < 8 && sq < 64
  | .nopEntry n sq => n < 8 && sq < 64
  | .jobEntryStart n sq => n < 8 && sq < 64
  | .mbBegin n sq => n < 8 && sq < 64
  | .mbRoundStart n _ => n < 8
  | .waitEntry n sq => n < 8 && sq < 64
  | .waitTimeout n _ => n < 8
  | .stepEnd n sq => n < 8 && sq < 64
  | .linkDown p l corr unc => p < 24 && l < 8 && corr < 2 ^ 64 && unc < 2 ^ 64
  | .linkUp p l => p < 24 && l < 8
  | .retrainTimeout p => p < 24
  | .portRetrain role p => role.wf && p < 24
  | .portModeWrite role p mode => role.wf && p < 24 && mode < 4
  | .frameRx p l _ corr unc => p < 24 && l < 8 && corr < 2 ^ 64 && unc < 2 ^ 64
  | .frameTx p l cls _ => p < 24 && l < 8 && cls < 8
  | .pfcRepeat p l c => p < 24 && l < 8 && c < 8
  | .pfcRx p l mask quanta => p < 24 && l < 8 && mask < 256 && quanta.length = 8 && quanta.all (· < 65536)
  | .pfcPauseExpiry p l c => p < 24 && l < 8 && c < 8
  | .pfcWatchdog p l c => p < 24 && l < 8 && c < 8
  | .pfcWdEnd p l c => p < 24 && l < 8 && c < 8
  | .sakInstall p l an => p < 24 && l < 8 && an < 4
  | .sakRetire p l an => p < 24 && l < 8 && an < 4
  | .mkaLifetimeExpiry p l => p < 24 && l < 8
  | .vnfEnable role v => role.wf && v < 256
  | .vnfTxPoll v => v < 256
  | .vnfItrExpiry v => v < 256
  | .atEnable role n => role.wf && n < 8
  | .connOpen role n conn => role.wf && n < 8 && conn < 65536
  | .connClose role n conn => role.wf && n < 8 && conn < 65536
  | .connReset role n conn => role.wf && n < 8 && conn < 65536
  | .atOpIssue n conn issuer _ => n < 8 && conn < 65536 && issuer < 256
  | .atWrite n h va data => n < 8 && h.wf && va < 2 ^ 64 && data.length ≤ 8192
  | .readReq n h va len reqId => n < 8 && h.wf && va < 2 ^ 64 && len < 2 ^ 32 && reqId < 2 ^ 32
  | .readResp n h reqId off code data => n < 8 && h.wf && reqId < 2 ^ 32 && off < 2 ^ 32 && code < 256 && data.length ≤ 8192
  | .atAtomic n h va aop size operand newVal => n < 8 && h.wf && va < 2 ^ 64 && aop < 10 && atomicSize size && operand < 2 ^ 64 && newVal < 2 ^ 64
  | .atomicResp n h reqPsn code _ => n < 8 && h.wf && reqPsn < 2 ^ 32 && code < 256
  | .atAck n h _ => n < 8 && h.wf
  | .atNak n h psn code => n < 8 && h.wf && psn < 2 ^ 32 && code < 256
  | .cnp n h => n < 8 && h.wf
  | .rateIncreaseTimer n conn => n < 8 && conn < 65536
  | .alphaDecayTimer n conn => n < 8 && conn < 65536
  | .ackTimer n conn => n < 8 && conn < 65536
  | .rtoExpiry n conn => n < 8 && conn < 65536
  | .hello n conn b => n < 8 && conn < 65536 && b.wf
  | .helloAck n conn b => n < 8 && conn < 65536 && b.wf
  | .helloNak n conn code => n < 8 && conn < 65536 && code < 256
  | .helloTimer n conn => n < 8 && conn < 65536
  | .drlEnable role n _ => role.wf && n < 8
  | .routeWindowWrite role n _ i off width _ => role.wf && n < 8 && i < 65536 && off < 32 && (width = 4 || width = 8)
  | .routeCommit role n => role.wf && n < 8
  | .routeSaveDone n => n < 8
  | .allReduce n sq => n < 8 && sq < 64
  | .reduceScatter n sq => n < 8 && sq < 64
  | .allGather n sq => n < 8 && sq < 64
  | .allToAll n sq => n < 8 && sq < 64
  | .dispatch n sq => n < 8 && sq < 64
  | .combine n sq => n < 8 && sq < 64
  | .gradDispatch n sq => n < 8 && sq < 64
  | .gradCombine n sq => n < 8 && sq < 64
  | .verdict n sq => n < 8 && sq < 64
  | .digest n sq => n < 8 && sq < 64
  | .collStartInstant n coll => n < 8 && coll < 65536
  | .stageReserve n coll => n < 8 && coll < 65536
  | .verdictTerm n fromDie => n < 8 && fromDie < 8
  | .verdictResult n => n < 8
  | .drlCount n _ h => n < 8 && atHdrWf h
  | .drlAllow n _ h => n < 8 && atHdrWf h
  | .drlRow n _ h => n < 8 && atHdrWf h
  | .drlPart n _ h => n < 8 && atHdrWf h
  | .drlData n _ h => n < 8 && atHdrWf h
  | .drlResult n _ h => n < 8 && atHdrWf h
  | .drlEnd n _ h => n < 8 && atHdrWf h
  | .drlAbort n _ h => n < 8 && atHdrWf h
  | .drlTimeout n coll => n < 8 && coll < 65536
  | .imsicMsi pa size _ => pa < 2 ^ 52 && size = 4
  | .peerRequest m rid addr _ op => m < 2 && rid < 65536 && addr < 2 ^ 64 && op.wf
  | .iommuDtInval role m _ => role.wf && m < 2
  | .iommuDtInvalDone m => m < 2
  | .pcieRecoveryEnter r l => r < 8 && l < 4
  | .pcieRecoveryExit r l => r < 8 && l < 4
  | .pcieLinkDown r l => r < 8 && l < 4
  | .pcieLinkUp r l speed width _ _ => r < 8 && l < 4 && speed < 8 && width < 32
  | .attest i seq nonce scope _ => i < 23 && seq < 2 ^ 32 && nonce < 2 ^ 256 && scope < 256
  | .partCreate i seq p mask _ _ _ _ => i < 23 && seq < 2 ^ 32 && isPart p && mask < 256
  | .partTeardown i seq p => i < 23 && seq < 2 ^ 32 && isPart p
  | .bindHart i seq p m _ va len => i < 23 && seq < 2 ^ 32 && isPart p && m < 2 && va < 2 ^ 64 && len < 2 ^ 64
  | .grant i seq p base size => i < 23 && seq < 2 ^ 32 && isPart p && base < 2 ^ 64 && size < 2 ^ 64
  | .keyRotate i seq p => i < 23 && seq < 2 ^ 32 && isPart p
  | .rekeyStart i seq p _ unit ctx desc => i < 23 && seq < 2 ^ 32 && isPart p && unit < 16 && ctx < 64 && desc < 2 ^ 64
  | .keyRelease i seq p _ _ _ _ _ => i < 23 && seq < 2 ^ 32 && isPart p
  | .huskLoad i seq p _ ctx _ _ => i < 23 && seq < 2 ^ 32 && isPart p && ctx < 64
  | .tdispAdmit i seq p rid _ _ _ => i < 23 && seq < 2 ^ 32 && isPart p && rid < 65536
  | .tdispStart i seq p rid => i < 23 && seq < 2 ^ 32 && isPart p && rid < 65536
  | .fwStage i seq cls dieMask _ => i < 23 && seq < 2 ^ 32 && cls < 256 && dieMask < 1024
  | .fwActivate i seq node => i < 23 && seq < 2 ^ 32 && node < 10
  | .provision i seq kind idx _ => i < 23 && seq < 2 ^ 32 && kind < 256 && idx < 256
  | .configWrite i seq p addr _ width => i < 23 && seq < 2 ^ 32 && isPart p && addr < 2 ^ 64 && (width = 4 || width = 8)
  | .zeroise i seq => i < 23 && seq < 2 ^ 32
  | .debugUnlock i seq _ => i < 23 && seq < 2 ^ 32
  | .unknownMboxCommand i seq cmd => i < 23 && seq < 2 ^ 32 && cmd < 256
  | .mboxResponse i => i < 23
  | .selfTestPeriodic _ => true
  | .crCellRx node k _ _ => node ≤ 10 && k < 4
  | .crLinkRekey node k => node < 10 && k < 4
  | .faultEvent node b src _ => node < 10 && b < 256 && src < 32
  | .fltForce role node b _ => role.wf && node < 10 && b < 256
  | .fltIsolate role node b => role.wf && node < 10 && b < 256
  | .fltRestore role node b _ => role.wf && node < 10 && b < 256
  | .fltReset role node b _ => role.wf && node < 10 && b < 256
  | .quietPeriodEnd node b _ => node < 10 && b < 256
  | .fltRecoveryClear role node b _ => role.wf && node < 10 && b < 256
  | .recentWindowExpiry node b => node < 10 && b < 256
  | .fltNvSave => true
  | .patrolScrub pa _ pch bank row => pa < 2 ^ 52 && pch < 64 && bank < 256 && row < 2 ^ 32
  | .rowRepair role c _ => role.wf && c.wf
  | .rowRepairDone c => c.wf
  | .powerfailAssert => true
  | .sagSaveDone => true
  | .powerfailRelease => true
  | .read h index sub off len => h.wf && index < 65536 && sub < 256 && off < 2 ^ 32 && len < 2 ^ 32
  | .write h index sub _ _ off _ => h.wf && index < 65536 && sub < 256 && off < 2 ^ 32
  | .describe h index sub => h.wf && index < 65536 && sub < 256
  | .next h index sub => h.wf && index < 65536 && sub < 256
  | .heartbeat h => h.wf
  | .mboxSubmit h _ off _ => h.wf && off < 2 ^ 32
  | .mboxFetch h off len => h.wf && off < 2 ^ 32 && len < 2 ^ 32
  | .subscribe h _ => h.wf
  | .badMessage h => h.wf
  | .dtlsHandshake _ _ _ => true
  | .sessionIdleTimeout session => session < 4
  | .i3cPrivateWrite _ _ => true
  | .i3cPrivateRead => true
  | .entdaa addr => addr < 128
  | .setdasa static addr => static < 128 && addr < 128
  | .setnewda addr => addr < 128
  | .rstdaa => true
  | .enec events => events < 256
  | .disec events => events < 256
  | .getpid => true
  | .getbcr => true
  | .getdcr => true
  | .getstatus => true
  | .getmwl => true
  | .getmrl => true
  | .setmwl n => n < 65536
  | .setmrl n => n < 65536
  | .rstact action => action < 256
  | .odcGo hart c => hart < 128 && c < 23
  | .mgmtWatchdog => true
  | .powerSample _ _ _ => true
  | .tempSample s _ => s < 53
  | .gearRequest role gear => role.wf && gear < 16
  | .ivrTrip node => node < 10
  | .mainInputLoss => true
  | .mainInputRestore => true
  | .refclkLoss c => c.wf
  | .refclkReturn c _ => c.wf
  | .resetNAssert => true
  | .packageReset => true
  | .startupStepDone _ _ => true
  | .regWrite role pa width _ node => role.wf && node < 10 && pa < 2 ^ 52 && (width = 4 || width = 8)
  | .islandSleep u => u.wf
  | .coreBootDone => true
  | .windowAccess agent pa _ len data => isAgent agent && pa < 2 ^ 52 && len ≤ 64 && data.length ≤ 64
  | .acornLinkDown => true
  | .acornLinkRestore => true
  | .saveDeadline => true
  | .auxInputLoss => true
  | .auxInputApply => true
  | .nvCommitDone _ => true
  | .tdispLeaveRun rid => rid < 65536

end Sys2Proof
end

