-- ==== Sys2Proof/Decode.lean ====
section
/-! DEFINITION. The words of commands. The opcode table gives no row of this block any bits: a command comes from
outside as itself, so no word spells one. Tile instructions and update-program instructions do have words of their own
(R150 to R154, R264, R265): those words and the commands they are, both ways. -/

namespace Sys2Proof

open Machine

/-- The command a word of the table's bits spells: the table gives no row bits. -/
def decodeTableWord (_nbits _w : Nat) : Option Instr := none

/-! ### Tile instruction words (R150) -/

def decFmtV (w : Nat) : FmtV :=
  { pred := bitsN w 10 8, pneg := bitN w 11, vd := bitsN w 17 12, va := bitsN w 23 18, vb := bitsN w 29 24, vc := bitsN w 35 30
    ts := bitsN w 39 36, td := bitsN w 43 40, rm := bitsN w 46 44, sat := bitN w 47, pd := bitsN w 50 48, slot := bitsN w 54 51
    negA := bitN w 55, negB := bitN w 56, absA := bitN w 57 }
def decFmtI (w : Nat) : FmtI :=
  { pred := bitsN w 10 8, pneg := bitN w 11, vd := bitsN w 17 12, va := bitsN w 23 18, pd := bitsN w 26 24, imm := bitsN w 63 32 }
def decFmtB (w : Nat) : FmtB :=
  { pred := bitsN w 10 8, pneg := bitN w 11, rpcOff := sgnN 20 (bitsN w 31 12), tgtOff := sgnN 32 (bitsN w 63 32) }
def decFmtM (w : Nat) : FmtM :=
  { pred := bitsN w 10 8, pneg := bitN w 11, vd := bitsN w 17 12, va := bitsN w 23 18, vb := bitsN w 29 24, space := bitsN w 31 30
    size := bitsN w 34 32, order := bitsN w 36 35, scope := bitsN w 38 37, aop := bitsN w 42 39, far := bitN w 43
    offset := sgnN 20 (bitsN w 63 44) }
def decFmtT (w : Nat) : FmtT :=
  { pred := bitsN w 10 8, pneg := bitN w 11, va := bitsN w 17 12, vb := bitsN w 23 18, f1 := bitsN w 27 24, f2 := bitsN w 31 28
    axis := bitN w 32, src := bitsN w 34 33, bsc := bitN w 35, zero := bitN w 36, rm := bitsN w 39 37, sat := bitN w 40
    slot := bitsN w 44 41, mMinus1 := bitsN w 53 45, accRow := bitsN w 62 54, scl := bitN w 63 }

/-- Fields of (width, value), from bit 0 up. -/
def packW : List (Nat × Nat) → Nat
  | [] => 0
  | (n, v) :: r => v % 2 ^ n + 2 ^ n * packW r

def encFmtV (op : Nat) (w : FmtV) : Nat :=
  packW [(8, op), (3, w.pred), (1, bN w.pneg), (6, w.vd), (6, w.va), (6, w.vb), (6, w.vc), (4, w.ts), (4, w.td), (3, w.rm),
    (1, bN w.sat), (3, w.pd), (4, w.slot), (1, bN w.negA), (1, bN w.negB), (1, bN w.absA)]
def encFmtI (op : Nat) (w : FmtI) : Nat :=
  packW [(8, op), (3, w.pred), (1, bN w.pneg), (6, w.vd), (6, w.va), (3, w.pd), (5, 0), (32, w.imm)]
def encFmtB (op : Nat) (w : FmtB) : Nat :=
  packW [(8, op), (3, w.pred), (1, bN w.pneg), (20, uN 20 w.rpcOff), (32, uN 32 w.tgtOff)]
def encFmtM (op : Nat) (w : FmtM) : Nat :=
  packW [(8, op), (3, w.pred), (1, bN w.pneg), (6, w.vd), (6, w.va), (6, w.vb), (2, w.space), (3, w.size), (2, w.order),
    (2, w.scope), (4, w.aop), (1, bN w.far), (20, uN 20 w.offset)]
def encFmtT (op : Nat) (w : FmtT) : Nat :=
  packW [(8, op), (3, w.pred), (1, bN w.pneg), (6, w.va), (6, w.vb), (4, w.f1), (4, w.f2), (1, bN w.axis), (2, w.src),
    (1, bN w.bsc), (1, bN w.zero), (3, w.rm), (1, bN w.sat), (4, w.slot), (9, w.mMinus1), (9, w.accRow), (1, bN w.scl)]

/-- The command that a word is when group g of tile t issues it (R153, R154). -/
def decodeTile (t g w : Nat) : Instr :=
  match w % 256 with
  | 0x00 => .nop t g (decFmtI w)
  | 0x01 => .bra t g (decFmtB w)
  | 0x02 => .exit t g (decFmtI w)
  | 0x03 => .s2r t g (decFmtI w)
  | 0x04 => .flgclr t g (decFmtI w)
  | 0x05 => .vote t g (decFmtV w)
  | 0x10 => .fadd t g (decFmtV w)
  | 0x11 => .fsub t g (decFmtV w)
  | 0x12 => .fmul t g (decFmtV w)
  | 0x13 => .ffma t g (decFmtV w)
  | 0x14 => .fmin t g (decFmtV w)
  | 0x15 => .fmax t g (decFmtV w)
  | 0x16 => .fcmp t g (decFmtV w)
  | 0x17 => .fdiv t g (decFmtV w)
  | 0x18 => .fsqrt t g (decFmtV w)
  | 0x19 => .frcp t g (decFmtV w)
  | 0x1A => .frsq t g (decFmtV w)
  | 0x1B => .fexp2 t g (decFmtV w)
  | 0x1C => .flog2 t g (decFmtV w)
  | 0x1D => .ftanh t g (decFmtV w)
  | 0x20 => .iadd t g (decFmtV w)
  | 0x21 => .isub t g (decFmtV w)
  | 0x22 => .imul t g (decFmtV w)
  | 0x23 => .imad t g (decFmtV w)
  | 0x24 => .and t g (decFmtV w)
  | 0x25 => .or t g (decFmtV w)
  | 0x26 => .xor t g (decFmtV w)
  | 0x27 => .shl t g (decFmtV w)
  | 0x28 => .shr t g (decFmtV w)
  | 0x29 => .sar t g (decFmtV w)
  | 0x2A => .imin t g (decFmtV w)
  | 0x2B => .imax t g (decFmtV w)
  | 0x2C => .icmp t g (decFmtV w)
  | 0x2D => .sel t g (decFmtV w)
  | 0x2E => .movi t g (decFmtI w)
  | 0x2F => .shfl t g (decFmtV w)
  | 0x30 => .cvt t g (decFmtV w)
  | 0x31 => .cvts t g (decFmtV w)
  | 0x32 => .xlut t g (decFmtV w)
  | 0x33 => .xszp t g (decFmtV w)
  | 0x40 => .ld t g (decFmtM w)
  | 0x41 => .st t g (decFmtM w)
  | 0x42 => .atom t g (decFmtM w)
  | 0x43 => .watch t g (decFmtM w)
  | 0x60 => .dma t g (decFmtT w)
  | 0x70 => .mload t g (decFmtT w)
  | 0x71 => .mswap t g (decFmtT w)
  | 0x72 => .mstream t g (decFmtT w)
  | 0x73 => .mdrain t g (decFmtT w)
  | 0x74 => .mzero t g (decFmtT w)
  | 0x80 => .sbind t g (decFmtV w)
  | 0x81 => .sget t g (decFmtV w)
  | 0x82 => .amax t g (decFmtV w)
  | 0x83 => .bscale t g (decFmtV w)
  | 0x90 => .rand t g (decFmtV w)
  | 0x91 => .srctx t g (decFmtV w)
  | 0xA0 => .ppush t g (decFmtT w)
  | 0xA1 => .ppop t g (decFmtT w)
  | 0xB0 => .fence t g (decFmtM w)
  | 0xB1 => .bar t g (decFmtI w)
  | 0xB2 => .waitq t g (decFmtI w)
  | 0xB3 => .wwait t g (decFmtI w)
  | op => .reservedOpcode t g op (decFmtI w)

/-- The tile, the group and the word of a tile instruction. -/
def encodeTile : Instr → Option (Nat × Nat × Nat)
  | .nop t g w => some (t, g, encFmtI 0x00 w)
  | .bra t g w => some (t, g, encFmtB 0x01 w)
  | .exit t g w => some (t, g, encFmtI 0x02 w)
  | .s2r t g w => some (t, g, encFmtI 0x03 w)
  | .flgclr t g w => some (t, g, encFmtI 0x04 w)
  | .vote t g w => some (t, g, encFmtV 0x05 w)
  | .fadd t g w => some (t, g, encFmtV 0x10 w)
  | .fsub t g w => some (t, g, encFmtV 0x11 w)
  | .fmul t g w => some (t, g, encFmtV 0x12 w)
  | .ffma t g w => some (t, g, encFmtV 0x13 w)
  | .fmin t g w => some (t, g, encFmtV 0x14 w)
  | .fmax t g w => some (t, g, encFmtV 0x15 w)
  | .fcmp t g w => some (t, g, encFmtV 0x16 w)
  | .fdiv t g w => some (t, g, encFmtV 0x17 w)
  | .fsqrt t g w => some (t, g, encFmtV 0x18 w)
  | .frcp t g w => some (t, g, encFmtV 0x19 w)
  | .frsq t g w => some (t, g, encFmtV 0x1A w)
  | .fexp2 t g w => some (t, g, encFmtV 0x1B w)
  | .flog2 t g w => some (t, g, encFmtV 0x1C w)
  | .ftanh t g w => some (t, g, encFmtV 0x1D w)
  | .iadd t g w => some (t, g, encFmtV 0x20 w)
  | .isub t g w => some (t, g, encFmtV 0x21 w)
  | .imul t g w => some (t, g, encFmtV 0x22 w)
  | .imad t g w => some (t, g, encFmtV 0x23 w)
  | .and t g w => some (t, g, encFmtV 0x24 w)
  | .or t g w => some (t, g, encFmtV 0x25 w)
  | .xor t g w => some (t, g, encFmtV 0x26 w)
  | .shl t g w => some (t, g, encFmtV 0x27 w)
  | .shr t g w => some (t, g, encFmtV 0x28 w)
  | .sar t g w => some (t, g, encFmtV 0x29 w)
  | .imin t g w => some (t, g, encFmtV 0x2A w)
  | .imax t g w => some (t, g, encFmtV 0x2B w)
  | .icmp t g w => some (t, g, encFmtV 0x2C w)
  | .sel t g w => some (t, g, encFmtV 0x2D w)
  | .movi t g w => some (t, g, encFmtI 0x2E w)
  | .shfl t g w => some (t, g, encFmtV 0x2F w)
  | .cvt t g w => some (t, g, encFmtV 0x30 w)
  | .cvts t g w => some (t, g, encFmtV 0x31 w)
  | .xlut t g w => some (t, g, encFmtV 0x32 w)
  | .xszp t g w => some (t, g, encFmtV 0x33 w)
  | .ld t g w => some (t, g, encFmtM 0x40 w)
  | .st t g w => some (t, g, encFmtM 0x41 w)
  | .atom t g w => some (t, g, encFmtM 0x42 w)
  | .watch t g w => some (t, g, encFmtM 0x43 w)
  | .dma t g w => some (t, g, encFmtT 0x60 w)
  | .mload t g w => some (t, g, encFmtT 0x70 w)
  | .mswap t g w => some (t, g, encFmtT 0x71 w)
  | .mstream t g w => some (t, g, encFmtT 0x72 w)
  | .mdrain t g w => some (t, g, encFmtT 0x73 w)
  | .mzero t g w => some (t, g, encFmtT 0x74 w)
  | .sbind t g w => some (t, g, encFmtV 0x80 w)
  | .sget t g w => some (t, g, encFmtV 0x81 w)
  | .amax t g w => some (t, g, encFmtV 0x82 w)
  | .bscale t g w => some (t, g, encFmtV 0x83 w)
  | .rand t g w => some (t, g, encFmtV 0x90 w)
  | .srctx t g w => some (t, g, encFmtV 0x91 w)
  | .ppush t g w => some (t, g, encFmtT 0xA0 w)
  | .ppop t g w => some (t, g, encFmtT 0xA1 w)
  | .fence t g w => some (t, g, encFmtM 0xB0 w)
  | .bar t g w => some (t, g, encFmtI 0xB1 w)
  | .waitq t g w => some (t, g, encFmtI 0xB2 w)
  | .wwait t g w => some (t, g, encFmtI 0xB3 w)
  | .reservedOpcode t g op w => some (t, g, encFmtI op w)
  | _ => none

/-! ### Update-program words (R264, R265) -/

def encNme (op : Nat) (a : NmeArgs) : Nat := packW [(6, op), (4, a.rd), (5, a.sa), (5, a.sb), (5, a.sc)]

/-- The command that a word is when NME s runs it: unlisted opcodes act as NOP. -/
def decodeNme (s w : Nat) : Instr :=
  match w % 64 with
  | 0x01 => .nmeEnd s
  | 0x02 => .nmeMov s (nmeArgs w).2
  | 0x03 => .nmeAdd s (nmeArgs w).2
  | 0x04 => .nmeSub s (nmeArgs w).2
  | 0x05 => .nmeMul s (nmeArgs w).2
  | 0x06 => .nmeFma s (nmeArgs w).2
  | 0x07 => .nmeFnma s (nmeArgs w).2
  | 0x08 => .nmeDiv s (nmeArgs w).2
  | 0x09 => .nmeSqrt s (nmeArgs w).2
  | 0x0A => .nmeRsq s (nmeArgs w).2
  | 0x0B => .nmeExp2 s (nmeArgs w).2
  | 0x0C => .nmeLog2 s (nmeArgs w).2
  | 0x0D => .nmeMin s (nmeArgs w).2
  | 0x0E => .nmeMax s (nmeArgs w).2
  | 0x0F => .nmeAbs s (nmeArgs w).2
  | 0x10 => .nmeNeg s (nmeArgs w).2
  | 0x11 => .nmeSign s (nmeArgs w).2
  | 0x12 => .nmeClamp s (nmeArgs w).2
  | 0x13 => .nmeSelge s (nmeArgs w).2
  | op => .nmeNop s op

/-- The NME and the word of an update-program instruction. -/
def encodeNme : Instr → Option (Nat × Nat)
  | .nmeEnd s => some (s, encNme 0x01 {})
  | .nmeMov s a => some (s, encNme 0x02 a)
  | .nmeAdd s a => some (s, encNme 0x03 a)
  | .nmeSub s a => some (s, encNme 0x04 a)
  | .nmeMul s a => some (s, encNme 0x05 a)
  | .nmeFma s a => some (s, encNme 0x06 a)
  | .nmeFnma s a => some (s, encNme 0x07 a)
  | .nmeDiv s a => some (s, encNme 0x08 a)
  | .nmeSqrt s a => some (s, encNme 0x09 a)
  | .nmeRsq s a => some (s, encNme 0x0A a)
  | .nmeExp2 s a => some (s, encNme 0x0B a)
  | .nmeLog2 s a => some (s, encNme 0x0C a)
  | .nmeMin s a => some (s, encNme 0x0D a)
  | .nmeMax s a => some (s, encNme 0x0E a)
  | .nmeAbs s a => some (s, encNme 0x0F a)
  | .nmeNeg s a => some (s, encNme 0x10 a)
  | .nmeSign s a => some (s, encNme 0x11 a)
  | .nmeClamp s a => some (s, encNme 0x12 a)
  | .nmeSelge s a => some (s, encNme 0x13 a)
  | .nmeNop s op => some (s, encNme op {})
  | _ => none

end Sys2Proof
end

