-- ==== Sys2Proof/Machine/Frames.lean ====
section
/-! DEFINITION. Ethernet frames as bytes: what a port reads of a frame (R321, R324, R325), the fields it rewrites, the frame of an Aedian
Transport packet (R334), and the MACsec protection of a sent frame (R326). A frame's bytes run from the destination address to the end of its
payload; SecTAG, ICV and FCS are not among them. -/

namespace Sys2Proof
open Sys2Proof.Machine

/-! ### Reading -/

def Frame.be (f : Frame) (o n : Nat) : Nat := beVal (sliceB f.bytes o n)
def Frame.dstMac (f : Frame) : Nat := f.be 0 6
/-- It carries an IEEE 802.1Q tag. -/
def Frame.tagged (f : Frame) : Bool := f.be 12 2 = 0x8100
/-- Where its Ethertype stands, and the byte after it. -/
def Frame.typeAt (f : Frame) : Nat := if f.tagged then 16 else 12
def Frame.l3 (f : Frame) : Nat := f.typeAt + 2
def Frame.ethertype (f : Frame) : Nat := f.be f.typeAt 2
def Frame.ipv4 (f : Frame) : Bool := f.ethertype = 0x0800
def Frame.ipv6 (f : Frame) : Bool := f.ethertype = 0x86DD
def Frame.isIp (f : Frame) : Bool := f.ipv4 || f.ipv6
def Frame.pcp (f : Frame) : Option Nat := if f.tagged then some (f.be 14 2 / 2 ^ 13) else none
/-- The DSCP and ECN byte of its IP header. -/
def Frame.tos (f : Frame) : Nat := if f.ipv4 then f.be (f.l3 + 1) 1 else if f.ipv6 then f.be f.l3 2 / 16 % 256 else 0
def Frame.dscp (f : Frame) : Nat := f.tos / 4
def Frame.ecn (f : Frame) : Nat := f.tos % 4
/-- An IPv4 address is read as an IPv4-mapped one (R320). -/
def Frame.srcIp (f : Frame) : Nat := if f.ipv4 then 0xFFFF00000000 + f.be (f.l3 + 12) 4 else f.be (f.l3 + 8) 16
def Frame.dstIp (f : Frame) : Nat := if f.ipv4 then 0xFFFF00000000 + f.be (f.l3 + 16) 4 else f.be (f.l3 + 24) 16
/-- IPv6 extension headers (RFC 8200): where the upper header stands and its protocol. -/
def Frame.upper (f : Frame) : Nat → Nat → Nat → Nat × Nat
  | 0, o, p => (o, p)
  | n + 1, o, p =>
    if p = 0 || p = 43 || p = 60 || p = 135 || p = 139 || p = 140 then Frame.upper f n (o + 8 * (f.be (o + 1) 1 + 1)) (f.be o 1)
    else if p = 44 then Frame.upper f n (o + 8) (f.be o 1)
    else if p = 51 then Frame.upper f n (o + 4 * (f.be (o + 1) 1 + 2)) (f.be o 1)
    else (o, p)
/-- Where its UDP header stands. -/
def Frame.udpAt (f : Frame) : Option Nat :=
  if f.ipv4 then (if f.be (f.l3 + 9) 1 = 17 && f.be (f.l3 + 6) 2 % 0x2000 = 0 then some (f.l3 + 4 * (f.be f.l3 1 % 16)) else none)
  else if f.ipv6 then (let u := f.upper 8 (f.l3 + 40) (f.be (f.l3 + 6) 1); if u.2 = 17 then some u.1 else none)
  else none
def Frame.udpDst (f : Frame) : Option Nat := f.udpAt.map (fun o => f.be (o + 2) 2)
/-- An IPv6 extension header, or an IPv4 option or fragment (R325). -/
def Frame.ipExt (f : Frame) : Bool :=
  if f.ipv4 then f.be f.l3 1 % 16 ≠ 5 || f.be (f.l3 + 6) 2 % 0x4000 ≠ 0
  else f.ipv6 && f.be (f.l3 + 6) 1 ≠ 17

end Sys2Proof

namespace Sys2Proof.Machine

/-! ### Checksums -/

def fold16 (n : Nat) : Nat := n % 65536 + n / 65536
/-- Sum of the 16-bit words of bytes. -/
def sum16 : Bytes → Nat
  | a :: b :: r => a.toNat * 256 + b.toNat + sum16 r
  | [a] => a.toNat * 256
  | [] => 0
/-- The Internet checksum (RFC 1071). -/
def inetSum (bs : Bytes) : Nat := 65535 - fold16 (fold16 (fold16 (sum16 bs)))
/-- An address as it stands in an IP header. -/
def ipBytes (v4 : Bool) (a : Nat) : Bytes := if v4 then beBytes 4 (a % 2 ^ 32) else beBytes 16 a
/-- Pseudo-header of a UDP datagram of n bytes. -/
def udpPseudo (v4 : Bool) (src dst n : Nat) : Bytes := ipBytes v4 src ++ ipBytes v4 dst ++ beBytes 4 n ++ beBytes 4 17
/-- Its UDP checksum is valid (R325). One that is absent counts as not valid (DESIGN CHOICE, log entry 152). -/
def udpValid (f : Frame) : Bool :=
  match f.udpAt with
  | some o =>
    let n := f.be (o + 4) 2
    f.be (o + 6) 2 ≠ 0 && 8 ≤ n && inetSum (udpPseudo f.ipv4 f.srcIp f.dstIp n ++ sliceB f.bytes o n) = 0
  | none => false

/-! ### Rewriting -/

/-- The DSCP and ECN byte rewritten, and the IPv4 header checksum with it (R321, R324). -/
def putTos (f : Frame) (v : Nat) : Frame :=
  let o := f.l3
  if f.ipv4 then
    let b := setSliceB (setSliceB f.bytes (o + 1) (beBytes 1 v)) (o + 10) (beBytes 2 0)
    { f with bytes := setSliceB b (o + 10) (beBytes 2 (inetSum (sliceB b o (4 * (f.be o 1 % 16))))) }
  else if f.ipv6 then { f with bytes := setSliceB f.bytes o (beBytes 2 (f.be o 2 / 4096 * 4096 + v % 256 * 16 + f.be o 2 % 16)) }
  else f
/-- A frame with a tag of a VLAN and class before its Ethertype (R321). -/
def putTag (f : Frame) (vlan cls : Nat) : Frame :=
  { f with bytes := f.bytes.take 12 ++ beBytes 2 0x8100 ++ beBytes 2 (cls % 8 * 2 ^ 13 + vlan % 4096) ++ f.bytes.drop 12 }
/-- A sender's frame as it leaves: tagged where the VLAN id is not zero, and otherwise with its class in DSCP[5:3] and DSCP[2:0] zero; the ECN
field stays the sender's (R321, R324). -/
def dressFrame (f : Frame) (vlan cls : Nat) : Frame :=
  if vlan % 4096 ≠ 0 then putTag f vlan cls else if f.isIp then putTos f (cls % 8 * 32 + f.ecn) else f

/-! ### The frame of an AT packet (R334) -/

/-- The frame that carries an AT packet from a link to an address. The spec names neither the next hop's MAC address nor hop limit, flow label
and IPv4 identification: they are free (log entry 154). IPv4 has DF set; every packet is ECT(0). -/
def atFrame (srcMac src dst udpSrc udpPort vlan cls : Nat) (pkt : Bytes) : Frame :=
  let v4 := decide (dst / 2 ^ 32 = 0xFFFF)
  let open' := fun (i : Nat) => (Config.openResult (0x78 + i) dst).toNat
  let n := 8 + pkt.length
  let udp := fun (c : Nat) => beBytes 2 udpSrc ++ beBytes 2 udpPort ++ beBytes 2 n ++ beBytes 2 c ++ pkt
  let sum := inetSum (udpPseudo v4 src dst n ++ udp 0)
  let dg := udp (if sum = 0 then 0xFFFF else sum)
  let tos := (if vlan = 0 then cls % 8 * 32 else 0) + 2
  let ip := if v4 then
      let h := fun (c : Nat) => beBytes 1 0x45 ++ beBytes 1 tos ++ beBytes 2 (20 + n) ++ beBytes 2 (open' 0 % 65536) ++ beBytes 2 0x4000 ++
        beBytes 1 (open' 1 % 256) ++ beBytes 1 17 ++ beBytes 2 c ++ ipBytes true src ++ ipBytes true dst
      h (inetSum (h 0)) ++ dg
    else beBytes 4 (6 * 2 ^ 28 + tos * 2 ^ 20 + open' 0 % 2 ^ 20) ++ beBytes 2 n ++ beBytes 1 17 ++ beBytes 1 (open' 1 % 256) ++
      ipBytes false src ++ ipBytes false dst ++ dg
  let f : Frame := { bytes := beBytes 6 (open' 2 + 2 ^ 32 * (open' 3 % 65536)) ++ beBytes 6 srcMac ++ beBytes 2 (if v4 then 0x0800 else 0x86DD) ++ ip }
  if vlan = 0 then f else putTag f vlan cls
/-- The AT packet a frame carries. -/
def atPacket (f : Frame) : Bytes := match f.udpAt with | some o => sliceB f.bytes (o + 8) (f.be (o + 4) 2 - 8) | none => []
/-- Type of an AT packet, and the kind of message that a packet of types 5 and 6 carries (R285, R335, R373). -/
def atType (p : Bytes) : Nat := beVal (sliceB p 0 1) % 16
def atKind (p : Bytes) : Nat := beVal (sliceB p (if atType p = 5 then 18 else 16) 1)
/-- A packet of a reserved type, or a message of a reserved kind: one that no command of AT stands for. -/
def atReserved (f : Frame) : Bool :=
  let p := atPacket f
  atType p ≥ 13 || (atType p = 5 && atKind p > 7) || (atType p = 6 && atKind p > 3)

/-! ### MACsec (R320, R326) -/

/-- Bytes of a frame from the destination address through the FCS; all but EAPOL and PFC frames carry SecTAG and ICV (R320). -/
def macLen (f : Frame) : Nat := f.bytes.length + 4 + (if f.ethertype = 0x888E || f.ethertype = 0x8808 then 0 else 32)
def macMax : Nat := 9216
/-- SCI: the link's MAC address, then port identifier 1. -/
def sciOf (mac : Nat) : Bytes := beBytes 6 mac ++ beBytes 2 1
/-- A protected frame on the wire, before its FCS: addresses and tag, SecTAG with SCI, encrypted bytes and ICV. The key, salt and SSCI of a SAK
are what MKA agreed: free values of the link and the SAK's number on it. The 802.1Q tag stands before the SecTAG (R334), outside the
protection (DESIGN CHOICE, log entry 150). -/
def macsecWire (k sak mac an pn : Nat) (f : Frame) : Bytes :=
  let o := f.typeAt
  let id := leBytes 8 k ++ leBytes 8 sak
  let iv := beVal (sliceB (Config.kdf 0x88E6 id) 0 4) * 2 ^ 64 + pn
  let salt := beVal (sliceB (Config.kdf 0x88E7 id) 0 12)
  let data := f.bytes.drop o
  let tag := beBytes 2 0x88E5 ++ beBytes 1 (0x2C + an % 4) ++ beBytes 1 (if data.length < 48 then data.length else 0) ++ beBytes 4 (pn % 2 ^ 32) ++ sciOf mac
  let c := Config.aeadSeal (Config.kdf 0x88E5 id) (beBytes 12 (Nat.xor salt iv)) (f.bytes.take 12 ++ tag) data
  f.bytes.take o ++ tag ++ c.1 ++ c.2

end Sys2Proof.Machine
end

