-- ==== Sys2Proof/Machine/Ports.lean ====
section
/-! DEFINITION. Ethernet ports (R318 to R333): links, receive steering, priority flow control, MACsec associations, PTP
timestamps, retraining, and the virtual network functions of the H-dies. -/

namespace Sys2Proof.Machine

def portDie (p : Nat) : Nat := p / 3
def portBlk (p : Nat) : Nat := 12 + p % 3
def linkNo (p l : Nat) : Nat := 8 * p + l % 8
def State.link (s : State) (k : Nat) : Link := s.eth.links.atD k {}
def State.setLink (s : State) (k : Nat) (f : Link → Link) : State :=
  { s with eth := { s.eth with links := s.eth.links.put k (f (s.link k)) } }
/-- Links of a mode (R318). -/
def linksOf (mode : Nat) : Nat := 2 ^ (mode % 4)
def linkThere (s : State) (p l : Nat) : Bool := p < 24 && l < linksOf (s.gf F.PORT_CTRL_mode p)
def linkUp (s : State) (p l : Nat) : Bool := bitN (s.gf F.PORT_STATUS_link_up p) l
def linkSecure (s : State) (p l : Nat) : Bool := bitN (s.gf F.PORT_STATUS_secure p) l
def State.setPortBit (s : State) (f : Fld) (p l : Nat) (b : Bool) : State := s.pf f p (setBitsN (s.gf f p) l l (bN b))
def portIn (s : State) (p : Nat) : Bool := p < 24 && s.blkIn (portDie p) (portBlk p)
/-- MAC rate of a link in Mb/s (R318). -/
def linkMbps (s : State) (p : Nat) : Nat := 1600000 / linksOf (s.gf F.PORT_CTRL_mode p)
def isEapol (f : Frame) : Bool := f.ethertype = 0x888E
/-- A priority flow control frame: a MAC control frame with opcode 0x0101 (IEEE 802.1Qbb). -/
def isPfcFrame (f : Frame) : Bool := f.ethertype = 0x8808 && f.be f.l3 2 = 0x0101
def isPtp (f : Frame) : Bool := f.ethertype = 0x88F7 || f.udpDst = some 319 || f.udpDst = some 320
/-- An event message: message types 0 to 3 on Layer 2, port 319 over UDP (IEEE 1588-2019). -/
def isPtpEvent (f : Frame) : Bool := (f.ethertype = 0x88F7 && f.be f.l3 1 % 16 < 4) || f.udpDst = some 319
/-- Traffic class of a received frame (R321). -/
def classOf (f : Frame) : Nat := match f.pcp with | some c => c % 8 | none => if f.isIp then f.dscp / 8 % 8 else 0
/-- MAC and IP address of a link (R320). -/
def linkMac (s : State) (k : Nat) : Nat :=
  let base := match s.od.vals.at? (odKey 0x7001 1) with | some b => beVal b | none => beVal (Config.factory 0x7001 1)
  (base + k) % 2 ^ 48
/-- The management port's MAC: the base MAC plus 192 (R473). -/
def mgmtMac (s : State) : Nat := linkMac s 192
/-- Its EUI-64 link-local address. -/
def mgmtLinkLocal (s : State) : Nat :=
  let m := mgmtMac s
  0xFE80 * 2 ^ 112 + (Nat.xor (m / 2 ^ 24) 0x020000 * 2 ^ 16 + 0xFFFE) * 2 ^ 24 + m % 2 ^ 24
/-- The addresses it holds: the link-local one, and the static one where it is not all zero. -/
def mgmtAddrs (s : State) : List Nat := mgmtLinkLocal s :: (if s.bmp.net.addr = 0 then [] else [s.bmp.net.addr])
/-- An address entry of the dictionary, all zero by default. -/
def State.odAddr (s : State) (index sub : Nat) : Nat := match s.od.vals.at? (odKey index sub) with | some b => beVal b | none => 0
/-- The management controller starts its network stack and PTP: their entries take effect (R329, R473). -/
def State.netStart (s : State) : State :=
  let net : NetCfg := { addr := s.odAddr 0x7400 1, prefixLen := s.odN 0x7400 2, gateway := s.odAddr 0x7400 3, udpPort := s.odN 0x7400 4 }
  { s with bmp := { s.bmp with net := net }, eth := { s.eth with ptpSlave := s.odN 0x7200 2 } }
def linkIp (s : State) (k : Nat) : Nat := match s.od.vals.at? (odKey 0x7100 (k + 1)) with | some b => beVal b | none => 0

/-- A timestamp of an event message: the replica's time, within its bound (R328). -/
def State.ptpStamp (s : State) (p : Nat) : (Nat × Nat) × State :=
  let (a, s) := s.free
  let (b, s) := s.free
  ((s.dieTime (portDie p) + a.toNat % 5 - 2, b.toNat % 65536), s)

/-! ### Transmission (R321, R326, R327) -/

def exhausted : Nat := 2 ^ 64 - 1
/-- The head of the queue of its class may leave. -/
def maySend (s : State) (p l : Nat) (e : Nat × Frame) : Bool :=
  let x := s.link (linkNo p l)
  portIn s p && linkUp s p l && !s.gb F.PORT_STATUS_retraining p && !x.paused.contains e.1 &&
  (isEapol e.2 || (linkSecure s p l && (match x.tx with | some (_, pn) => pn < exhausted | none => false)))

/-- Sends one frame: MACsec protection and packet number, counters, timestamp. -/
def State.sendOne (s : State) (p l cls : Nat) (f : Frame) : State :=
  let k := linkNo p l
  let x := s.link k
  let s := s.bump64 .LINK_TX_FRAMES k
  let (wire, f, s) : Bytes × Frame × State :=
    if isEapol f then (f.bytes, f, s)
    else
      match x.tx with
      | none => (f.bytes, f, s)
      | some (an, pn) =>
        let ask := pn + 1 ≥ 0xC000000000000000 && !x.asked
        let s := s.setLink k (fun x => { x with tx := some (an, pn + 1), asked := x.asked || ask })
        (macsecWire k (x.sak.atD an 0) (linkMac s k) an pn f, { f with an := an, pn := pn }, s.when ask (fun s => s.bump .LINK_MACSEC_REKEY k))
  let s := if !isPtpEvent f then s
    else
      let (t, s) := s.ptpStamp p
      let q := s.eth.ptpQ.atD p []
      if q.length ≥ 64 then s.bump .LINK_PTP_TS_LOST k
      else { s with eth := { s.eth with ptpQ := s.eth.ptpQ.put p (q ++ [(l, t.1, t.2)]) } }
  s.emit (.frame p l cls f wire)

/-- Sends what may leave, in order within each class. -/
def State.drainQ : Nat → State → Nat → Nat → List (Nat × Frame) → List (Nat × Frame) → State
  | 0, s, p, l, q, keep => s.setLink (linkNo p l) (fun x => { x with txQ := keep.reverse ++ q })
  | _, s, p, l, [], keep => s.setLink (linkNo p l) (fun x => { x with txQ := keep.reverse })
  | n + 1, s, p, l, e :: q, keep =>
    if maySend s p l e && !keep.any (·.1 = e.1) then State.drainQ n (s.sendOne p l e.1 e.2) p l q keep
    else State.drainQ n s p l q (e :: keep)
def State.drainLink (s : State) (p l : Nat) : State :=
  let q := (s.link (linkNo p l)).txQ
  State.drainQ (q.length + 1) s p l q []
/-- Queues a frame within the frame limit (R320). -/
def State.sendFrame (s : State) (p l cls : Nat) (f : Frame) : State :=
  if macLen f > macMax then s else
  (s.setLink (linkNo p l) (fun x => { x with txQ := x.txQ ++ [(cls % 8, f)] })).drainLink p l

def execFrameTx (p l cls : Nat) (f : Frame) (s : State) : Res :=
  .next (if linkThere s p l then s.sendFrame p l cls f else s)

/-! ### Flow control (R322, R323) -/

def occupancy (s : State) (k c : Nat) : Nat := (((s.link k).buf.filter (·.1 = c)).map (fun e => e.2.bytes.length)).sum
def portOccupancy (s : State) (p : Nat) : Nat :=
  ((List.range 8).map (fun l => ((s.link (linkNo p l)).buf.map (fun e => e.2.bytes.length)).sum)).sum
def State.sendPfc (s : State) (p l c quanta : Nat) : State :=
  let s := s.emit (.pfc p l (2 ^ c) ((List.range 8).map (fun i => if i = c then quanta else 0)))
  s.when (quanta ≠ 0) (fun s => s.bump .LINK_PFC_XOFF_TX (linkNo p l))
/-- Pauses a class that has reached xoff, and releases one that has fallen to xon. -/
def State.pfcCheck (s : State) (p l c : Nat) : State :=
  let k := linkNo p l
  let o := occupancy s k c
  let x := s.link k
  if x.xoff.contains c then
    (if o ≤ 1024 * s.gf F.PORT_CLASS_xon_kib (p * 8 + c) then
      (s.setLink k (fun x => { x with xoff := x.xoff.filter (· != c) })).sendPfc p l c 0 else s)
  else if bitN (s.gf F.PORT_CTRL_pfc_en p) c && o ≥ 1024 * s.gf F.PORT_CLASS_xoff_kib (p * 8 + c) then
    (s.setLink k (fun x => { x with xoff := c :: x.xoff })).sendPfc p l c 0xFFFF
  else s

def execPfcRepeat (p l c : Nat) (s : State) : Res :=
  let k := linkNo p l
  .next (if p < 24 && l < 8 && (s.link k).xoff.contains c && occupancy s k c > 1024 * s.gf F.PORT_CLASS_xon_kib (p * 8 + c)
    then s.sendPfc p l c 0xFFFF else s)

/-- A received PFC frame: classes of the mask pause for their quanta, 0 ends the pause. -/
def execPfcRx (p l mask : Nat) (quanta : List Nat) (s : State) : Res :=
  if !linkThere s p l || !portIn s p || !linkUp s p l then .next s
  else
    let k := linkNo p l
    let cs := (List.range 8).filter (fun c => bitN mask c && !(s.link k).deaf.contains c)
    let on := cs.filter (fun c => quanta.getD c 0 ≠ 0)
    let off := cs.filter (fun c => quanta.getD c 0 = 0)
    let s := s.when (on ≠ []) (fun s => s.bump .LINK_PFC_XOFF_RX k)
    .next ((s.setLink k (fun x => { x with
      paused := (x.paused.filter (fun c => !off.contains c)) ++ on.filter (fun c => !x.paused.contains c) })).drainLink p l)

def State.unpause (s : State) (p l c : Nat) : State :=
  (s.setLink (linkNo p l) (fun x => { x with paused := x.paused.filter (· != c) })).drainLink p l
def execPfcPauseExpiry (p l c : Nat) (s : State) : Res :=
  .next (if (s.link (linkNo p l)).paused.contains c then s.unpause p l c else s)
def execPfcWatchdog (p l c : Nat) (s : State) : Res :=
  let k := linkNo p l
  if !linkThere s p l || !(s.link k).paused.contains c || s.gf F.PORT_PFC_WD_wd_ms p = 0 then .next s
  else
    let s := s.setLink k (fun x => { x with deaf := c :: x.deaf.filter (· != c) })
    .next (((s.pf F.PORT_STATUS_pfc_wd p 1).notice (portDie p) (portBlk p) 2).unpause p l c)
def execPfcWdEnd (p l c : Nat) (s : State) : Res :=
  .next (s.setLink (linkNo p l) (fun x => { x with deaf := x.deaf.filter (· != c) }))

/-! ### Virtual network functions (R332, R333) -/

def State.vnf (s : State) (v : Nat) : Vnf := s.eth.vnfs.atD v {}
def State.setVnf (s : State) (v : Nat) (f : Vnf → Vnf) : State :=
  { s with eth := { s.eth with vnfs := s.eth.vnfs.put v (f (s.vnf v)) } }
/-- Fields of a VNF, whose register layout the spec does not give: 0 MAC, 1 VLAN, 2 class, 3 link, 4 and 5 transmit ring and
its slots, 6 and 7 receive ring and its slots, 8 and 9 control lines, 10 context, 11 mc_all, 12 and 13 MSI address and
data (log entry 15). -/
def vnfCfg (s : State) (v i : Nat) : Nat :=
  Config.vnfField i ((List.range 8).map (fun k => (s.eth.vnfRegs.atD (v * 8 + k) 0).toNat))
/-- Address of a 64-byte control line. -/
def vnfCtl (s : State) (v i : Nat) : Nat := vnfCfg s v i / 64 * 64
def vnfMac (s : State) (v : Nat) : Nat := vnfCfg s v 0 % 2 ^ 48
def vnfLink (s : State) (v : Nat) : Nat := vnfCfg s v 3 % 192
def vnfCtx (s : State) (v : Nat) : Nat := vnfCfg s v 10 % 64
def vnfUp (s : State) (v : Nat) : Bool := v < 256 && (s.vnf v).on && s.dieIn (8 + v / 128)
def vnfX (v : Nat) : XUnit := .vnf (v / 128)
def vnfNode (v : Nat) : Nat := 8 + v / 128

def execVnfEnable (role : Role) (v : Nat) (s : State) : Res :=
  let sealed := s.gf F.TRANS_ATTR_part_id (vnfCtx s v) ≠ 0
  if v ≥ 256 || !(privRole role || s.mmioRole role && !sealed) || (s.vnf v).on then .next s
  else if (List.range 256).any (fun w => w ≠ v && (s.vnf w).on && vnfLink s w = vnfLink s v && vnfMac s w = vnfMac s v) then
    .next (s.setVnf v (fun x => { x with dupMac := true }))
  else
    let rd := fun (s : State) (i : Nat) => match s.vread (vnfX v) (vnfCtx s v) (vnfCtl s v i + 8) 8 (vnfNode v) with
      | (.ok b, s) => (leVal b, s)
      | (.error _, s) => (0, s)
    let (th, s) := rd s 8
    let (rh, s) := rd s 9
    .next (s.setVnf v (fun x => { x with on := true, txHead := th, rxHead := rh, quiet := false, due := false }))

def State.vnfMsi (s : State) (v : Nat) : State :=
  if (s.vnf v).quiet then s.setVnf v (fun x => { x with due := true })
  else (s.msiOut (vnfNode v) (vnfCfg s v 12) (vnfCfg s v 13 % 2 ^ 32)).setVnf v (fun x => { x with quiet := true, due := false })
def execVnfItrExpiry (v : Nat) (s : State) : Res :=
  let x := s.vnf v
  let s := s.setVnf v (fun x => { x with quiet := false, due := false })
  .next (if x.due then s.vnfMsi v else s)

/-- Longest transmit buffer of a VNF: the frame limit of R320 less the FCS, the MACsec overhead and the tag the VNF adds. -/
def vnfLimit (vlan : Nat) : Nat := macMax - 4 - 32 - (if vlan ≠ 0 then 4 else 0)
/-- Sends the frames from head to tail, then writes head. Lengths outside 60 to the frame limit send nothing (R332). -/
def vnfSend : Nat → State → Nat → Nat → Nat → Except (Nat × Nat) Nat × State
  | 0, s, _, head, _ => (.ok head, s)
  | n + 1, s, v, head, tail =>
    if head = tail then (.ok head, s) else
    let slots := max 1 (vnfCfg s v 5)
    match s.vread (vnfX v) (vnfCtx s v) (vnfCfg s v 4 + head % slots * 16) 16 (vnfNode v) with
    | (.error e, s) => (.error e, s)
    | (.ok d, s) =>
      let len := fieldB d 8 2
      let vlan := vnfCfg s v 1 % 4096
      if len < 60 || len > vnfLimit vlan then vnfSend n s v (head + 1) tail
      else
        match s.vread (vnfX v) (vnfCtx s v) (fieldB d 0 8) len (vnfNode v) with
        | (.error e, s) => (.error e, s)
        | (.ok b, s) =>
          let k := vnfLink s v
          let cls := vnfCfg s v 2 % 8
          vnfSend n (s.sendFrame (k / 8) (k % 8) cls (dressFrame { bytes := b } vlan cls)) v (head + 1) tail

/-- VNF_TX_POLL. While the link's port retrains the descriptors wait (R331). -/
def execVnfTxPoll (v : Nat) (s : State) : Res :=
  if !vnfUp s v || s.gb F.PORT_STATUS_retraining (vnfLink s v / 8) then .next s
  else
    match s.vread (vnfX v) (vnfCtx s v) (vnfCtl s v 8) 8 (vnfNode v) with
    | (.error _, s) => .next s
    | (.ok b, s) =>
      let head := (s.vnf v).txHead
      let tail := fieldB b 0 8
      if tail < head || tail - head > max 1 (vnfCfg s v 5) then .next s
      else
        match vnfSend (tail - head) s v head tail with
        | (.error _, s') => .next { s with xl := s'.xl }
        | (.ok h, s) =>
          let s := s.setVnf v (fun x => { x with txHead := h })
          .next (s.vwrite (vnfX v) (vnfCtx s v) (vnfCtl s v 8 + 8) (leBytes 8 h) (vnfNode v)).2

/-- Delivers a frame into the next posted buffer, or drops it. The status word's value is not stated: it is free. -/
def State.vnfRx (s : State) (v : Nat) (f : Frame) : State :=
  if !vnfUp s v then s
  else
    let ctx := vnfCtx s v
    let x := s.vnf v
    let slots := max 1 (vnfCfg s v 7)
    let drop := fun (s : State) => s.setVnf v (fun x => { x with drops := x.drops + 1 })
    match s.vread (vnfX v) ctx (vnfCtl s v 9) 8 (vnfNode v) with
    | (.error _, s) => drop s
    | (.ok b, s) =>
      if fieldB b 0 8 ≤ x.rxHead then drop s
      else
        let da := vnfCfg s v 6 + x.rxHead % slots * 16
        match s.vread (vnfX v) ctx da 16 (vnfNode v) with
        | (.error _, s) => drop s
        | (.ok d, s) =>
          match s.vwrite (vnfX v) ctx (fieldB d 0 8) f.bytes (vnfNode v) with
          | (.error _, s) => drop s
          | (.ok _, s) =>
            let (st, s) := s.free
            let s := (s.vwrite (vnfX v) ctx (da + 8) (leBytes 2 f.bytes.length ++ sliceB d 10 2 ++ leBytes 4 st.toNat) (vnfNode v)).2
            let s := (s.vwrite (vnfX v) ctx (vnfCtl s v 9 + 8) (leBytes 8 (x.rxHead + 1)) (vnfNode v)).2
            (s.setVnf v (fun x => { x with rxHead := x.rxHead + 1 })).vnfMsi v

/-! ### Receive steering (R324, R325) -/

/-- The frame authenticates under an association of its link, within the replay window (R326, R327). -/
def macsecOk (s : State) (k : Nat) (f : Frame) : Bool :=
  linkSecure s (k / 8) (k % 8) && f.authOk && match (s.link k).rx.find? (·.1 = f.an) with
  | some (_, low) => f.pn + (s.link k).window ≥ low
  | none => false

def isMulticast (f : Frame) : Bool := bitN f.dstMac 40
def isBroadcast (f : Frame) : Bool := f.dstMac = 2 ^ 48 - 1

/-- FEC codewords of a link since its last event (R319). -/
def State.fecCount (s : State) (k corr unc : Nat) : State :=
  (s.bump64 .LINK_FEC_CORRECTED k corr).when (unc ≠ 0) (fun s => s.bump .LINK_FEC_UNCORRECTED k unc)

/-- The AT engine of die n takes the oldest frame from the buffers of its ports. -/
def State.atTake (s : State) (n : Nat) : State :=
  match ((List.range 24).map (fun i => (3 * n + i / 8, i % 8))).find? (fun q => (s.link (linkNo q.1 q.2)).buf ≠ []) with
  | none => s
  | some (p, l) =>
    let c := match (s.link (linkNo p l)).buf with | e :: _ => e.1 | [] => 0
    (s.setLink (linkNo p l) (fun x => { x with buf := x.buf.drop 1 })).pfcCheck p l c

/-! ### Associations (R327) -/

def State.secureBit (s : State) (p l : Nat) : State :=
  let x := s.link (linkNo p l)
  (s.setPortBit F.PORT_STATUS_secure p l (x.rx ≠ [] && x.tx.isSome)).drainLink p l
/-- A new SAK goes into the unused association number: both are accepted, and transmission moves to it at PN 1. -/
def execSakInstall (p l an : Nat) (s : State) : Res :=
  let k := linkNo p l
  if !linkThere s p l || an ≥ 4 || (s.link k).rx.any (·.1 = an) || s.gb F.ROT_STATUS_error then .next s
  else .next ((s.setLink k (fun x => { x with 
    rx := x.rx ++ [(an, 1)], tx := some (an, 1), asked := false, saks := x.saks + 1, sak := x.sak.put an x.saks })).secureBit p l)
def execSakRetire (p l an : Nat) (s : State) : Res :=
  let k := linkNo p l
  .next ((s.setLink k (fun x => { x with rx := x.rx.filter (·.1 != an), tx := x.tx.filter (·.1 != an) })).secureBit p l)
/-- MKA starts on a link with the replay window the dictionary holds (R327). The spec does not say when it starts: where the link comes up
with no association, and after its life time has expired (DESIGN CHOICE, log entry 153). -/
def State.mkaStart (s : State) (k : Nat) : State := s.setLink k (fun x => { x with window := s.odN 0x7300 2 })

def execMkaLifetimeExpiry (p l : Nat) (s : State) : Res :=
  let k := linkNo p l
  if !linkThere s p l || (s.link k).rx = [] then .next s
  else .next (((s.setLink k (fun x => { x with rx := [], tx := none })).secureBit p l).mkaStart k |>.notice (portDie p) (portBlk p) 3)

/-! ### Links and retraining (R319, R330, R331) -/

/-- Loss of the PTP slave port puts the time base into holdover (R36, R331). -/
def State.ptpLost (s : State) (p : Nat) : State :=
  s.when (tbSource s = 1 && s.eth.ptpSlave / 8 = p && s.eth.ptpSlave ≠ 0xFF) (fun s => s.holdover)

/-- A link goes down by itself, with the FEC codewords counted until then; it recovers by itself within retrain_max, or the port is isolated
(R319). -/
def execLinkDown (p l : Nat) (s : State) (corr : Nat := 0) (unc : Nat := 0) : Res :=
  if !linkThere s p l || !linkUp s p l then .next s
  else
    let k := linkNo p l
    .next (((((s.fecCount k corr unc).setPortBit F.PORT_STATUS_link_up p l false).bump .LINK_LINK_DOWNS k).setLink k (fun x => { x with lost := true })).notice
      (portDie p) (portBlk p) 0)

/-- Every link of the port that its mode has is up. -/
def allUp (s : State) (p : Nat) : Bool := (List.range (linksOf (s.gf F.PORT_CTRL_mode p))).all (fun l => linkUp s p l)
def State.retrainEnd (s : State) (p : Nat) : State := (s.pf F.PORT_STATUS_retraining p 0).pf F.PORT_CTRL_retrain p 0

def execLinkUp (p l : Nat) (s : State) : Res :=
  if !linkThere s p l || !portIn s p then .next s
  else
    let k := linkNo p l
    let s := (s.setPortBit F.PORT_STATUS_link_up p l true).setLink k (fun x => { x with lost := false })
    let s := s.when ((s.link k).rx = [] && (s.link k).tx.isNone) (fun s => s.mkaStart k)
    let s := s.when (s.gb F.PORT_STATUS_retraining p && allUp s p) (fun s => s.retrainEnd p)
    .next (s.each (List.range 8) (fun l s => s.drainLink p l))

/-- Takes every link down and starts its training in the mode now in PORT_CTRL (R330, R331). -/
def State.retrain (s : State) (p : Nat) : State :=
  let up := s.gf F.PORT_STATUS_link_up p
  let s := s.each ((List.range 8).filter (fun l => bitN up l)) (fun l s => s.bump .LINK_LINK_DOWNS (linkNo p l))
  let s := ((s.pf F.PORT_STATUS_link_up p 0).pf F.PORT_STATUS_retraining p 1).pf F.PORT_CTRL_retrain p 1
  (s.each (List.range 8) (fun l s => s.setLink (linkNo p l) (fun x => { x with paused := [], deaf := [], xoff := [], lost := false }))).ptpLost p

def execPortRetrain (role : Role) (p : Nat) (s : State) : Res :=
  .next (if p < 24 && (s.mmioRole role || privRole role) && portIn s p then s.retrain p else s)
def execPortModeWrite (role : Role) (p mode : Nat) (s : State) : Res :=
  if p ≥ 24 || !(s.mmioRole role || privRole role) || !portIn s p || s.gf F.PORT_CTRL_mode p = mode % 4 then .next s
  else .next ((s.pf F.PORT_CTRL_mode p (mode % 4)).retrain p)

end Sys2Proof.Machine
end

