-- ==== Sys2Proof/Machine/At.lean ====
section
/-! DEFINITION. Aedian Transport (R334 to R347): connections, sequencing, acknowledgement, retransmission, negotiation and
congestion response. Completions of operations go to the outbox, and to the Derailleur through s.at'.told. -/

namespace Sys2Proof.Machine

/-! ### Numbers m · 2^−e (R345) -/

def Dy.ofNat (n : Nat) : Dy := { m := n }
def Dy.add (a b : Dy) : Dy := let e := max a.e b.e; { m := a.m * 2 ^ (e - a.e) + b.m * 2 ^ (e - b.e), e := e }
/-- a − b, for b ≤ a. -/
def Dy.sub (a b : Dy) : Dy := let e := max a.e b.e; { m := a.m * 2 ^ (e - a.e) - b.m * 2 ^ (e - b.e), e := e }
def Dy.mul (a b : Dy) : Dy := { m := a.m * b.m, e := a.e + b.e }
def Dy.half (a : Dy) : Dy := { m := a.m, e := a.e + 1 }
def Dy.le (a b : Dy) : Bool := a.m * 2 ^ b.e ≤ b.m * 2 ^ a.e
def Dy.min (a b : Dy) : Dy := if a.le b then a else b
def Dy.max (a b : Dy) : Dy := if a.le b then b else a

/-! ### Connections -/

def ck (n c : Nat) : Nat := n * 65536 + c % 65536
def State.conn (s : State) (n c : Nat) : Conn := s.at'.conns.atD (ck n c) {}
/-- Device state of a connection as its table entry holds it from offset 64 (R337). -/
def Conn.saved (x : Conn) : Bytes :=
  leBytes 1 x.state ++ leBytes 1 x.ver ++ leBytes 1 x.inc ++ zerosB 1 ++ leBytes 4 x.txNext ++ leBytes 4 x.txUna ++ leBytes 4 x.rxNext ++
    leBytes 4 (x.rate.m / 2 ^ x.rate.e) ++ zerosB 44
/-- A connection enters its engine's cache of 4,096. From a full cache one is evicted, which the spec does not say, and its state is written
back to its table entry (R337). -/
def State.connCache (s : State) (n key : Nat) : State :=
  let mine := s.at'.cached.filter (fun k => k / 65536 = n)
  if mine.length < 4096 then { s with at' := { s.at' with cached := key :: s.at'.cached } }
  else
    let (v, s) := s.free
    let old := mine.getD (v.toNat % mine.length) 0
    let s := { s with at' := { s.at' with cached := key :: s.at'.cached.filter (· != old) } }
    s.physWrite (s.gf F.AT_CONN_BASE_pa n + 128 * (old % 65536) + 64) (s.conn n (old % 65536)).saved
def State.setConn (s : State) (n c : Nat) (f : Conn → Conn) : State :=
  let s := if s.at'.cached.contains (ck n c) then s else s.connCache n (ck n c)
  { s with at' := { s.at' with conns := s.at'.conns.put (ck n c) (f (s.conn n c)) } }
def atOn (s : State) (n : Nat) : Bool := n < 8 && s.gb F.AT_CTRL_enable n && s.blkIn n 5

def Conn.cls (x : Conn) : Nat := fieldB x.entry 0 1 % 8
def Conn.ctx (x : Conn) : Nat := fieldB x.entry 2 1 % 64
def Conn.perm (x : Conn) (i : Nat) : Bool := bitN (fieldB x.entry 3 1) i
def Conn.remotePkg (x : Conn) : Nat := fieldB x.entry 4 2
def Conn.remoteConn (x : Conn) : Nat := fieldB x.entry 6 2
def Conn.vlan (x : Conn) : Nat := fieldB x.entry 8 2
def Conn.cfgPaths (x : Conn) : Nat := fieldB x.entry 10 1
/-- Local link of a path, by its package-wide number (R318, R337). -/
def Conn.pathLink (x : Conn) (i : Nat) : Nat := fieldB x.entry (32 + 8 * i) 1
def Conn.pathUdp (x : Conn) (c i : Nat) : Nat :=
  let u := fieldB x.entry (34 + 8 * i) 2
  if u = 0 then Nat.lor 0xC000 ((c * 4 + i) % 0x4000) else u
def Conn.pathAddr (x : Conn) (i : Nat) : Nat := fieldB x.entry (36 + 8 * i) 2
/-- Port and link of a path. -/
def pathPort (x : Conn) (i : Nat) : Nat × Nat := (x.pathLink i / 8, x.pathLink i % 8)
/-- Paths the connection uses: all in version 3 with multipath, path 0 otherwise (R343). -/
def Conn.paths (x : Conn) : List Nat := if x.ver = 3 && bitN x.features 1 then List.range (max 1 (min x.npaths 4)) else [0]

def mod32 (v : Nat) : Nat := v % 2 ^ 32
/-- (a − b) mod 2³². -/
def dist32 (a b : Nat) : Nat := (a + 2 ^ 32 - b % 2 ^ 32) % 2 ^ 32

/-- Less than lim ago. -/
def recent (o : Option Nat) (now lim : Nat) : Bool := match o with | some t => decide (now < t + lim) | none => false
/-- Bytes of a packet type's extension; an ACK's blocks belong to it (R335). -/
def extLen (type len : Nat) : Nat :=
  if type = 7 then len else if type = 10 || type = 11 then 0 else if type = 4 || type = 8 || type = 9 || type = 12 then 8 else 16
def atNow (s : State) (n : Nat) : Nat := s.dieTime n

/-! ### Packets out (R334, R341) -/

/-- Puts a packet on a path as a frame. Which path a version-3 packet takes is free among those whose port is not
retraining (R331, R341). -/
def State.atPut (s : State) (n c type flags psn : Nat) (body : Bytes) : State :=
  let x := s.conn n c
  let ok := x.paths.filter (fun i => !s.gb F.PORT_STATUS_retraining (pathPort x i).1)
  let cand := if ok = [] then x.paths else ok
  let (i, s) := if cand.length ≤ 1 then (cand.headD 0, s) else let (v, s) := s.free; (cand.getD (v.toNat % cand.length) 0, s)
  let pl := pathPort x i
  let addr := beVal (s.physRead (s.gf F.AT_ADDR_BASE_pa n + 16 * x.pathAddr i) 16)
  let payloadLen := body.length - extLen type body.length
  let ver := if 10 ≤ type then x.maxVer else x.ver
  let pkt : Bytes := beBytes 1 (ver * 16 + type) ++ beBytes 1 flags ++ beBytes 2 payloadLen ++
    beBytes 4 (x.inc % 256 * 2 ^ 24 + x.remoteConn) ++ beBytes 4 psn ++ beBytes 4 x.rxNext ++ body
  let cls := x.cls
  let k := linkNo pl.1 pl.2
  let f := atFrame (linkMac s k) (linkIp s k) addr (x.pathUdp c i) s.eth.udpPort x.vlan cls pkt
  s.sendFrame pl.1 pl.2 cls f

def retxBytes (s : State) (n : Nat) : Nat :=
  (s.at'.conns.rows.map (fun r => if r.1 / 65536 = n then (r.2.unacked.map (fun p => p.body.length + 16)).sum else 0)).sum

/-- The packets of an operation: type, flags, extension with payload, whether it is the last (R335). -/
def opPackets (x : Conn) (reqId : Nat) (op : AtOp) : List (Nat × Nat × Bytes × Bool) :=
  match op with
  | .write va rel d =>
    let p := max 1 x.payload
    let k := max 1 (ceilDiv d.length p)
    (List.range k).map fun i =>
      let b := (d.drop (p * i)).take p
      (0, (if rel && i + 1 = k then 2 else 0) + (if i = 0 then 8 else 0) + (if i + 1 = k then 16 else 0),
       beBytes 8 (va + p * i) ++ beBytes 4 b.length ++ zerosB 4 ++ b, i + 1 = k)
  | .readReq va len _ => [(1, 24, beBytes 8 va ++ beBytes 4 len ++ beBytes 4 reqId, true)]
  | .atomic va aop size opnd nv =>
    [(3, 24, beBytes 8 va ++ beBytes 1 aop ++ beBytes 1 size ++ zerosB 6 ++ beBytes 8 opnd ++ beBytes 8 nv, true)]
  | .drl b => [(5, 24, b, true)]
  | .nme b => [(6, 24, b, true)]

/-- Sends one sequenced packet and keeps its copy. -/
def State.atSeq (s : State) (n c issuer type flags : Nat) (body : Bytes) (last : Bool) : State :=
  let x := s.conn n c
  let s := s.atPut n c type flags x.txNext body
  s.setConn n c fun x => { x with
    txNext := mod32 (x.txNext + 1)
    -- it carries the acknowledgement of everything performed so far
    owed := 0
    unacked := x.unacked ++ [{ psn := x.txNext, type := type, flags := flags, body := body, issuer := issuer, last := last, sentAt := atNow s n }] }

/-- The next packet of a connection: what is still to send of an operation and of answers, then the first of the oldest
waiting operation, whose other packets follow. -/
def State.atNext (s : State) (n c : Nat) : State × Option (Nat × Nat × Nat × Bytes × Bool) :=
  let x := s.conn n c
  match x.sending, x.queue with
  | p :: r, _ => (s.setConn n c (fun x => { x with sending := r }), some p)
  | [], (issuer, op) :: rest =>
    let ps := (opPackets x x.nextReq op).map (fun p => (issuer, p))
    (s.setConn n c fun x => { x with
      queue := rest
      sending := ps.drop 1
      nextReq := mod32 (x.nextReq + 1)
      reads := (match op with | .readReq va len _ => x.reads ++ [(x.nextReq, issuer, va, len)] | _ => x.reads)
      atomics := (match op with | .atomic va .. => x.atomics ++ [(x.txNext, issuer, va)] | _ => x.atomics) }, ps.head?)
  | [], [] => (s, none)
/-- Sends packets while the window and the store have room (R341, R345). -/
def State.atPump : Nat → State → Nat → Nat → State
  | 0, s, _, _ => s
  | fuel + 1, s, n, c =>
    let x := s.conn n c
    if x.state ≠ 2 || x.closing || x.unacked.length ≥ x.window then s
    else
      match s.atNext n c with
      | (_, none) => s
      | (t, some (issuer, type, flags, body, last)) =>
        if retxBytes s n ≠ 0 && retxBytes s n + body.length + 16 > s.gf F.AT_RETX_SIZE_mib n * 2 ^ 20 then s.pf F.AT_STATUS_retx_full n 1
        else State.atPump fuel (t.atSeq n c issuer type flags body last) n c
def State.atGo (s : State) (n c : Nat) : State := State.atPump ((s.conn n c).window + 1) s n c
/-- An answer goes out as the window and the store allow. -/
def State.atAnswer (s : State) (n c type : Nat) (body : Bytes) : State :=
  (s.setConn n c (fun x => { x with sending := x.sending ++ [(agentNone, type, 0, body, true)] })).atGo n c

/-! ### Completion of operations -/

/-- A Derailleur is told of codes other than OK (R372), and they end the exchanges of an NME (R285). agentNone stands for the issuer of
answers, and of packets whose operation has completed already. -/
def State.atReport (s : State) (n c issuer code unacked : Nat) : State :=
  if issuer = agentNone then s else
  let s := (s.emit (.atDone n c issuer code unacked)).when (code ≠ 0 && (issuer = agentNme (2 * n) || issuer = agentNme (2 * n + 1))) (fun s => s.repairBroken n c)
  if code ≠ 0 && issuer = agentDrl n then { s with at' := { s.at' with told := s.at'.told ++ [(n, c, code)] } } else s
/-- Whether an acknowledged packet ends its operation; reads and atomics end with their responses. -/
def endsOp (p : AtPkt) : Bool := p.last && (p.type = 0 || p.type = 5 || p.type = 6)

/-- RFC 6298 from a packet that was not sent again (R341). -/
def Conn.sample (x : Conn) (r : Nat) : Conn :=
  let (sr, rv) := match x.srtt with
    | none => (r, r / 2)
    | some q => ((7 * q + r) / 8, (3 * x.rttvar + (if q ≤ r then r - q else q - r)) / 4)
  { x with srtt := some sr, rttvar := rv, rto := max x.rtoMin (sr + 4 * rv) }

def State.setClosed (s : State) (n c : Nat) : State :=
  let s := s.setConn n c (fun x => { x with state := 0, closing := false, unacked := [], queue := [], sending := [], held := [], reads := [], atomics := [], failed := false, refused := false })
  s.when (s.gf F.AT_CONN_CMD_conn n = c % 65536) (fun s => s.pf F.AT_CONN_CMD_busy n 0)

/-- A cumulative acknowledgement (R340). -/
def State.atAcked (s : State) (n c ack : Nat) : State :=
  let x := s.conn n c
  let d := dist32 ack x.txUna
  if d = 0 || d > dist32 x.txNext x.txUna then s
  else
    let gone := x.unacked.filter (fun p => dist32 p.psn x.txUna < d)
    let now := atNow s n
    let s := s.setConn n c fun x =>
      let x := { x with txUna := mod32 ack, unacked := x.unacked.filter (fun p => dist32 p.psn x.txUna ≥ d), timeouts := 0 }
      match gone.find? (fun p => !p.resent) with
      | some p => x.sample (now - p.sentAt)
      | none => { x with rto := max x.rtoMin ((x.srtt.getD 100000) + 4 * x.rttvar) }
    let s := s.each (gone.filter endsOp) (fun p s => s.atReport n c p.issuer 0 0)
    if (s.conn n c).closing && (s.conn n c).unacked = [] then s.setClosed n c else s.atGo n c

/-- Every operation in flight or queued completes with CONN_FAILED (R342, R347). -/
def State.atFailOps (s : State) (n c : Nat) : State :=
  let x := s.conn n c
  let k := x.unacked.length
  let s := s.each (x.unacked.filter endsOp) (fun p s => s.atReport n c p.issuer 1 k)
  let s := s.each (x.sending.filter (fun p => p.2.2.2.2)) (fun p s => s.atReport n c p.1 1 k)
  let s := s.each x.reads (fun r s => s.atReport n c r.2.1 1 k)
  let s := s.each x.atomics (fun r s => s.atReport n c r.2.1 1 k)
  let s := s.each x.queue (fun q s => s.atReport n c q.1 1 k)
  (s.repairBroken n c).setConn n c (fun x => { x with unacked := [], queue := [], sending := [], reads := [], atomics := [], held := [] })

/-- The connection enters FAILED (R342). -/
def State.atFail (s : State) (n c : Nat) : State :=
  let closing := (s.conn n c).closing
  let s := (s.atFailOps n c).setConn n c (fun x => { x with state := 3, failed := true, timeouts := 0, inc := (x.inc + 1) % 256 })
  -- collectives over the connection fail with it, whether or not one of their operations was in flight (R372)
  let s : State := { s with at' := { s.at' with told := s.at'.told ++ [(n, c, 1)] } }
  let s := (s.bump .AT_CONN_FAILS n).notice n 5 0
  if closing then s.setClosed n c else s

/-! ### Received packets (R335, R336, R339, R340) -/

def atBad (s : State) (n : Nat) : State := s.bump .AT_BAD_PKTS n
/-- A completion code as it is taken: those that R336 reserves count as 1. -/
def atCodeIn (code : Nat) : Nat := if code ≤ 8 then code else 1
/-- The packets after a refused one that belong to the same operation answer to nobody: it has completed (R340). -/
def orphan : List AtPkt → List AtPkt
  | [] => []
  | p :: r => { p with issuer := agentNone } :: (if p.last then r else orphan r)
def orphanDue : List (Nat × Nat × Nat × Bytes × Bool) → List (Nat × Nat × Nat × Bytes × Bool)
  | [] => []
  | p :: r => (agentNone, p.2) :: (if p.2.2.2.2 then r else orphanDue r)
/-- The rest of the operation of packet q, which has completed. -/
def Conn.orphanRest (x : Conn) (q : AtPkt) : Conn :=
  if q.last then x
  else
    let older := x.unacked.filter (fun p => dist32 p.psn x.txUna < dist32 q.psn x.txUna)
    let later := x.unacked.filter (fun p => dist32 p.psn x.txUna > dist32 q.psn x.txUna)
    { x with unacked := older ++ x.unacked.filter (·.psn = q.psn) ++ orphan later
             sending := if later.any (·.last) then x.sending else orphanDue x.sending }
/-- Completion code of a failed access (R336). -/
def atCode (st : Nat) : Nat :=
  if st = St.transFault then 2 else if st = St.permFault then 3 else if st = St.partFault then 4 else if st = St.memUncorrectable then 6 else 5

/-- A standalone ACK with up to four SACK blocks of held packets (R335). -/
def sackBlocks (l : List Nat) : List (Nat × Nat) :=
  (sortBy (fun a b => a ≤ b) l).foldl (fun acc p =>
    match acc.getLast? with
    | some (a, b) => if b = p then acc.dropLast ++ [(a, p + 1)] else acc ++ [(p, p + 1)]
    | none => [(p, p + 1)]) []
def State.atSendAck (s : State) (n c : Nat) : State :=
  let x := s.conn n c
  let bl := if x.ver = 3 then (sackBlocks ((x.held.filter (·.1 ≠ x.rxNext)).map (fun h => dist32 h.1 x.rxNext))).take 4 else []
  let body := beBytes 1 bl.length ++ zerosB 7 ++ bl.flatMap (fun b => beBytes 4 (mod32 (x.rxNext + b.1)) ++ beBytes 4 (mod32 (x.rxNext + b.2)))
  (s.setConn n c (fun x => { x with owed := 0 })).atPut n c 7 0 x.txNext body
def State.atSendNak (s : State) (n c psn code : Nat) : State :=
  s.atAnswer n c 8 (beBytes 4 psn ++ beBytes 1 code ++ zerosB 3)

/-- Read data back to the requester in packets of the agreed payload. -/
def State.atReadBack (s : State) (n c reqId : Nat) (data : Bytes) : State :=
  let p := max 1 (s.conn n c).payload
  s.each (List.range (max 1 (ceilDiv data.length p))) fun i s =>
    s.atAnswer n c 2 (beBytes 4 reqId ++ beBytes 4 (p * i) ++ beBytes 1 0 ++ zerosB 7 ++ (data.drop (p * i)).take p)

/-- Performs a delivered packet's operation; none while an access waits on a locked page (R64). -/
def State.atPerform (s : State) (n c psn : Nat) (op : AtRx) : Option State :=
  let x := s.conn n c
  match op with
  | .write va d =>
    if !x.perm 0 then some (s.atSendNak n c psn 7)
    else
      match s.vwrite (.at n) x.ctx va d n with
      | (.ok _, s) => some s
      | (.error f, s) => if f.1 = 0 then none else some (s.atSendNak n c psn (atCode f.1))
  | .readReq va len id =>
    if !x.perm 1 || len = 0 || len > (if x.ver = 3 then 2 ^ 20 else 2 ^ 16) then some (s.atSendNak n c psn 7)
    else
      match s.vread (.at n) x.ctx va len n with
      | (.ok b, s) => some (s.atReadBack n c id b)
      | (.error f, s) =>
        if f.1 = 0 then none else some (s.atAnswer n c 2 (beBytes 4 id ++ zerosB 4 ++ beBytes 1 (atCode f.1) ++ zerosB 7))
  | .atomic va aop size opnd nv =>
    let answer := fun (s : State) (code old : Nat) => s.atAnswer n c 4 (beBytes 4 psn ++ beBytes 1 code ++ zerosB 3 ++ beBytes 8 old)
    let sz := if size = 3 then 8 else 4
    if !x.perm 2 then some (s.atSendNak n c psn 7)
    else
      match s.xlate (.at n) x.ctx va accStore n with
      | (.locked, _) => none
      | (.fail st, s) => some (answer s (atCode st) 0)
      | (.ok pa _ _ key, s) =>
        let r := s.region pa
        if r = .mmio || r = .bar || va % sz ≠ 0 then some (answer s 5 0)
        else if s.lineBad (lineOf pa) then some (answer (s.memErr pa) 6 0)
        else let (old, s) := s.atomicMem key pa sz aop opnd nv; some (answer s 0 old)
  | .readResp id off code d =>
    match x.reads.find? (·.1 = id) with
    | none => some s
    | some (_, issuer, va, due) =>
      let code := atCodeIn code
      if code ≠ 0 then
        some (((s.setConn n c (fun x => { x with reads := x.reads.filter (·.1 != id) })).emit (.reqFailed issuer va code)).atReport n c issuer code 0)
      else
        let left := due - d.length
        let s := s.setConn n c (fun x => { x with
          reads := if left = 0 then x.reads.filter (·.1 != id) else x.reads.map (fun r => if r.1 = id then (id, issuer, va, left) else r) })
        some (s.emit (.readData issuer (va + off) d))
  | .atomicResp rp code old =>
    match x.atomics.find? (·.1 = rp) with
    | none => some s
    | some (_, issuer, va) =>
      let code := atCodeIn code
      let s := s.setConn n c (fun x => { x with atomics := x.atomics.filter (·.1 != rp) })
      some (if code ≠ 0 then (s.emit (.reqFailed issuer va code)).atReport n c issuer code 0 else s.emit (.atomicOld issuer va old))
  | .nak p code =>
    if code = 0x80 then
      -- version 2 goes back to psn (R341)
      let again := x.unacked.filter (fun q => dist32 q.psn x.txUna ≥ dist32 p x.txUna)
      let s := s.bump64 .AT_RETX_PKTS n again.length
      let s := s.each again (fun q s => s.atPut n c q.type (Nat.lor q.flags 4) q.psn q.body)
      some (s.setConn n c (fun x => { x with unacked := x.unacked.map (fun q => if again.any (·.psn = q.psn) then { q with resent := true } else q) }))
    else
      match x.unacked.find? (·.psn = p) with
      | none => some s
      | some q =>
        let code := if code = 0 then 1 else atCodeIn code
        let s := s.setConn n c fun x =>
          let x := x.orphanRest q
          let u := x.unacked.filter (·.psn != p)
          { x with unacked := u, txUna := (match u with | h :: _ => h.psn | [] => x.txNext)
                   reads := (if q.type = 1 then x.reads.filter (fun r => r.1 ≠ beVal (sliceB q.body 12 4)) else x.reads)
                   atomics := (if q.type = 3 then x.atomics.filter (·.1 != p) else x.atomics) }
        some ((s.atReport n c q.issuer code 0).atGo n c)
  | .drl .. | .nme .. => some { s with at' := { s.at' with inbox := s.at'.inbox ++ [(n, c, op)] } }

/-- The engine waits with the operation that is due, for a locked page or an open line. -/
def State.atWait (s : State) (n c : Nat) (op : AtRx) : State :=
  let ctx := (s.conn n c).ctx
  match op with
  | .write va d => (s.vwrite (.at n) ctx va d n).2
  | .readReq va len _ => (s.vread (.at n) ctx va len n).2
  | .atomic va _ _ _ _ => s.lockWaitFor (.at n) ctx va accStore
  | _ => s
/-- Delivers the packet due and every held one that follows it. One whose access waits is held, with those behind it (R64). -/
def State.atDeliver : Nat → State → Nat → Nat → AtRx → State
  | 0, s, _, _, _ => s
  | fuel + 1, s, n, c, op =>
    let p := (s.conn n c).rxNext
    match s.atPerform n c p op with
    | none => (s.atWait n c op).setConn n c (fun x => { x with held := if x.held.any (·.1 = p) then x.held else (p, op) :: x.held })
    | some s =>
      let s := s.setConn n c (fun x => { x with rxNext := mod32 (p + 1), owed := x.owed + 1, held := x.held.filter (·.1 != p) })
      let x := s.conn n c
      match x.held.find? (·.1 = x.rxNext) with
      | none => s
      | some (p, op) => State.atDeliver fuel (s.setConn n c (fun x => { x with held := x.held.filter (·.1 != p) })) n c op

/-- Connections whose next operation waited go on with it. -/
def State.atRetry (s : State) (n : Nat) : State :=
  s.each ((s.at'.conns.rows.filter (fun r => r.1 / 65536 = n)).map (·.1 % 65536)) fun c s =>
    let x := s.conn n c
    match x.held.find? (·.1 = x.rxNext) with
    | some (_, op) => if x.state = 2 then State.atDeliver (x.held.length + 1) s n c op else s
    | none => s

/-- The packet belongs to an established connection, its version and incarnation (R335). -/
def atKnown (s : State) (n : Nat) (h : AtHdr) : Bool :=
  let x := s.conn n h.conn
  atOn s n && x.state = 2 && h.version = x.ver && h.incarn = x.inc

/-- A CNP for a marked packet, at most one every 4 µs (R345). -/
def State.atCnp (s : State) (n c path : Nat) : State :=
  let x := s.conn n c
  let now := atNow s n
  if recent x.lastCnp now 4000 then s
  else (s.setConn n c (fun x => { x with lastCnp := some now })).atPut n c 9 0 0 (beBytes 1 path ++ zerosB 7)

/-- A packet that is not the one due: held, refused, out of the window or a duplicate (R339, R340). -/
def State.atLate (s : State) (n : Nat) (h : AtHdr) (op : AtRx) : State :=
  let c := h.conn
  let x := s.conn n c
  let d := dist32 h.psn x.rxNext
  if d < x.window then
    if x.ver = 3 then
      let s := s.setConn n c (fun x => { x with held := if x.held.any (·.1 = h.psn) then x.held else x.held ++ [(h.psn, op)] })
      (s.when h.ce (fun s => s.atCnp n c h.path)).atSendAck n c
    else
      let now := atNow s n
      if recent x.lastNak now 8000 then s
      else (s.setConn n c (fun x => { x with lastNak := some now })).atSendNak n c x.rxNext 0x80
  else if d < 2 ^ 31 then atBad s n
  else s.atSendAck n c
/-- What follows a delivery: a CNP for a marked packet, and an ACK that is due (R340, R345). -/
def State.atAfter (s : State) (n : Nat) (h : AtHdr) : State :=
  let s := s.when h.ce (fun s => s.atCnp n h.conn h.path)
  if h.ackReq || (s.conn n h.conn).owed ≥ 16 then s.atSendAck n h.conn else s

/-- Receipt of a sequenced packet (R339, R340, R345). -/
def State.atRx (s : State) (n : Nat) (h : AtHdr) (op : AtRx) : State :=
  let s := s.atTake n
  let c := h.conn
  if !atKnown s n h then s.when (atOn s n) (fun s => atBad s n)
  else
    let s := s.atAcked n c h.ack
    let x := s.conn n c
    if h.psn % 2 ^ 32 = x.rxNext then
      let t := State.atDeliver (x.held.length + 1) s n c op
      if (t.conn n c).rxNext = x.rxNext then t else t.atAfter n h
    else s.atLate n h op

/-- Receipt of a message for the Derailleur or an NME: over the Chainring it is taken as it comes, over a connection in its turn. `take`
answers whether the unit has taken it; a packet that is not taken is not acknowledged (R339). -/
def State.atVia (s : State) (n : Nat) (h : Option AtHdr) (op : AtRx) (take : State → Bool × State) : State :=
  match h with
  | none => (take s).2
  | some h =>
    let s := s.atTake n
    let c := h.conn
    if !atKnown s n h then s.when (atOn s n) (fun s => atBad s n)
    else
      let s := s.atAcked n c h.ack
      if h.psn % 2 ^ 32 ≠ (s.conn n c).rxNext then s.atLate n h op
      else
        match take s with
        | (false, s) => s
        | (true, s) =>
          let p := mod32 ((s.conn n c).rxNext + 1)
          let s := s.setConn n c (fun x => { x with rxNext := p, owed := x.owed + 1 })
          let x := s.conn n c
          let s := match x.held.find? (·.1 = p) with
            | none => s
            | some (_, op) => State.atDeliver (x.held.length + 1) (s.setConn n c (fun x => { x with held := x.held.filter (·.1 != p) })) n c op
          s.atAfter n h

/-- ACK: the header's cumulative acknowledgement, then SACK blocks; a packet with three covered packets above it is sent
again, at most once per srtt (R340, R341). -/
def State.atAck (s : State) (n : Nat) (h : AtHdr) (sack : List (Nat × Nat)) : State :=
  let s := s.atTake n
  let c := h.conn
  if !atKnown s n h then (s.when (atOn s n) (fun s => atBad s n))
  else
    let s := s.atAcked n c h.ack
    let x := s.conn n c
    let cover := fun (p : AtPkt) => sack.any (fun b => dist32 p.psn b.1 < dist32 b.2 b.1)
    let s := if x.ver ≠ 3 then s else s.setConn n c (fun x => { x with unacked := x.unacked.map (fun p => { p with sacked := p.sacked || cover p }) })
    let x := s.conn n c
    let now := atNow s n
    let lost := x.unacked.filter (fun p => !p.sacked &&
      (x.unacked.filter (fun q => q.sacked && dist32 q.psn x.txUna > dist32 p.psn x.txUna)).length ≥ 3)
    if x.ver ≠ 3 || lost = [] || recent x.lastSack now (x.srtt.getD 0) then s
    else
      let s := s.bump64 .AT_RETX_PKTS n lost.length
      let s := s.each lost (fun p s => s.atPut n c p.type (Nat.lor p.flags 4) p.psn p.body)
      s.setConn n c (fun x => { x with
        lastSack := some now
        unacked := x.unacked.map (fun p => if lost.any (·.psn = p.psn) then { p with resent := true } else p) })

/-! ### Timers and congestion (R340, R341, R345) -/

def execAckTimer (n conn : Nat) (s : State) : Res :=
  let x := s.conn n conn
  .next (if atOn s n && x.state = 2 && x.owed > 0 then s.atSendAck n conn else s)

/-- MAC rate of path 0's link. -/
def atLine (s : State) (n : Nat) (x : Conn) : Dy := Dy.ofNat (linkMbps s (pathPort x 0).1)
def rateFloor : Dy := Dy.ofNat 100
def Dy.decay (a : Dy) : Dy := Dy.mul a { m := 15, e := 4 }

def execCnp (n : Nat) (h : AtHdr) (s : State) : Res :=
  let s := s.atTake n
  let c := h.conn
  if !atKnown s n h then .next (s.when (atOn s n) (fun s => atBad s n))
  else
    let now := atNow s n
    let s := s.bump64 .AT_CNP_RX n
    .next (s.setConn n c fun x =>
      let a := x.alpha.decay.add { m := 1, e := 4 }
      if recent x.cut now 8000 then { x with alpha := a }
      else { x with alpha := a, target := x.rate, cut := some now, periods := 0
                    rate := Dy.max rateFloor (x.rate.mul ((Dy.ofNat 1).sub a.half)) })

def execRateIncreaseTimer (n conn : Nat) (s : State) : Res :=
  let x := s.conn n conn
  if !atOn s n || x.state ≠ 2 then .next s
  else
    let line := atLine s n x
    let t := if x.cut.isSome && x.periods < 5 then x.target else Dy.min (x.target.add (Dy.ofNat 400)) line
    .next (s.setConn n conn (fun x => { x with target := t, rate := Dy.min line (Dy.max rateFloor (x.rate.add t).half), periods := x.periods + 1 }))
def execAlphaDecayTimer (n conn : Nat) (s : State) : Res :=
  .next (if atOn s n && (s.conn n conn).state = 2 then s.setConn n conn (fun x => { x with alpha := x.alpha.decay }) else s)

/-- Every path of a connection lies on one port that is retraining: its timers stand still (R331). -/
def atStopped (s : State) (n : Nat) (x : Conn) : Bool := x.paths.all (fun i => s.gb F.PORT_STATUS_retraining (pathPort x i).1)

/-- The retransmit timeout (R341, R342). -/
def State.rto (s : State) (n c : Nat) : State :=
  let x := s.conn n c
  if !atOn s n || x.state ≠ 2 || x.unacked = [] || atStopped s n x then s
  else if x.timeouts + 1 ≥ x.retryMax then s.atFail n c
  else
    let again := if x.ver = 3 then x.unacked.take 1 else x.unacked
    let s := s.bump64 .AT_RETX_PKTS n again.length
    let s := s.each again (fun p s => s.atPut n c p.type (Nat.lor p.flags 4) p.psn p.body)
    s.setConn n c (fun x => { x with
      timeouts := x.timeouts + 1, rto := min 8000000 (2 * x.rto)
      unacked := x.unacked.map (fun p => if again.any (·.psn = p.psn) then { p with resent := true } else p) })

/-! ### Opening, negotiation, issue (R338, R342 to R344, R347) -/

def execAtEnable (role : Role) (n : Nat) (s : State) : Res :=
  if n ≥ 8 || !(s.mmioRole role || privRole role) || s.gb F.AT_CTRL_enable n then .next s
  else .next ({ s.pf F.AT_CTRL_enable n 1 with at' := { s.at' with pkgId := s.at'.pkgId.put n (s.odN 0x7010 5) } })

/-- What this side offers (R343). -/
def State.hello (s : State) (n c type : Nat) (x : Conn) (maxV payload window npaths inc features : Nat) : State :=
  s.atPut n c type 0 0 (beBytes 1 2 ++ beBytes 1 maxV ++ beBytes 2 payload ++ beBytes 2 window ++ beBytes 1 npaths ++ beBytes 1 inc ++
    beBytes 4 features ++ beBytes 2 (c % 65536) ++ beBytes 2 (s.at'.pkgId.atD n 0) ++ zerosB (16 + 0 * x.ver))
def Conn.offer (x : Conn) : Nat × Nat × Nat × Nat :=
  if x.maxVer = 3 then (8192, 256, x.cfgPaths, 3) else (4096, 128, 1, 0)
def State.sendHello (s : State) (n c : Nat) : State :=
  let x := s.conn n c
  let o := x.offer
  s.hello n c 10 x x.maxVer o.1 o.2.1 o.2.2.1 x.inc o.2.2.2

def execConnOpen (role : Role) (n conn : Nat) (s : State) : Res :=
  if n ≥ 8 || !(s.mmioRole role || privRole role) || s.gb F.AT_CONN_CMD_busy n || !atOn s n then .next s
  else
    let s := (s.pf F.AT_CONN_CMD_conn n conn).pf F.AT_CONN_CMD_op n 1
    if conn ≥ s.gf F.AT_CONN_COUNT_count n || (s.conn n conn).state ≠ 0 then .next s
    else
      let e := s.physRead (s.gf F.AT_CONN_BASE_pa n + 128 * conn) 64
      let np := fieldB e 10 1
      let sealed := s.gf F.TRANS_ATTR_part_id (fieldB e 2 1 % 64) ≠ 0
      let badLink := (List.range (min np 4)).any (fun i => fieldB e (32 + 8 * i) 1 / 24 ≠ n)
      if (sealed && role ≠ .rot) || np = 0 || np > 4 || badLink then .next (s.pf F.AT_STATUS_open_refused n 1)
      else
        let mv := fieldB e 1 1
        let x : Conn := { state := 1, entry := e, maxVer := if mv = 2 || mv = 3 then mv else s.odN 0x7010 2, npaths := np
                          rtoMin := s.odN 0x7010 3, retryMax := s.odN 0x7010 4, inc := (s.conn n conn).inc }
        let s := s.setConn n conn (fun _ => { x with rate := atLine s n x, target := atLine s n x })
        .next (if x.perm 3 then s.sendHello n conn else s)

/-- The connection carries traffic with the agreed values; both directions start at PSN 0. -/
def State.establish (s : State) (n c : Nat) (ver payload window npaths features inc : Nat) : State :=
  (s.setConn n c (fun x => { x with
    state := 2, ver := ver, payload := payload, window := window, npaths := npaths, features := features, inc := inc
    failed := false, txNext := 0, txUna := 0, rxNext := 0, unacked := [], held := [], owed := 0, timeouts := 0
    srtt := none, rttvar := 0, rto := 100000, alpha := { m := 1 }, rate := atLine s n x, target := atLine s n x, cut := none, periods := 0 })).atGo n c

/-- The agreed values of R343 from this side's offer and the peer's: version, payload, window, paths, features,
incarnation; none where no version is common. -/
def agree (x : Conn) (b : HelloBody) : Option (Nat × Nat × Nat × Nat × Nat × Nat) :=
  let v := min x.maxVer b.maxVer
  if v < 2 || v < b.minVer then none
  else
    let o := x.offer
    some (v, min o.1 b.maxPayload, min o.2.1 b.window, min o.2.2.1 b.npaths, Nat.land o.2.2.2 b.features, max x.inc b.incarn)

/-- HELLO. One of the present incarnation that arrives while the connection carries traffic is answered again and resets nothing (DESIGN
CHOICE, log entry 161). -/
def helloIn (n conn : Nat) (b : HelloBody) (s : State) : Res :=
  let s := s.atTake n
  let x := s.conn n conn
  if !atOn s n then .next s
  else if x.state = 0 || x.refused then .next (atBad s n)
  else if b.senderPkg ≠ x.remotePkg then .next (atBad s n)
  else if x.state = 2 && b.incarn = x.inc then .next (s.hello n conn 11 x x.ver x.payload x.window x.npaths x.inc x.features)
  else if x.perm 3 && x.state ≠ 2 && s.at'.pkgId.atD n 0 < b.senderPkg then .next s
  else
    match agree x b with
    | none =>
      let s := (s.atFailOps n conn).setConn n conn (fun x => { x with state := 3, failed := true, refused := true })
      .next (s.atPut n conn 12 0 0 (beBytes 1 8 ++ zerosB 7))
    | some (v, p, w, np, ft, inc) =>
      let s := if x.state = 2 then s.atFailOps n conn else s
      let s := s.setConn n conn (fun x => { x with inc := inc })
      .next ((s.hello n conn 11 x v p w np inc ft).establish n conn v p w np ft inc)

/-- HELLO_ACK. One that finds the connection established already changes nothing (R344). -/
def helloAckIn (n conn : Nat) (b : HelloBody) (s : State) : Res :=
  let s := s.atTake n
  let x := s.conn n conn
  if !atOn s n then .next s
  else if x.state = 2 then .next s
  else if !(x.state = 1 || x.state = 3) || x.refused || b.senderPkg ≠ x.remotePkg then .next (atBad s n)
  else
    match agree x b with
    | none => .next (s.setConn n conn (fun x => { x with state := 3, failed := true, refused := true }))
    | some (v, p, w, np, ft, inc) => .next (s.establish n conn v p w np ft inc)

def execHelloTimer (n conn : Nat) (s : State) : Res :=
  let x := s.conn n conn
  .next (if atOn s n && ((x.state = 1 && x.perm 3) || x.state = 3) && !x.refused then s.sendHello n conn else s)

/-- Issues an operation on a connection (R341, R342). -/
def State.atIssue (s : State) (n c issuer : Nat) (op : AtOp) : State :=
  let x := s.conn n c
  if !atOn s n || x.state = 0 || x.state = 3 || (x.state = 1 && x.failed) || x.closing then s.atReport n c issuer 1 0
  else (s.setConn n c (fun x => { x with queue := x.queue ++ [(issuer, op)] })).atGo n c

/-- Close sends no further packet and waits for the acknowledgements (R347). -/
def State.atClose (s : State) (n c : Nat) : State :=
  let x := s.conn n c
  let s := s.each x.queue (fun q s => s.atReport n c q.1 1 x.unacked.length)
  let s := s.each (x.sending.filter (fun p => p.2.2.2.2)) (fun p s => s.atReport n c p.1 1 x.unacked.length)
  let s := s.setConn n c (fun x => { x with queue := [], sending := [], closing := true })
  if x.state ≠ 2 || x.unacked = [] then s.setClosed n c else s.pf F.AT_CONN_CMD_busy n 1
def State.atReset (s : State) (n c : Nat) : State := (s.atFailOps n c).setClosed n c

end Sys2Proof.Machine
end

