-- ==== Sys2Proof/Machine/Repair.lean ====
section
/-! DEFINITION. Phases X and C of a sweep, and the repair of a shard that differs from the reference replica (R271, R283 to R285). -/

namespace Sys2Proof.Machine

/-- A message of NME st over a connection of its die, or the Chainring to a die of the package (R285). Over the Chainring it goes to the NME of
the same place on that die (DEDUCED, log entry 148). -/
def State.nmeSend (s : State) (st conn die kind shard step off : Nat) (data : Bytes) : State :=
  if conn = 0xFFFF then s.emit (.nme (2 * die + st % 2) kind shard step off data)
  else s.atIssue (stackDie st) conn (agentNme st)
    (.nme (beBytes 1 kind ++ beBytes 1 st ++ beBytes 2 shard ++ beBytes 4 step ++ beBytes 8 off ++ data))
/-- Bytes of an image in one message. -/
def nmePiece (s : State) (st conn : Nat) : Nat := if conn = 0xFFFF then 4096 else max 1 (s.conn (stackDie st) conn).payload

/-! ### Phase X -/

/-- A mismatch found in phase X: the shard's repair is asked of the reference, unless it is to wait for the operator (R284). -/
def State.digestAsk (s : State) (st i step : Nat) (d : DigestRec) : State :=
  let s := s.digestMiss st i step
  let r : Repair := { shard := i, step := step, conn := d.conn, die := d.die, phase := if digestOften s st i then 2 else 0 }
  let s := s.setNme st (fun u => { u with repairs := u.repairs.filter (·.shard ≠ i) ++ [r] })
  if r.phase = 2 then s else s.nmeSend st d.conn d.die 0 i (step % 2 ^ 32) 0 []

/-- SWEEP_PHASE_X. Outside Fixed gear each NME compares its digests with the reference's; in Fixed gear it compares every replica's, and any
difference stops it (R284, R360). -/
def execSweepPhaseX (st : Nat) (s : State) : Res :=
  match (s.nmeU st).sweep with
  | none => .next s
  | some x =>
    if x.phase ≠ 6 || x.ended || x.done || !nmeRuns s st then .next s
    else
      let n := deliveryDie s x.dom st
      match delivery s n x.dcoll x.step with
      | none => .next s
      | some e =>
        let fin := fun (s : State) => s.onSweep st (fun x => { x with done := true })
        let fixed := x.gear == gearFixed
        let equal := bitN (fieldB e 10 1) 2
        if fieldB e 8 1 ≠ 0 then .next ((fin s).onSweep st (fun x => { x with noDigest := true }))
        else
          match s.nme.digests.at? (n * 65536 + x.dcoll) with
          | none => .next (fin s)
          | some d =>
            let block := fun (q : Nat) => Tx.read (.nme st) d.ctx (d.dst + q * d.size + st % 2 * (d.size / 2)) (min (d.size / 2) (16 * x.count)) (stackDie st)
            let bad := fun (a b : Bytes) => (List.range x.count).filter (fun i => fieldB a (16 * i) 8 ≠ fieldB b (16 * i) 8)
            .next (s.sweepRun st (
              Tx.andThen (Tx.nread st x x.dtab (16 * x.count)) fun own =>
              -- the reference's block is read where it is not known to equal this member's
              Tx.andThen (if equal then Tx.pure own else block 0) fun ref =>
              let mine := bad own ref
              if fixed then
                Tx.andThen (Tx.map block ((List.range d.count).drop 1)) fun bs =>
                Tx.andThen (Tx.act (fun s => s.each mine (fun i s =>
                  ((s.bump .NME_DIGEST_MISMATCH st).pf F.NME_DIGEST_LAST_shard st i).pf F.NME_DIGEST_LAST_step st x.step))) fun _ =>
                Tx.andThen (Tx.stopIf (mine ≠ [] || bs.any (fun b => bad b ref ≠ [])) (256 + 10) 0) fun _ =>
                Tx.andThen (Tx.act fin) fun _ => Tx.done
              else
                Tx.andThen (Tx.act (fun s => fin (s.each mine (fun i s => s.digestAsk st i x.step d)))) fun _ => Tx.done))

/-! ### Serving a repair (R285 steps 2 to 4) -/

def State.repairServe (s : State) (st shard step conn die : Nat) : Bool × State :=
  let nak := fun (s : State) (r : Nat) => s.nmeSend st conn die 3 shard step 0 [BitVec.ofNat 8 r]
  match (s.nmeU st).last with
  | none => (true, nak s 2)
  | some x =>
    if (s.nmeU st).held.contains shard then (true, nak s 1)
    else if shard ≥ x.count then (true, nak s 2)
    else
      s.runOk (Tx.andThen (Tx.image st x (x.shard shard) x.live) fun img =>
        Tx.andThen (Tx.act (fun s =>
          let p := nmePiece s st conn
          (s.each (List.range (ceilDiv img.length p)) (fun j s =>
            s.nmeSend st conn die 1 shard step (p * j) ((img.drop (p * j)).take p))).nmeSend st conn die 2 shard step 0 (leBytes 8 (crc64 img)))) fun _ =>
        Tx.done) (fun s _ _ => nak s 3)
/-- Serves the requests that waited; one that meets a locked page goes on waiting. -/
def State.repairsServe (s : State) (st step : Nat) : State :=
  s.each ((s.nmeU st).waiting.filter (fun p => p.2.1 = step)) fun p s =>
    match s.repairServe st p.1 p.2.1 p.2.2.1 p.2.2.2 with
    | (true, s) => s.setNme st (fun u => { u with waiting := u.waiting.filter (· != p) })
    | (false, s) => s

/-- SWEEP_COMMIT: live flips, the phase clears, nme_done counts; repairs that waited for it are served (R285). -/
def execSweepCommit (st : Nat) (s : State) : Res :=
  match (s.nmeU st).sweep with
  | none => .next s
  | some x =>
    if x.phase ≠ 7 || x.ended || !nmeRuns s st then .next s
    else
      let m : Tx State :=
        Tx.andThen (if x.digest && !x.noDigest then Tx.nwrite st x (x.list st + 24) (leBytes 8 x.step) else Tx.pure ()) fun _ =>
        Tx.andThen (Tx.nwrite st x (x.list st + 4) [BitVec.ofNat 8 (1 - x.live), 0, 0]) fun _ =>
        Tx.andThen (Tx.resOp st x 24 0 1 0) fun _ =>
        Tx.andThen (Tx.act (fun s =>
          let s := (s.pf F.NME_STATUS_last_status st 0).pf F.NME_STATUS_phase st 0
          let s := (s.setNme st (fun u => { u with last := some { x with live := 1 - x.live } })).onSweep st (fun x => { x with ended := true })
          (s.repairsServe st (x.step % 2 ^ 32)).sweepSettle x)) fun _ => Tx.done
      .next (s.sweepRun st m)

/-- A request at the reference is served once its own sweep of that step has passed phase C. -/
def State.repairReq (s : State) (st shard step conn die : Nat) : Bool × State :=
  let waits := match (s.nmeU st).sweep with | some x => x.step % 2 ^ 32 = step && !x.ended | none => false
  if !nmeIn s st then (true, s)
  else if waits then
    (true, s.setNme st (fun u => { u with
      waiting := if u.waiting.contains (shard, step, conn, die) then u.waiting else u.waiting ++ [(shard, step, conn, die)] }))
  else s.repairServe st shard step conn die

/-! ### A repair at the held NME (R284, R285 step 5) -/

/-- The held shard a repair message is about: the NME has committed the sweep of that step. -/
def repairOf (s : State) (st shard step : Nat) : Option NmeSweep :=
  let u := s.nmeU st
  if !nmeIn s st || !u.held.contains shard then none
  else u.last.filter (fun x => x.step % 2 ^ 32 = step && shard < x.count)

/-- Writes a piece of an image: the master, then the state slots. -/
def Tx.imageWrite (st : Nat) (x : NmeSweep) (q : Bytes) (off : Nat) (data : Bytes) : Tx Unit :=
  let m := 4 * shElems q
  let a := data.take (m - off)
  let b := (data.drop a.length).take (m * (1 + shNstate q) - (off + a.length))
  let put := fun (va : Nat) (d : Bytes) => if d = [] then Tx.pure () else
    Tx.andThen (Tx.inStack st x va d.length accStore) fun _ => Tx.nwrite st x va d
  Tx.andThen (put (shMaster q + x.live * x.stride + off) a) fun _ => put (shState q + x.live * x.stride + (off + a.length - m)) b

def State.repairData (s : State) (st shard step off : Nat) (data : Bytes) : Bool × State :=
  match repairOf s st shard step with
  | none => (true, s)
  | some x => s.runOk (Tx.andThen (Tx.imageWrite st x (x.shard shard) off data) fun _ => Tx.done) (fun s _ _ => s.repairFails st shard)

/-- The image's digest decides (R284). The recovery is a record, not a recovery of the block. -/
def State.repairEnd (s : State) (st shard step crc : Nat) : Bool × State :=
  match repairOf s st shard step with
  | none => (true, s)
  | some x =>
    let m : Tx State :=
      Tx.andThen (Tx.image st x (x.shard shard) x.live) fun img =>
      if crc64 img ≠ crc then Tx.andThen (Tx.act (fun s => (s.digestMiss st shard x.step).repairLater st shard)) fun _ => Tx.done
      else
        Tx.andThen (Tx.derive st x shard x.live) fun _ =>
        Tx.andThen (Tx.act (fun s =>
          let s := s.setNme st (fun u => { u with held := u.held.filter (· != shard), repairs := u.repairs.filter (·.shard != shard) })
          (s.pf F.NME_DIGEST_LAST_held st (bN ((s.nmeU st).held ≠ []))).fltRecord (stackDie st) (nmeBlk st) 3 2 2 false shard)) fun _ => Tx.done
    s.runOk m (fun s _ _ => s.repairFails st shard)

/-- A refusal: a further F2, and the request is repeated after the quiet period. -/
def State.repairNak (s : State) (st shard step : Nat) : Bool × State :=
  (true, s.when (nmeIn s st && (s.nmeU st).repairs.any (fun r => r.shard = shard && r.step % 2 ^ 32 = step && r.phase = 0))
    (fun s => s.repairFails st shard))

/-! ### Messages (R285) -/

/-- A repair message of a kind, with the connection it came over or the die it came from. -/
def State.nmeTake (s : State) (kind st shard step off : Nat) (data : Bytes) (conn die : Nat) : Bool × State :=
  match kind with
  | 0 => s.repairReq st shard step conn die
  | 1 => s.repairData st shard step off data
  | 2 => s.repairEnd st shard step (leVal data)
  | 3 => s.repairNak st shard step
  | _ => (true, atBad s (stackDie st))
def viaConn (h : Option AtHdr) : Nat := match h with | some h => h.conn % 65536 | none => 0xFFFF
def execRepairRetry (st shard : Nat) (s : State) : Res :=
  match (s.nmeU st).repairs.find? (fun r => r.shard = shard && r.phase = 1) with
  | none => .next s
  | some r => .next ((s.onRepair st shard (fun r => { r with phase := 0 })).nmeSend st r.conn r.die 0 shard (r.step % 2 ^ 32) 0 [])

end Sys2Proof.Machine
end

