-- ==== Sys2Proof/Machine/Derailleur.lean ====
section
/-! DEFINITION. The Derailleur (R348 to R374): route tables, collective instances and their messages, reductions, gathers,
expert dispatch and combine, the verdict, delivery entries. The layouts of COUNT and ALLOW payloads, which the spec does
not give, are the model's (log entry 16). -/

namespace Sys2Proof.Machine

/-! ### The unit -/

def ik (n c : Nat) : Nat := n * 65536 + c % 65536
def State.inst? (s : State) (n c : Nat) : Option Inst := s.drl.insts.at? (ik n c)
def State.onDrl (s : State) (f : DrlSt → DrlSt) : State := { s with drl := f s.drl }
def State.setInst (s : State) (n c : Nat) (f : Inst → Inst) : State :=
  s.onDrl fun d => match d.insts.at? (ik n c) with | some x => { d with insts := d.insts.put (ik n c) (f x) } | none => d
def drlOn (s : State) (n : Nat) : Bool := n < 8 && s.gb F.DRL_CTRL_enable n
def drlIn (s : State) (n : Nat) : Bool := n < 8 && s.blkIn n 4 && !s.asleep.contains (.drl n)
def drlCurrent (s : State) (n : Nat) : Bool := s.gf F.DRL_UNIT_EPOCH_epoch n ≥ s.pkgEpoch && !s.redo.contains (.drl n)
def State.drlCount (s : State) (n : Nat) : State := s.pf F.DRL_STATUS_active n (instsOf s n).length
def State.drlBad (s : State) (n : Nat) : State := s.bump .DRL_BAD_MSGS n
def State.drlReserved (s : State) (n : Nat) (c : Bool) : State := s.when c (fun s => s.pf F.DRL_STATUS_reserved_encoding n 1)

/-! Fields of a collective descriptor (R351), reserved values applied as 0. -/
def Inst.op (x : Inst) : Nat := fieldB x.desc 0 1
def Inst.dtype (x : Inst) : Nat := let v := fieldB x.desc 1 1; if v = 1 || v = 10 then v else 0
def Inst.redop (x : Inst) : Nat := let v := fieldB x.desc 2 1; if v ≤ 2 then v else 0
def Inst.flag (x : Inst) (i : Nat) : Bool := bitN (fieldB x.desc 3 1) i
def Inst.coll (x : Inst) : Nat := fieldB x.desc 4 2
def Inst.ctx (x : Inst) : Nat := fieldB x.desc 6 1 % 64
def Inst.src (x : Inst) : Nat := fieldB x.desc 16 8
def Inst.dst (x : Inst) : Nat := fieldB x.desc 24 8
def Inst.bytes (x : Inst) : Nat := fieldB x.desc 32 8
def Inst.start (x : Inst) : Nat := fieldB x.desc 40 8
def Inst.aux (x : Inst) : Nat := fieldB x.desc 48 8
def Inst.tid (x : Inst) : Nat := fieldB x.desc 56 3
def Inst.isRed (x : Inst) : Bool := x.op ≤ 1
def Inst.elem (x : Inst) : Nat := if x.dtype = 1 then 2 else 4
/-- Chunk size of a reduction, and sizes of segments (R354, R356). -/
def Inst.chunk (x : Inst) : Nat := x.bytes / max 1 x.count
def segBytes : Nat := 65536
def segCount (n : Nat) : Nat := ceilDiv n segBytes
def segLen (n i : Nat) : Nat := min segBytes (n - i * segBytes)
/-- Dispatch record (R366). -/
def Inst.tokens (x : Inst) : Nat := fieldB x.record 0 4
def Inst.topk (x : Inst) : Nat := fieldB x.record 4 1
def Inst.layer (x : Inst) : Nat := fieldB x.record 5 1
def Inst.pfmt (x : Inst) : Nat := if fieldB x.record 6 1 % 16 = 1 then 1 else 0
def Inst.ofmt (x : Inst) : Nat := if fieldB x.record 6 1 / 16 = 1 then 1 else 0
def Inst.rowB (x : Inst) : Nat := fieldB x.record 8 4
def Inst.partB (x : Inst) : Nat := fieldB x.record 12 4
def Inst.recVa (x : Inst) (o : Nat) : Nat := fieldB x.record o 8
def fmtBytes (f : Nat) : Nat := if f = 1 then 2 else 4

/-! ### Messages (R357, R373) -/

def hdrBytes (h : RedHdr) : Bytes :=
  beBytes 1 1 ++ beBytes 1 (bN h.nf + 2 * bN h.qValid + 4 * bN h.digestValid) ++ zerosB 2 ++ beBytes 4 h.q.toNat ++ beBytes 8 h.step ++
  beBytes 8 h.gsig ++ beBytes 8 h.digest
def msgBytes (kind : Nat) (m : DrlMsg) : Bytes :=
  beBytes 2 m.collId ++ beBytes 1 kind ++ beBytes 1 (bN m.hdr.isSome) ++ beBytes 4 (m.step % 2 ^ 32) ++ beBytes 4 m.seg ++
  beBytes 2 m.senderPos ++ zerosB 2 ++ (match m.hdr with | some h => hdrBytes h | none => []) ++ m.payload

/-- The reduction header an instance sends now (R357). The package's own mark goes into it with verdict_en = 1 (R236). -/
def instHdr (s : State) (n : Nat) (x : Inst) : RedHdr :=
  let d := s.domainOf n
  { nf := x.flag 3 && (s.gb F.NUM_TABLE_BASE_verdict_en d && s.gb F.NUM_VERDICT_local_nf d || s.gb F.DRL_STATUS_step_nf n)
    step := x.step, gsig := x.gsig, digestValid := x.op = 9, digest := x.digest }

/-- Sends a message to member q, over its connection or the Chainring; what is longer than the connection's payload
continues in packets of the same segment (R373). -/
def State.drlSend (s : State) (n : Nat) (x : Inst) (q kind seg : Nat) (hdr : Option RedHdr) (payload : Bytes) : State :=
  let m : DrlMsg := { collId := x.coll, step := x.step, seg := seg, senderPos := x.own, hdr := hdr, payload := payload }
  let (conn, die) := x.members.getD q (0xFFFF, n)
  let s := s.when (kind = 2 || kind = 3) (fun s => s.bump64 .DRL_ROWS_SENT n)
  if conn = 0xFFFF then s.emit (.drl n kind q die m)
  else
    let room := max 64 (s.conn n conn).payload
    let first := room - (if hdr.isSome then 32 else 0)
    let s := s.atIssue n conn (agentDrl n) (.drl (msgBytes kind { m with payload := payload.take first }))
    s.each (List.range (ceilDiv (payload.length - first) room)) fun i s =>
      s.atIssue n conn (agentDrl n) (.drl (msgBytes kind { m with hdr := none, payload := (payload.drop (first + i * room)).take room }))
/-- Positions other than this one. -/
def Inst.others (x : Inst) : List Nat := (List.range x.count).filter (· ≠ x.own)

/-! ### The end of an instance (R361, R372) -/

def delivBytes (step status detail dflags rounds q dropped : Nat) : Bytes :=
  leBytes 8 step ++ leBytes 1 status ++ leBytes 1 detail ++ leBytes 1 dflags ++ leBytes 1 rounds ++ leBytes 4 q ++ leBytes 4 dropped ++ zerosB 12
def State.deliver (s : State) (n coll : Nat) (b : Bytes) : State := s.physWrite (s.gf F.DRL_DELIV_BASE_pa n + 32 * coll) b

/-- Ends an instance: delivery entry, count, and the COLL entry's completion. -/
def State.instEnd (s : State) (n c status detail : Nat) : State :=
  match s.inst? n c with
  | none => s
  | some x =>
    let (q, qv) := match x.qs.head? with | some (_, v, q) => (q, v) | none => (0, false)
    let verdict := x.op = 8 && status = 0
    let eq := x.op = 9 && status = 0 && x.digest0 = some x.digest
    let rounds := (x.rtab.filter (· ≠ 0)).length
    let s := s.deliver n c (delivBytes x.step status detail
      (bN (verdict && x.nf) + 2 * bN (verdict && qv) + 4 * bN eq) (if x.op = 4 then min 64 rounds else 0) (if verdict then q else 0) x.drops.length)
    let ref := x.members.getD 0 (0xFFFF, n)
    let rec' : DigestRec := ⟨x.ctx, x.dst, x.bytes, x.count, ref.1, ref.2⟩
    let s := if x.op = 9 && status = 0 then { s with nme := { s.nme with digests := s.nme.digests.put (n * 65536 + c) rec' } } else s
    let s := s.onDrl (fun d => { d with insts := d.insts.del (ik n c), ended := d.ended.put (ik n c) x.step })
    let s := (s.bump64 .DRL_COLL_DONE n).drlCount n
    match s.seq.ents.find? (fun e => e.die = n && e.stream = x.stream && e.pos = x.pos) with
    | some e =>
      let s := if x.op = 4 && status = 0 then s.setStrm n x.stream (fun y => { y with report := (x.rtab.take rounds).drop 1 }) else s
      s.endEnt e status detail 0
    | none => s

/-- A failure: ABORT to every member, then the end (R372). -/
def State.instFail (s : State) (n c detail : Nat) : State :=
  match s.inst? n c with
  | none => s
  | some x =>
    let s := s.each x.others (fun q s => s.drlSend n x q 7 0 none [])
    let s := if x.op ≠ 8 then s else
      -- the dies of the domain that wait for the lead die's result hear of its failure
      s.onDrl (fun d => { d with resNet := d.resNet ++ ((s.domainDies (s.domainOf n)).filter (fun k => x.terms.any (·.1 = k) && k ≠ n)).map (fun k =>
        { to' := k, coll := c, step := x.step, nf := false, qv := false, q := 0, status := St.collFailed, detail := 0x81 }) })
    s.instEnd n c St.collFailed detail

/-- Detail code of a failed access; a unit's own codes stand above 256. -/
def drlCode (c : Nat) : Nat := if c ≥ 256 then c - 256 else c
/-- Runs a part of an instance; a failed access ends it, with DRL_ERR_ADDR (R372). -/
def State.drlRun (s : State) (n c : Nat) (m : Tx State) : State :=
  s.run m (fun s code a =>
    let code := drlCode code
    (s.when ((6 ≤ code && code ≤ 9) || code = 21 || (code = 16 && a ≠ 0)) (fun s => s.wr .DRL_ERR_ADDR n a)).instFail n c code)

/-- Translated pieces the Derailleur can perform: package MMIO and BAR windows are none (R372). -/
def Tx.drlPieces (n : Nat) (x : Inst) (va len acc : Nat) : Tx Unit :=
  if len = 0 then Tx.pure () else
  Tx.andThen (fun s => s.xlRange (.drl n) x.ctx va len acc n) fun ps =>
  Tx.andThen (Tx.get (fun s => ps.any (fun p => s.region p.1 = .mmio || s.region p.1 = .bar))) fun bad =>
  Tx.stopIf bad (256 + 16) va
def Tx.dread (n : Nat) (x : Inst) (va len : Nat) : Tx Bytes :=
  if len = 0 then Tx.pure [] else
  Tx.andThen (Tx.drlPieces n x va len accLoad) fun _ => Tx.read (.drl n) x.ctx va len n
def Tx.dwrite (n : Nat) (x : Inst) (va : Nat) (b : Bytes) : Tx Unit :=
  if b = [] then Tx.pure () else
  Tx.andThen (Tx.drlPieces n x va b.length accStore) fun _ => Tx.write (.drl n) x.ctx va b n

/-! ### Reductions (R354 to R358) -/

/-- Elements of a contribution as the owner adds them: FP32 bits, or INT32. -/
def redElems (x : Inst) (b : Bytes) : List Nat :=
  (List.range (b.length / x.elem)).map fun i =>
    let v := fieldB b (x.elem * i) x.elem
    if x.dtype = 1 then v * 65536 else v
def satAdd32 (a b : Int) : Int × Bool :=
  let r := a + b
  if r > 2 ^ 31 - 1 then (2 ^ 31 - 1, true) else if r < -(2 ^ 31) then (-(2 ^ 31), true) else (r, false)
/-- One element of acc with one contribution: value, saturated. -/
def redStep (x : Inst) (a b : Nat) : Nat × Bool :=
  if x.dtype = 10 then
    let i := sgnN 32 a
    let j := sgnN 32 b
    if x.redop = 0 then (let (r, f) := satAdd32 i j; (uN 32 r, f)) else (uN 32 (if x.redop = 1 then max i j else min i j), false)
  else
    let u := decFloat 0 a
    let v := decFloat 0 b
    if x.redop = 0 then ((outF32 (addFV u v 0) 0 false false).1, false)
    else ((convFV (if x.redop = 1 then maxFV u v else minFV u v) 0 0 0 false false).1, false)
def redAll (x : Inst) (a b : List Nat) : List Nat × Bool :=
  let r := (a.zip b).map (fun p => redStep x p.1 p.2)
  (r.map (·.1), r.any (·.2))
/-- The bytes of a formed segment, rounded into BF16 once (R355), with canonical NaNs (R188). -/
def redBytes (x : Inst) (acc : List Nat) : Bytes :=
  acc.flatMap fun v =>
    if x.dtype = 1 then leBytes 2 (convFV (decFloat 0 v) 1 0 0 false false).1
    else if x.dtype = 10 then leBytes 4 v
    else leBytes 4 (convFV (decFloat 0 v) 0 0 0 false false).1
/-- Σ v² in ascending order by FFMA with RNE (R358). -/
def sumSq (x : Inst) (s0 : Nat) (b : Bytes) : Nat :=
  (redElems x b).foldl (fun s v => (outF32 (fmaFV (decFloat 0 v) (decFloat 0 v) (decFloat 0 s) 0) 0 false false).1) s0
/-- The instance forms norm terms. -/
def Inst.norms (x : Inst) : Bool := x.isRed && x.redop = 0 && x.dtype ≠ 10 && x.flag 2

/-- The norm term of the owned chunk is recorded, unless its step is over; 1,024 records per step (R358). -/
def Tx.normRecord (n : Nat) (x : Inst) (sum : Nat) : Tx Unit :=
  Tx.andThen (Tx.get (fun s => (s.stepOf (s.domainOf n), s.drl.norms.atD n []))) fun p =>
  if p.1 ≠ x.step then Tx.pure ()
  else
    let t := if x.tid = 0xFFFFFF then sum else (outF32 (mulFV (decFloat 0 sum) (.fin false 1 (-2 * x.scaleK))) 0 false false).1
    Tx.andThen (Tx.stopIf ((p.2.filter (fun r => r.2.1 = x.step)).length ≥ 1024) (256 + 0x84) 0) fun _ =>
    Tx.act (fun s => s.onDrl (fun d => { d with norms := d.norms.put n (p.2 ++ [(x.coll, x.step, t)]) }))

/-- Adds what can be added to a segment: in position order, or in Sprint what is there (R355, R356). -/
def redAdvance : Nat → Inst → RedSeg → RedSeg × Bool
  | 0, _, g => (g, false)
  | fuel + 1, x, g =>
    let pick := if x.gear = gearSprint then g.staged.head? else g.staged.find? (·.1 = g.next)
    match pick with
    | none => (g, false)
    | some (q, b) =>
      let (acc, f) := if g.next = 0 then (redElems x b, false) else redAll x g.acc (redElems x b)
      let (g', f') := redAdvance fuel x { next := g.next + 1, acc := acc, staged := g.staged.filter (·.1 ≠ q) }
      (g', f || f')

/-- A member's part is complete: all its own results formed, and for ALL_REDUCE every other chunk received. -/
def redOver (x : Inst) : Bool :=
  let k := segCount x.chunk
  x.formed ≥ k && (x.op = 1 || x.others.all (fun q => (x.got.filter (fun g => g.1 = q && g.2 ≥ 2 ^ 32)).length ≥ k))

/-- A contribution of position q to segment seg of the owned chunk arrives; a formed segment is written and sent. -/
def Tx.contribute (n : Nat) (x : Inst) (q seg : Nat) (b : Bytes) : Tx Unit :=
  let g := x.segs.atD seg {}
  let (g, sat) := redAdvance (x.count + 1) x { g with staged := g.staged ++ [(q, b)] }
  let x := { x with segs := x.segs.put seg g, got := x.got ++ [(q, seg)] }
  Tx.andThen (Tx.act (fun s => (s.setInst n x.coll (fun _ => x)).when sat (fun s => s.pf F.DRL_STATUS_sat n 1))) fun _ =>
  if g.next < x.count then Tx.pure ()
  else
    let out := redBytes x g.acc
    let nf := x.dtype ≠ 10 && (redElems x out).any (fun v => !(decFloat 0 v).isFin)
    let place := if x.op = 1 then x.dst + seg * segBytes else x.dst + x.own * x.chunk + seg * segBytes
    Tx.andThen (Tx.dwrite n x place out) fun _ =>
    Tx.andThen (Tx.act (fun s => s.when nf (fun s => s.pf F.DRL_STATUS_step_nf n 1))) fun _ =>
    Tx.andThen (Tx.act (fun s => if x.op = 1 then s else s.each x.others (fun q s =>
      s.drlSend n x q 5 seg (if seg = 0 then some (instHdr s n x) else none) out))) fun _ =>
    let x := { x with formed := x.formed + 1, segs := x.segs.put seg { g with acc := [] } }
    Tx.andThen (Tx.act (fun s => s.setInst n x.coll (fun _ => x))) fun _ =>
    if x.formed = segCount x.chunk && x.norms then
      Tx.andThen (Tx.dread n x (if x.op = 1 then x.dst else x.dst + x.own * x.chunk) x.chunk) fun all =>
      Tx.normRecord n x (sumSq x 0 all)
    else Tx.pure ()

/-! ### Gathers (R354, R360) -/

def gatherOver (x : Inst) : Bool := x.others.all (fun q => (x.got.filter (fun g => g.1 = q)).length ≥ segCount x.bytes)

/-- Block of a DIGEST instance: the tables of the die's two stacks, zero-padded (R360). -/
def Tx.digestBlock (n : Nat) (x : Inst) : Tx Bytes :=
  let half := x.bytes / 2
  let table := fun (b : Bytes) (st : Nat) =>
    let lst := fieldB b (128 + 8 * st) 8
    if lst = 0 then Tx.pure (zerosB half)
    else
      Tx.andThen (Tx.dread n x lst 64) fun h =>
      let len := 16 * fieldB h 0 4
      Tx.andThen (Tx.stopIf (len > half) (256 + 16) 0) fun _ =>
      Tx.andThen (Tx.dread n x (fieldB h 40 8) len) fun t => Tx.pure (sliceB t 0 half)
  Tx.andThen (Tx.dread n x x.aux 256) fun b =>
  Tx.andThen (table b (2 * n)) fun t0 =>
  Tx.andThen (table b (2 * n + 1)) fun t1 => Tx.pure (t0 ++ t1)

/-! ### Route lookups (R362 to R365) -/

def routeEnt (s : State) (n bank layer expert : Nat) : Bytes := s.drl.routes.atD (routeKey n bank (layer % 64 * 256 + expert)) []
def slotEnt (s : State) (n bank j : Nat) : Bytes := s.drl.routes.atD (routeKey n bank (16384 + j % 64)) []
def routeOk (e : Bytes) : Bool := bitN (fieldB e 0 1) 0 && 1 ≤ fieldB e 1 1 && fieldB e 1 1 ≤ 4
/-- Shard j: connection, die, slot. -/
def routeShard (e : Bytes) (j : Nat) : Nat × Nat × Nat := (fieldB e (8 + 4 * j) 2, fieldB e (10 + 4 * j) 1, fieldB e (11 + 4 * j) 1 % 64)
def slotOk (e : Bytes) : Bool := bitN (fieldB e 0 1) 0
def slotCtx (e : Bytes) : Nat := fieldB e 1 1 % 64
def slotCap (e : Bytes) : Nat := fieldB e 4 4
/-- The member a shard names. -/
def shardMember (x : Inst) (r : Nat × Nat × Nat) : Option Nat :=
  x.members.findIdx? (fun m => if r.1 = 0xFFFF then m.1 = 0xFFFF && m.2 = r.2.1 else m.1 = r.1)

/-- Pairs of this source: member, slot, token, k, shard; a lookup that fails is a routing fault: its layer's expert. -/
def pairsOf (s : State) (n : Nat) (x : Inst) (experts : Bytes) : Except Nat (List (Nat × Nat × Nat × Nat × Nat)) :=
  (List.range (x.tokens * x.topk)).foldl (fun acc i =>
    match acc with
    | .error e => .error e
    | .ok l =>
      let ex := fieldB experts i 1
      let e := routeEnt s n x.bank x.layer ex
      if !routeOk e then .error ex
      else
        let ms := (List.range (fieldB e 1 1)).map (fun j => (j, routeShard e j, shardMember x (routeShard e j)))
        if ms.any (fun m => m.2.2.isNone) then .error ex
        else .ok (l ++ ms.map (fun m => (m.2.2.getD 0, m.2.1.2.2, i / max 1 x.topk, i % max 1 x.topk, m.1)))) (.ok [])

/-- R365: the dispatch ends with ROUTE_FAULT. -/
def State.routeFault (s : State) (n c expert : Nat) : State :=
  match s.inst? n c with
  | none => s
  | some x =>
    let s := if s.gb F.DRL_ROUTE_FAULT_valid n then s
      else (((s.pf F.DRL_ROUTE_FAULT_layer n x.layer).pf F.DRL_ROUTE_FAULT_expert n expert).pf F.DRL_ROUTE_FAULT_step n x.step).pf F.DRL_ROUTE_FAULT_valid n 1
    let s := (s.pf F.DRL_STATUS_route_fault n 1).notice n 4 0
    (s.each x.others (fun q s => s.drlSend n x q 7 0 none [])).instEnd n c St.routeFault 0

/-! ### Dispatch (R366 to R369) -/

/-- Admission of one round (R367 step 2): allowances of the sources for their remaining counts. -/
def admitRound (cap : Nat) (m : List Nat) : List Nat :=
  let t := m.sum
  if t ≤ cap then m
  else
    let a := m.map (fun v => cap * v / t)
    let left := cap - a.sum
    ((m.zip a).foldl (fun (acc : List Nat × Nat) p =>
      if p.2 < p.1 && acc.2 > 0 then (acc.1 ++ [p.2 + 1], acc.2 - 1) else (acc.1 ++ [p.2], acc.2)) ([], left)).1
/-- Rounds of a slot: allowances by source, one list a round; none where more than 64 are needed. -/
def admitAll : Nat → Bool → Nat → List Nat → Option (List (List Nat))
  | 0, _, _, m => if m.sum = 0 then some [] else none
  | fuel + 1, drop, cap, m =>
    if m.sum = 0 then some []
    else
      let a := admitRound cap m
      if drop then some [a]
      else if cap = 0 then none
      else (admitAll fuel drop cap (m.zipWith (· - ·) a)).map (a :: ·)

/-- COUNT payload: 64 counts of 4 bytes, slot 0 first (log entry 16). -/
def countBytes (l : List Nat) : Bytes := (List.range 64).flatMap (fun i => beBytes 4 (l.getD i 0))
def countList (b : Bytes) : List Nat := (List.range 64).map (fun i => beVal (sliceB b (4 * i) 4))
/-- ALLOW payload: flags (bit 0 invalid, bits 13 to 8 the lowest invalid slot named), largest counts of 64 rounds, then records slot, round, allowance, offset of the
addressed source, 4 bytes each (log entry 16). -/
def allowBytes (invalid : Option Nat) (mx : List Nat) (rs : List (Nat × Nat × Nat × Nat)) : Bytes :=
  beBytes 4 (match invalid with | some sl => 1 + 256 * sl | none => 0) ++ (List.range 64).flatMap (fun i => beBytes 4 (mx.getD i 0)) ++
  rs.flatMap (fun r => beBytes 4 r.1 ++ beBytes 4 r.2.1 ++ beBytes 4 r.2.2.1 ++ beBytes 4 r.2.2.2)
def allowRecs (b : Bytes) : List (Nat × Nat × Nat × Nat) :=
  (List.range ((b.length - 260) / 16)).map fun i =>
    let o := 260 + 16 * i
    (beVal (sliceB b o 4), beVal (sliceB b (o + 4) 4), beVal (sliceB b (o + 8) 4), beVal (sliceB b (o + 12) 4))
def allowMax (b : Bytes) : List Nat := (List.range 64).map (fun i => beVal (sliceB b (4 + 4 * i) 4))

/-- Keys of a dropping dispatch (R349, R368): word 0 of a generator result for every pair (t, k), in lookup order. -/
def State.dropKeys (s : State) (n : Nat) (x : Inst) : List Nat × State :=
  (List.range (x.tokens * x.topk)).foldl (fun (acc : List Nat × State) i =>
    let s := acc.2
    let key := s.drl.rngKey.atD n 0
    if x.gear = gearFixed then
      let e := (fieldB x.record 16 8 + i / max 1 x.topk) * 8 + i % max 1 x.topk
      (acc.1 ++ [philox key (fixedCtr e 3 x.tid x.step) 0], s)
    else
      let c := s.drl.rngCtr.atD n 0
      (acc.1 ++ [philox key c 0], s.onDrl (fun d => { d with rngCtr := d.rngCtr.put n ((c + 1) % 2 ^ 128) }))) ([], s)

/-- Pairs of a member's slot in the order they are sent: by (t, k), or by key with ties by (t, k) (R368). -/
def slotPairs (x : Inst) (keys : List Nat) (q slot : Nat) : List (Nat × Nat × Nat × Nat × Nat) :=
  let l := x.pairs.filter (fun p => p.1 = q && p.2.1 = slot)
  if keys = [] then l
  else
    let k := fun (p : Nat × Nat × Nat × Nat × Nat) => keys.getD (p.2.2.1 * x.topk + p.2.2.2.1) 0
    sortBy (fun a b => k a < k b || (k a = k b && (a.2.2.1 < b.2.2.1 || (a.2.2.1 = b.2.2.1 && a.2.2.2.1 ≤ b.2.2.2.1)))) l

/-- A row in a receiver's buffers: the row bytes at a row index of a slot, with its tag for a DISPATCH. -/
def Tx.rowWrite (n : Nat) (x : Inst) (slot p off : Nat) (tag row : Bytes) : Tx Unit := fun s =>
  let e := slotEnt s n x.bank slot
  let y := { x with desc := setFieldB x.desc 6 1 (slotCtx e) }
  (Tx.andThen (Tx.dwrite n y ((if x.op = 4 then fieldB e 16 8 else fieldB e 24 8) + p * x.rowB + off) row) fun _ =>
    if x.op = 4 && off = 0 then Tx.dwrite n y (fieldB e 40 8 + 8 * p) tag else Tx.pure ()) s

def tagBytes (pos k shard tok : Nat) : Bytes := leBytes 2 pos ++ leBytes 1 k ++ leBytes 1 shard ++ leBytes 4 tok

/-- Where row number i of source q goes: slots ascend, then rounds, each with its offsets (R367 step 3). -/
def rowPlace (x : Inst) (q i : Nat) : Option Nat :=
  (x.rounds.foldl (fun (acc : Option Nat × Nat) r =>
    match acc.1 with
    | some _ => acc
    | none => let c := r.2.2.getD q 0; if acc.2 < c then (some r.1, 0) else (none, acc.2 - c)) (none, i)).1

/-- ENDs go out once the rows are acknowledged (R367 step 4): no operation of this Derailleur is under way on the members'
connections. -/
def acked (s : State) (n : Nat) (x : Inst) : Bool :=
  x.members.all (fun m => m.1 = 0xFFFF ||
    (let y := s.conn n m.1; !y.unacked.any (·.issuer = agentDrl n) && !y.queue.any (·.1 = agentDrl n) && !y.sending.any (·.1 = agentDrl n)))

/-- Count arrays of the member's slots, zero where a slot admitted none (R367 step 4). -/
def Tx.writeCounts (n : Nat) (x : Inst) : Tx Unit :=
  Tx.each (fun r => fun s =>
    let e := slotEnt s n x.bank r.1
    let y := { x with desc := setFieldB x.desc 6 1 (slotCtx e) }
    (Tx.dwrite n y (fieldB e 48 8) ((List.range 64).flatMap (fun i => leBytes 4 (r.2.1.getD i 0)))) s) x.rounds

/-! ### Combine (R370) -/

def w32add (a b : Nat) : Nat := (outF32 (addFV (decFloat 0 a) (decFloat 0 b) 0) 0 false false).1
def w32fma (a b c : Nat) : Nat := (outF32 (fmaFV (decFloat 0 a) (decFloat 0 b) (decFloat 0 c) 0) 0 false false).1
def partVal (x : Inst) (b : Bytes) (i : Nat) : Nat :=
  if x.pfmt = 1 then fieldB b (2 * i) 2 * 65536 else fieldB b (4 * i) 4
def Inst.elems (x : Inst) : Nat := x.partB / fmtBytes x.pfmt
def outBytes (x : Inst) (l : List Nat) : Bytes :=
  l.flatMap (fun v => if x.ofmt = 1 then leBytes 2 (convFV (decFloat 0 v) 1 0 0 false false).1 else leBytes 4 v)

/-- One output row from the area in the fixed order. -/
def Tx.combineRow (n : Nat) (x : Inst) (t : Nat) : Tx Unit :=
  Tx.andThen (Tx.dread n x (x.recVa 24 + t * x.topk) x.topk) fun ex =>
  Tx.andThen (Tx.dread n x (x.recVa 32 + 4 * t * x.topk) (4 * x.topk)) fun gates =>
  Tx.andThen (Tx.dread n x (x.recVa 40 + 16 * t * x.topk) (16 * x.topk)) fun place =>
  Tx.andThen (Tx.fold (fun acc k =>
    Tx.andThen (Tx.get (fun s => min 4 (fieldB (routeEnt s n x.bank x.layer (fieldB ex k 1)) 1 1))) fun ns =>
    Tx.andThen (Tx.fold (fun sum j =>
      if fieldB place (16 * k + 4 * j) 4 = 0xFFFFFFFF then Tx.pure sum
      else
        Tx.andThen (Tx.dread n x (x.recVa 48 + ((t * x.topk + k) * 4 + j) * x.partB) x.partB) fun b =>
        Tx.pure ((List.range x.elems).map (fun i => w32add (sum.getD i 0) (partVal x b i)))) (List.range ns) (List.replicate x.elems 0)) fun sum =>
    Tx.pure ((List.range x.elems).map (fun i => w32fma (fieldB gates (4 * k) 4) (sum.getD i 0) (acc.getD i 0)))) (List.range x.topk) (List.replicate x.elems 0)) fun out =>
  Tx.dwrite n x (x.dst + t * x.elems * fmtBytes x.ofmt) (outBytes x out)
/-- In Sprint the area holds FP32 rows to which each partial was applied as it came. -/
def Tx.sprintRow (n : Nat) (x : Inst) (t : Nat) : Tx Unit :=
  Tx.andThen (Tx.dread n x (x.recVa 48 + t * 4 * x.elems) (4 * x.elems)) fun b =>
  Tx.dwrite n x (x.dst + t * x.elems * fmtBytes x.ofmt) (outBytes x ((List.range x.elems).map (fun i => fieldB b (4 * i) 4)))

/-- A partial row reaches its token's source. -/
def Tx.partIn (n : Nat) (x : Inst) (tag part : Bytes) (off : Nat) : Tx Unit :=
  let k := fieldB tag 2 1
  let j := fieldB tag 3 1
  let t := fieldB tag 4 4
  if x.gear = gearSprint then
    Tx.andThen (Tx.dread n x (x.recVa 32 + 4 * (t * x.topk + k)) 4) fun g =>
    let e0 := off / fmtBytes x.pfmt
    let cnt := part.length / fmtBytes x.pfmt
    let va := x.recVa 48 + t * 4 * x.elems + 4 * e0
    Tx.andThen (Tx.dread n x va (4 * cnt)) fun a =>
    Tx.dwrite n x va ((List.range cnt).flatMap (fun i => leBytes 4 (w32fma (leVal g) (partVal x part i) (fieldB a (4 * i) 4))))
  else Tx.dwrite n x (x.recVa 48 + ((t * x.topk + k) * 4 + j) * x.partB + off) part

/-! ### Progress -/

/-- Whether the exchange of an instance is over, with the writes its end makes. -/
def State.instCheck (s : State) (n c : Nat) : State :=
  match s.inst? n c with
  | none => s
  | some x =>
    if !x.begun then s
    else if x.op ≤ 1 then (if redOver x then s.instEnd n c 0 0 else s)
    else if x.op = 2 || x.op = 3 || x.op = 9 then (if gatherOver x then s.instEnd n c 0 0 else s)
    else if x.op = 8 then s
    else
      let due := x.endDue && !x.endSent && acked s n x
      let s := if due then (s.each x.others (fun q s => s.drlSend n x q 6 0 (some (instHdr s n x)) [])).setInst n c (fun x => { x with endSent := true }) else s
      match s.inst? n c with
      | none => s
      | some x =>
        if !x.endSent || !x.others.all (fun q => x.ends.contains q) then s
        else
          s.drlRun n c (
            Tx.andThen (if x.op = 4 then
                Tx.andThen (Tx.writeCounts n x) fun _ =>
                Tx.andThen (Tx.dwrite n x (x.recVa 56) ((List.range 64).flatMap (fun i => leBytes 4 (x.rtab.getD i 0)))) fun _ =>
                Tx.act (fun s => s.onDrl (fun d => { d with admitted := d.admitted.put (n * 64 + x.layer % 64) x.rounds }))
              else if x.op = 5 || x.op = 7 then
                Tx.each (fun t => if x.gear = gearSprint then Tx.sprintRow n x t else Tx.combineRow n x t) (List.range x.tokens)
              else Tx.pure ()) fun _ =>
            Tx.andThen (Tx.act (fun s => s.instEnd n c 0 0)) fun _ => Tx.done)

/-- Counts of the pairs of this source for a member's slots (R367 step 1). -/
def countsFor (x : Inst) (q : Nat) : List Nat := (List.range 64).map (fun sl => (x.pairs.filter (fun p => p.1 = q && p.2.1 = sl)).length)

/-- Every COUNT is here: rounds are formed and ALLOWs sent; this member's own allowance is taken as the others' are. -/
def State.formRounds (s : State) (n c : Nat) : State × Option Bytes :=
  match s.inst? n c with
  | none => (s, none)
  | some x =>
    if x.counts.length < x.count || x.allowed then (s, none)
    else
      let m := fun (sl q : Nat) => ((x.counts.find? (·.1 = q)).map (fun r => r.2.getD sl 0)).getD 0
      let per := (List.range 64).filterMap fun sl =>
        let ms := (List.range x.count).map (m sl)
        let e := slotEnt s n x.bank sl
        if ms.sum = 0 && !slotOk e then none
        else
          some (sl, slotOk e, if slotOk e then admitAll 64 (x.flag 4) (slotCap e) ms else some [], slotCap e, fieldB e 8 4)
      if per.any (fun p => p.2.1 && (match p.2.2.1 with
          | none => true
          | some a => a ≠ [] && (a.length - 1) * p.2.2.2.1 + (a.getLast?.map (·.sum)).getD 0 > p.2.2.2.2)) then (s.instFail n c 0x85, none)
      else
        let invalid := fun (q : Nat) => (per.find? (fun p => !p.2.1 && m p.1 q ≠ 0)).map (·.1)
        let ok := per.filterMap (fun p => if p.2.1 then p.2.2.1.map (fun a => (p.1, a, p.2.2.2.1)) else none)
        let rounds := ok.map (fun p => (p.1, p.2.1.map (·.sum), (List.range x.count).map (fun q => (p.2.1.map (fun a => a.getD q 0)).sum)))
        let mx := (List.range 64).map (fun r => maxList (rounds.map (fun p => p.2.1.getD r 0)))
        let recs := fun (q : Nat) => ok.flatMap (fun p => (p.2.1.zipIdx).map (fun ar =>
          (p.1, ar.2, ar.1.getD q 0, ar.2 * p.2.2 + (ar.1.take q).sum)))
        let s := s.setInst n c (fun x => { x with rounds := rounds, allowed := true })
        let s := s.each x.others (fun q s => s.drlSend n x q 1 0 none (allowBytes (invalid q) mx (recs q)))
        (s, some (allowBytes (invalid x.own) mx (recs x.own)))

/-- A pair is dropped: counted once, however many of its shards drop it (R361, R368). -/
def State.dropPair (s : State) (n c i : Nat) : State :=
  match s.inst? n c with
  | none => s
  | some x => if x.drops.contains i then s else (s.setInst n c (fun x => { x with drops := x.drops ++ [i] })).bump .DRL_DROPPED n

/-- A source takes an ALLOW of member q and sends that member its rows (R367 step 3). Own rows are written at once. -/
def State.takeAllow (s : State) (n c q : Nat) (b : Bytes) : State :=
  match s.inst? n c with
  | none => s
  | some x =>
    if x.allows.contains q then s
    else if bitN (beVal (sliceB b 0 4)) 0 then
      let sl := bitsN (beVal (sliceB b 0 4)) 13 8
      let i := match x.pairs.find? (fun p => p.1 = q && p.2.1 = sl) with | some p => p.2.2.1 * x.topk + p.2.2.2.1 | none => 0
      s.routeFault n c (fieldB x.experts i 1)
    else
      let recs := allowRecs b
      s.drlRun n c (
        Tx.andThen (Tx.each (fun sl =>
          let ps := slotPairs x x.keys q sl
          let places := (recs.filter (·.1 = sl)).flatMap (fun r => (List.range r.2.2.1).map (fun i => r.2.2.2 + i))
          Tx.each (fun ip =>
            let (p, i) := ip
            let at' := x.recVa 40 + 4 * ((p.2.2.1 * x.topk + p.2.2.2.1) * 4 + p.2.2.2.2)
            match places[i]? with
            | none => Tx.andThen (Tx.dwrite n x at' (leBytes 4 0xFFFFFFFF)) fun _ => Tx.act fun s =>
                s.dropPair n c (p.2.2.1 * x.topk + p.2.2.2.1)
            | some row =>
              Tx.andThen (Tx.dwrite n x at' (leBytes 4 row)) fun _ =>
              Tx.andThen (Tx.dread n x (x.src + p.2.2.1 * x.rowB) x.rowB) fun bs =>
              let tag := tagBytes x.own p.2.2.2.1 p.2.2.2.2 p.2.2.1
              if q = x.own then Tx.rowWrite n x sl row 0 tag bs else Tx.act (fun s => s.drlSend n x q 2 row none (tag ++ bs))) ps.zipIdx) (List.range 64)) fun _ =>
        Tx.andThen (Tx.act (fun s => s.setInst n c (fun x =>
          let l := x.allows ++ [q]
          { x with allows := l, rtab := (List.range 64).map (fun r => max (x.rtab.getD r 0) ((allowMax b).getD r 0)), endDue := l.length ≥ x.count }))) fun _ =>
        Tx.done)

/-- A member's counts are taken. The allowance to this member itself is a message to it. -/
def State.takeCount (s : State) (n c q : Nat) (l : List Nat) : State :=
  let s := s.setInst n c (fun x => if x.counts.any (·.1 = q) then x else { x with counts := x.counts ++ [(q, l)] })
  match s.formRounds n c with
  | (s, some own) =>
    match s.inst? n c with
    | some x => s.onDrl (fun d => { d with early := d.early ++ [(n, 1, { collId := c, step := x.step, senderPos := x.own, payload := own })] })
    | none => s
  | (s, none) => s

/-! ### The verdict (R359) -/

/-- Sum of a norm list of a step in ascending coll_id, and whether it was not empty. -/
def normSum (l : List (Nat × Nat × Nat)) (step : Nat) : Nat × Bool :=
  let r := sortBy (fun a b => a.1 ≤ b.1) (l.filter (fun r => r.2.1 = step))
  (r.foldl (fun a t => w32add a t.2.2) 0, r ≠ [])

/-- The lead die's header-only exchange has its result: every die of the domain gets it (R359 step 4). With verdict_en = 0
the verdict is the package's own (R236). -/
def State.verdictOut (s : State) (n c : Nat) (nf qv : Bool) (q : Nat) : State :=
  match s.inst? n c with
  | none => s
  | some x =>
    let d := s.domainOf n
    let v := if s.gb F.NUM_TABLE_BASE_verdict_en d then nf else x.localNf
    s.onDrl (fun g => { g with resNet := g.resNet ++ (s.domainIn d).map (fun k =>
      { to' := k, coll := c, step := x.step, nf := v, qv := qv, q := q, status := 0, detail := 0 }) })

/-- Position 0 has every member's header: it sums in the order of R355 and returns the result. -/
def State.verdictSum (s : State) (n c : Nat) : State :=
  match s.inst? n c with
  | none => s
  | some x =>
    if !x.merged || x.own ≠ 0 || x.qs.length < x.count then s
    else
      let l := if x.gear = gearSprint then x.qs else sortBy (fun a b => a.1 ≤ b.1) x.qs
      let q := match l with | [] => 0 | h :: t => t.foldl (fun a r => w32add a r.2.2) h.2.2
      let qv := l.any (fun r => r.2.1)
      let h : RedHdr := { nf := x.nf, qValid := qv, q := BitVec.ofNat 32 q, step := x.step, gsig := x.gsig }
      let s := s.each x.others (fun k s => s.drlSend n x k 5 0 (some h) [])
      s.verdictOut n c x.nf qv q

/-- The lead die has every die's term: local_nf is taken, terms are summed, and the exchange over the group starts (R359
steps 2 and 3). With verdict_en = 0 the header carries no local mark (R236). -/
def State.verdictMerge (s : State) (n c : Nat) : State :=
  match s.inst? n c with
  | none => s
  | some x =>
    let d := s.domainOf n
    let dies := s.domainIn d
    if x.merged || x.op ≠ 8 || x.stage ≠ 2 || s.leadDie d ≠ some n || !dies.all (fun k => x.terms.any (·.1 = k)) then s
    else
      let (v, s) := s.takeNf d
      let ts := sortBy (fun a b => a.1 ≤ b.1) x.terms
      let own := v || ts.any (fun t => t.2.2.2)
      let q := match ts with | [] => 0 | h :: t => t.foldl (fun a r => w32add a r.2.1) h.2.1
      let qv := ts.any (fun t => t.2.2.1)
      let nf := own && s.gb F.NUM_TABLE_BASE_verdict_en d
      let h : RedHdr := { nf := nf, qValid := qv, q := BitVec.ofNat 32 q, step := x.step, gsig := x.gsig }
      let s := s.setInst n c (fun x => { x with merged := true, localNf := own, nf := x.nf || nf, qs := x.qs ++ [(x.own, qv, q)] })
      if x.own = 0 then s.verdictSum n c else s.drlSend n x 0 4 0 (some h) []

/-! ### Starting an instance (R348, R350, R352, R353, R356) -/

/-- Staging an instance reserves (R356). -/
def stageOf (x : Inst) : Nat := if x.isRed then x.count * 2 * segBytes else 0
def stageFits (s : State) (n : Nat) (x : Inst) : Bool :=
  (((instsOf s n).filter (fun p => p.2.stage = 2)).map (fun p => stageOf p.2)).sum + stageOf x ≤ s.gf F.DRL_STAGE_SIZE_mib n * 2 ^ 20

/-! The first actions of a running instance, by operation. -/

def hdrAt (s : State) (n : Nat) (x : Inst) (i : Nat) : Option RedHdr := if i = 0 then some (instHdr s n x) else none
def segsOf (len : Nat) : List Nat := List.range (segCount len)

/-- Ops 0 and 1: every other member's chunk goes to it, and the own chunk is a contribution. -/
def Tx.beginReduce (n : Nat) (x : Inst) : Tx Unit :=
  Tx.andThen (Tx.each (fun q => Tx.each (fun i =>
    Tx.andThen (Tx.dread n x (x.src + q * x.chunk + i * segBytes) (segLen x.chunk i)) fun b =>
    Tx.act (fun s => s.drlSend n x q 4 i (hdrAt s n x i) b)) (segsOf x.chunk)) x.others) fun _ =>
  Tx.each (fun i =>
    Tx.andThen (Tx.dread n x (x.src + x.own * x.chunk + i * segBytes) (segLen x.chunk i)) fun b => fun s =>
    match s.inst? n x.coll with
    | some y => Tx.contribute n y y.own i b s
    | none => (.ok (), s)) (segsOf x.chunk)
/-- Ops 2 and 9: the block goes to every member. -/
def Tx.beginGather (n : Nat) (x : Inst) : Tx Unit :=
  Tx.andThen (if x.op = 9 then Tx.digestBlock n x else Tx.dread n x x.src x.bytes) fun b =>
  let dg := crc64 b
  let y := { x with digest := dg }
  Tx.andThen (Tx.act (fun s => if x.op ≠ 9 then s else s.setInst n x.coll (fun x => { x with
    digest := dg, digest0 := if x.own = 0 then some dg else x.digest0 }))) fun _ =>
  Tx.andThen (Tx.dwrite n x (x.dst + x.own * x.bytes) b) fun _ =>
  Tx.act (fun s => s.each x.others (fun q s => s.each (segsOf x.bytes) (fun i s =>
    s.drlSend n y q 4 i (hdrAt s n y i) (sliceB b (i * segBytes) (segLen x.bytes i)))))
/-- Op 3: block q goes to member q. -/
def Tx.beginExchange (n : Nat) (x : Inst) : Tx Unit :=
  Tx.andThen (Tx.each (fun q => Tx.each (fun i =>
    Tx.andThen (Tx.dread n x (x.src + q * x.bytes + i * segBytes) (segLen x.bytes i)) fun b =>
    Tx.act (fun s => s.drlSend n x q 4 i (hdrAt s n x i) b)) (segsOf x.bytes)) x.others) fun _ =>
  Tx.andThen (Tx.dread n x (x.src + x.own * x.bytes) x.bytes) fun b =>
  Tx.dwrite n x (x.dst + x.own * x.bytes) b
/-- Op 4: the pairs are looked up and counted (R367 step 1). Placements that no row gets read as absent. -/
def Tx.beginDispatch (n : Nat) (x : Inst) : Tx Unit :=
  Tx.andThen (Tx.dread n x (x.recVa 24) (x.tokens * x.topk)) fun ex =>
  Tx.andThen (Tx.dwrite n x (x.recVa 40) ((List.range (x.tokens * x.topk * 4)).flatMap (fun _ => leBytes 4 0xFFFFFFFF))) fun _ =>
  Tx.act (fun s =>
    match pairsOf s n x ex with
    | .error e => s.routeFault n x.coll e
    | .ok l =>
      let (ks, s) := if x.flag 4 then s.dropKeys n x else ([], s)
      let x := { x with pairs := l, experts := ex, keys := ks }
      let s := s.setInst n x.coll (fun _ => x)
      let s := s.each x.others (fun q s => s.drlSend n x q 0 0 none (countBytes (countsFor x q)))
      s.takeCount n x.coll x.own (countsFor x x.own))
/-- Op 6: each row goes to every placement of its pairs (R371). -/
def Tx.beginGradDispatch (n : Nat) (x : Inst) : Tx Unit :=
  Tx.andThen (Tx.dread n x (x.recVa 24) (x.tokens * x.topk)) fun ex =>
  Tx.andThen (Tx.get (fun s => pairsOf s n x ex)) fun r =>
  match r with
  | .error e => Tx.act (fun s => s.routeFault n x.coll e)
  | .ok l =>
    Tx.andThen (Tx.dread n x (x.recVa 40) (x.tokens * x.topk * 16)) fun place =>
    let x := { x with pairs := l }
    Tx.andThen (Tx.each (fun q => Tx.each (fun sl =>
      let ps := (slotPairs x [] q sl).filterMap (fun p =>
        let row := fieldB place (4 * ((p.2.2.1 * x.topk + p.2.2.2.1) * 4 + p.2.2.2.2)) 4
        if row = 0xFFFFFFFF then none else some (row, p))
      Tx.each (fun rp =>
        Tx.andThen (Tx.dread n x (x.src + rp.2.2.2.1 * x.rowB) x.rowB) fun bs =>
        let tag := tagBytes x.own rp.2.2.2.2.1 rp.2.2.2.2.2 rp.2.2.2.1
        if q = x.own then Tx.rowWrite n x sl rp.1 0 tag bs else Tx.act (fun s => s.drlSend n x q 2 rp.1 none (tag ++ bs)))
        (sortBy (fun a b => a.1 ≤ b.1) ps)) (List.range 64)) (List.range x.count)) fun _ =>
    Tx.act (fun s => s.setInst n x.coll (fun y => { y with endDue := true }))
/-- Ops 5 and 7: the partial row of every admitted row goes to the source its tag names (R370, R371). -/
def Tx.beginCombine (n : Nat) (x : Inst) : Tx Unit :=
  Tx.andThen (if x.gear = gearSprint then Tx.each (fun t => Tx.dwrite n x (x.recVa 48 + t * 4 * x.elems) (zerosB (4 * x.elems))) (List.range x.tokens)
    else Tx.pure ()) fun _ =>
  Tx.andThen (Tx.each (fun r => fun s =>
    let e := slotEnt s n x.bank r.1
    let y := { x with desc := setFieldB x.desc 6 1 (slotCtx e) }
    (Tx.each (fun (rc : Nat × Nat) => Tx.each (fun i =>
      let p := rc.2 * slotCap e + i
      Tx.andThen (Tx.dread n y (fieldB e 40 8 + 8 * p) 8) fun tag =>
      Tx.andThen (Tx.dread n y (fieldB e 32 8 + p * x.partB) x.partB) fun b =>
      let q := fieldB tag 0 2
      if q = x.own then Tx.partIn n x tag b 0 else Tx.act (fun s => s.drlSend n x q 3 p none (tag ++ b))) (List.range rc.1)) r.2.1.zipIdx) s) x.rounds) fun _ =>
  Tx.act (fun s => s.setInst n x.coll (fun y => { y with endDue := true }))
/-- Op 8: the die's term goes to the lead die (R359 step 1). -/
def Tx.beginVerdict (n : Nat) (x : Inst) : Tx Unit :=
  Tx.act (fun s =>
    let lead := (s.leadDie (s.domainOf n)).getD n
    let (q, qv) := normSum (s.drl.norms.atD n []) x.step
    s.onDrl (fun d => { d with termNet := d.termNet ++
      [{ to' := lead, from' := n, coll := x.coll, step := x.step, q := q, qv := qv, nf := s.gb F.DRL_STATUS_step_nf n }] }))

/-- The first actions of an instance in stage 2, once. -/
def State.instBegin (s : State) (n c : Nat) : State :=
  match s.inst? n c with
  | none => s
  | some x =>
    if x.stage ≠ 2 || x.begun then s
    else
      let m := match x.op with
        | 0 | 1 => Tx.beginReduce n x
        | 2 | 9 => Tx.beginGather n x
        | 3 => Tx.beginExchange n x
        | 4 => Tx.beginDispatch n x
        | 6 => Tx.beginGradDispatch n x
        | 5 | 7 => Tx.beginCombine n x
        | _ => Tx.beginVerdict n x
      s.drlRun n c (Tx.andThen m fun _ => Tx.andThen (Tx.act (fun s => s.setInst n c (fun x => { x with begun := true }))) fun _ => Tx.done)

end Sys2Proof.Machine
end

