-- ==== Sys2Proof/Machine/DrlCmds.lean ====
section
/-! DEFINITION. The commands of the Derailleur: starting collectives, taking messages, route banks, the verdict's terms and
results (R348 to R374). -/

namespace Sys2Proof.Machine

def State.stageWaits (s : State) (n : Nat) : State := s.pf F.DRL_STATUS_stage_wait n (bN ((instsOf s n).any (fun p => p.2.stage = 1)))

/-! ### Messages (R352, R356, R357, R373) -/

/-- Bytes of a whole message of a kind, where the spec fixes them: segments, and rows with their tags. -/
def wholeLen (x : Inst) (kind seg : Nat) : Option Nat :=
  match kind with
  | 2 => some (8 + x.rowB)
  | 3 => some (8 + x.partB)
  | 4 => if x.op = 8 then none else some (segLen (if x.isRed then x.chunk else x.bytes) seg)
  | 5 => if x.op = 8 then none else some (segLen x.chunk seg)
  | _ => none

/-- The instance has a message of this kind and segment. -/
def fits (x : Inst) (kind seg : Nat) : Bool :=
  match kind with
  | 0 => x.op = 4
  | 1 => x.op = 4
  | 2 => x.op = 4 || x.op = 6
  | 3 => x.op = 5 || x.op = 7
  | 4 => x.op = 8 || ((x.op ≤ 3 || x.op = 9) && seg < segCount (if x.isRed then x.chunk else x.bytes))
  | 5 => x.op = 8 || (x.op = 0 && seg < segCount x.chunk)
  | 6 => 4 ≤ x.op && x.op ≤ 7
  | 7 => true
  | _ => false

/-- What a whole message does to its running instance. -/
def Tx.takeWhole (n kind : Nat) (x : Inst) (m : DrlMsg) : Tx Unit :=
  let c := x.coll
  let q := m.senderPos
  let b := m.payload
  match kind with
  | 0 => Tx.act (fun s => s.takeCount n c q (countList b))
  | 1 => Tx.act (fun s => s.takeAllow n c q b)
  | 2 =>
    match rowPlace x q (x.rowsGot.atD q 0) with
    | none => Tx.act (fun s => s.drlBad n)
    | some slot =>
      Tx.andThen (Tx.rowWrite n x slot m.seg 0 (b.take 8) (b.drop 8)) fun _ =>
      Tx.act (fun s => s.setInst n c (fun x => { x with rowsGot := x.rowsGot.put q (x.rowsGot.atD q 0 + 1) }))
  | 3 => Tx.partIn n x (b.take 8) (b.drop 8) 0
  | 4 =>
    if x.op ≤ 1 then Tx.contribute n x q m.seg b
    else if x.op = 8 then
      Tx.act (fun s =>
        let h := m.hdr.getD {}
        (s.setInst n c (fun x => { x with nf := x.nf || h.nf, qs := if x.qs.any (·.1 = q) then x.qs else x.qs ++ [(q, h.qValid, h.q.toNat)] })).verdictSum n c)
    else
      Tx.andThen (Tx.dwrite n x (x.dst + q * x.bytes + m.seg * segBytes) b) fun _ =>
      Tx.act (fun s => s.setInst n c (fun x => { x with
        got := if x.got.contains (q, m.seg) then x.got else x.got ++ [(q, m.seg)]
        digest0 := match m.hdr with | some h => if q = 0 && h.digestValid then some h.digest else x.digest0 | none => x.digest0 }))
  | 5 =>
    if x.op = 8 then
      Tx.act (fun s => if q ≠ 0 then s.drlBad n else let h := m.hdr.getD {}; s.verdictOut n c h.nf h.qValid h.q.toNat)
    else
      Tx.andThen (Tx.dwrite n x (x.dst + q * x.chunk + m.seg * segBytes) b) fun _ =>
      Tx.act (fun s => s.setInst n c (fun x => { x with
        got := if x.got.contains (q, m.seg + 2 ^ 32) then x.got else x.got ++ [(q, m.seg + 2 ^ 32)] }))
  | _ => Tx.act (fun s => s.setInst n c (fun x => { x with ends := if x.ends.contains q then x.ends else x.ends ++ [q] }))

/-- Segments of a position that wait in staging (R356). -/
def stagedOf (x : Inst) (q : Nat) : Nat := (x.segs.rows.map (fun r => (r.2.staged.filter (·.1 = q)).length)).sum
/-- A contribution in the order sent, with a free place in staging. -/
def accepts (x : Inst) (kind q seg : Nat) : Bool :=
  !(kind = 4 && x.isRed) || (stagedOf x q < 2 && seg = (x.got.filter (fun g => g.1 = q && g.2 < 2 ^ 32)).length)
def headerBad (x : Inst) (h : Option RedHdr) : Bool := match h with | some h => h.gsig ≠ x.gsig || h.step ≠ x.step | none => false
def partKey (q kind seg : Nat) : Nat := (q * 8 + kind) * 2 ^ 32 + seg % 2 ^ 32

/-- A message for a running instance. None where it is not taken now: it finds no place (R356), or an access waits on a
locked page; it is then not acknowledged and comes again. -/
def State.takeMsg (s : State) (n kind : Nat) (m : DrlMsg) : Option State :=
  let c := m.collId
  match s.inst? n c with
  | none => some s
  | some x =>
    let q := m.senderPos
    if q ≥ x.count || !fits x kind m.seg then some (s.drlBad n)
    else if kind = 7 then some (s.instFail n c 0x81)
    else if headerBad x m.hdr then some (s.instFail n c 0x83)
    else if !accepts x kind q m.seg then none
    else
      let nf := x.op ≠ 8 && (match m.hdr with | some h => h.nf | none => false)
      let s0 := s.when nf (fun s => s.pf F.DRL_STATUS_step_nf n 1)
      let k := partKey q kind m.seg
      let all := x.part.atD k [] ++ m.payload
      match wholeLen x kind m.seg with
      | some len =>
        if all.length < len then some (s0.setInst n c (fun x => { x with part := x.part.put k all }))
        else if all.length > len then some ((s0.drlBad n).setInst n c (fun x => { x with part := x.part.del k }))
        else
          let y := { x with part := x.part.del k }
          match (Tx.andThen (Tx.act (fun s => s.setInst n c (fun _ => y))) fun _ => Tx.takeWhole n kind y { m with payload := all }) s0 with
          | (.ok _, t) => some (t.instCheck n c)
          | (.error (0, _), _) => none
          | (.error (e, a), t) => some (t.drlRun n c (Tx.fail e a))
      | none =>
        match Tx.takeWhole n kind x m s0 with
        | (.ok _, t) => some (t.instCheck n c)
        | (.error (0, _), _) => none
        | (.error (e, a), t) => some (t.drlRun n c (Tx.fail e a))

/-- Whether a message's instance runs: some true, some false when it has ended, none when it has not started. -/
def msgRuns (s : State) (n : Nat) (m : DrlMsg) : Option Bool :=
  let same := fun (st : Nat) => st % 2 ^ 32 = m.step % 2 ^ 32
  let now := s.stepOf (s.domainOf n)
  let late := (m.step + 2 ^ 32 - now % 2 ^ 32) % 2 ^ 32 ≥ 2 ^ 31
  match s.inst? n m.collId with
  | some x => if same x.step then (if x.begun then some true else none) else if late then some false else none
  | none => if (match s.drl.ended.at? (ik n m.collId) with | some e => same e | none => false) || late then some false else none

/-- Held messages whose instance now runs are taken, in the order they came. -/
def State.replayOnce (s : State) : State :=
  let held := s.drl.early
  (s.onDrl (fun d => { d with early := [] })).each held fun r s =>
    let (n, kind, m) := r
    let keep := fun (s : State) => s.onDrl (fun d => { d with early := d.early ++ [r] })
    match msgRuns s n m with
    | none => keep s
    | some false => s.drlBad n
    | some true => match s.takeMsg n kind m with | some t => t | none => keep s
/-- A message taken can release another: allowances of a member to itself, and contributions behind a full place. -/
def State.replay (s : State) : State := s.replayOnce.replayOnce.replayOnce

/-- Operations that ended with a code other than OK fail the instances of their connections (R372). -/
def State.hearOnce (s : State) : State :=
  let told := s.at'.told
  State.each ({ s with at' := { s.at' with told := [] } } : State) told fun (r : Nat × Nat × Nat) s =>
    s.each ((instsOf s r.1).filter (fun p => p.2.begun && p.2.members.any (fun m => m.1 = r.2.1))) fun (p : Nat × Inst) s =>
      s.instFail r.1 p.1 (if r.2.2 = 1 then 0x80 else 0x86)
def State.hearAll : Nat → State → State
  | 0, s => s
  | fuel + 1, s => if s.at'.told = [] then s else State.hearAll fuel s.hearOnce
/-- A message at the Derailleur of die n: whether it is taken now. One whose instance has not started is kept, at most two of a sender. -/
def State.drlTake (s : State) (n kind : Nat) (m : DrlMsg) : Bool × State :=
  if kind > 7 || !drlOn s n || !s.blkIn n 4 then (true, s.drlBad n)
  else
    let s := s.wake (.drl n)
    match msgRuns s n m with
    | some false => (true, s.drlBad n)
    | some true => match s.takeMsg n kind m with | some t => (true, t) | none => (false, s)
    | none =>
      let mine := s.drl.early.filter (fun r => r.1 = n && r.2.2.collId = m.collId && r.2.2.step = m.step && r.2.2.senderPos = m.senderPos)
      if mine.length ≥ 2 then (false, s) else (true, s.onDrl (fun d => { d with early := d.early ++ [(n, kind, m)] }))
/-- Messages an engine delivered behind a gap reach their units; the Derailleur keeps one it cannot take yet. -/
def State.inboxGo (s : State) : State :=
  let box := s.at'.inbox
  State.each ({ s with at' := { s.at' with inbox := [] } } : State) box fun (r : Nat × Nat × AtRx) s =>
    match r.2.2 with
    | .drl kind m => match s.drlTake r.1 kind m with
      | (true, s) => s
      | (false, s) => s.onDrl (fun d => { d with early := d.early ++ [(r.1, kind, m)] })
    | .nme kind st shard step off data => (s.nmeTake kind st shard step off data r.2.1 0).2
    | _ => s
/-- What follows a command that could move an instance on: messages delivered, held messages, failed operations, ENDs that are due. -/
def State.drlGo (s : State) : State :=
  let s := s.inboxGo.replay
  let s := State.hearAll 20 s
  s.each (s.drl.insts.rows.map (·.1)) (fun k s => s.instCheck (k / 65536) (k % 65536))

/-- A message arrives at the Derailleur of die n, over the Chainring or a connection. -/
def State.drlMsg (s : State) (n kind : Nat) (m : DrlMsg) (h : Option AtHdr) : State :=
  if n ≥ 8 then s else (s.atVia n h (.drl kind m) (fun s => s.drlTake n kind m)).drlGo

def execDrlCount (n : Nat) (m : DrlMsg) (s : State) (h : Option AtHdr := none) : Res := .next (s.drlMsg n 0 m h)
def execDrlAllow (n : Nat) (m : DrlMsg) (s : State) (h : Option AtHdr := none) : Res := .next (s.drlMsg n 1 m h)
def execDrlRow (n : Nat) (m : DrlMsg) (s : State) (h : Option AtHdr := none) : Res := .next (s.drlMsg n 2 m h)
def execDrlPart (n : Nat) (m : DrlMsg) (s : State) (h : Option AtHdr := none) : Res := .next (s.drlMsg n 3 m h)
def execDrlData (n : Nat) (m : DrlMsg) (s : State) (h : Option AtHdr := none) : Res := .next (s.drlMsg n 4 m h)
def execDrlResult (n : Nat) (m : DrlMsg) (s : State) (h : Option AtHdr := none) : Res := .next (s.drlMsg n 5 m h)
def execDrlEnd (n : Nat) (m : DrlMsg) (s : State) (h : Option AtHdr := none) : Res := .next (s.drlMsg n 6 m h)
def execDrlAbort (n : Nat) (m : DrlMsg) (s : State) (h : Option AtHdr := none) : Res := .next (s.drlMsg n 7 m h)
/-! ### Repair messages of an NME (R285) -/

/-- Receipt of a repair message at NME st. -/
def State.nmeVia (s : State) (st : Nat) (h : Option AtHdr) (die kind shard step off : Nat) (data : Bytes) : State :=
  let s := s.atVia (stackDie st) h (.nme kind st shard step off data) (fun s => s.nmeTake kind st shard step off data (viaConn h) die)
  if h.isSome then s.drlGo else s

def execRepairReq (st shard step : Nat) (s : State) (die : Nat := 0) (h : Option AtHdr := none) : Res := .next (s.nmeVia st h die 0 shard step 0 [])
def execRepairData (st shard step off : Nat) (data : Bytes) (s : State) (h : Option AtHdr := none) : Res := .next (s.nmeVia st h 0 1 shard step off data)
def execRepairEnd (st shard step crc : Nat) (s : State) (h : Option AtHdr := none) : Res := .next (s.nmeVia st h 0 2 shard step 0 (leBytes 8 crc))
def execRepairNak (st shard step reason : Nat) (s : State) (h : Option AtHdr := none) : Res :=
  .next (s.nmeVia st h 0 3 shard step 0 [BitVec.ofNat 8 reason])

/-! ### Timeouts (R372) -/

/-- No message was received or acknowledged for DRL_CTRL.timeout (R372). -/
def execDrlTimeout (n coll : Nat) (s : State) : Res :=
  match s.inst? n coll with
  | some x => .next (if n < 8 && x.stage = 2 then (s.instFail n coll 0x82).drlGo else s)
  | none => .next s

/-! ### Starting (R348, R350 to R354, R356, R366) -/

/-- The instance runs once its staging fits (R356). -/
def State.instStage (s : State) (n c : Nat) : State :=
  match s.inst? n c with
  | none => s
  | some x =>
    if stageFits s n x then (((s.setInst n c (fun x => { x with stage := 2 })).stageWaits n).instBegin n c).drlGo
    else (s.setInst n c (fun x => { x with stage := 1 })).stageWaits n
/-- The instance starts now or at its instant (R353). -/
def State.instTime (s : State) (n c : Nat) : State :=
  match s.inst? n c with
  | none => s
  | some x =>
    if !(x.flag 0 || x.flag 1) then s.instStage n c
    else if s.dieTime n < x.start then s
    else (s.when (x.start < s.dieTime n) (fun s => s.bump .DRL_LATE_STARTS n)).instStage n c

def hbmEnd : Nat := 0x014000000000

/-- The group descriptor: count, own position, signature, members; none where it breaks R350. -/
def groupOf (s : State) (n : Nat) (h ms : Bytes) : Option (Nat × Nat × Nat × List (Nat × Nat)) :=
  let p := fieldB h 0 2
  let own := fieldB h 2 2
  let l := (List.range p).map (fun q => (fieldB ms (4 * q) 2, fieldB ms (4 * q + 2) 1))
  if p = 0 || p > 4096 || own ≥ p || l.getD own (0, 0) ≠ (0xFFFF, n) ||
     l.any (fun m => if m.1 = 0xFFFF then m.2 > 7 else m.1 ≥ s.gf F.AT_CONN_COUNT_count n) then none
  else some (p, own, fieldB h 8 8, l)
/-- Dispatch record outside its ranges (R366). -/
def recordBad (x : Inst) : Bool :=
  x.tokens > 16777216 || x.topk = 0 || x.topk > 8 || x.layer > 63 || x.rowB % 64 ≠ 0 || x.rowB < 64 || x.rowB > 65536 || x.partB % 64 ≠ 0
/-- A reserved value that is applied as its default (R351, R358, R366). -/
def descReserved (x : Inst) : Bool :=
  x.dtype ≠ fieldB x.desc 1 1 || x.redop ≠ fieldB x.desc 2 1 || (x.flag 2 && !x.norms) ||
  (4 ≤ x.op && x.op ≤ 7 && (fieldB x.record 6 1 % 16 > 1 || fieldB x.record 6 1 / 16 > 1))

/-- Reads and checks what an instance names before any message is sent. -/
def Tx.instSetup (n : Nat) (x : Inst) : Tx Unit :=
  let c := x.coll
  let g := fieldB x.desc 8 8
  Tx.andThen (Tx.get (fun s => x.op ≠ 8 || s.leadDie (s.domainOf n) == some n)) fun grouped =>
  Tx.andThen (if !grouped then Tx.pure x else
    Tx.andThen (Tx.stopIf (g % 64 ≠ 0) (256 + 16) 0) fun _ =>
    Tx.andThen (Tx.dread n x g 16) fun h =>
    Tx.andThen (Tx.stopIf (fieldB h 0 2 = 0 || fieldB h 0 2 > 4096) (256 + 16) 0) fun _ =>
    Tx.andThen (Tx.dread n x (g + 16) (4 * fieldB h 0 2)) fun ms =>
    Tx.andThen (Tx.get (fun s => groupOf s n h ms)) fun r =>
    match r with
    | none => Tx.fail (256 + 16) 0
    | some (p, own, sig, l) => Tx.pure { x with count := p, own := own, gsig := sig, members := l }) fun x =>
  Tx.andThen (Tx.act (fun s => s.setInst n c (fun _ => x))) fun _ =>
  Tx.andThen (Tx.stopIf (x.isRed && x.bytes % (64 * x.count) ≠ 0 || (x.op = 2 || x.op = 3 || x.op = 9) && x.bytes % 64 ≠ 0) (256 + 16) 0) fun _ =>
  Tx.andThen (if 4 ≤ x.op && x.op ≤ 7 then Tx.dread n x x.aux 64 else Tx.pure []) fun rec' =>
  let y := { x with record := rec' }
  Tx.andThen (Tx.stopIf (4 ≤ x.op && x.op ≤ 7 && recordBad y) (256 + 16) 0) fun _ =>
  Tx.act (fun s =>
    let d := s.domainOf n
    let named := y.norms && y.tid ≠ 0xFFFFFF && s.tableOn d
    let e := s.entRead d y.tid
    let k := if named then (scaleExp (useScale e)).getD 0 else 0
    let s := s.numReserved d (named && scaleBad e)
    let rounds := if 5 ≤ y.op && y.op ≤ 7 then s.drl.admitted.atD (n * 64 + y.layer % 64) [] else []
    (s.setInst n c (fun _ => { y with scaleK := k, rounds := rounds })).drlReserved n (descReserved y))

/-- A COLL entry whose descriptor names operation `op` starts. Entries that no operation claims end under any of them. -/
def State.collStart (s : State) (n st op : Nat) : State :=
  s.startEntry n st (· = 4) fun ent s =>
    let e := ent.entry
    if cmplBad e then some (s.endEnt ent St.entryInvalid 0 0)
    else if !s.blkIn n 4 || !drlCurrent s n then none
    else if !drlOn s n then some (s.endEnt ent St.collFailed 0x87 0)
    else
      let s := s.wake (.drl n)
      match s.vread (.drl n) (fieldB e 16 1 % 64) (fieldB e 8 8) 64 n with
      | (.error f, s) => if f.1 = 0 then none else some ((s.wr .DRL_ERR_ADDR n f.2).endEnt ent St.collFailed f.1 0)
      | (.ok d, s) =>
        let c := fieldB d 4 2
        let step := s.stepOf (s.domainOf n)
        if fieldB d 0 1 > 9 || c = 0xFFFF then some (s.endEnt ent St.collFailed 16 0)
        else if fieldB d 0 1 ≠ op || (s.inst? n c).isSome then none
        else if s.drl.ended.at? (ik n c) = some step then some (s.endEnt ent St.collFailed 16 0)
        else if (instsOf s n).length ≥ 16 then none
        else
          let x : Inst := { stream := st, pos := ent.pos, desc := d, step := step, gear := s.gearOf n, bank := s.gf F.DRL_RT_CTRL_active n, members := [(0xFFFF, n)] }
          let s := (s.onDrl (fun g => { g with insts := g.insts.put (ik n c) x })).drlCount n
          match Tx.instSetup n x s with
          | (.error (0, _), _) => none
          | (.error (f, a), t) => some ((t.drlRun n c (Tx.fail f a)).drlGo)
          | (.ok _, t) => some (t.instTime n c)

def execAllReduce (n st : Nat) (s : State) : Res := .next (s.collStart n st 0)
def execReduceScatter (n st : Nat) (s : State) : Res := .next (s.collStart n st 1)
def execAllGather (n st : Nat) (s : State) : Res := .next (s.collStart n st 2)
def execAllToAll (n st : Nat) (s : State) : Res := .next (s.collStart n st 3)
def execDispatch (n st : Nat) (s : State) : Res := .next (s.collStart n st 4)
def execCombine (n st : Nat) (s : State) : Res := .next (s.collStart n st 5)
def execGradDispatch (n st : Nat) (s : State) : Res := .next (s.collStart n st 6)
def execGradCombine (n st : Nat) (s : State) : Res := .next (s.collStart n st 7)
def execVerdict (n st : Nat) (s : State) : Res := .next (s.collStart n st 8)
def execDigest (n st : Nat) (s : State) : Res := .next (s.collStart n st 9)

/-- A tandem or scheduled instance starts as the die's replica reaches its instant (R353). -/
def execCollStartInstant (n coll : Nat) (s : State) : Res :=
  match s.inst? n coll with
  | some x => .next (if drlIn s n && x.stage = 0 && s.dieTime n ≥ x.start then s.instStage n coll else s)
  | none => .next s
def execStageReserve (n coll : Nat) (s : State) : Res :=
  match s.inst? n coll with
  | some x => .next (if drlIn s n && x.stage = 1 then s.instStage n coll else s)
  | none => .next s

/-! ### The verdict between dies (R359) -/

/-- The lead die's Derailleur takes the term of a die. A term whose instance has not started waits on the Chainring. -/
def execVerdictTerm (n fromDie : Nat) (s : State) : Res :=
  match s.drl.termNet.find? (fun t => t.to' = n && t.from' = fromDie) with
  | none => .next s
  | some t =>
    let drop := s.onDrl (fun d => { d with termNet := d.termNet.filter (· != t) })
    if !s.blkIn n 4 then .next drop
    else
      match msgRuns s n { collId := t.coll, step := t.step } with
      | none => .next s
      | some false => .next (drop.drlBad n)
      | some true =>
        .next (((drop.setInst n t.coll (fun x => { x with
          terms := if x.terms.any (·.1 = fromDie) then x.terms else x.terms ++ [(fromDie, t.q, t.qv, t.nf)] })).verdictMerge n t.coll).drlGo)

/-- A die takes the verdict: norm list and step_nf are cleared, what it delivers is noted, and the instance ends. -/
def execVerdictResult (n : Nat) (s : State) : Res :=
  match s.drl.resNet.find? (fun r => r.to' = n) with
  | none => .next s
  | some r =>
    let s := s.onDrl (fun d => { d with resNet := takeFirstOut r d.resNet })
    match s.inst? n r.coll with
    | none => .next s
    | some x =>
      if x.step ≠ r.step || x.op ≠ 8 then .next s
      else if r.status ≠ 0 then .next ((s.instEnd n r.coll r.status r.detail).drlGo)
      else
        let s := (s.setInst n r.coll (fun x => { x with nf := r.nf, qs := [(0, r.qv, r.q)] })).verdictHeard (s.domainOf n) r.nf
        let s := (s.onDrl (fun d => { d with norms := d.norms.del n })).pf F.DRL_STATUS_step_nf n 0
        .next ((s.instEnd n r.coll 0 0).drlGo)
where
  /-- The list without its first r. -/
  takeFirstOut (r : VRes) : List VRes → List VRes
    | [] => []
    | h :: t => if h = r then t else h :: takeFirstOut r t

/-! ### Enabling and route banks (R364, R374) -/

def drlAreasOk (s : State) (n : Nat) : Bool :=
  let save := s.gf F.DRL_RT_SAVE_pa n * 2 ^ 20
  let stage := s.gf F.DRL_STAGE_BASE_pa n
  let deliv := s.gf F.DRL_DELIV_BASE_pa n
  save + 2 * 2 ^ 20 ≤ hbmEnd && stage % 65536 = 0 && stage + s.gf F.DRL_STAGE_SIZE_mib n * 2 ^ 20 ≤ hbmEnd &&
  deliv % 64 = 0 && deliv + 2 * 2 ^ 20 ≤ hbmEnd

/-- A write of DRL_CTRL. -/
def execDrlEnable (role : Role) (n : Nat) (v : Word32) (s : State) : Res :=
  let w := v.toNat
  if n ≥ 8 || !s.mayWriteDom role (s.domainOf n) then .next s
  else if bitN w 0 && !drlOn s n && !drlAreasOk s n then .next s
  else .next ((s.pf F.DRL_CTRL_enable n (w % 2)).pf F.DRL_CTRL_timeout n (max 1 (bitsN w 15 8)))

/-- A write of the window: an aligned 4- or 8-byte piece of a shadow entry or slot. -/
def execRouteWindowWrite (role : Role) (n : Nat) (slotWin : Bool) (i off width : Nat) (v : Word64) (s : State) : Res :=
  let size := if slotWin then 64 else 32
  if n ≥ 8 || i ≥ (if slotWin then 64 else 16384) || !(width = 4 || width = 8) || off % width ≠ 0 || off + width > size ||
     !s.mayWriteDom role (s.domainOf n) then .next s
  else if s.gb F.DRL_RT_CTRL_commit n then .next (s.pf F.DRL_STATUS_rt_write_refused n 1)
  else
    let k := routeKey n (shadowBank s n) (if slotWin then 16384 + i else i)
    .next (s.onDrl (fun d => { d with routes := d.routes.put k (setFieldB (sliceB (d.routes.atD k []) 0 size) off width v.toNat) }))

def execRouteCommit (role : Role) (n : Nat) (s : State) : Res :=
  .next (if n < 8 && s.mayWriteDom role (s.domainOf n) then s.pf F.DRL_RT_CTRL_commit n 1 else s)

/-- A bank's image: route entries, then slots at the offset they have in the window. -/
def bankImage (s : State) (n bank : Nat) : Bytes :=
  (List.range 16384).flatMap (fun i => sliceB (s.drl.routes.atD (routeKey n bank i) []) 0 32) ++
  (List.range 64).flatMap (fun j => sliceB (s.drl.routes.atD (routeKey n bank (16384 + j)) []) 0 64)
/-- The copy ends and the swap waits for the step boundary. -/
def execRouteSaveDone (n : Nat) (s : State) : Res :=
  if n ≥ 8 || !s.gb F.DRL_RT_CTRL_commit n || s.drl.saved.contains n || !s.blkIn n 4 then .next s
  else
    let b := shadowBank s n
    let s := s.physWrite (s.gf F.DRL_RT_SAVE_pa n * 2 ^ 20 + b * 2 ^ 20) (bankImage s n b)
    .next (s.onDrl (fun d => { d with saved := d.saved ++ [n] }))

end Sys2Proof.Machine
end

