-- ==== Sys2Proof/Machine/AtCmds.lean ====
section
/-! DEFINITION. Received frames and their steering (R324, R325), and the commands of Aedian Transport whose completions a Derailleur hears of: operations, received packets, close,
reset, timeouts and refusals (R335 to R347). -/

namespace Sys2Proof.Machine

/-! ### Received frames (R324, R325) -/

/-- The base header of a received packet (R334), on the path of its link. -/
def atHdrOf (s : State) (n k : Nat) (f : Frame) : AtHdr :=
  let p := atPacket f
  let b := fun (o w : Nat) => beVal (sliceB p o w)
  let fl := b 1 1
  { version := b 0 1 / 16, ackReq := bitN fl 0, release := bitN fl 1, retx := bitN fl 2, incarn := b 4 1, conn := b 6 2, psn := b 8 4, ack := b 12 4
    ce := decide (f.ecn = 3), path := ((List.range 4).find? (fun i => (s.conn n (b 6 2)).pathLink i = k)).getD 0 }
/-- A packet of a reserved type is dropped and counted (R335). A message of a reserved kind takes its turn on its connection, and is then
dropped and counted by the unit it is for (R285, R373). -/
def State.atStray (s : State) (n k : Nat) (f : Frame) : State :=
  let p := atPacket f
  let h := some (atHdrOf s n k f)
  if atType p = 5 then (s.atVia n h (.drl (atKind p) {}) (fun s => (true, s.drlBad n))).drlGo
  else if atType p = 6 then (s.atVia n h (.nme (atKind p) (2 * n) 0 0 0 []) (fun s => (true, atBad s n))).drlGo
  else let s := s.atTake n; s.when (atOn s n) (fun s => atBad s n)

/-- Orders 5 to 8 of R325. -/
def State.steer (s : State) (p l : Nat) (f : Frame) : State :=
  let k := linkNo p l
  let c := classOf f
  let vs := (List.range 256).filter (fun v => (s.vnf v).on && vnfLink s v = k)
  let unmatched := s.bump .LINK_RX_UNMATCHED k
  if f.udpDst = some s.eth.udpPort then
    (if linkIp s k ≠ 0 && f.dstIp = linkIp s k && udpValid f && !f.ipExt then
      (let s := (s.setLink k (fun x => { x with buf := x.buf ++ [(c, f)] })).pfcCheck p l c
       if atReserved f then s.atStray (portDie p) k f else s)
     else unmatched)
  else
    match vs.find? (fun v => vnfMac s v = f.dstMac) with
    | some v => s.vnfRx v f
    | none =>
      if isMulticast f && vs ≠ [] then s.each (vs.filter (fun v => isBroadcast f || vnfCfg s v 11 % 2 = 1)) (fun v s => s.vnfRx v f)
      else unmatched

/-- FRAME_RX, with the FEC codewords corrected and not corrected since the link's last event. A frame beyond the limit of R320 is dropped
like one with a bad FCS (DESIGN CHOICE, log entry 151). -/
def execFrameRx (p l : Nat) (f : Frame) (s : State) (corr : Nat := 0) (unc : Nat := 0) : Res :=
  let k := linkNo p l
  if !linkThere s p l || !portIn s p || !linkUp s p l then .next s
  else
    let s := (s.fecCount k corr unc).bump64 .LINK_RX_FRAMES k
    if !f.fcsOk || macLen f > macMax then .next (s.bump .LINK_RX_DROP k)
    else if isPfcFrame f then execPfcRx p l (f.be (f.l3 + 2) 2 % 256) ((List.range 8).map (fun c => f.be (f.l3 + 4 + 2 * c) 2)) s
    else if isEapol f then .next { s with eth := { s.eth with rxd := (.rot, k, f) :: s.eth.rxd } }
    else if !macsecOk s k f then .next (s.bump .LINK_MACSEC_INVALID k)
    else
      let s := s.setLink k (fun x => { x with rx := x.rx.map (fun a => if a.1 = f.an then (a.1, max a.2 (f.pn + 1)) else a) })
      let c := classOf f
      let o := occupancy s k c
      let ci := p * 8 + c
      if o + f.bytes.length > 1024 * (s.gf F.PORT_CLASS_xoff_kib ci + s.gf F.PORT_CLASS_headroom_kib ci) ||
         portOccupancy s p + f.bytes.length > 12 * 2 ^ 20 then .next (s.bump .LINK_RX_DROP k)
      else
        let mark := f.isIp && (f.ecn = 1 || f.ecn = 2) && o > 1024 * s.gf F.PORT_CLASS_ecn_kib ci
        let s := s.when mark (fun s => s.bump64 .LINK_ECN_MARKED k)
        let f := if mark then putTos f (f.dscp * 4 + 3) else f
        if isPtp f then
          let (t, s) := if isPtpEvent f then s.ptpStamp p else ((0, 0), s)
          .next { s with eth := { s.eth with rxd := (.mgmt t.1 t.2, k, f) :: s.eth.rxd } }
        else .next (s.steer p l f)

/-! ### Operations and packets -/

/-- An operation is sent on a connection (R341, R342). -/
def execAtOpIssue (n conn issuer : Nat) (op : AtOp) (s : State) : Res :=
  .next (if n < 8 then (s.atIssue n conn issuer op).drlGo else s)

def execAtWrite (n : Nat) (h : AtHdr) (va : Nat) (data : Bytes) (s : State) : Res := .next (s.atRx n h (.write va data)).drlGo
def execReadReq (n : Nat) (h : AtHdr) (va len reqId : Nat) (s : State) : Res := .next (s.atRx n h (.readReq va len reqId)).drlGo
def execReadResp (n : Nat) (h : AtHdr) (reqId off code : Nat) (data : Bytes) (s : State) : Res :=
  .next (s.atRx n h (.readResp reqId off code data)).drlGo
def execAtAtomic (n : Nat) (h : AtHdr) (va aop size operand newVal : Nat) (s : State) : Res :=
  .next (s.atRx n h (.atomic va aop size operand newVal)).drlGo
def execAtomicResp (n : Nat) (h : AtHdr) (reqPsn code : Nat) (old : Word64) (s : State) : Res :=
  .next (s.atRx n h (.atomicResp reqPsn code old.toNat)).drlGo
def execAtAck (n : Nat) (h : AtHdr) (sack : List (Nat × Nat)) (s : State) : Res := .next (s.atAck n h sack).drlGo
def execAtNak (n : Nat) (h : AtHdr) (psn code : Nat) (s : State) : Res := .next (s.atRx n h (.nak psn code)).drlGo

def thenDrl : Res → Res
  | .next s => .next s.drlGo
  | r => r
def execHello (n conn : Nat) (b : HelloBody) (s : State) : Res := thenDrl (helloIn n conn b s)
def execHelloAck (n conn : Nat) (b : HelloBody) (s : State) : Res := thenDrl (helloAckIn n conn b s)

/-- A version refusal: the connection enters FAILED for good (R343). -/
def execHelloNak (n conn code : Nat) (s : State) : Res :=
  let s := s.atTake n
  let x := s.conn n conn
  if !atOn s n then .next s
  else if !(x.state = 1 || x.state = 3) || code ≠ 8 then .next (atBad s n)
  else .next ((s.atFailOps n conn).setConn n conn (fun x => { x with state := 3, failed := true, refused := true })).drlGo

/-- AT_CONN_CMD close and reset: ignored while a command is in progress (R338, R347). -/
def connCmd (s : State) (role : Role) (n conn op : Nat) : Option State :=
  if n ≥ 8 || !(s.mmioRole role || privRole role) || s.gb F.AT_CONN_CMD_busy n || !s.blkIn n 5 then none
  else some ((s.pf F.AT_CONN_CMD_conn n conn).pf F.AT_CONN_CMD_op n op)
def execConnClose (role : Role) (n conn : Nat) (s : State) : Res :=
  match connCmd s role n conn 2 with
  | none => .next s
  | some s => .next (if conn ≥ s.gf F.AT_CONN_COUNT_count n || (s.conn n conn).state = 0 then s else (s.atClose n conn).drlGo)
def execConnReset (role : Role) (n conn : Nat) (s : State) : Res :=
  match connCmd s role n conn 3 with
  | none => .next s
  | some s => .next (if conn ≥ s.gf F.AT_CONN_COUNT_count n || (s.conn n conn).state = 0 then s else (s.atReset n conn).drlGo)
def execRtoExpiry (n conn : Nat) (s : State) : Res := .next (s.rto n conn).drlGo

end Sys2Proof.Machine
end

