-- ==== Sys2Proof/Machine/Time.lean ====
section
/-! DEFINITION. The package time base, step boundaries, tandem lock, the service epoch and re-initialisation (R29 to R49). -/

namespace Sys2Proof.Machine

/-! ### The time base (R31 to R37) -/

def nsUnit : Nat := 2 ^ 32
def second : Nat := 1000000000

/-- Sets the master time; a whole second crossed with pps_out_en set is due a pulse (R37). -/
def State.setMaster (s : State) (t : Nat) : State :=
  let cross := s.gb F.TB_CTRL_pps_out_en && s.now / second < t / second
  let s := s.pf F.TB_TIME_time 0 t
  s.when cross (fun s => { s with time := { s.time with second := true } })

/-- One 25 MHz reference tick: the master and every replica advance by TB_INCR, less what a slew of 100 ppm takes. -/
def State.tick (s : State) : State :=
  let inc := s.gf F.TB_INCR_incr
  let back := min s.time.slewRem (inc / 10000)
  let v := s.time.frac + inc - back
  let d := v / nsUnit
  let s := { s with time := { s.time with frac := v % nsUnit, slewRem := s.time.slewRem - back } }
  let s := s.setMaster ((s.now + d) % 2 ^ 64)
  s.each (List.range 10) (fun k s => s.pf F.DIE_TIME_time k (s.dieTime k + d))

/-- A correction in ns: a forward step at once, a backward one slewed; what is left of an earlier slew is replaced (R32). -/
def State.adjust (s : State) (d : Int) : State :=
  if d > 0 then
    (({ s with time := { s.time with slewRem := 0 } }.setMaster ((s.now + d.toNat) % 2 ^ 64)).pf F.TB_STATUS_stepped 0 1).pf F.TB_STATUS_slewing 0 0
  else
    ({ s with time := { s.time with slewRem := (-d).toNat * nsUnit } } : State).pf F.TB_STATUS_slewing 0 (if d < 0 then 1 else 0)

/-- The source is there again, and the correction it called for says how closely it is tracked (R36). -/
def State.tracked (s : State) (d : Int) : State := (s.pf F.TB_STATUS_holdover 0 0).pf F.TB_STATUS_locked 0 (bN (d.natAbs ≤ 100))
/-- A write of TB_ADJ. In PTP mode it is the servo's, which has heard the source (log entry 125). -/
def execTbAdj (v : Word64) (s : State) : Res :=
  .next ((s.adjust v.toInt).when (tbSource s = 1) (fun s => s.tracked v.toInt))
def execSlewDone (s : State) : Res :=
  .next (if s.gb F.TB_STATUS_slewing && s.time.slewRem = 0 then s.pf F.TB_STATUS_slewing 0 0 else s)
/-- R34: 40 ns ± 500 ppm. -/
def execTbIncrWrite (v : Word64) (s : State) : Res := .next (s.pf F.TB_INCR_incr 0 (max 171712792495 (min 171884591185 v.toNat)))

/-! ### Tandem lock (R43, R45) -/

def tandemMask (s : State) : Nat := if s.gb F.TANDEM_CTRL_enable then s.gf F.TANDEM_CTRL_group_mask else 0
/-- C-die n takes its boundaries at T_b: a member that has not left. -/
def inTandem (s : State) (n : Nat) : Bool := n < 8 && bitN (tandemMask s) n && !s.time.left.contains n
/-- locked shows who is in. -/
def State.tandemShow (s : State) : State :=
  s.pf F.TANDEM_STATUS_locked 0 (((List.range 8).map (fun n => if inTandem s n then 2 ^ n else 0)).sum)
/-- A die's epoch is current where its Derailleur's is: it starts the tandem collectives (log entry 123). -/
def dieCurrent (s : State) (n : Nat) : Bool := drlCurrent s n
/-- Members come back when in service with a current epoch and in replica bounds (R45). -/
def State.tandemSync (s : State) : State :=
  let back := fun n => s.dieIn n && dieCurrent s n && !s.time.out.contains n
  ({ s with time := { s.time with left := s.time.left.filter (fun n => !back n) } } : State).tandemShow
/-- A die leaves its group (R33, R45). -/
def State.tandemLeave (s : State) (n : Nat) : State :=
  let was := inTandem s n
  let s := { s with time := { s.time with left := if s.time.left.contains n then s.time.left else s.time.left ++ [n] } }
  (s.when was (fun s => s.pf F.TANDEM_STATUS_member_lost 0 1)).tandemShow
/-- A replica out of bounds takes its die from the group (R33). -/
def State.replicaOut (s : State) (node : Nat) : State :=
  let s := { s with time := { s.time with out := if s.time.out.contains node then s.time.out else s.time.out ++ [node] } }
  s.when (node < 8) (fun s => s.tandemLeave node)

/-- A write of TANDEM_CTRL, held for the next boundary. -/
def execTandemCtrlWrite (role : Role) (v : Word32) (s : State) : Res :=
  if !(s.mmioRole role || privRole role) then .next s
  else
    let w := v.toNat
    let m := w % 256
    let low := (List.range 8).find? (fun n => bitN m n)
    let ok := match low with
      | none => 0
      | some n => ((List.range 8).map (fun k => if bitN m k && s.domainOf k == s.domainOf n then 2 ^ k else 0)).sum
    let s := { s with time := { s.time with tandemPend := some (ok + bitsN w 8 8 * 256) } }
    .next (s.when (ok ≠ m) (fun s => s.notice 10 1 1))
/-- The held write takes effect at the boundary of its group's domain; an empty group's at any. -/
def State.tandemApply (s : State) (d : Nat) : State :=
  match s.time.tandemPend with
  | none => s.tandemSync
  | some v =>
    let dom := match (List.range 8).find? (fun n => bitN v n) with | some n => s.domainOf n | none => d
    if dom ≠ d then s.tandemSync
    else
      let s := { s with time := { s.time with tandemPend := none } }
      ((s.pf F.TANDEM_CTRL_group_mask 0 v).pf F.TANDEM_CTRL_enable 0 (bitsN v 8 8)).tandemSync

/-! ### Replicas (R33) -/

/-- A die realigns: its replica is then within ±4 ns of the master, where exactly is open. The spec does not say whether a replica
that is ahead is slewed; the model sets it at once, so DIE_TIME can step back (DESIGN CHOICE, log entry 124). -/
def execReplicaRealign (node disagreeNs : Nat) (s : State) : Res :=
  if node ≥ 10 then .next s
  else
    let (f, s) := s.free
    let s := s.pf F.DIE_TIME_time node ((s.now + 2 ^ 64 + f.toNat % 9 - 4) % 2 ^ 64)
    let bad := if disagreeNs > 10 then s.time.bad.atD node 0 + 1 else 0
    let good := if disagreeNs ≤ 4 then s.time.good.atD node 0 + 1 else 0
    let s := { s with time := { s.time with bad := s.time.bad.put node bad, good := s.time.good.put node good } }
    let s := s.when (bad > 0) (fun s => s.notice node (replicaBlk node) 0)
    let s := if bad < 3 then s else (s.raise node (replicaBlk node) 1 false disagreeNs).replicaOut node
    .next (if good ≥ 100 then ({ s with time := { s.time with out := s.time.out.filter (· != node) } } : State).tandemSync else s)

/-! ### 1PPS (R36, R37) -/

def execPpsInEdge (rising : Bool) (s : State) : Res :=
  if rising == s.gb F.TB_CTRL_pps_in_edge then .next s
  else
    let s := s.pf F.TB_PPS_CAPTURE_capture 0 s.now
    if tbSource s ≠ 2 then .next s
    else
      let r := s.now % second
      let e : Int := if r < second / 2 then -(r : Int) else (second : Int) - r
      let s := s.tracked e
      .next (if e = 0 then s else s.adjust e)
def execPpsMissing (s : State) : Res :=
  if tbSource s ≠ 2 then .next s
  else .next (((s.pf F.TB_STATUS_pps_missing 0 1).holdover).notice 10 1 0)
def execPpsOutPulse (s : State) : Res :=
  if !s.time.second then .next s
  else
    let s := { s with time := { s.time with second := false } }
    .next (if s.gb F.TB_CTRL_pps_out_en then ({ s with time := { s.time with ppsHigh := true } } : State).emit (.pin .ppsOut true) else s)
def execPpsOutEnd (s : State) : Res :=
  if !s.time.ppsHigh then .next s else .next (({ s with time := { s.time with ppsHigh := false } } : State).emit (.pin .ppsOut false))
def execTbSourceLost (s : State) : Res :=
  .next s.holdover

/-! ### Re-initialisation of units (R47 to R49) -/

/-- Keys of a unit's lanes: the partition seed in Fixed gear, fresh keys otherwise; counters zero (R139, R140, R142). -/
def State.freshKeys (s : State) (n lanes : Nat) : Tab Nat × State :=
  let seed := (s.seedOf (s.domainOf n)).toNat
  if s.gearOf n = gearFixed then (⟨(List.range lanes).map (fun l => (l, seed))⟩, s)
  else
    let (l, s) := (List.range lanes).foldl (fun (acc : List (Nat × Nat) × State) i =>
      let (w, s) := acc.2.random
      (acc.1 ++ [(i, w.toNat)], s)) ([], s)
    (⟨l⟩, s)
def State.rekeyUnit (s : State) (u : UnitId) : State :=
  match u with
  | .tile t =>
    let (k, s) := s.freshKeys (tileDie t) 64
    ((s.setTile t (fun tl => { tl with rngKey := k, rngCtr := {} })).pf F.TILE_RNG_CTRL_keyed t 1).pf F.TILE_RNG_LANE_lane t 0
  | .nme st =>
    let (k, s) := s.freshKeys (stackDie st) 512
    s.setNme st (fun x => { x with
      rngKey := k, rngCtr := {}
      sweepRng := if x.sweep.any (fun y => y.phase ≠ 1 && !y.ended) then some (x.sweepRng.getD (x.rngKey, x.rngCtr)) else none })
  | .drl n =>
    let (k, s) := s.freshKeys n 1
    s.onDrl (fun d => { d with rngKey := d.rngKey.put n (k.atD 0 0), rngCtr := d.rngCtr.put n 0 })
def unitX : UnitId → List XUnit
  | .tile t => .tile t :: (List.range 4).map (fun c => .dma t c)
  | .nme st => [.nme st]
  | .drl n => [.drl n]

/-- A Derailleur that was reset or isolated loads its active bank from the saved image; an uncorrectable read leaves both
banks invalid (R364). -/
def State.loadRoutes (s : State) (n : Nat) (imageOk : Bool) : State :=
  if !s.drl.restart.contains n then s
  else
    let b := s.gf F.DRL_RT_CTRL_active n
    let pa := s.gf F.DRL_RT_SAVE_pa n * 2 ^ 20 + b * 2 ^ 20
    let s := s.onDrl (fun d => { d with restart := d.restart.filter (· != n) })
    let own := fun (key : Nat) => key / 65536 = n
    let bank := fun (key : Nat) => key / 32768 = 2 * n + b
    if !imageOk || (s.physBad pa (16384 * 32 + 64 * 64)).isSome then
      ((s.onDrl (fun d => { d with routes := d.routes.keep (fun k _ => !own k) })).pf F.DRL_STATUS_rt_save_fault n 1).notice n 4 2
    else
      let ents := (List.range 16384).map (fun i => (routeKey n b i, s.physRead (pa + 32 * i) 32))
      let slots := (List.range 64).map (fun j => (routeKey n b (16384 + j), s.physRead (pa + 2 ^ 19 + 64 * j) 64))
      s.onDrl (fun d => { d with routes := (ents ++ slots).foldl (fun t r => t.put r.1 r.2) (d.routes.keep (fun k _ => !bank k)) })

/-- FW_TRANSITION_END: every unit of an activated die is current (R408). -/
def State.fwSettle (s : State) (node : Nat) : State :=
  let f := s.sec.dies.atD node {}
  let late := !s.dieIn node || (node < 8 && (dieUnits node).any (fun u => unitExists s u && unitIn s u && s.unitEpoch u < s.pkgEpoch))
  let s := if late || !f.reset then s else { s with sec := { s.sec with dies := s.sec.dies.put node { f with reset := false } } }
  match f.staged with
  | some (dig, svn) =>
    if !f.started || late then s
    else
      let cls := if node < 8 then 2 else 3
      { s with sec := { s.sec with
          dies := s.sec.dies.put node { run := dig, svn := svn }
          minSvn := s.sec.minSvn.put cls (max (s.sec.minSvn.atD cls 0) svn) } }
  | none => s

/-- The re-initialisation of R48; it also ends a unit's wait for a change it missed while PKG_EPOCH is saturated (R49). -/
def State.reinit (s : State) (u : UnitId) (imageOk : Bool) : State :=
  let s := s.wakeUnit u
  let s := s.each (unitX u) (fun x s => s.dropTlb x)
  let s := match u with
    | .tile t => (s.setTile t (fun tl => { tl with slots := {} })).pf F.TILE_STATUS_state t 1
    | .nme st => (s.sweepResumes st).setNme st (fun x => { x with restart := false, prefNet := x.prefNet ++ x.prefLost, prefLost := [] })
    | .drl n => s.loadRoutes n imageOk
  let s := (s.rekeyUnit u).setUnitEpoch u s.pkgEpoch
  (({ s with redo := s.redo.filter (· != u) } : State).tandemSync).fwSettle (unitDie u)

/-- UNIT_REINIT: a stale unit that is idle and in service. A reset NME re-initialises before it resumes its sweep (R286). -/
def execUnitReinit (u : UnitId) (imageOk : Bool) (s : State) : Res :=
  let idle := match u with | .nme st => (s.nmeU st).restart || !unitBusy s u | u => !unitBusy s u
  let complex := match u with | .nme _ => true | u => seqUp s (unitDie u)
  .next (if unitExists s u && unitIn s u && unitStale s u && idle && complex then s.reinit u imageOk else s)

/-- ISLAND_WAKE: a transaction for a sleeping unit (R29). -/
def execIslandWake (u : UnitId) (s : State) : Res := .next (if unitExists s u then s.wakeUnit u else s)

/-- While PKG_EPOCH is saturated the units apply a boundary change live (R49): idle ones at once, rekeyed where the change is into or out
of Fixed gear, and busy ones when their work ends. -/
def State.applyLive (s : State) (units : List UnitId) (rekey : Bool) : State :=
  s.each units fun u s =>
    if !unitExists s u || !unitIn s u || unitAsleep s u then s
    else if unitBusy s u then (if s.redo.contains u then s else { s with redo := s.redo ++ [u] })
    else (s.when rekey (fun s => s.rekeyUnit u)).setUnitEpoch u s.pkgEpoch

/-! ### Gears (R2, R494) -/

/-- Tile clock a gear starts a domain's dies at: its ceiling bounds it, and Coast starts at 1.2 GHz (R492). -/
def gearCeil (g : Nat) : Nat := if g = gearSprint then 1400 else 1200
/-- Domains that hold C-dies, in order. -/
def liveDomains (s : State) : List Nat := (List.range 16).filter (fun d => s.domainDies d ≠ [])
/-- PWR_GEAR shows the lowest-numbered domain's gear and whether a request waits. -/
def State.gearSync (s : State) : State :=
  let g := s.domGear ((liveDomains s).headD 0)
  let req := s.gf F.PWR_GEAR_requested
  (s.pf F.PWR_GEAR_gear 0 g).pf F.PWR_GEAR_pending 0 (bN ((List.range 8).any (fun n => s.gearOf n ≠ req)))
def State.setGear (s : State) (d g : Nat) : State :=
  let s := s.each (s.domainDies d) fun n s =>
    let c := if g = gearCoast then 1200 else min (s.gf F.PWR_TILE_CLK_mhz n) (gearCeil g)
    ({ s with gears := s.gears.put n g } : State).pf F.PWR_TILE_CLK_mhz n c
  (s.pf F.PWR_GEAR_REQ_go 0 0).gearSync

/-! ### The boundary (R38 to R42) -/

/-- The lead die has READY from every C-die of the domain in service: T_b is set, the verdict taken if it is still due, and
the broadcast sent (R38 step 2, R236). Pending changes are those that have arrived by now (R39). -/
def State.leadCheck (s : State) (d : Nat) : State :=
  let dies := s.domainIn d
  let x := s.dom d
  if x.tb.isSome || dies = [] || !dies.all (fun n => x.ready.any (·.1 = n)) then s
  else
    let t := maxList ((x.ready.filter (fun r => dies.contains r.1)).map (·.2)) + s.gf F.STEP_LEAD_lead_ns d
    let tb := roundUp t 64 % 2 ^ 64
    let s := (s.takeNf d).2
    let req := s.gf F.PWR_GEAR_requested
    let gear := if dies.any (fun n => s.gearOf n ≠ req) then some req else none
    let all := s.domainDies d
    let progs := (all.flatMap (fun n => [2 * n, 2 * n + 1])).filter (fun st => s.gb F.NME_PROG_CTRL_commit st)
    let s := s.setDom d (fun x => { x with tb := some tb, bcast := dies, hold := [], took := [], gear := gear, routes := s.drl.saved.filter (all.contains ·), progs := progs })
    s.emit (.tbBroadcast d tb)

/-- Numerics defaults the domain's units read at the boundary (R217, R232). -/
def State.loadNum (s : State) (d : Nat) : State :=
  let c : NumCfg := { t := max 1 (s.odN 0xA002 1), r := s.odN 0xA002 2, f := s.odN 0xA003 1, sat := s.odN 0xA003 2, flush := s.odN 0xA003 3 }
  { s with num := { s.num with cfg := s.num.cfg.put d c } }

/-- Stacks that still hold frames at a boundary (R258). -/
def State.panBoundary (s : State) (n : Nat) : State :=
  if (List.range 144).any (fun k => s.gf F.PAN_INFO_frames (pk n k) > 0) then (s.pf F.PAN_STATUS_left_over n 1).notice n 3 1 else s

/-- The pending changes, in the order of R38 step 4. -/
def State.applyBoundary (s : State) (d tb : Nat) : State :=
  let x := s.dom d
  let dies := s.domainDies d
  let oldGear := s.domGear d
  let s := s.wr .STEP_NUMBER d (s.stepOf d + 1)
  let newGear := x.gear.getD oldGear
  let s := if newGear ≠ oldGear then s.setGear d newGear else s
  let s := s.each x.routes fun n s =>
    ((s.pf F.DRL_RT_CTRL_active n (shadowBank s n)).pf F.DRL_RT_CTRL_commit n 0).onDrl (fun g => { g with saved := g.saved.filter (· != n) })
  let s := s.each x.progs fun st s =>
    (s.pf F.NME_PROG_CTRL_active st (1 - s.gf F.NME_PROG_CTRL_active st)).pf F.NME_PROG_CTRL_commit st 0
  let changed := newGear ≠ oldGear || x.routes ≠ [] || x.progs ≠ []
  let s := if !changed then s
    else
      let mine := dies.flatMap dieUnits
      let fixedMoved := newGear ≠ oldGear && (newGear = gearFixed || oldGear = gearFixed)
      if s.epochFull then (s.each mine (fun u s => s.wakeUnit u)).applyLive mine fixedMoved
      else s.epochUpBut (fun u => fixedMoved && dies.contains (unitDie u))
  let s := s.wr .STEP_LAST_TIME d tb
  -- the records of earlier steps, the verdict of the step and the fold of the entries
  let step := s.stepOf d
  let s := s.each dies fun n s => s.onDrl fun g => { g with norms := g.norms.put n ((g.norms.atD n []).filter (fun r => r.2.1 ≥ step)) }
  let skip := s.stepVerdict d
  let s := ((s.verdictEnd d (step - 1)).loadNum d).startFold d skip false
  let s := { s with num := { s.num with taken := s.num.taken.del d, verdict := s.num.verdict.del d, heard := s.num.heard.del d } }
  let s := s.tandemApply d
  -- step 5: dispatch resumes, and the STEP_END entries complete
  let in' := x.took.filter (fun n => s.dieIn n && s.gb F.SEQ_STATUS_ready_sent n)
  let s := s.setDom d (fun x => { away := x.away, ready := x.ready.filter (fun r => !in'.contains r.1), readyNet := x.readyNet.filter (fun r => !in'.contains r.1) })
  let s := s.each in' (fun n s => (s.panBoundary n).pf F.SEQ_STATUS_ready_sent n 0)
  s.each (s.seq.ents.filter (fun e => in'.contains e.die && entType e.entry = 6)) fun e s =>
    -- a STEP_END not counted for READY whose sweep still runs completes at the next boundary (DEDUCED, log entry 144)
    match e.swept with
    | none => s
    | some sw =>
      if sw ≤ 1 then s.completeEnt e [] { tEnd := tb }
      else s.completeEnt e [] { status := St.sweepFailed, detail := sw, failAddr := e.sweptVa, tEnd := tb }

/-- The boundary is applied once every C-die that got the broadcast has taken it (R41); with none left in service there is none (R42). -/
def State.boundaryCheck (s : State) (d : Nat) : State :=
  let x := s.dom d
  match x.tb with
  | some tb => if x.bcast = [] && x.hold = [] && x.took ≠ [] then s.applyBoundary d tb else s
  | none => s

/-- The complex has reached its step end: a STEP_END has started on every enabled stream counted for READY, of which there is one, and
the sweeps they name are complete (R309). Other streams are not counted (R310). -/
def stepEnded (s : State) (n : Nat) : Bool :=
  let bound := (List.range 64).filter (fun st => strmOn s n st && s.gb F.SEQ_STREAM_CTRL_step_bound (sk n st))
  let ends := s.seq.ents.filter (fun e => e.die = n && entType e.entry = 6 && bound.contains e.stream)
  bound ≠ [] && bound.all (fun st => ends.any (·.stream = st)) && ends.all (·.swept.isSome)
/-- SEND_READY (R309). -/
def execSendReady (n : Nat) (s : State) : Res :=
  if !seqUp s n || seqHeld s n || !stepEnded s n then .next s
  else
    let d := s.domainOf n
    match s.leadDie d with
    | none => .next s
    | some lead =>
      let t := s.dieTime n
      let s := (s.pf F.SEQ_STATUS_ready_sent n 1).setDom d (fun x => { x with readyNet := x.readyNet ++ [(n, t)] })
      .next (s.emit (.ready n lead t))
/-- READY: the lead die receives the READY of C-die n. -/
def execReady (n : Nat) (s : State) : Res :=
  let d := s.domainOf n
  match (s.dom d).readyNet.find? (·.1 = n) with
  | none => .next s
  | some r => .next ((s.setDom d (fun x => { x with readyNet := x.readyNet.filter (·.1 != n), ready := x.ready.filter (·.1 != n) ++ [r] })).leadCheck d)

/-- T_B_BROADCAST: a tandem die holds the boundary until its replica reaches T_b, or takes it late (R38 step 3, R40). A die back from
isolation rejoins once its epoch is current (R42). -/
def execTBBroadcast (n : Nat) (s : State) : Res :=
  let d := s.domainOf n
  let x := s.dom d
  match x.tb with
  | none => .next s
  | some tb =>
    if !x.bcast.contains n then .next s
    else
      let s := s.setDom d (fun x => { x with bcast := x.bcast.filter (· != n) })
      if x.away.contains n && !dieCurrent s n then .next (s.boundaryCheck d)
      else
        let s := s.setDom d (fun x => { x with away := x.away.filter (· != n) })
        let take := fun (s : State) => (s.setDom d (fun x => { x with took := x.took ++ [n] })).boundaryCheck d
        if !inTandem s n then .next (take s)
        else if s.dieTime n > tb then .next (take ((s.pf F.TANDEM_STATUS_late 0 1).bump .TANDEM_LATE n))
        else .next (s.setDom d (fun x => { x with hold := x.hold ++ [n] }))
/-- STEP_BOUNDARY: the replica of a tandem die reaches T_b. -/
def execStepBoundary (n : Nat) (s : State) : Res :=
  let d := s.domainOf n
  let x := s.dom d
  match x.tb with
  | none => .next s
  | some tb =>
    if !x.hold.contains n || s.dieTime n < tb then .next s
    else .next ((s.setDom d (fun x => { x with hold := x.hold.filter (· != n), took := x.took ++ [n] })).boundaryCheck d)

/-- STEP_END entries (R309): the sweep they name starts, and they wait for the boundary. -/
def execStepEnd (n st : Nat) (s : State) : Res :=
  .next (s.startEntry n st (· = 6) fun e s =>
    if cmplBad e.entry then some (s.endEnt e St.entryInvalid 0 0)
    else if fieldB e.entry 8 8 = 0 then
      some (s.onSeq (fun q => { q with ents := q.ents.map (fun x =>
        if x.die = e.die && x.stream = e.stream && x.pos = e.pos then { x with swept := some 0 } else x) }))
    else s.sweepStart e)

/-- A die's work on its domain's boundary ends; a boundary in progress that no die takes part in any more is dropped. -/
def State.domLeave (s : State) (n : Nat) : State :=
  s.setDom (s.domainOf n) fun x =>
    let y : DomSt := { x with
      ready := x.ready.filter (·.1 != n), readyNet := x.readyNet.filter (·.1 != n), took := x.took.filter (· != n)
      bcast := x.bcast.filter (· != n), hold := x.hold.filter (· != n) }
    if y.bcast = [] && y.hold = [] && y.took = [] then { ready := y.ready, readyNet := y.readyNet, away := y.away } else y
/-- A die at isolation: it leaves its domain's wait and boundary in progress (R42). READYs that an isolated lead die held count for the
new lead die, and a boundary in progress that every die has left is dropped: the spec states neither (DESIGN CHOICE, log entry 126). -/
def State.dieLeaves (s : State) (n : Nat) : State :=
  let d := s.domainOf n
  let s := (s.domLeave n).setDom d (fun x => { x with away := if x.away.contains n then x.away else x.away ++ [n] })
  let held := s.gb F.NUM_NF_ORIGIN_valid d
  let lead := (s.leadDie d).getD n
  let s := ((s.pf F.NUM_VERDICT_local_nf d 1).nfOrigin d 0xFFFFFF (144 * n)).when (!held) (fun s => s.notice lead 2 1)
  ((s.pf F.SEQ_STATUS_ready_sent n 0).tandemLeave n).leadCheck d |>.boundaryCheck d

end Sys2Proof.Machine
end

