-- ==== Sys2Proof/Machine/XlatCmds.lean ====
section
/-! DEFINITION. Commands of translation (R64 to R67): contexts, invalidation, the core attribute table's root, and accesses
that waited on a locked page. -/

namespace Sys2Proof.Machine

/-- A write of TRANS_ROOT_c or TRANS_ATTR_c. HOST writes neither a context of a partition nor a part_id (R65);
a reserved open_access counts as none wherever it is read, and its write sets the status bit (R18). -/
def execTransCtxWrite (role : Role) (attr : Bool) (c : Nat) (v : Word64) (s : State) : Res :=
  let w := v.toNat
  let sealed := s.gf F.TRANS_ATTR_part_id c ≠ 0
  if c ≥ 64 || !(privRole role || s.mmioRole role && !sealed && !(attr && w % 16 ≠ 0)) then .next s
  else if attr then
    let s := (s.pf F.TRANS_ATTR_part_id c w).pf F.TRANS_ATTR_open_access c (bitsN w 5 4)
    .next (s.when (bitsN w 5 4 = 3) (fun s => s.pf F.TRANS_STATUS_reserved_encoding 0 1))
  else .next ((s.pf F.TRANS_ROOT_enable c w).pf F.TRANS_ROOT_root c (bitsN w 51 12))

/-- A unit that a translation cache belongs to, where it has an epoch. -/
def xunitUnit : XUnit → Option UnitId
  | .tile t => some (.tile t)
  | .dma t _ => some (.tile t)
  | .nme st => some (.nme st)
  | .drl n => some (.drl n)
  | _ => none
def unitAway (s : State) (u : UnitId) : Bool := unitExists s u && (!unitIn s u || unitAsleep s u)

/-- A write of TRANS_INVAL (R65). While PKG_EPOCH is saturated it wakes every sleeping unit (R49). -/
def execTransInval (role : Role) (v : Word64) (s : State) : Res :=
  let w := v.toNat
  if !(privRole role || s.mmioRole role) then .next s
  else if s.gb F.TRANS_INVAL_busy then .next (s.pf F.TRANS_STATUS_inval_overrun 0 1)
  else
    let s := (((s.pf F.TRANS_INVAL_ctx 0 w).pf F.TRANS_INVAL_range 0 (bitsN w 7 6)).pf F.TRANS_INVAL_all_ctx 0 (bitsN w 8 8)).pf F.TRANS_INVAL_va 0 (bitsN w 47 12)
    let s := s.when s.epochFull (fun s => s.each allUnits (fun u s => s.when (unitExists s u) (fun s => s.wakeUnit u)))
    .next (({ s with xl := { s.xl with inval := some (w % 2 ^ 48) } } : State).pf F.TRANS_INVAL_busy 0 1)

/-- An invalidation request names a cached translation. -/
def invalHits (w : Nat) (e : TlbEnt) : Bool :=
  let lg := let r := bitsN w 7 6; if r = 0 then 12 else if r = 1 then 21 else 30
  let va := bitsN w 47 12 * 4096
  let k := max lg e.lg
  bitN w 8 || (e.ctx == w % 64 && (bitsN w 7 6 == 3 || va / 2 ^ k == e.va / 2 ^ k))
/-- Every in-service cache has dropped the entries (R65); an invalidation that a unit misses is a change of epoch (R46). While PKG_EPOCH is
saturated a unit that has gone to sleep meanwhile is woken and waited for (R49). -/
def execTransInvalDone (s : State) : Res :=
  match s.xl.inval with
  | none => .next s
  | some w =>
    let s := s.when s.epochFull (fun s => s.each (allUnits.filter (fun u => unitExists s u && unitIn s u && unitAsleep s u)) (fun u s => s.wakeUnit u))
    let away := fun (u : XUnit) => match xunitUnit u with | some i => unitAway s i | none => false
    let s' := ({ s with xl := { s.xl with inval := none, tlb := s.xl.tlb.filter (fun e => !invalHits w e || away e.unit) } } : State).dropCores (bitN w 8)
    .next ((State.when s' (allUnits.any (unitAway s)) State.epochUp).pf F.TRANS_INVAL_busy 0 0)

/-- A write of CAT_ROOT: HOST only while enable is 0 (R67). -/
def execCatRootWrite (role : Role) (v : Word64) (s : State) : Res :=
  let w := v.toNat
  if !(privRole role || s.mmioRole role && !s.gb F.CAT_ROOT_enable) then .next s
  else .next (((s.pf F.CAT_ROOT_enable 0 w).pf F.CAT_ROOT_key_gen 0 (bitsN w 5 4)).pf F.CAT_ROOT_root 0 (bitsN w 51 16))

/-- Streams that are enabled and whose opening or arming waited go on with it, and starts that waited are tried again. -/
def State.streamsRetry (s : State) (n : Nat) : State :=
  let s := s.onSeq (fun q => { q with streams := q.streams.mapVals (fun k x => if k / 64 = n then { x with waits := false } else x) })
  s.each ((List.range 64).filter (fun st => strmOn s n st && !strmHalted s n st && !s.gb F.SEQ_STREAM_STATUS_armed (sk n st) &&
      ((s.strm n st).opening || (s.strm n st).watch.isNone))) fun st s =>
    if (s.strm n st).opening then s.streamOpen n st else s.streamArm n st
/-- Instances whose first actions waited begin. -/
def State.drlRetry (s : State) (n : Nat) : State :=
  (s.each ((instsOf s n).filter (fun p => p.2.stage = 2 && !p.2.begun)) (fun p s => s.instBegin n p.1)).drlGo

def unitNode : XUnit → Nat
  | .tile t => tileDie t
  | .dma t _ => tileDie t
  | .pannier n => n
  | .nme st => stackDie st
  | .seq n => n
  | .drl n => n
  | .at n => n
  | .iommu m => 8 + m
  | .core m => 8 + m
  | .vnf m => 8 + m

end Sys2Proof.Machine
end

