-- ==== Sys2Proof/Machine/CohCmds.lean ====
section
/-! DEFINITION. Commands of coherence (spec/03), each one message's arrival, and the tile windows of disabled tiles (R9)
and lane keys (R142). -/

namespace Sys2Proof.Machine

/-- An agent that may hold lines now: its block is in service, and the cores of an H-die are not being reset (R78, R83). -/
def holderIn (s : State) (a : Nat) : Bool :=
  if agentIsTile a then s.tileIn a
  else if agentIsH a then s.dieIn (8 + (a - 1152)) && (s.pcie.hcr.phase = 0 || s.pcie.hcr.phase = 3)
  else agentIsSeq a && seqUp s (a - 1160)
/-- An agent that may send requests now (R83). Accesses that no agent makes carry no id: 2,047. -/
def agentIn (s : State) (a : Nat) : Bool :=
  if agentCaches a then holderIn s a
  else if 1168 ≤ a && a < 1176 then s.blkIn (a - 1168) 4
  else if 1176 ≤ a && a < 1192 then unitIn s (.nme (a - 1176))
  else a = agentNone
/-- An arriving message wakes a sleeping tile (R29). -/
def State.agentWake (s : State) (a : Nat) : State := if agentIsTile a then s.wakeUnit (.tile a) else s

/-- A request reaches its home. -/
def State.request (s : State) (r : Req) : State := if agentIn s r.agent then s.homeReq r else s

/-! ### Requests of cores (R64, R66, R105) -/

/-- The hart of a core's request: every request of an H-die's caches is a core's, and one that no agent makes is where it names a hart. -/
def coreHart (a : Nat) (tag : ReqTag) : Option Nat :=
  if agentIsH a then some (64 * (a - 1152) + tag.hart.getD 0 % 64) else if a = agentNone then tag.hart else none
/-- Sends a request on under the key of its tags; a core's under the core attribute table, where it may fault or wait on a locked page.
`f` gets the request with its key. -/
def State.tagged (s : State) (r : Req) (tag : ReqTag) (f : State → Req → State) : State :=
  match coreHart r.agent tag with
  | none => f s { r with key := s.keyOf tag.part tag.gen }
  | some h =>
    if !encrypted (r.line * 64) then f s r
    else match s.coreAccess h (r.line * 64) with
      | (.ok key floor, s) => f s { r with key := key, floor := floor }
      | (.fault, s) => s.emit (.coreFault h (r.line * 64))
      | (.bad pa, s) => (s.memErr pa).emit (.reqFailed r.agent (r.line * 64) St.memUncorrectable)
      | (.locked, s) =>
        let w : CoreWait := ⟨r, tag⟩
        (if s.xl.coreWait.contains w then s else { s with xl := { s.xl with coreWait := s.xl.coreWait ++ [w] } } : State).lockWaitFor
          (.core (h / 64)) 64 (r.line * 64) accLoad

/-- A core's read through an NC or IO page takes the direct path (R66, R71). -/
def State.coreDirect (s : State) (r : Req) : State :=
  if s.memBad r.line then (s.memErr (r.line * 64)).emit (.reqFailed r.agent (r.line * 64) St.memUncorrectable)
  else s.emit (.readData r.agent (r.line * 64) (s.memBytes r.key (r.line * 64) 64))
/-- A core's write to a line its H-die holds in M or E needs no message: the change to M is silent (R86). -/
def State.coreHit (s : State) (r : Req) : Option State :=
  match s.copy? r.agent r.line with
  | some c => if agentIsH r.agent && (c.st == .M || c.st == .E) && !s.pinned r.line then some (s.coreWrite r.agent r.line r.wr r.floor) else none
  | none => none

/-- What becomes of a request once its key is known. A direct-path write reaches memory as it is (R71). -/
def State.reqGo (s : State) (tag : ReqTag) (r : Req) : State :=
  let nc := (coreHart r.agent tag).isSome && tag.pbmt ≠ 0
  match r.kind with
  | .rdShared => if nc then s.coreDirect r else s.request r
  | .rdOnce => if nc then s.coreDirect r else s.request r
  | .rdOwn => (s.coreHit r).getD (s.request r)
  | .upgrade => (s.coreHit r).getD (s.request r)
  | _ => s.request r
def State.reqTag (s : State) (a line : Nat) (tag : ReqTag) (k : ReqKind) (wr : CoreWr := .none) : State :=
  if agentIn s a then s.tagged { kind := k, agent := a, line := line, wr := wr } tag (fun s r => s.reqGo tag r) else s

/-- Tiles and H-dies read by RD_SHARED and RD_OWN (R91). -/
def execRdShared (a line : Nat) (s : State) (tag : ReqTag := {}) : Res := .next (if agentIsSeq a then s else if agentCaches a then s.reqTag a line tag .rdShared else s)
/-- RD_OWN and UPGRADE; a core's carries the write it is for (R105). -/
def execRdOwn (a line : Nat) (s : State) (tag : ReqTag := {}) (wr : CoreWr := .none) : Res :=
  .next (if agentIsTile a || agentIsH a then s.reqTag a line tag .rdOwn (if agentIsH a then wr else .none) else s)
def execUpgrade (a line : Nat) (s : State) (tag : ReqTag := {}) (wr : CoreWr := .none) : Res :=
  .next (if agentIsTile a || agentIsH a then s.reqTag a line tag .upgrade (if agentIsH a then wr else .none) else s)
/-- RD_ONCE, or a core's cbo.clean: the home makes an owner's dirty copy good in memory and holds the clean until it is (R75). -/
def execRdOnce (a line : Nat) (s : State) (tag : ReqTag := {}) (clean : Bool := false) : Res := .next (s.reqTag a line tag (if clean && agentIsH a then .clean else .rdOnce))
def execWrFull (a line : Nat) (data : Bytes) (s : State) (tag : ReqTag := {}) : Res := .next (s.reqTag a line tag (.wrFull data))
def execWrPartial (a line : Nat) (mask : List Bool) (data : Bytes) (s : State) (tag : ReqTag := {}) : Res := .next (s.reqTag a line tag (.wrPartial mask data))

/-- Lines an agent holds a watch on (R109). -/
def State.watched (s : State) (a : Nat) : List Nat := (s.coh.copies.rows.filter (fun r => r.1 / 2 ^ 46 = a && r.2.watch)).map (fun r => r.1 % 2 ^ 46)
/-- Capacity of a watch store (R109). -/
def watchCap (a : Nat) : Nat := if agentIsTile a then 8 else 256

/-- WATCH of tiles and sequencer complexes, on lines of the memory tiers only (R109). -/
def execWatchReq (a line : Nat) (s : State) (tag : ReqTag := {}) : Res :=
  if !(agentIsTile a || agentIsSeq a) || !agentIn s a then .next s
  else
    match s.homeOf (line * 64) with
    | none => .next (s.emit (.reqFailed a (line * 64) St.watchType))
    | some _ =>
      if !(s.watched a).contains line && watchCap a ≤ (s.watched a).length then .next (s.emit (.reqFailed a (line * 64) St.watchFull))
      else .next (({ s with coh := { s.coh with rewatch := s.coh.rewatch.filter (· != (a, line)) } } : State).reqTag a line tag .watch)

/-- Core requests of an H-die that waited on a locked page go on (R64). -/
def State.coresRetry (s : State) (m : Nat) : State :=
  let mine := fun (w : CoreWait) => (coreHart w.req.agent w.tag).map (· / 64) == some m
  let l := s.xl.coreWait.filter mine
  ({ s with xl := { s.xl with coreWait := s.xl.coreWait.filter (fun w => !mine w) } } : State).each l (fun w s =>
    if agentIn s w.req.agent then s.tagged w.req w.tag (fun s r => s.reqGo w.tag r) else s)

def execPresenceSetAck (stack region : Nat) (s : State) : Res := .next (s.onPresence stack region)

/-! Snoops. While a graceful core reset writes its lines back, a request for a line the cores hold waits (R79). -/
def snoopWaits (s : State) (a line : Nat) : Bool :=
  agentIsH a && s.pcie.hcr.phase = 1 && ((s.copy? a line).isSome || (s.wbBuf? a line).isSome)
def execSnpShared (a line : Nat) (s : State) : Res := .next (if snoopWaits s a line then s else (s.agentWake a).onSnpShared a line)
def execSnpInv (a line : Nat) (s : State) : Res := .next (if snoopWaits s a line then s else (s.agentWake a).onSnpInv a line)
def execSnpOnce (a line : Nat) (s : State) : Res := .next (if snoopWaits s a line then s else (s.agentWake a).onSnpOnce a line)
def execSnpAck (a line : Nat) (s : State) : Res := .next (s.onSnpAck a line)
def execSnpData (a line : Nat) (s : State) : Res := .next (s.onSnpData a line)

/-- At the requester. One that has left service meanwhile keeps nothing: data it was to own goes back to memory (R30). -/
def execGrantMsg (a line : Nat) (s : State) : Res := .next (s.onGrant a line)
def execDataMsg (a line : Nat) (s : State) : Res :=
  let s := s.dataAt a line
  .next (if agentCaches a && !holderIn s a then s.cleanLine a line none else s)
def execComplete (a line : Nat) (s : State) : Res := .next (s.onComplete a line)
def execConflictQueueAccept (line : Nat) (s : State) : Res := .next (s.conflictAccept line)
def execRetryQueueGrant (line : Nat) (s : State) : Res := .next (s.retryGrant line)
def execCacheEvict (a line : Nat) (s : State) : Res := .next (s.evict a line)
def execWb (a line : Nat) (s : State) : Res := .next (s.onWb a line)
def execEvictClean (a line : Nat) (s : State) : Res := .next (s.onEvictClean a line)
def execWbAck (a line : Nat) (s : State) : Res := .next (s.onWbAck a line)
/-- A watch read that finds its line uncorrectable halts the streams whose tail lies there, and ends the WAITs (R293, R308, R449). -/
def State.watchFailed (s : State) (n line : Nat) : State :=
  let s := s.each (s.seq.streams.rows.filter (fun r => r.1 / 64 = n && r.2.watch == some line && strmOn s n (r.1 % 64))) (fun r s =>
    s.haltWith n (r.1 % 64) St.memUncorrectable)
  s.each (s.seq.ents.filter (fun e => e.die = n && entType e.entry = 5 && e.line = line)) (fun e s =>
    (s.endEnt e St.memUncorrectable 0 (fieldB e.entry 8 8)).unwatch n line)
def execMemReadDone (line : Nat) (o : ScrubResult) (s : State) : Res :=
  let failed := match s.txn? line with
    | some t => t.memDue && t.req.kind == .watch && agentIsSeq t.req.agent && (o == .uncorrectable || s.memBad line)
    | none => false
  let n := match s.txn? line with | some t => t.req.agent - agentSeq 0 | none => 0
  .next ((s.onMemRead line o).when failed (fun s => s.watchFailed n line))
def execMemWriteAck (line : Nat) (s : State) : Res := .next (s.onMemWriteAck line)

/-! ### Tiles (R9, R142, R145) -/

/-- A load or store by address to the window or MMIO of a disabled tile. -/
def execAbsentTileAccess (t off : Nat) (write : Bool) (s : State) : Res :=
  if t ≥ 1152 || s.enabled t then .next s
  else
    let s := s.absentAcc t
    .next (if write then s else s.emit (.readData agentNone (tstoreBase t + off) (zerosB 8)))

/-- A write of TILE_RNG_KEY: only the die's sequencer complex writes it (R142). -/
def execTileRngKeyWrite (role : Role) (t : Nat) (key : Word64) (s : State) : Res :=
  if t ≥ 1152 then .next s
  else if !s.enabled t then .next (s.absentAcc t)
  else if role ≠ .seq || !s.tileIn t then .next s
  else
    let lane := s.gf F.TILE_RNG_LANE_lane t
    let s := s.setTile t (fun tl => { tl with rngKey := tl.rngKey.put lane key.toNat })
    let s := s.pf F.TILE_RNG_LANE_lane t ((lane + 1) % 64)
    .next (if lane = 63 then (s.setTile t (fun tl => { tl with rngCtr := {} })).pf F.TILE_RNG_CTRL_keyed t 1 else s)

end Sys2Proof.Machine
end

