-- ==== Sys2Proof/Machine/CoreReset.lean ====
section
/-! DEFINITION. The core-reset domain (R78 to R82, R381 to R383): graceful and forced resets, the flush, the boot with
its measurement and the zeroing of DDR5 pages, and the requests that meet. -/

namespace Sys2Proof.Machine

def State.onPcie (s : State) (f : PcieSt → PcieSt) : State := { s with pcie := f s.pcie }
def State.onHcr (s : State) (f : HcrSt → HcrSt) : State := s.onPcie (fun p => { p with hcr := f p.hcr })
/-- Sets a field of both H-dies. -/
def State.both (s : State) (f : Fld) (v : Nat) : State := (s.pf f 0 v).pf f 1 v

/-- The cores' lines that memory does not hold: held dirty, or in a write-back buffer. -/
def coreDirty (s : State) (a : Nat) : List Nat :=
  ((s.coh.copies.rows.filter (fun r => r.1 / 2 ^ 46 = a && dirtyMoesi r.2.st)).map (·.1)) ++
  ((s.coh.wbBuf.rows.filter (fun r => r.1 / 2 ^ 46 = a)).map (·.1))
/-- Step 2 of a forced reset: dirty lines are discarded and counted at their H-die (R79). -/
def State.coreDiscard (s : State) (m : Nat) : State :=
  let a := agentH m
  let n := (coreDirty s a).length
  let s := s.onCoh fun h => { h with
    copies := h.copies.keep (fun k _ => k / 2 ^ 46 != a)
    wbBuf := h.wbBuf.keep (fun k _ => k / 2 ^ 46 != a) }
  s.when (n ≠ 0) (fun s => s.bump .HCR_MEM_STATUS m n)

/-- Steps 3 and 4: the directories forget the cores, and the domain resets: bindings clear (R378), the IMSICs lose what
was pending. -/
def State.coreDown (s : State) (forced : Bool) : State :=
  let s := (s.dirForget (agentH 0)).dirForget (agentH 1)
  let s := s.each (List.range 128) (fun h s => s.pf F.CORE_PART_part h 0)
  let s := (s.both F.HCR_MEM_STATUS_flush_active 0).onPcie (fun p => { p with imsic := [], hcr := { p.hcr with phase := 2 } })
  let s := s.both F.HCR_STATUS_last_forced (bN forced)
  s.each [0, 1] (fun m s =>
    let c := s.gf F.HCR_STATUS_count m + 1
    if c ≥ 65535 then (s.pf F.HCR_STATUS_count m 65535).pf F.HCR_STATUS_overflow m 1 else s.pf F.HCR_STATUS_count m c)

/-- Step 1: the cores stop; each VNF finishes its frame and stops (R333). The channels' requests complete without their MSIs (R478). -/
def State.coreStop (s : State) (forced : Bool) : State :=
  let s := { s with bmp := { s.bmp with mute := (List.range 23).filter (fun c => s.gb F.ODC_CTRL_go c) } }
  let s := (s.both F.HCR_CTRL_reset_req 1).both F.HCR_CTRL_forced (bN forced)
  { s with eth := { s.eth with vnfs := s.eth.vnfs.mapVals (fun _ x => { x with on := false }) } }

def State.coreForce (s : State) : State := ((s.coreDiscard 0).coreDiscard 1).coreDown true
/-- A request in the phase the domain is in (R382). Requests held together run as one, forced if any is. -/
def State.coreRequest (s : State) (forced : Bool) : State :=
  match s.pcie.hcr.phase with
  | 0 =>
    let s := s.coreStop forced
    if forced then s.coreForce
    else (s.onHcr (fun h => { h with phase := 1 })).both F.HCR_MEM_STATUS_flush_active 1
  | 1 => if forced then (s.both F.HCR_CTRL_forced 1).coreForce else s
  | _ => s.onHcr (fun h => { h with held := some (forced || h.held.getD false) })

/-- Who requests a core reset: the management controller for OPERATOR, and the RoT (R381). -/
def mayReset (s : State) (r : Role) : Bool := r = .operator || privRole r
def execCoreResetGraceful (role : Role) (s : State) : Res := .next (if mayReset s role then s.coreRequest false else s)
def execCoreResetForced (role : Role) (s : State) : Res := .next (if mayReset s role then s.coreRequest true else s)

/-- A request of the cores is still open somewhere, so the flush is not complete. -/
def corePending (s : State) : Bool :=
  s.coh.txns.rows.any (fun r => agentIsH r.2.req.agent) || s.coh.conflictQ.any (fun r => agentIsH r.agent) ||
  s.coh.retryQ.any (fun r => agentIsH r.agent) || s.coh.waitQ.any (fun r => agentIsH r.agent) ||
  s.coh.net.any (fun m => match m with | .data a _ _ _ _ => agentIsH a | .grant a _ => agentIsH a | .complete a _ => agentIsH a | _ => false)
def execCoreFlushDone (s : State) : Res :=
  if s.pcie.hcr.phase ≠ 1 || corePending s then .next s
  else .next (((s.agentLeave (agentH 0)).agentLeave (agentH 1)).coreDown false)

/-! ### Boot (R81, R405, R407) -/

/-- Extends a measurement register with a measurement (R405). -/
def extendM (m d : Bytes) : Bytes := Config.shake256 32 (m ++ d)

/-- A table of the walk maps a physical address (R60): any valid leaf below it covers it. -/
def tableMaps (s : State) (pa : Nat) : Nat → Nat → Nat → Bool
  | 0, _, _ => false
  | fuel + 1, level, table =>
    (List.range 512).any (fun i =>
      match s.readEntry (table + 8 * i) with
      | .ok e =>
        if !peValid e then false
        else if peTable e then tableMaps s pa fuel (level + 1) (pePpn e)
        else level ≠ 0 && pePpn e ≤ pa && pa < pePpn e + 2 ^ (39 - 9 * level)
      | .error _ => false)
/-- An enabled translation context maps a physical address. -/
def ctxMaps (s : State) (pa : Nat) : Bool :=
  (List.range 64).any (fun c => s.gb F.TRANS_ROOT_enable c && tableMaps s pa 4 0 (s.gf F.TRANS_ROOT_root c * 4096))

/-- Valid entries of the preserved-region table: base and size (R81). -/
def preserved (s : State) : List (Nat × Nat) :=
  (List.range 64).filterMap (fun i =>
    match s.od.vals.at? (odKey 0x8100 (i + 1)) with
    | some b => if bitN (fieldB b 17 1) 0 then some (fieldB b 0 8, fieldB b 8 8) else none
    | none => none)
/-- A page of a live partition's memory: where the core attribute table is off or maps nothing, its ranges still stand (R81, R415). -/
def inPartition (s : State) (pa : Nat) : Bool :=
  s.sec.parts.rows.any (fun r => r.1 ≠ 0 && r.2.ranges.any (fun q => q.1 < pa + 4096 && pa < q.1 + q.2))
/-- The four conditions of R81 on a DDR5 page. -/
def zeroable (s : State) (page : Nat) : Bool :=
  let pa := page * 4096
  s.region pa = .ddr && !(preserved s).any (fun r => r.1 < pa + 4096 && pa < r.1 + r.2) &&
  (match s.catLeaf pa with
   | .ok (some (e, _)) => pePart e = 0
   | _ => true) && !inPartition s pa && !ctxMaps s pa

/-- DDR5 lines that hold data somewhere: in memory, in a cache or on the way. A line that nothing has written reads as
the unlisted byte and is left so. -/
def ddrLines (s : State) : List Nat :=
  let ls := s.mem.map (fun c => c.1 / 64) ++ s.lineKey.keys ++ s.coh.copies.keys.map (· % 2 ^ 46) ++
    s.coh.wbBuf.keys.map (· % 2 ^ 46) ++ s.badLines
  (ls.filter (fun l => s.region (l * 64) = .ddr)).eraseDups
/-- The boot firmware zeroes unlisted, unmapped part_id 0 pages of DDR5 before the host OS runs (R81). -/
def State.zeroPages (s : State) : State :=
  let ok := ((ddrLines s).map (· / 64)).eraseDups.filter (zeroable s)
  s.each ((ddrLines s).filter (fun l => ok.contains (l / 64)))
    (fun l s => s.cohWriteLine (s.coreKey (l * 64)) l 0 (zerosB 64))

/-- The cores start: HOST_M is cleared and extended with the boot firmware, which then zeroes pages (R81, R383, R407). -/
def State.coreStart (s : State) (d : Nat) : State :=
  let svns := match s.sec.slots.at? 4 with
    | some p => s.sec.svns.put 4 p.2
    | none => s.sec.svns
  let s := { s with sec := { s.sec with hostM := extendM (zerosB 32) (leBytes 32 d), svns := svns } }
  s.zeroPages.onHcr (fun h => { h with phase := 3 })
def execCoreBoot (imageDigest : Nat) (s : State) : Res :=
  .next (if s.pcie.hcr.phase = 2 then s.coreStart imageDigest else s)

/-- The cores have booted; a held request runs (R382). -/
def execCoreBootDone (s : State) : Res :=
  if s.pcie.hcr.phase ≠ 3 then .next s
  else
    let held := s.pcie.hcr.held
    let s := (s.onHcr (fun _ => { phase := 0 })).both F.HCR_CTRL_reset_req 0
    .next (match held with
      | some f => s.coreRequest f
      | none => s)

end Sys2Proof.Machine
end

