-- ==== Sys2Proof/Machine/Dma.lean ====
section
/-! DEFINITION. The DMA channels of a tile (R134, R160, R174, R175): descriptors, what they read and write, and writes to
PCIe peers through the links' buffers (R393, R394). -/

namespace Sys2Proof.Machine

/-! ### Reads by memory type (R61, R71) and what an uncorrectable one leaves (R449, R450) -/

/-- Bytes that come from a device. -/
def State.freeBytes (s : State) : Nat → Bytes × State
  | 0 => ([], s)
  | n + 1 =>
    let (w, s) := s.free
    let (r, s) := State.freeBytes s n
    (BitVec.ofNat 8 w.toNat :: r, s)

/-- Bytes of a piece by its type. A read of a peer's window answers what the peer sends. -/
def State.readPiece (s : State) (pa n ty key : Nat) : Bytes × State :=
  match s.region pa with
  | .bar => s.freeBytes n
  | .tstore | .mmio => (s.readAt key pa n, s.ioTouch pa)
  | _ => (if directRead s pa ty then s.memBytes key pa n else s.readAt key pa n, s)

/-! ### Descriptors (R174) -/

structure DmaF where
  src : Nat
  dst : Nat
  rows : Nat
  rowBytes : Nat
  srcStride : Nat
  dstStride : Nat
  srcSpace : Nat
  dstSpace : Nat
  xpose : Bool
  width : Nat
  reserved : Bool

def dmaFields (b : Bytes) : DmaF :=
  let sp := fieldB b 32 1
  let dp := fieldB b 33 1
  let x := fieldB b 34 1
  let e := bitsN x 3 1
  { src := fieldB b 0 8, dst := fieldB b 8 8, rows := fieldB b 16 4, rowBytes := fieldB b 20 4, srcStride := fieldB b 24 4
    dstStride := fieldB b 28 4, srcSpace := if sp ≤ 2 then sp else 0, dstSpace := if dp ≤ 2 then dp else 0, xpose := bitN x 0
    width := [4, 6, 8, 16, 32].getD e 4, reserved := sp > 2 || dp > 2 || e > 4 }

/-- The status a descriptor's fields end the job with, and the address it names. -/
def dmaCheck (d : DmaF) : Option (Nat × Nat) :=
  let top (a stride : Nat) : Nat := a + (d.rows - 1) * stride + d.rowBytes
  let out (sp a stride : Nat) : Option (Nat × Nat) :=
    if sp = 1 && top a stride > tstoreBytes then some (St.tstoreRange, a)
    else if sp = 2 && top a stride > 0x40000000 then some (St.podRange, a) else none
  if d.rows = 0 || d.rows > 65536 || d.rowBytes = 0 || d.rowBytes > 1048576 then some (St.descInvalid, d.src)
  else if d.xpose && (d.rowBytes ≠ 8 * d.width || d.rows % 64 ≠ 0) then some (St.descInvalid, d.src)
  else (out d.srcSpace d.src d.srcStride).orElse (fun _ => out d.dstSpace d.dst d.dstStride)

/-- Blocks of 64 rows of 64 elements, each transposed (R133, R134). -/
def xposeRows (w : Nat) (rows : List Bytes) : List Bytes :=
  (List.range (rows.length / 64)).flatMap (fun k =>
    let blk := ((rows.drop (64 * k)).take 64).map leVal
    (List.range 64).map (fun j => leBytes (8 * w) (packFrom w (blk.map (fun v => v / 2 ^ (j * w) % 2 ^ w)))))

/-- The physical pieces of a row in a space: address, length, type, key. -/
def State.dmaRow (s : State) (t ch space a n acc : Nat) :
    Except (Nat × Nat) (List (Nat × Nat × Nat × Nat)) × State :=
  if space = 1 then (.ok [(tstoreBase t + a, n, 3, 0)], s)
  else if space = 2 then (.ok [(podBase (tileDie t) + a, n, 3, 0)], s)
  else s.xlRange (.dma t ch) (s.lapOf t).ctx a n acc (tileDie t)

/-- Reads a row's pieces, or names an uncorrectable address. -/
def State.dmaRead (s : State) (t a : Nat) : List (Nat × Nat × Nat × Nat) → Except (Nat × Nat) Bytes × State
  | [] => (.ok [], s)
  | p :: ps =>
    match s.pieceBad p.1 p.2.1 p.2.2.1 with
    | some bad => (.error (St.memUncorrectable, a), s.badRead (tileDie t) t bad)
    | none =>
      let (b, s) := s.readPiece p.1 p.2.1 p.2.2.1 p.2.2.2
      match State.dmaRead s t a ps with
      | (.ok r, s) => (.ok (b ++ r), s)
      | (.error e, s) => (.error e, s)

/-- Every source row, in order. -/
def State.dmaGather (s : State) (t ch : Nat) (d : DmaF) : Except (Nat × Nat) (List Bytes) × State :=
  let step := fun (acc : Except (Nat × Nat) (List Bytes) × State) (r : Nat) =>
    match acc with
    | (.error e, s) => (.error e, s)
    | (.ok l, s) =>
      let a := d.src + r * d.srcStride
      match s.dmaRow t ch d.srcSpace a d.rowBytes accLoad with
      | (.error e, s) => (.error e, s)
      | (.ok ps, s) =>
        match s.dmaRead t a ps with
        | (.ok b, s) => (.ok (l ++ [b]), s)
        | (.error e, s) => (.error e, s)
  match (List.range d.rows).foldl step (.ok [], s) with
  | (.ok l, s) => (.ok (if d.xpose then xposeRows d.width l else l), s)
  | r => r

/-- The pieces that the rows go to, each with its bytes. A failed check stops the list at its row. -/
def State.dmaPlan (s : State) (t ch : Nat) (d : DmaF) (rows : List Bytes) :
    Option (Nat × Nat) × List (Nat × Nat × Bytes) × State :=
  rows.zipIdx.foldl (fun (acc : Option (Nat × Nat) × List (Nat × Nat × Bytes) × State) (r : Bytes × Nat) =>
    if acc.1.isSome then acc else
    let a := d.dst + r.2 * d.dstStride
    match acc.2.2.dmaRow t ch d.dstSpace a r.1.length accStore with
    | (.error e, s) => (some e, acc.2.1, s)
    | (.ok ps, s) =>
      let put := ps.foldl (fun (x : List (Nat × Nat × Bytes) × Bytes) p => (x.1 ++ [(p.1, p.2.2.2, x.2.take p.2.1)], x.2.drop p.2.1))
        (acc.2.1, r.1)
      (none, put.1, s)) (none, [], s)

/-- TLPs of at most 512 bytes that a write into a peer's window makes (R388). -/
def tlpsOf : Nat → Nat × Nat → Nat → Bytes → List Tlp
  | 0, _, _, _ => []
  | fuel + 1, o, pa, bs =>
    if bs = [] then [] else
    let n := min (512 - pa % 512) bs.length
    { owner := some o, addr := pa, data := bs.take n } :: tlpsOf fuel o (pa + n) (bs.drop n)

/-! ### Progress of a channel -/

def dmaHead (s : State) (t ch : Nat) : Option DmaDesc := ((s.tile t).dmaQ.atD ch []).head?
/-- The descriptor in progress is over: the channel, the Pannier operations behind it and waiting groups go on. -/
def State.dmaFinish (s : State) (t ch : Nat) : State :=
  (s.setTile t fun tl => { tl with
    dmaQ := tl.dmaQ.put ch ((tl.dmaQ.atD ch []).drop 1)
    dmaBusy := tl.dmaBusy.filter (· != ch)
    dmaPeer := tl.dmaPeer.del ch
    panQ := if ch = 3 then tl.panQ.map (fun o => { o with behind := o.behind - 1 }) else tl.panQ }).settleQueues t
/-- The descriptor in progress ends its job. -/
def State.dmaStop (s : State) (t ch status addr : Nat) : State :=
  match dmaHead s t ch with
  | some d => (s.lapStop t status d.group d.leader (uDma ch) d.pc addr).dmaFinish t ch
  | none => s
/-- The channel stops with LINK_LOST; its unacknowledged TLPs are counted (R175, R394). -/
def State.dmaLost (s : State) (t ch k : Nat) : State :=
  let first := !(s.tile t).stopped
  let s := s.dmaStop t ch St.linkLost (match dmaHead s t ch with | some d => (dmaFields d.bytes).dst | none => 0)
  s.when (first && k ≠ 0) (fun s => s.bump .TILE_ERR_AUX t k)

/-- Issues TLPs until the link stalls: how many went, and whether it is down. -/
def State.tlpGo (s : State) : List Tlp → Nat → Nat × Bool × State
  | [], n => (n, false, s)
  | x :: r, n =>
    match s.barLink x.addr with
    | none => State.tlpGo s r (n + 1)
    | some k =>
      if !s.gb F.PCIE_LINK_up k then (n, true, s)
      else
        match s.pcieSend k x with
        | (true, s) => State.tlpGo s r (n + 1)
        | (false, s) => (n, false, s)

/-- Runs the descriptor in progress as far as it goes now. `fin`: its reads and writes can complete. A descriptor that
writes to a peer issues its TLPs as the link takes them and is done when they are acknowledged (R175, R393). -/
def State.dmaRun (s : State) (t ch : Nat) (fin : Bool) : State :=
  match dmaHead s t ch with
  | none => s
  | some dd =>
    let d := dmaFields dd.bytes
    let s0 := s
    match s.dmaGather t ch d with
    | (.error e, s) => if e.1 = 0 then s else s.dmaStop t ch e.1 e.2
    | (.ok rows, s) =>
      match s.dmaPlan t ch d rows with
      | (some e, ps, s) =>
        if e.1 = 0 then s
        else (s.each (if fin then ps else []) (fun p s => s.writeAt p.2.1 p.1 p.2.2)).dmaStop t ch e.1 e.2
      | (none, ps, s) =>
        if fin && ps.any (fun p => encrypted p.1 && (linesOf p.1 p.2.2.length).any s.lineOpen) then s0 else
        let peer := ps.filter (fun p => s.region p.1 = .bar)
        if peer = [] then
          if fin then (s.each ps (fun p s => s.writeAt p.2.1 p.1 p.2.2)).dmaFinish t ch else s0
        else
          let tl := peer.flatMap (fun p => tlpsOf (p.2.2.length + 1) (t, ch) p.1 p.2.2)
          let k := (s.barLink ((peer.map (·.1)).headD 0)).getD 0
          let sent := ((s.tile t).dmaPeer.atD ch (k, 0)).2
          match s.tlpGo (tl.drop sent) 0 with
          | (n, true, s) => (s.setTile t (fun x => { x with dmaPeer := x.dmaPeer.put ch (k, sent + n) })).dmaLost t ch 0
          | (n, false, s) =>
            let s := s.setTile t (fun x => { x with dmaPeer := x.dmaPeer.put ch (k, sent + n) })
            if !fin || sent + n < tl.length || s.gb F.PCIE_LINK_recovery k then s
            else
              let q := s.pcie.links.atD k {}
              let mine := q.replay.filter (fun x => x.owner = some (t, ch))
              let q := { q with replay := q.replay.filter (fun x => x.owner ≠ some (t, ch)) }
              let s := (s.onPcie (fun p => { p with links := p.links.put k q })).pcieAcked mine
              (s.each (ps.filter (fun p => s.region p.1 ≠ .bar)) (fun p s => s.writeAt p.2.1 p.1 p.2.2)).dmaFinish t ch

end Sys2Proof.Machine
end

