-- ==== Sys2Proof/Machine/Links.lean ====
section
/-! DEFINITION. PCIe links (R388, R393 to R395): Recovery, link-down and training. Link l of root port r is number 4r + l. -/

namespace Sys2Proof.Machine

def linkIdx (r l : Nat) : Nat := 4 * r + l
/-- The links a root port's mode gives it (R388). -/
def pcieLinks (s : State) (r : Nat) : Nat :=
  let m := s.gf F.PCIE_CTRL_bifurc r
  if m = 1 then 2 else if m = 2 then 4 else 1
def pcieThere (s : State) (r l : Nat) : Bool := r < 8 && l < pcieLinks s r
def State.setPLink (s : State) (k : Nat) (q : PLink) : State := s.onPcie (fun p => { p with links := p.links.put k q })
/-- The peer has acknowledged some of the oldest writes it was sent: how many the spec does not say (log entry 18). -/
def State.pcieAckSome (s : State) (k : Nat) : State :=
  let q := s.pcie.links.atD k {}
  let (w, s) := s.free
  let n := w.toNat % (q.replay.length + 1)
  (s.pcieAcked (q.replay.take n)).setPLink k { q with replay := q.replay.drop n }

/-- Channels of tiles whose descriptor in progress writes to link k. -/
def dmaOn (s : State) (k : Nat) : List (Nat × Nat) :=
  s.tiles.rows.flatMap (fun r => (r.2.dmaPeer.rows.filter (fun c => c.2.1 = k)).map (fun c => (r.1, c.1)))

def execPcieRecoveryEnter (r l : Nat) (s : State) : Res :=
  let k := linkIdx r l
  if !pcieThere s r l || !s.gb F.PCIE_LINK_up k || s.gb F.PCIE_LINK_recovery k then .next s
  else .next ((s.pcieAckSome k).pf F.PCIE_LINK_recovery k 1)

/-- L0 again: the replay buffer is sent again, the posted queue drains, and stalled channels go on (R393). -/
def execPcieRecoveryExit (r l : Nat) (s : State) : Res :=
  let k := linkIdx r l
  if !pcieThere s r l || !s.gb F.PCIE_LINK_recovery k then .next s
  else
    let q := s.pcie.links.atD k {}
    let s := (s.pf F.PCIE_LINK_recovery k 0).setPLink k { replay := q.replay ++ q.queue, queue := [] }
    .next (s.each (dmaOn s k) (fun c s => s.dmaRun c.1 c.2 false))

/-- Device interfaces of H-die m leave RUN: their seals go, and an admission ends (R392, R432). -/
def State.sealDrop (s : State) (m : Nat) (rids : Nat → Bool) : State :=
  let out := fun (k : Nat) => k / 65536 = m && rids (k % 65536)
  let s := s.onPcie (fun p => { p with run := p.run.filter (fun k => !out k) })
  let s := { s with sec := { s.sec with admitted := s.sec.admitted.keep (fun k _ => !out k) } }
  s.each ((List.range 64).filter (fun i => s.gb F.IOMMU_SEAL_valid (64 * m + i) && rids (s.gf F.IOMMU_SEAL_rid (64 * m + i))))
    (fun i s => s.wr .IOMMU_SEAL (64 * m + i) 0)
/-- Requester IDs behind link k: the buses its root port function is programmed to hold (log entry 17). -/
def behindLink (s : State) (k rid : Nat) : Bool :=
  let f (o : Nat) : Nat := leVal (s.mem.getBytes (ecamOf k + o) 1)
  f 0x19 ≤ rid / 256 && rid / 256 ≤ f 0x1A

/-- DL_Down (R394): what the peer has not acknowledged is discarded and counted, its DMA channels stop, and F1 is raised. -/
def State.pcieDown (s : State) (k : Nat) : State :=
  if !s.gb F.PCIE_LINK_up k then s
  else
    let s := if s.gb F.PCIE_LINK_recovery k then s else s.pcieAckSome k
    let q := s.pcie.links.atD k {}
    let lost := q.replay ++ q.queue
    let s := s.setPLink k {}
    let s := s.when (lost ≠ []) (fun s => s.bump .PCIE_LOST k lost.length)
    let s := (s.wr .PCIE_LINK k 0).pf F.PCIE_LINK_down_event k 1
    let s := s.sealDrop (k / 16) (behindLink s k)
    let s := s.each (dmaOn s k) (fun c s => s.dmaLost c.1 c.2 (lost.filter (fun t => t.owner = some c)).length)
    s.notice (8 + k / 16) (16 + k % 16 / 4) 0
def execPcieLinkDown (r l : Nat) (s : State) : Res := .next (if pcieThere s r l then s.pcieDown (linkIdx r l) else s)

/-- A link trains (R388, R395). -/
def execPcieLinkUp (r l speed width : Nat) (flit cxl : Bool) (s : State) : Res :=
  let k := linkIdx r l
  if !pcieThere s r l || s.gb F.PCIE_LINK_up k || speed = 0 || speed > 6 || width = 0 || width > 16 / pcieLinks s r ||
     !s.dieIn (8 + r / 4) then .next s
  else
    let s := (((s.pf F.PCIE_LINK_speed k speed).pf F.PCIE_LINK_width k width).pf F.PCIE_LINK_up k 1)
    .next ((s.pb F.PCIE_LINK_flit k flit).pb F.PCIE_LINK_cxl k cxl)

end Sys2Proof.Machine
end

