-- ==== Sys2Proof/Machine/Isolate.lean ====
section
/-! DEFINITION. What leaves service and what returns with a block (R30, R42, R45, R112, R115, R130, R146, R258, R286, R302,
R372, R443 to R445): State.settle ends the work of the blocks a command has isolated; State.recoverBlk brings one back. -/

namespace Sys2Proof.Machine

/-! ### Tiles -/

/-- Drops a tile's lap: what it had queued ends with it, and its stack is released (R130, R258). -/
def State.lapDrop (s : State) (t : Nat) : State :=
  let s := s.setTile t fun tl => { tl with
    arrQ := [], arrBusy := false, dmaQ := {}, dmaBusy := [], dmaPeer := {}, panQ := [], shadow := none, active := none, acc := {}, accInt := [] }
  if (s.tile t).lap.isSome then s.lapClear t else s

/-- Jobs that lose the tile: the lap cut off and laps assigned to it that have not started end them with UNIT_RESET
(R302). Pinned laps wait for the tile (R300). -/
def State.tileJobs (s : State) (t : Nat) : State :=
  let n := tileDie t
  let s := match (s.tile t).lap with
    | some l =>
      (s.jobFail l.die l.job St.unitReset t l.index 0 0).onJob l.die l.job (fun x => { x with ended := if l.rerun then x.ended else x.ended + 1 })
    | none => s
  let s := match (s.tile t).queued with
    | some l =>
      match s.job? l.die l.job with
      | some x =>
        if x.pin && !l.rerun then
          (s.setJob l.die l.job { x with sent := x.sent.put t (x.sent.atD t 0 - 1) }).setTile t (fun tl => { tl with queued := none })
        else s.jobFail l.die l.job St.unitReset t l.index 0 0
      | none => s
    | none => s
  s.each (jobsOf s n) fun p s =>
    match s.job? n p.1 with
    | some x =>
      if x.status = 0 && x.phase = 0 && !x.pin then
        match nextLapOf n x t with
        | some i => s.jobFail n p.1 St.unitReset t i 0 0
        | none => s
      else s
    | none => s

/-- A tile leaves service; `lost`: its thread cache failed, so nothing is written back (R115). -/
def State.tileOut (s : State) (t : Nat) (lost : Bool) : State :=
  if !s.enabled t then s
  else
    -- the slots of a lap cut off are handed over too (R302)
    let s := if (s.tile t).lap.isSome then s.each (List.range 16) (fun k s => s.handover t k) else s
    let s := (s.tileJobs t).lapDrop t
    let s := if lost then s.agentLost t else (s.agentLeave t).dirForget t
    let s := s.setTile t (fun tl => { tl with queued := none })
    let s := s.each (unitX (.tile t)) (fun x s => s.dropTlb x)
    let s := { s with xl := { s.xl with lockWait := s.xl.lockWait.filter (fun w => !(unitX (.tile t)).contains w.unit) } }
    (s.pf F.TILE_STATUS_state t 4).pf F.TILE_STATUS_groups_live t 0

/-- A restored tile: everything zero, keys gone, re-initialising (R146). -/
def State.tileBack (s : State) (t : Nat) : State :=
  if !s.enabled t then s
  else
    let b := tstoreBase t
    let mine := fun (a : Nat) => b ≤ a && a < b + tstoreBytes
    let s := { s with mem := s.mem.clear mine, badWords := s.badWords.filter (fun w => !mine (w * 8)) }
    let s := s.setTile t (fun tl => { fwRem := tl.fwRem })
    (((s.pf F.TILE_RNG_CTRL_keyed t 0).pf F.TILE_RNG_LANE_lane t 0)).pf F.TILE_STATUS_state t 5

/-! ### Sequencer complexes (R112, R372, R443) -/

/-- The started entries of a complex end; their records wait for its recovery. `drlToo`: its Derailleur is lost with it, so
the collectives' instances end without a word and the complex writes their delivery entries. -/
def State.seqOut (s : State) (n : Nat) (drlToo : Bool) : State :=
  let collOf := fun (e : Ent) =>
    if drlToo && entType e.entry = 4 then
      ((instsOf s n).find? (fun p => p.2.stream = e.stream && p.2.pos = e.pos)).map (fun p => (p.1, p.2.step))
    else none
  let ran := fun (e : Ent) => match (s.strm n e.stream).group with
    | some g => if entType e.entry = 2 then { e with round := g.ran } else e
    | none => e
  let mine := (s.seq.ents.filter (·.die = n)).map (fun e => (ran e, collOf e))
  let s := s.onSeq (fun q => { q with ents := q.ents.filter (·.die ≠ n), dead := q.dead ++ mine, jobs := q.jobs.keep (fun k _ => k / 64 ≠ n) })
  let s := if drlToo then (s.onDrl (fun d => { d with insts := d.insts.keep (fun k _ => k / 65536 ≠ n) })).drlCount n else s
  let s := s.each (allTiles n) fun t s =>
    if (s.tile t).lap.isSome || (s.tile t).queued.isSome then (s.lapDrop t).setTile t (fun tl => { tl with queued := none }) else s
  let s := s.each (s.seq.streams.rows.filter (fun r => r.1 / 64 = n)) fun r s =>
    let back := match r.2.fetched.head? with | some p => p.1 | none => r.2.head
    (s.setStrm n (r.1 % 64) (fun x => { x with fetched := [], group := none, watch := none, head := back })).pf F.SEQ_STREAM_STATUS_armed r.1 0
  let s := (s.agentLeave (agentSeq n)).dirForget (agentSeq n)
  ((s.pf F.SEQ_STATUS_ready_sent n 0).countJobs n).dropTlb (.seq n)

/-- A complex returns: the records of R443, empty stacks (R258), and every enabled stream read again (R293). -/
def State.seqBack (s : State) (n : Nat) : State :=
  let now := s.dieTime n
  let s := s.each (s.seq.dead.filter (fun p => p.1.die = n)) fun p s =>
    let e := p.1
    let s := s.finish e.die e.stream e.pos e.entry [] { status := St.unitReset, round := e.round, tStart := e.tStart, tEnd := now }
    let s := match p.2 with
      | some (c, step) => s.deliver n c (delivBytes step St.collFailed St.unitReset 0 0 0 0)
      | none => s
    if e.inGroup then s else s.haltOnError n e.stream e.pos St.unitReset
  let s := s.onSeq (fun q => { q with dead := q.dead.filter (fun p => p.1.die ≠ n) })
  let s := s.panLose n
  s.each ((List.range 64).filter (fun st => strmOn s n st)) fun st s =>
    let old := s.strm n st
    let s := (s.vwrite (.seq n) (strmCtx s n st) (strmScb s n st + 72) (leBytes 8 old.head) n).2
    (s.streamOpen n st).setStrm n st (fun x => { x with haltPos := old.haltPos })

/-! ### Derailleurs, NMEs, Aedian Transport, ports -/

def State.drlReset (s : State) (n : Nat) : State :=
  -- terms and results on their way here complete to their senders with UNIT_RESET (R30)
  let lead := (s.leadDie (s.domainOf n)).getD n
  let s := s.each (s.drl.termNet.filter (·.to' = n)) (fun t s => s.emit (.reqFailed (1168 + t.from') 0 St.unitReset))
  let s := s.each (s.drl.resNet.filter (·.to' = n)) (fun _ s => s.emit (.reqFailed (1168 + lead) 0 St.unitReset))
  let s := s.onDrl fun d => { d with
    early := d.early.filter (·.1 ≠ n), termNet := d.termNet.filter (·.to' ≠ n), resNet := d.resNet.filter (·.to' ≠ n)
    norms := d.norms.del n, restart := if d.restart.contains n then d.restart else d.restart ++ [n] }
  ((((s.wake (.drl n)).dropTlb (.drl n)).pf F.DRL_STATUS_stage_wait n 0).pf F.DRL_STATUS_step_nf n 0).drlCount n
/-- The Derailleur alone is lost: its instances fail with UNIT_RESET, and no ABORT goes out (R372). -/
def State.drlOut (s : State) (n : Nat) : State :=
  (s.each (instsOf s n) (fun p s => s.instEnd n p.1 St.collFailed St.unitReset)).drlReset n

/-- A reset NME stops its sweep where it is (R286). Prefold requests on their way are flushed (R30); their senders ask again once it
is back, so that the resumed sweep leaves the same contents (R282; DEDUCED, log entry 142). -/
def State.nmeOut (s : State) (st : Nat) : State :=
  let s := s.sweepLeft st
  let s := s.each (s.nmeU st).prefNet (fun p s => s.emit (.reqFailed (1176 + p.2) 0 St.unitReset))
  ((s.setNme st (fun x => { x with restart := true, loaded := false, prefNet := [], prefLost := x.prefLost ++ x.prefNet })).wake (.nme st)).dropTlb (.nme st)

/-- Connections of a lost AT engine fail (R342). -/
def State.atOut (s : State) (n : Nat) : State :=
  (s.each (s.at'.conns.rows.filter (fun r => r.1 / 65536 = n && (r.2.state = 1 || r.2.state = 2))) (fun r s => s.atFail n (r.1 % 65536))).dropTlb (.at n)

def State.portOut (s : State) (p : Nat) : State :=
  let up := s.gf F.PORT_STATUS_link_up p
  let s := s.each ((List.range 8).filter (fun l => bitN up l)) (fun l s => s.bump .LINK_LINK_DOWNS (linkNo p l))
  ((s.pf F.PORT_STATUS_link_up p 0).retrainEnd p).ptpLost p

/-! ### Dies (R434, R444, R445) -/

/-- Both ends of each Chainring link of a die are keyed anew, and the counters restart at 1 (R434); not in the error state (R403). -/
def crIdx (node k : Nat) : Nat := if node < 8 then 4 * node + k else 32 + 4 * (node - 8) + k
def State.crRekey (s : State) (i : Nat) : State := ((s.pf F.CR_LINK_STATUS_keyed i 1).wr .CR_TX_CTR i 1).wr .CR_RX_CTR i 1
def State.crRekeyDie (s : State) (node : Nat) : State :=
  let mine := (List.range 4).map (crIdx node)
  let far := (List.range 40).filter (fun i => s.gb F.CR_LINK_STATUS_keyed i && s.gf F.CR_LINK_STATUS_peer i = node)
  if s.gb F.ROT_STATUS_error then s else s.each (mine.filter (fun i => s.gb F.CR_LINK_STATUS_keyed i) ++ far) (fun i s => s.crRekey i)

/-- A C-die's work ends: everything but its memory, home agents, NMEs and station (R444). -/
def State.cdieStop (s : State) (n : Nat) : State :=
  let s := ((s.seqOut n true).drlReset n)
  let s := s.each (List.range 144) fun k s => if s.blkState n (16 + k) = 0 then s.tileOut (144 * n + k) false else s
  let s := (s.each (List.range 144) (fun k s => s.panEmpty n k)).atOut n
  s.each [3 * n, 3 * n + 1, 3 * n + 2] (fun p s => s.portOut p)
/-- Isolation of a C-die (R42). -/
def State.cdieOut (s : State) (n : Nat) : State := (s.cdieStop n).dieLeaves n
/-- Isolation of an H-die: a forced core reset of the whole domain, and its links go down. -/
def State.hdieOut (s : State) (m : Nat) : State :=
  let s := s.coreRequest true
  let s := (s.onPcie (fun p => { p with dtCache := p.dtCache.keep (fun k _ => k / 65536 ≠ m) })).dropTlb (.iommu m)
  s.each (List.range 16) (fun i s => s.pcieDown (16 * m + i))

/-- The management controller is lost: channels complete with BUSY, DTLS sessions are lost, and the PTP servo stops (R479). -/
def State.mgmtOut (s : State) : State :=
  let s := s.each ((List.range 23).filter (fun c => s.gb F.ODC_CTRL_go c)) fun c s =>
    (((s.pf F.ODC_CTRL_go c 0).pf F.ODC_STATUS_done c 1).pf F.ODC_STATUS_status c 6).when (s.pcie.hcr.phase = 0)
      (fun s => s.msiOut 10 (s.gf F.ODC_MSI_ADDR_addr c * 4) (s.gf F.ODC_MSI_DATA_data c))
  let s := { s with bmp := { s.bmp with sess := s.bmp.sess.keep (fun k _ => 4 ≤ k), commit := none, behind := [] } }
  let s := s.pf F.MGMT_STATUS_sessions 0 0
  s.holdover

/-- The work of a block that has just left service ends. -/
def State.blkOut (s : State) (node b src : Nat) : State :=
  if node < 8 then
    if b = 0 then s.cdieOut node
    else if b = 1 then s.seqOut node false
    else if b = 3 then (s.panAbort node).each (List.range 144) (fun k s => s.panEmpty node k)
    else if b = 4 then s.drlOut node
    else if b = 5 then s.atOut node
    else if b = 8 || b = 9 then s.nmeOut (2 * node + (b - 8))
    else if 12 ≤ b && b ≤ 14 then s.portOut (3 * node + (b - 12))
    else if 16 ≤ b && b < 160 then s.tileOut (144 * node + (b - 16)) (src = 2)
    else s
  else if (node = 8 || node = 9) && b = 0 then s.hdieOut (node - 8)
  else if node = 10 && b = 5 then s.mgmtOut
  else s

/-- Ends the work of every block this command has isolated, and lets the collectives that lost connections end. -/
def State.settle (s : State) : State :=
  if s.flt.due = [] then s
  else
    let l := s.flt.due
    let s := { s with flt := { s.flt with due := [] } }
    (s.each l (fun d s => s.blkOut d.1 d.2.1 d.2.2)).drlGo

/-- A reset of a block sets the UNIT_EPOCH of its units to 0 (R47); a restoration leaves it (the worked example of R49). -/
def State.zeroEpochs (s : State) (node b : Nat) : State :=
  if node ≥ 8 then s
  else if b = 0 then s.each (dieUnits node) (fun u s => s.setUnitEpoch u 0)
  else if b = 4 then s.setUnitEpoch (.drl node) 0
  else if b = 8 || b = 9 then s.setUnitEpoch (.nme (2 * node + (b - 8))) 0
  else if 16 ≤ b && b < 160 then s.setUnitEpoch (.tile (144 * node + (b - 16))) 0
  else s
/-- A block returns to service after its reset and self-test (R445). -/
def State.blkBack (s : State) (node b : Nat) : State :=
  if node < 8 then
    if b = 1 then s.seqBack node
    else if b = 3 then s.panLose node
    else if b = 8 || b = 9 then s.nmeOut (2 * node + (b - 8))
    else if 12 ≤ b && b ≤ 14 then s.retrain (3 * node + (b - 12))
    else if 16 ≤ b && b < 160 then s.tileBack (144 * node + (b - 16))
    else s
  else if node = 10 && b = 5 then s.netStart
  else s
/-- A die recovery is a die reset: blocks in state 1 return with it, those in state 2 stay (R445). -/
def State.dieBack (s : State) (node : Nat) : State :=
  let blks := if node < 8 then [1, 3, 4, 5, 8, 9, 12, 13, 14] ++ (List.range 144).map (· + 16) else []
  let s := s.each blks fun b s =>
    if s.blkState node b = 1 then (s.setQuiet node b none).fltState node b 0 else s
  let s := (s.crRekeyDie node).zeroEpochs node 0
  let s := if node < 8 then
      let mine := fun (a : Nat) => podBase node ≤ a && a < podBase node + 0x40000000
      ({ s with mem := s.mem.clear mine, badWords := s.badWords.filter (fun w => !mine (w * 8)) } : State)
    else s
  s.each (blks.filter (fun b => s.blkState node b = 0)) (fun b s => s.blkBack node b)
def State.recoverBlk (s : State) (node b : Nat) : State :=
  let s := (s.setQuiet node b none).fltState node b 0
  let s := if b = 0 then s.dieBack node else s.blkBack node b
  s.when (serviceBlk node b) (fun s => s.epochUp)

end Sys2Proof.Machine
end

