-- ==== Sys2Proof/Machine/Faults.lean ====
section
/-! DEFINITION. Commands of spec/15: events, operator commands, recovery, scrubbing and row repair, and the port retrain that
times out (R330). -/

namespace Sys2Proof.Machine

/-- A self-test of R402 fails: the module is out of the approved mode until package reset (R401). -/
def State.testFails (s : State) : State := ({ s with sec := { s.sec with testFailed := true } } : State).pf F.ROT_STATUS_approved 0 0
/-- Beside the fault register set, the registers that hold an event of its source (R100, R412, R403, R33, R449, R450). -/
def State.eventRegs (s : State) (node b src : Nat) : State :=
  if node < 8 && b = 0 && src = 4 then s.bump .POD_CE_COUNT node
  else if (node < 8 && b = 6) || ((node = 8 || node = 9) && b = 2) then
    s.pf (if src = 0 then F.HA_STATUS_dir_corrected else if src = 1 then F.HA_STATUS_dir_rebuilt else F.HA_STATUS_lost_dirty) (haIdx node) 1
  else if node < 10 && b = replicaBlk node && src = 1 then s.replicaOut node
  else if node = 10 && b = 0 && src = 0 then (s.pf F.ROT_STATUS_error 0 1).pf F.ROT_STATUS_approved 0 0
  else if node < 10 && b = 0 && (src = 1 || src = 2) then s.testFails
  else s

/-- FAULT_EVENT: a unit detects a fault. Memory sources go through their controller's registers; an uncorrectable
directory entry, of the line at `detail`, is rebuilt by its home (R100). -/
def execFaultEvent (node b src detail : Nat) (s : State) : Res :=
  if (fltClass node b src).isNone then .next s
  else if node < 8 && b = 0 && src = 5 then
    let (w, s) := s.free
    .next (s.podErr (podBase node + detail % 0x40000000) false false false (w.toNat % 2048))
  else if node < 8 && (b = 10 || b = 11) && src < 2 && s.region detail = .hbm && hbmStack s.hbmMode detail = 2 * node + (b - 10) then
    .next (if src = 0 then s.memCorrected detail else s.memErr detail)
  else if (node = 8 || node = 9) && 8 ≤ b && b < 16 && src < 2 && s.region detail = .ddr &&
          ddrChannel s.ddrMode s.ddrChans detail = 8 * (node - 8) + (b - 8) then
    .next (if src = 0 then s.memCorrected detail else s.memErr detail)
  else
    let s := s.when (((node < 8 && b = 6) || ((node = 8 || node = 9) && b = 2)) && src = 1 && s.homeOf detail = some node)
      (fun s => s.homeReq { kind := .rebuild, agent := agentNone, line := lineOf detail })
    .next (((s.eventRegs node b src).raise node b src false detail).settle)

/-- FLT_FORCE (R439): HOST forces F0 and F1 sources only. -/
def execFltForce (role : Role) (node b : Nat) (mask : Word32) (s : State) : Res :=
  let grave := role = .operator || s.debugOn
  if !(grave || s.mmioRole role) then .next s
  else
    let srcs := (List.range 32).filter (fun i => bitN mask.toNat i)
    .next ((s.each srcs (fun i s =>
      match fltClass node b i with
      | some c => if grave || c < 2 then (s.eventRegs node b i).raise node b i true 0 else s
      | none => s)).settle)

/-! ### Operator commands (R448) -/

/-- Who commands a block: OPERATOR through the mirror, and VENDOR, which every request carries while debug is unlocked (R439, R516). -/
def mayCommand (s : State) (r : Role) : Bool := r = .operator || s.debugOn
def State.fltResult (s : State) (node b op res : Nat) : State :=
  ((s.pf F.FLT_CMD_op (fltIdx node b) op).pf F.FLT_CMD_go (fltIdx node b) 0).pf F.FLT_CMD_result (fltIdx node b) res
/-- The result that turns a command away, if any: DENIED, LATCHED, and STATE for blocks of a die out of service (R447). -/
def fltRefusal (s : State) (node b : Nat) : Option Nat :=
  if !cmdBlk node b then some 5
  else if s.blkState node 0 = 3 then some 3
  else if b ≠ 0 && s.blkState node 0 ≠ 0 then some 1
  else none
/-- An operator command is recorded (R454), and takes its result at once where it is turned away. -/
def State.cmdRecord (s : State) (node b : Nat) : State := s.fltRecord node b 255 0 5 false 0
/-- A command takes a block out of service, without an event. -/
def State.isolateBlk (s : State) (node b : Nat) : State :=
  ((s.leaveService node b 255 2).fltRecord node b 255 0 1 false 0).settle
/-- The isolation of a reset: with the restoration that follows it is one service action (R448, R46). -/
def State.isolateOnce (s : State) (node b : Nat) : State :=
  ((s.leaveFor node b 255 2).fltRecord node b 255 0 1 false 0).settle

def execFltIsolate (role : Role) (node b : Nat) (s : State) : Res :=
  if !mayCommand s role || !blkThere node b then .next s
  else
    let s := s.cmdRecord node b
    match fltRefusal s node b with
    | some r => .next (s.fltResult node b 1 r)
    | none =>
      let st := s.blkState node b
      if st = 2 then .next (s.fltResult node b 1 1)
      else
        let s := if st = 1 then (s.setQuiet node b none).fltState node b 2 else s.isolateBlk node b
        .next ((s.fltRecord node b 255 0 4 false 0).fltResult node b 1 0)

/-- The self-test of a restore or reset fails: it counts among the consecutive failed ones, and the block stays in state 2 or
goes to it (R448). -/
def State.testFail (s : State) (node b op : Nat) : State :=
  let i := fltIdx node b
  let held := s.blkState node b = 2
  let s := ((s.setQuiet node b none).fltState node b 2).pf F.FLT_STATUS_selftest_fail i 1
  let s := (s.pf F.FLT_RECOVERY_failed_tests i (min 3 (s.gf F.FLT_RECOVERY_failed_tests i + 1))).fltRecord node b 255 0 3 false 0
  (s.when (!held) (fun s => s.fltRecord node b 255 0 4 false 0)).fltResult node b op 6

def execFltRestore (role : Role) (node b : Nat) (pass : Bool) (s : State) : Res :=
  if !mayCommand s role || !blkThere node b then .next s
  else
    let s := s.cmdRecord node b
    match fltRefusal s node b with
    | some r => .next (s.fltResult node b 2 r)
    | none =>
      if s.blkState node b = 0 then .next (s.fltResult node b 2 1)
      else if serviceBlk node b && s.epochFull then .next (s.fltResult node b 2 2)
      else
        if !pass then .next (s.testFail node b 2)
        else
          let s := ((s.recoverBlk node b).countRecovery node b 0).pf F.FLT_RECOVERY_auto (fltIdx node b) 1
          .next (((s.fltRecord node b 255 0 2 false 0).fltResult node b 2 0).settle.repairActed node b)

def execFltReset (role : Role) (node b : Nat) (pass : Bool) (s : State) : Res :=
  if !mayCommand s role || !blkThere node b then .next s
  else
    let s := s.cmdRecord node b
    match fltRefusal s node b with
    | some r => .next (s.fltResult node b 3 r)
    | none =>
      if serviceBlk node b && s.epochFull then .next (s.fltResult node b 3 2)
      else
        let served := s.blkState node b = 0
        let s := if served then s.isolateOnce node b else s
        if !pass then .next ((s.testFail node b 3).when (served && serviceBlk node b) (fun s => s.epochUp))
        else .next (((((s.recoverBlk node b).zeroEpochs node b).pf F.FLT_RECOVERY_failed_tests (fltIdx node b) 0).fltResult node b 3 0).settle.repairActed node b)

/-! ### Automatic recovery (R445, R446) -/

def execQuietPeriodEnd (node b : Nat) (pass : Bool) (s : State) : Res :=
  let i := fltIdx node b
  if s.blkState node b ≠ 1 || !s.flt.quiet.has i || (b ≠ 0 && !s.dieIn node) then .next s
  else
    let src := s.flt.cause.atD i 0
    let cls := (fltClass node b src).getD 2
    if pass then
      if serviceBlk node b && s.epochFull then
        .next ((((s.setQuiet node b none).fltState node b 2).hold node b).fltRecord node b src cls 4 false 0).nvFaults
      else
        let s := ((s.recoverBlk node b).zeroEpochs node b).countRecovery node b (s.gf F.FLT_RECOVERY_recent i + 1)
        .next ((s.fltRecord node b src cls 2 false 0).settle)
    else
      let n := min 3 (s.gf F.FLT_RECOVERY_failed_tests i + 1)
      let s := ((s.fltReport node b src).pf F.FLT_STATUS_selftest_fail i 1).pf F.FLT_RECOVERY_failed_tests i n
      let s := (s.fltRecord node b src cls 0 false 0).fltRecord node b src cls 3 false 0
      if n = 3 then .next (((s.setQuiet node b none).fltState node b 2).fltRecord node b src cls 4 false 0)
      else .next (s.setQuiet node b (some (quietMs s b)))

/-- The OPERATOR write of the mirror's .06 (R440): only 0 is a valid value. -/
def execFltRecoveryClear (role : Role) (node b : Nat) (v : Word64) (s : State) : Res :=
  let i := fltIdx node b
  if !mayCommand s role || !blkThere node b || v ≠ 0 then .next s
  else
    let s := (((s.pf F.FLT_RECOVERY_count i 0).pf F.FLT_RECOVERY_recent i 0).pf F.FLT_RECOVERY_failed_tests i 0).pf F.FLT_RECOVERY_overflow i 0
    .next ((s.pf F.FLT_RECOVERY_auto i 1).fltRecord node b 255 0 7 false 0)

/-- A recovery leaves the window of 3,600 s (R446). -/
def execRecentWindowExpiry (node b : Nat) (s : State) : Res :=
  let i := fltIdx node b
  let r := s.gf F.FLT_RECOVERY_recent i
  if r = 0 then .next s
  else
    let s := s.pf F.FLT_RECOVERY_recent i (r - 1)
    .next (s.when (r = 1 && s.gf F.FLT_RECOVERY_count i < 65535) (fun s => s.pf F.FLT_RECOVERY_auto i 1))

def execFltNvSave (s : State) : Res := .next s.nvFaults

/-! ### Scrubbing and row repair (R449 to R452, R515) -/

def State.markBad (s : State) (line : Nat) : State :=
  if s.badLines.contains line then s else { s with badLines := line :: s.badLines }
/-- The 64-bit word of a Pod or tile store (R138, R450). -/
def State.markWord (s : State) (pa : Nat) : State :=
  if s.badWords.contains (pa / 8) then s else { s with badWords := pa / 8 :: s.badWords }
/-- A scrub's report. One of a tile store says that a word of it fails: no scrub reads it, and the next reader meets the word (DESIGN CHOICE, log
entry 127). -/
def execPatrolScrub (pa : Nat) (found : ScrubResult) (pch bank row : Nat) (s : State) : Res :=
  match s.region pa, found with
  | _, .clean => .next s
  | .hbm, .corrected => .next (s.memCorrected pa)
  | .ddr, .corrected => .next (s.memCorrected pa)
  | .pod, .corrected => let n := (pa - podBase 0) / 0x40000000; .next ((s.bump .POD_CE_COUNT n).notice n 0 4)
  | .hbm, .uncorrectable => .next ((s.markBad (lineOf pa)).memErrAt pa false true (some (pch, bank, row)))
  | .ddr, .uncorrectable => .next ((s.markBad (lineOf pa)).memErrAt pa false true (some (pch, bank, row)))
  | .pod, .uncorrectable =>
    let (w, s) := (s.markWord pa).free
    .next (s.podErr pa false true false (w.toNat % 2048))
  | .tstore, .corrected => .next (let t := windowTile pa; if s.enabled t then s.notice (tileDie t) (tileBlk t) 0 else s)
  | .tstore, .uncorrectable => .next (if s.enabled (windowTile pa) then s.markWord pa else s)
  | _, _ => .next s

/-- A controller: its number, PPR register copy, block, error registers, and whether it is HBM4's. -/
structure Ctl where
  key : Nat
  idx : Nat
  node : Nat
  blk : Nat
  hbm : Bool
  cmd : Reg
def ctlOf : MemCtl → Option Ctl
  | .hbm st => if st < 16 then some { key := st, idx := st, node := stackDie st, blk := 10 + st % 2, hbm := true, cmd := .HBM_PPR_CMD } else none
  | .ddr ch => if ch < 16 then some { key := 16 + ch, idx := ch, node := 8 + ch / 8, blk := 8 + ch % 8, hbm := false, cmd := .MC_PPR_CMD } else none
def Ctl.fld (c : Ctl) (f : Fld) : Fld := { f with reg := c.cmd }

/-- A write of HBM_PPR_CMD or MC_PPR_CMD. While a repair runs it starts nothing and result reads BUSY (R451). -/
def execRowRepair (role : Role) (c : MemCtl) (v : Word64) (s : State) : Res :=
  match ctlOf c with
  | none => .next s
  | some k =>
    let w := v.toNat
    if !(s.mmioRole role || privRole role) then .next s
    else if s.gb (k.fld F.HBM_PPR_CMD_go) k.idx then .next (s.pf (k.fld F.HBM_PPR_CMD_result) k.idx 2)
    else
      let s := ((s.pf (k.fld F.HBM_PPR_CMD_pch) k.idx w).pf (k.fld F.HBM_PPR_CMD_bank) k.idx (bitsN w 10 6)).pf (k.fld F.HBM_PPR_CMD_row) k.idx
        (bitsN w 29 12)
      .next (if bitN w 30 then
        ({ s with flt := { s.flt with ppr := s.flt.ppr.put k.key (w % 2 ^ 30) } } : State).pf (k.fld F.HBM_PPR_CMD_go) k.idx 1 else s)

/-- Soft spares are one for each bank of a pseudo-channel (HBM4), or bank group of a rank (DDR5) (R515). -/
def spareKey (k : Ctl) (pch bank : Nat) : Nat := k.key * 4096 + (if k.hbm then pch * 32 + bank else pch * 8 + bank / 4)
/-- A line of this controller that reads uncorrectable. -/
def ctlLine (s : State) (k : Ctl) (l : Nat) : Bool :=
  match s.region (l * 64) with
  | .hbm => k.hbm && hbmStack s.hbmMode (l * 64) = k.idx
  | .ddr => !k.hbm && ddrChannel s.ddrMode s.ddrChans (l * 64) = k.idx
  | _ => false
/-- The uncorrectable lines of the repaired row read back as unspecified bytes. The line the error registers name with this
row lies in it; of every other line of the controller the spec does not say (log entry 5). -/
def State.rowLines (s : State) (k : Ctl) (pch bank row : Nat) : State :=
  let info : Reg := if k.hbm then .HBM_ERR_INFO else .MC_ERR_INFO
  let addr : Reg := if k.hbm then .HBM_ERR_ADDR else .MC_ERR_ADDR
  let f (x : Fld) : Nat := s.gf { x with reg := info } k.idx
  let named := f F.HBM_ERR_INFO_valid = 1 && f F.HBM_ERR_INFO_pch = pch && f F.HBM_ERR_INFO_bank = bank && f F.HBM_ERR_INFO_row = row
  let line := lineOf (s.gf { F.HBM_ERR_ADDR_pa with reg := addr } k.idx)
  s.each (s.badLines.filter (ctlLine s k)) fun l s =>
    let (w, s) := s.free
    if (named && l = line) || bitN w.toNat 0 then
      s.memLine (s.lineKey.atD l 0) l ((List.range 64).map (fun i => Config.repaired (l * 64 + i)))
    else s

def execRowRepairDone (c : MemCtl) (s : State) : Res :=
  match ctlOf c with
  | none => .next s
  | some k =>
    match s.flt.ppr.at? k.key with
    | none => .next s
    | some w =>
      let pch := w % 64
      let bank := bitsN w 10 6
      let row := bitsN w 29 12
      let sp := spareKey k pch bank
      let s := ({ s with flt := { s.flt with ppr := s.flt.ppr.del k.key } } : State).pf (k.fld F.HBM_PPR_CMD_go) k.idx 0
      if s.flt.soft.contains sp then .next ((s.pf (k.fld F.HBM_PPR_CMD_result) k.idx 1).notice k.node k.blk 3)
      else
        let s := (s.rowLines k pch bank row).pf (k.fld F.HBM_PPR_CMD_result) k.idx 0
        let s := { s with flt := { s.flt with soft := sp :: s.flt.soft } }
        let s := if s.flt.repairs.contains (k.key, w) then s
          else if s.flt.repairs.length < 256 then { s with flt := { s.flt with repairs := s.flt.repairs ++ [(k.key, w)] } }
          else s.notice k.node k.blk 3
        .next (s.notice k.node k.blk 2)

/-! ### A retrain that times out (R319, R330, R331) -/

/-- Connections whose every path lies on a port's links. -/
def connsOn (s : State) (p : Nat) : List Nat :=
  let n := portDie p
  (s.at'.conns.rows.filter (fun r => r.1 / 65536 = n && (r.2.state = 1 || r.2.state = 2) && r.2.paths.all (fun i => (pathPort r.2 i).1 = p))).map (·.1 % 65536)
def execRetrainTimeout (p : Nat) (s : State) : Res :=
  let lost := (List.range 8).any (fun l => (s.link (linkNo p l)).lost)
  if p ≥ 24 || !portIn s p then .next s
  else if !s.gb F.PORT_STATUS_retraining p then
    .next (if lost then (s.raise (portDie p) (portBlk p) 1 false 0).settle.drlGo else s)
  else
    let s := (s.pf F.PORT_STATUS_retrain_timeout p 1).retrainEnd p
    let s := s.each (connsOn s p) (fun c s => s.atFail (portDie p) c)
    .next ((s.raise (portDie p) (portBlk p) 1 false 0).settle.drlGo)

end Sys2Proof.Machine
end

