-- ==== Sys2Proof/Machine/Pcie.lean ====
section
/-! DEFINITION. MSIs and peer requests (R80, R380, R390 to R392): interrupt files, the IOMMU's device entries, seals and
checks; and the far atomics of agents and cores (R104 to R107). -/

namespace Sys2Proof.Machine

/-! ### Interrupt files (R380) -/

/-- Delivers a write to an interrupt file; during a core reset it is dropped (R80). -/
def State.msiWrite (s : State) (pa size data : Nat) : State :=
  match msiFile pa with
  | none => s
  | some (m, f, o) =>
    if size ≠ 4 || o ≠ 0 || data = 0 || data > 2047 || s.pcie.hcr.phase ≠ 0 || !s.dieIn (8 + m) then s
    else
      let k := (m * 640 + f) * 2048 + data
      s.onPcie (fun p => { p with imsic := if p.imsic.contains k then p.imsic else k :: p.imsic })
def execImsicMsi (pa size : Nat) (data : Word32) (s : State) : Res := .next (s.msiWrite pa size data.toNat)

/-! ### Device entries (R390) -/

/-- Looks up a requester's entry: the entry, or none where it is missing or invalid; an error is an uncorrectable read. -/
def State.devEntry (s : State) (m rid : Nat) : Except Nat (Option Nat) × State :=
  if !s.gb F.IOMMU_DT_BASE_enable m then (.ok none, s)
  else
    match s.pcie.dtCache.at? (m * 65536 + rid) with
    | some e => (.ok (some e), s)
    | none =>
      let a := s.gf F.IOMMU_DT_BASE_pa m * 4096 + 16 * rid
      match s.region a with
      | .hbm | .ddr =>
        if s.lineBad (lineOf a) then (.error a, s.memErr a)
        else
          let e := s.cohVal (s.lineKey.atD (lineOf a) 0) a 16
          if bitN e 0 then (.ok (some e), s.onPcie (fun p => { p with dtCache := p.dtCache.put (m * 65536 + rid) e })) else (.ok none, s)
      | _ => (.ok none, s)

/-- A write of IOMMU_DT_INVAL: ignored while one runs. -/
def execIommuDtInval (role : Role) (m : Nat) (v : Word32) (s : State) : Res :=
  if m ≥ 2 || !(s.mmioRole role || privRole role) || s.gb F.IOMMU_DT_INVAL_go m then .next s
  else .next (s.wr .IOMMU_DT_INVAL m (v.toNat % 2 ^ 18))
def execIommuDtInvalDone (m : Nat) (s : State) : Res :=
  if m ≥ 2 || !s.gb F.IOMMU_DT_INVAL_go m then .next s
  else
    let all := s.gb F.IOMMU_DT_INVAL_all m
    let rid := s.gf F.IOMMU_DT_INVAL_rid m
    let s := s.onPcie (fun p => { p with dtCache := p.dtCache.keep (fun k _ => k / 65536 ≠ m || !(all || k % 65536 = rid)) })
    .next (s.pf F.IOMMU_DT_INVAL_go m 0)

/-! ### Seals (R392) -/

/-- Seal entries of H-die m. -/
def sealsOf (m : Nat) : List Nat := (List.range 64).map (fun i => 64 * m + i)
def State.sealed (s : State) (m rid part : Nat) : Bool :=
  (sealsOf m).any (fun i => s.gb F.IOMMU_SEAL_valid i && s.gf F.IOMMU_SEAL_rid i = rid && s.gf F.IOMMU_SEAL_part i = part)
def State.sealOk (s : State) (m rid part : Nat) (ideT : Bool) : Bool :=
  s.sealed m rid part && ideT && s.pcie.run.contains (m * 65536 + rid)

/-! ### Requests -/

def peerIsWrite : PeerOp → Bool | .write _ _ _ => true | _ => false
/-- The link a requester stands behind is down: its completions cannot be returned (R394). -/
def peerGone (s : State) (m rid : Nat) : Bool :=
  (List.range 16).any (fun i => rid ≥ 256 && behindLink s (16 * m + i) rid && !s.gb F.PCIE_LINK_up (16 * m + i))
/-- A completion: 0 successful, 1 Unsupported Request, 4 Completer Abort. Writes have none. -/
def State.peerEnd (s : State) (m rid : Nat) (op : PeerOp) (status : Nat) (data : Bytes) : State :=
  s.when (!peerIsWrite op && !peerGone s m rid) (fun s => s.emit (.peerCpl m rid status data))
/-- A failed check (R391): counted, reported, and held when it is the first. -/
def State.iommuFault (s : State) (m rid addr kind : Nat) (op : PeerOp) : State :=
  let s := if s.gb F.IOMMU_FAULT_first_fault m then s
    else (((s.pf F.IOMMU_FAULT_first_fault m kind).pb F.IOMMU_FAULT_write m (peerIsWrite op)).pf F.IOMMU_FAULT_rid m rid).pf F.IOMMU_FAULT_ADDR_addr m addr
  ((s.bump .IOMMU_FAULT_COUNT m).notice (8 + m) 4 0).peerEnd m rid op 1 []

/-- Runs of bytes a mask selects: offset and bytes. -/
def maskRuns : Nat → List Bool → Bytes → List (Nat × Bytes)
  | o, e :: m, b :: bs =>
    match maskRuns (o + 1) m bs with
    | (o', d) :: r => if e then (if o' = o + 1 then (o, b :: d) :: r else (o, [b]) :: (o', d) :: r) else (o', d) :: r
    | [] => if e then [(o, [b])] else []
  | _, _, _ => []
/-- Writes the selected bytes of translated pieces: coherently in memory (R114), an MSI at its interrupt file (R380). -/
def State.peerWrite (s : State) : List (Nat × Nat × Nat × Nat) → List Bool → Bytes → State
  | [], _, _ => s
  | p :: ps, m, bs =>
    let s := s.each (maskRuns 0 (m.take p.2.1) (bs.take p.2.1)) (fun r s =>
      if (msiFile p.1).isSome then s.msiWrite (p.1 + r.1) r.2.length (leVal r.2) else s.writeAt p.2.2.2 (p.1 + r.1) r.2)
    State.peerWrite s ps (m.drop p.2.1) (bs.drop p.2.1)
/-- Reads translated pieces by the direct path (R71): the first uncorrectable address, or the bytes. -/
def State.peerRead (s : State) (m : Nat) : List (Nat × Nat × Nat × Nat) → Except Nat Bytes × State
  | [] => (.ok [], s)
  | p :: ps =>
    match s.pieceBad p.1 p.2.1 2 with
    | some bad => (.error bad, s.badRead (8 + m) 0x7FF bad)
    | none =>
      let (b, s) := s.readPiece p.1 p.2.1 2 p.2.2.2
      match s.peerRead m ps with
      | (.ok r, s) => (.ok (b ++ r), s)
      | e => e

/-- The atomic a request performs: size, aop of R172, operand, new value. -/
def peerAtom : PeerOp → Option (Nat × Nat × Nat × Nat)
  | .fetchAdd n a => some (n, 0, a, 0)
  | .swap n a => some (n, 8, a, 0)
  | .cas n e v => some (n, 9, e, v)
  | _ => none

def peerLen : PeerOp → Nat
  | .read n => n
  | .write d m _ => min d.length m.length
  | .fetchAdd n _ => n
  | .swap n _ => n
  | .cas n _ _ => n

/-- Performs a request whose range is translated. -/
def State.peerDo (s : State) (m rid : Nat) (op : PeerOp) (ps : List (Nat × Nat × Nat × Nat)) : State :=
  match op with
  | .read _ =>
    match s.peerRead m ps with
    | (.ok b, s) => s.peerEnd m rid op 0 b
    | (.error _, s) => s.peerEnd m rid op 4 []
  | .write d k _ => s.peerWrite ps k d
  | _ =>
    match peerAtom op, ps with
    | some (n, aop, a, v), [p] =>
      if !(n = 4 || n = 8) || p.1 % n ≠ 0 || p.2.2.1 = 4 || s.region p.1 = .bar || s.region p.1 = .mmio then s.peerEnd m rid op 1 []
      else
        match s.pieceBad p.1 n 0 with
        | some bad => (s.badRead (8 + m) 0x7FF bad).peerEnd m rid op 4 []
        | none =>
          let s := s.ioTouch p.1
          if s.region p.1 = .tstore && !s.windowUp p.1 then s.peerEnd m rid op 0 (zerosB n)
          else if encrypted p.1 && s.lineOpen (lineOf p.1) then
            s.enqueue { kind := .atomic (p.1 % 64) n aop a v, agent := agentNone, line := lineOf p.1, key := p.2.2.2, peer := some (m, rid), since := s.now }
          else let (old, s) := s.atomicMem p.2.2.2 p.1 n aop a v; s.peerEnd m rid op 0 (leBytes n old)
    | _, _ => s.peerEnd m rid op 1 []

/-- A write without Relaxed Ordering: later requests of its peer stay behind it (R114). -/
def ordered : PeerOp → Bool | .write _ _ ro => !ro | _ => false
def State.peerHold (s : State) (m rid addr : Nat) (ideT : Bool) (op : PeerOp) : State :=
  s.onPcie (fun p => { p with wait := p.wait ++ [(m, rid, addr, ideT, op)] })

/-- A peer request (R390 to R392). It waits on a locked page (R64), a write in order also on an open line (R93), and any request behind a
write of its peer that waits (R114). -/
def State.peer (s : State) (m rid addr : Nat) (ideT : Bool) (op : PeerOp) : State :=
  if s.pcie.wait.any (fun w => w.1 = m && w.2.1 = rid && ordered w.2.2.2.2) then s.peerHold m rid addr ideT op
  else
  match s.devEntry m rid with
  | (.error _, s) => s.peerEnd m rid op 4 []
  | (.ok none, s) => s.iommuFault m rid addr 5 op
  | (.ok (some e), s) =>
    let ctx := bitsN e 6 1
    let part := s.gf F.TRANS_ATTR_part_id ctx
    if part ≠ 0 && !s.sealOk m rid part ideT then s.iommuFault m rid addr 3 op
    else if peerIsWrite op && bitN e 7 && (msiFile addr).isSome then
      match op with
      | .write d k _ => s.peerWrite [(addr, d.length, 4, 0)] k d
      | _ => s
    else
      match s.xlRange (.iommu m) ctx addr (peerLen op) (if op matches .read _ then accLoad else accStore) (8 + m) with
      | (.ok ps, s) => if ordered op && s.piecesOpen ps then s.peerHold m rid addr ideT op else (s.peerDo m rid op ps).settle
      | (.error (st, _), s) =>
        if st = 0 then s.peerHold m rid addr ideT op
        else if st = St.memUncorrectable then s.peerEnd m rid op 4 []
        else s.iommuFault m rid addr (st - 5) op
def execPeerRequest (m rid addr : Nat) (ideT : Bool) (op : PeerOp) (s : State) : Res :=
  .next (if m < 2 && rid < 65536 && s.dieIn (8 + m) then s.peer m rid addr ideT op else s)

/-- Requests of H-die m that waited go on, in their order. -/
def State.peersRetry (s : State) (m : Nat) : State :=
  let l := s.pcie.wait.filter (fun w => w.1 = m)
  let s := s.onPcie (fun p => { p with wait := p.wait.filter (fun w => w.1 ≠ m) })
  s.each l (fun w s => s.peer w.1 w.2.1 w.2.2.1 w.2.2.2.1 w.2.2.2.2)

/-! ### Atomics of agents and cores (R104 to R107) -/

/-- An atomic to an IO address is not performed: the core faults, another issuer's request ends (R105). -/
def State.atomicIo (s : State) (a pa : Nat) (tag : ReqTag) : State :=
  match coreHart a tag with
  | some h => s.emit (.coreFault h pa)
  | none => s.emit (.reqFailed a pa St.atomicType)
/-- A far atomic (R104 to R107): at the NME where the presence bit of the region is clear, at the home otherwise, and at
the controller of an SRAM window. -/
def execAtomicReq (a pa size aop opnd newVal : Nat) (s : State) (tag : ReqTag := {}) : Res :=
  if !agentIn s a || !(size = 4 || size = 8) || aop > 9 then .next s
  else if pa % size ≠ 0 then .next (s.emit (.reqFailed a pa St.misaligned))
  else if (coreHart a tag).isSome && tag.pbmt = 2 then .next (s.atomicIo a pa tag)
  else
    let line := lineOf pa
    let home := fun (s : State) (r : Req) => s.request r
    let r : Req := { kind := .atomic (pa % 64) size aop opnd newVal, agent := a, line := line }
    let sram := fun (s : State) => let q := (s.ioTouch pa).atomicMem 0 pa size aop opnd newVal; q.2.emit (.atomicOld a pa q.1)
    match s.region pa with
    | .hbm =>
      if s.coh.presBits.contains ((s.presOf line).getD 0) || s.lineOpen line then .next (s.tagged r tag home)
      else .next (s.tagged r tag fun s r =>
        if s.lineBad line then (s.memErr pa).emit (.reqFailed a pa St.memUncorrectable)
        else let q := s.atomicMem r.key pa size aop opnd newVal; q.2.emit (.atomicOld a pa q.1))
    | .ddr | .cxl => .next (s.tagged r tag home)
    | .pod => .next (match s.wordBad pa size with
      | some w => ((s.badRead (agentNode a) a w).emit (.reqFailed a pa St.memUncorrectable))
      | none => sram s)
    | .tstore =>
      if s.windowUp pa then .next (match s.wordBad pa size with
        | some w => ((s.badRead (agentNode a) a w).emit (.reqFailed a pa St.memUncorrectable)).settle
        | none => sram s)
      else .next ((s.ioTouch pa).emit (.atomicOld a pa 0))
    | .hole => .next (match coreHart a tag with
      | some h => (s.hole pa (8 + h / 64)).emit (.coreFault h pa)
      | none => (s.hole pa (agentNode a)).emit (.reqFailed a pa St.addrHole))
    | _ => .next (s.atomicIo a pa tag)

end Sys2Proof.Machine
end

