-- ==== Sys2Proof/Machine/Security.lean ====
section
/-! DEFINITION. The Root of Trust (R399 to R432): mailbox commands, measurements, attestation reports, sealed partitions,
memory-key generations, Husks, PCIe admission and firmware update. A command stands for its request as the RoT takes it
from the mailbox; its effect is performed then, and MBOX_RESPONSE completes it (log entry 19). -/

namespace Sys2Proof.Machine

def State.onSec (s : State) (f : SecSt → SecSt) : State := { s with sec := f s.sec }
def State.part (s : State) (p : Nat) : Part := s.sec.parts.atD p {}

/-! ### Results (R414) -/

namespace Rot
abbrev ok : Nat := 0
abbrev denied : Nat := 1
abbrev invalid : Nat := 2
abbrev busy : Nat := 3
abbrev unsigned : Nat := 4
abbrev verifyFail : Nat := 5
abbrev rollback : Nat := 6
abbrev staleReport : Nat := 7
abbrev unwrapFail : Nat := 8
abbrev huskTag : Nat := 9
abbrev huskStack : Nat := 10
abbrev rotateBusy : Nat := 11
abbrev epochExhausted : Nat := 12
abbrev errorState : Nat := 13
abbrev deviceRefused : Nat := 14
end Rot

/-! ### Self-tests and the error state (R401 to R403) -/

/-- The approved mode (R401): no test of R402 has failed, whatever its row (DEDUCED, log entry 157). -/
def State.approvedSync (s : State) : State :=
  s.pb F.ROT_STATUS_approved 0 (s.gb F.ROT_STATUS_ready && !s.gb F.ROT_STATUS_error && !s.gb F.ROT_STATUS_debug_unlocked && !s.sec.testFailed)
def State.rotError (s : State) : State := (((s.pf F.ROT_STATUS_error 0 1).approvedSync).raise 10 0 0 false 0).settle
def execSelfTestPeriodic (pass : Bool) (s : State) : Res := .next (if pass || s.gb F.ROT_STATUS_error then s else s.rotError)

/-! ### Mailboxes (R413, R414) -/

def isHost (i : Nat) : Bool := i = 0
def isOp (i : Nat) : Bool := i = 1
/-- The mailbox of partition p's tenant. -/
def isTen (i p : Nat) : Bool := 1 ≤ p && i = p + 1

/-- The RoT takes a request: none while it is not ready, saves at a sag, or has not answered the mailbox's last one. -/
def State.mbox (s : State) (i seq cmd p : Nat) (f : State → Nat × Bytes × State) : State :=
  if i ≥ 17 || !s.gb F.ROT_STATUS_ready || s.flt.sag || s.pwr.inReset || s.sec.resp.has i || s.sec.waits.has i then s
  else
    let s := s.pf F.MBOX_CTRL_go i 1
    let (r, b, s) := if s.gb F.ROT_STATUS_error then (Rot.errorState, [], s) else f s
    s.onSec (fun x => { x with resp := x.resp.put i ⟨cmd, seq, r, b, p⟩ })
/-- A request whose accesses may meet a locked page: while `held` says so it waits, and runs when the lock is clear (R64). -/
def State.mboxWait (s : State) (i : Nat) (c : MboxCmd) (held : State → Bool × State) (f : State → State) : State :=
  match held s with
  | (true, t) => if s.sec.waits.has i || s.sec.resp.has i || !s.gb F.ROT_STATUS_ready || s.gb F.ROT_STATUS_error || s.flt.sag || s.pwr.inReset || i ≥ 17 then s
    else (t.pf F.MBOX_CTRL_go i 1).onSec (fun x => { x with waits := x.waits.put i c })
  | (false, _) => f s
/-- A range of a context meets a locked page. -/
def State.rangeHeld (s : State) (u : XUnit) (ctx va n acc node : Nat) : Bool × State :=
  match s.xlRange u ctx va n acc node with
  | (.error (0, _), s) => (true, s)
  | _ => (false, s)
/-- A result without a body that leaves the state as it is. -/
def State.deny (s : State) (r : Nat) : Nat × Bytes × State := (r, [], s)
/-- Creation or teardown of p runs (R425). -/
def State.partBusy (s : State) (p : Nat) : Bool := (s.part p).state = 1 || (s.part p).state = 2

/-- The response is written, done sets, go clears and the MSI is sent; what the command kept in progress ends. -/
def execMboxResponse (i : Nat) (s : State) : Res :=
  match s.sec.resp.at? i with
  | none => .next s
  | some r =>
    if s.flt.sag then .next s
    else
      let n := 8 + r.body.length
      let b := leBytes 2 r.cmd ++ leBytes 2 n ++ leBytes 4 r.seq ++ r.body
      let s := { s with mem := s.mem.putBytes (mboxBuf i + 0x4000) (b.take 16384) }
      let s := s.onSec (fun x => { x with resp := x.resp.del i })
      let s := if r.part = 0 then s
        else if r.cmd = 3 then (if (s.part r.part).state = 2 then s.onSec (fun x => { x with parts := x.parts.del r.part }) else s)
        else if s.sec.parts.has r.part && (s.part r.part).state ≠ 2 then s.setPart r.part (fun x => { x with state := 0 })
        else s
      let s := ((s.pf F.MBOX_STATUS_done i 1).pf F.MBOX_STATUS_result i r.result).pf F.MBOX_STATUS_resp_len i n
      .next ((s.pf F.MBOX_CTRL_go i 0).msiOut 10 (s.gf F.MBOX_MSI_ADDR_addr i * 4) (s.gf F.MBOX_MSI_DATA_data i))

def execUnknownMboxCommand (i seq cmd : Nat) (s : State) : Res := .next (s.mbox i seq cmd 0 (fun s => s.deny Rot.denied))

/-! ### Die resets and states (R46, R419, R422) -/

/-- A die reset as a service action: its work ends with UNIT_RESET, its SRAMs are zeroed and its units start stale. -/
def State.dieReset (s : State) (node : Nat) : State :=
  let s := if node < 8 then
      ((((s.cdieStop node).domLeave node).pf F.SEQ_STATUS_ready_sent node 0).tandemLeave node).boundaryCheck (s.domainOf node)
    else s.hdieOut (node - 8)
  let s := ((s.dieBack node).zeroEpochs node 0).epochUp
  (s.onSec (fun x => { x with dies := x.dies.put node { x.dies.atD node {} with reset := node < 8 } })).fwSettle node

/-- 0 ACTIVE, 1 TRANSITION, 2 ISOLATED (R419). -/
def State.dieState (s : State) (node : Nat) : Nat :=
  let f := s.sec.dies.atD node {}
  if !s.dieIn node then 2
  else if f.staged.isSome || f.reset ||
      (node < 8 && s.sec.parts.rows.any (fun r => (r.2.state = 1 || r.2.state = 2) && bitN r.2.mask node)) ||
      (node ≥ 8 && (s.pcie.hcr.phase = 1 || s.pcie.hcr.phase = 2)) then 1
  else 0
def partDies (s : State) (p : Nat) : List Nat := (List.range 8).filter (fun n => bitN (s.part p).mask n)
def State.partState (s : State) (p : Nat) : Nat :=
  if (partDies s p).any (fun n => s.dieState n = 2) then 2
  else if (s.part p).state ≠ 0 || (partDies s p).any (fun n => s.dieState n = 1) then 1
  else 0

/-! ### Attestation (R410, R412, R417, R418) -/

/-- Uses the next attestation leaf: the first of a block writes a reservation first, and the last exhausts the key. -/
def State.useLeaf (s : State) : Nat × State :=
  let l := s.gf F.ROT_ATT_LEAF_next
  let s := if l / 1024 ≥ s.sec.attBlock then s.onSec (fun x => { x with attBlock := l / 1024 + 1, resvSeq := x.resvSeq + 1 }) else s
  let s := (s.pf F.ROT_ATT_LEAF_next 0 (l + 1)).onSec (fun x => { x with attUsed := x.attUsed + 1 })
  (l, if l + 1 = 2 ^ 40 then (s.pf F.ROT_STATUS_att_exhausted 0 1).raise 10 0 1 false 0 else s)

/-- Bytes of a partition's encapsulation key. -/
def kemEk (x : Part) : Bytes := sliceB (Config.kdf 1 (leBytes 8 x.kem)) 0 1568
def attEntry (kind index state epoch step : Nat) (running staged ek : Bytes) (info gens svn svnS : Nat) : Bytes :=
  leBytes 1 kind ++ leBytes 1 index ++ leBytes 2 state ++ leBytes 4 epoch ++ leBytes 8 step ++ sliceB running 0 32 ++
  sliceB staged 0 32 ++ sliceB ek 0 32 ++ leBytes 1 info ++ leBytes 3 gens ++ leBytes 4 svn ++ leBytes 8 svnS
/-- Current generation and live mask. -/
def genByte (x : Part) : Nat := x.gen + 16 * ((List.range 4).filter (fun g => x.live.contains g)).foldl (fun a g => a + 2 ^ g) 0
def attDie (s : State) (node : Nat) : Bytes :=
  let f := s.sec.dies.atD node {}
  let st := s.dieState node
  let up := (dieUnits node).filter (fun u => unitExists s u && unitIn s u)
  let tiles := (allTiles node).filter (fun t => s.enabled t && s.tileIn t)
  let nxt := f.staged.getD (f.run, f.svn)
  attEntry (if node < 8 then 0 else 1) (if node < 8 then node else node - 8) st
    (if node < 8 then (minList (up.map (fun u => s.unitEpoch u))).getD 0 else 0) 0 (leBytes 32 f.run)
    (if st = 1 then leBytes 32 nxt.1 else []) [] (if node < 8 then tiles.length else 0) 0 f.svn (if st = 1 then nxt.2 else 0)
def attPart (s : State) (p : Nat) : Bytes :=
  let x := s.part p
  let st := s.partState p
  attEntry 2 p st 0 (s.gf F.STEP_NUMBER_number p) x.pmr (if st = 1 then x.pmr else []) (Config.shake256 32 (kemEk x))
    x.mask (genByte x) 0 0

/-- The sealed partitions that exist. -/
def sealedParts (s : State) : List Nat := s.sec.parts.keys.filter (· ≠ 0)
/-- The report of R418 before its signature. -/
def State.report (s : State) (signed : Bool) (nonce scope leaf : Nat) : Bytes :=
  let es := if !signed then []
    else if scope = 0 then (List.range 10).map (attDie s) ++ (sealedParts s).map (attPart s)
    else (partDies s scope ++ [8, 9]).map (attDie s) ++ [attPart s scope]
  let flags := bN signed + 2 * s.gf F.ROT_STATUS_approved + 4 * s.gf F.ROT_STATUS_debug_unlocked + 8 * bN s.flt.compat +
    16 * bN s.sec.rotStaged.isSome
  leBytes 2 1 ++ leBytes 2 flags ++ leBytes 2 es.length ++ leBytes 2 scope ++ leBytes 32 nonce ++
  sliceB (Config.factory 0x6001 1) 0 32 ++ sliceB (Config.factory 0x6001 5) 0 64 ++ leBytes 8 s.now ++ leBytes 4 s.pkgEpoch ++
  leBytes 4 0 ++ leBytes 8 leaf ++ sliceB s.sec.bootM 0 32 ++ sliceB s.sec.hostM 0 32 ++ sliceB (s.sec.rotStaged.getD []) 0 32 ++ es.flatten

/-- ATTEST. A signature that fails its sign-then-verify test is withheld, and its leaf stays used (R402). -/
def execAttest (i seq nonce scope : Nat) (s : State) (signOk : Bool := true) : Res :=
  .next ((s.mbox i seq 1 0 (fun s =>
    if scope ≥ 16 || (scope ≠ 0 && !s.sec.parts.has scope) then s.deny Rot.invalid
    else if !(isHost i || isOp i || isTen i scope) then s.deny Rot.denied
    else if s.gb F.ROT_STATUS_att_exhausted then (Rot.unsigned, s.report false nonce scope (2 ^ 64 - 1), s)
    else if !signOk then (s.useLeaf).2.testFails.deny Rot.errorState
    else
      let leaf := s.gf F.ROT_ATT_LEAF_next
      let b := s.report true nonce scope leaf
      let b := b ++ sliceB (Config.xmssSign 0 leaf b) 0 9893
      let s := (s.useLeaf).2
      let rec' := (Config.shake256 32 b, if scope = 0 then sealedParts s else [scope], s.now)
      (Rot.ok, b, s.onSec (fun x => { x with reports := rec' :: x.reports })))).settle)

/-! ### Memory of a partition (R422) -/

/-- Address of the core-attribute leaf that covers a physical address, and the log2 of its page. -/
def catLeafAt (s : State) (pa : Nat) : Nat → Nat → Nat → Option (Nat × Nat)
  | 0, _, _ => none
  | fuel + 1, level, table =>
    let a := table + 8 * (if level = 0 then bitsN pa 51 39 else bitsN pa (47 - 9 * level) (39 - 9 * level))
    match s.readEntry a with
    | .ok e =>
      if !peValid e then none
      else if peTable e then (if level = 3 then none else catLeafAt s pa fuel (level + 1) (pePpn e))
      else if level = 0 then none else some (a, 39 - 9 * level)
    | .error _ => none
/-- Writes part_id and key_gen of the leaves of a range. -/
def State.setCat (s : State) (base size part gen : Nat) : State :=
  if !s.gb F.CAT_ROOT_enable then s
  else
    let root := s.gf F.CAT_ROOT_root * 65536
    let as := (List.range (size / 0x200000)).flatMap (fun k =>
      let pa := base + k * 0x200000
      match catLeafAt s pa 4 0 root with
      | some (a, 12) => a :: (List.range 512).filterMap (fun j => (catLeafAt s (pa + 4096 * j) 4 0 root).map (·.1))
      | some (a, _) => [a]
      | none => (List.range 512).filterMap (fun j => (catLeafAt s (pa + 4096 * j) 4 0 root).map (·.1)))
    s.onLeaves as.eraseDups (fun e => setBitsN (setBitsN e 11 8 part) 53 52 gen)

/-- Lines of a range that hold data somewhere; a line that nothing has written reads as zero. -/
def linesIn (s : State) (base size : Nat) : List Nat :=
  let ls := s.mem.map (fun c => c.1 / 64) ++ s.lineKey.keys ++ s.coh.copies.keys.map (· % 2 ^ 46) ++
    s.coh.wbBuf.keys.map (· % 2 ^ 46) ++ s.badLines
  (ls.filter (fun l => base ≤ l * 64 && l * 64 < base + size)).eraseDups
/-- Every cached line of the range is recalled, and every line is written with zeros under a key (R422 step 4). -/
def State.zeroRange (s : State) (key base size : Nat) : State :=
  s.each (linesIn s base size) (fun l s => s.cohWriteLine key l 0 (zerosB 64))
/-- PKG_EPOCH has room for n die resets, after what an invalidation adds (R49). -/
def State.epochRoom (s : State) (n : Nat) : Bool := s.pkgEpoch + bN (allUnits.any (unitAway s)) + n ≤ 2 ^ 32 - 1
/-- Drops the cached translations of contexts; units that miss it are stale (R46, R65). -/
def State.invalCtxs (s : State) (cs : List Nat) : State :=
  let away := allUnits.any (unitAway s)
  ({ s with xl := { s.xl with tlb := s.xl.tlb.filter (fun e => !cs.contains e.ctx) } } : State).dropCores true |>.when away (fun s => s.epochUp)
/-- Installs a fresh key of (p, g). -/
def State.newKey (s : State) (p g : Nat) : State :=
  { s with keyIds := s.keyIds.put (p * 4 + g) s.keyNext, keyNext := s.keyNext + 1 }

def rangeOk (s : State) (p base size : Nat) : Bool :=
  base % 0x200000 = 0 && size % 0x200000 = 0 && size ≠ 0 &&
  (base + size ≤ 0x014000000000 || (0x020000000000 ≤ base && base + size ≤ s.gf F.DDR_TOP_top)) &&
  s.sec.parts.rows.all (fun r => r.1 = p || r.2.ranges.all (fun q => base + size ≤ q.1 || q.1 + q.2 ≤ base))
def unitsOfRanges (rs : List (Nat × Nat)) : Nat := (rs.map (fun r => r.2 / 4096)).sum
/-- Moves units between partitions at their current generations (R426). -/
def State.unitsTo (s : State) (p q n : Nat) : State :=
  let gp := (s.part p).gen
  let gq := (s.part q).gen
  let a := s.unitsOf p gp
  let b := s.unitsOf q gq
  (s.setPart p (fun x => { x with units := x.units.put gp (a - n) })).setPart q (fun x => { x with units := x.units.put gq (b + n) })

/-! ### Creation (R421, R422) -/

def maskList (m n : Nat) : List Nat := (List.range n).filter (fun k => bitN m k)
def createBytes (p mask : Nat) (seed : Option Word64) (ctxMask : Nat) (rs : List (Nat × Nat)) : Bytes :=
  leBytes 1 p ++ leBytes 1 mask ++ leBytes 1 (bN seed.isSome) ++ leBytes 1 rs.length ++ leBytes 4 0 ++
  leBytes 8 (seed.getD 0).toNat ++ leBytes 8 ctxMask ++ rs.flatMap (fun r => leBytes 8 r.1 ++ leBytes 8 r.2)

/-- PART_CREATE. A key pair that fails its pair-wise test is discarded, and the command with it (R402). Where PKG_EPOCH has no room for
its die resets nothing of it stays (R422, log entry 156). -/
def execPartCreate (i seq p mask : Nat) (seed : Option Word64) (ctxMask : Word64) (ranges : List (Nat × Nat)) (s : State)
    (pairOk : Bool := true) : Res :=
  .next (s.mbox i seq 2 p (fun s =>
    let cs := maskList ctxMask.toNat 64
    let dies := maskList mask 8
    if !(isHost i || isOp i) then s.deny Rot.denied
    else if s.partBusy p then s.deny Rot.busy
    else if p = 0 || p ≥ 16 || s.sec.parts.has p || mask = 0 || mask ≥ 256 || ranges.length = 0 || ranges.length > 64 ||
        !ranges.all (fun r => rangeOk s p r.1 r.2) ||
        cs.any (fun c => s.gb F.TRANS_ROOT_enable c && s.gf F.TRANS_ATTR_part_id c ≠ p) then s.deny Rot.invalid
    else if dies.any (fun n => s.domainOf n ≠ 0 || s.dieState n ≠ 0 || (List.range 64).any (fun st => strmOn s n st)) then s.deny Rot.busy
    else if !s.epochRoom dies.length then s.deny Rot.epochExhausted
    else if !pairOk then s.testFails.deny Rot.errorState
    else
      let (w, s) := match seed with
        | some w => (w, s)
        | none => s.random
      let (k, s) := s.random
      let pmr := extendM (zerosB 32) (Config.shake256 32 (createBytes p mask seed ctxMask.toNat ranges))
      let s := (s.newKey p 0).onSec (fun x => { x with parts := x.parts.put p { state := 1, mask := mask, ctxMask := ctxMask.toNat, ranges := ranges, seed := w, pmr := pmr, kem := k.toNat } })
      let s := s.unitsTo 0 p (unitsOfRanges ranges)
      let s := s.each cs (fun c s => s.pf F.TRANS_ATTR_part_id c p)
      let s := (s.each ranges (fun r s => s.setCat r.1 r.2 p 0)).invalCtxs (List.range 64)
      let s := s.pf F.STEP_CTRL_c_die_mask p mask
      let s := s.each dies (fun n s => s.dieReset n)
      (Rot.ok, [], s.each ranges (fun r s => s.zeroRange (s.keyOf p 0) r.1 r.2))))

/-- GRANT (R414): a range joins p at its current generation, zeroed. The cached attributes of its pages go (log entry 156). -/
def execGrant (i seq p base size : Nat) (s : State) : Res :=
  .next (s.mbox i seq 5 0 (fun s =>
    if !(isHost i || isOp i) then s.deny Rot.denied
    else if s.partBusy p then s.deny Rot.busy
    else if !s.sealedPart p || !rangeOk s p base size then s.deny Rot.invalid
    else
      let g := (s.part p).gen
      let s := (s.setPart p (fun x => { x with ranges := x.ranges ++ [(base, size)] })).unitsTo 0 p (size / 4096)
      (Rot.ok, [], ((s.setCat base size p g).dropCores true).zeroRange (s.keyOf p g) base size)))

/-- BIND_HART (R423): the image is read by the direct path, in the first context of p, and measured into PMR_p. -/
def execBindHart (i seq p m : Nat) (harts : Word64) (va len : Nat) (s : State) : Res :=
  let ctx := (maskList (s.part p).ctxMask 64).head?
  .next (s.mboxWait i (.bind seq p m harts va len) (fun s => match ctx with
    | some c => s.rangeHeld (.core m) c va len accLoad (8 + m)
    | none => (false, s)) fun s => s.mbox i seq 4 p (fun s =>
    let hs := (maskList harts.toNat 64).map (fun h => 64 * m + h)
    if !(isHost i || isOp i) then s.deny Rot.denied
    else if s.partBusy p then s.deny Rot.busy
    else if !s.sealedPart p || m ≥ 2 then s.deny Rot.invalid
    else if hs.any (fun h => s.gf F.CORE_PART_part h ≠ 0 && s.gf F.CORE_PART_part h ≠ p) then s.deny Rot.busy
    else
      match (maskList (s.part p).ctxMask 64).head? with
      | none => s.deny Rot.invalid
      | some c =>
        match s.xlRange (.core m) c va len accLoad (8 + m) with
        | (.error _, s) => s.deny Rot.invalid
        | (.ok ps, s) =>
          match ps.findSome? (fun q => (s.pieceBad q.1 q.2.1 2)) with
          | some bad => (s.badRead (8 + m) 0x7FF bad).deny Rot.invalid
          | none =>
            let b := ps.flatMap (fun q => s.memBytes q.2.2.2 q.1 q.2.1)
            let s := s.setPart p (fun x => { x with pmr := extendM x.pmr (Config.shake256 32 b), state := 3 })
            (Rot.ok, [], s.each hs (fun h s => s.pf F.CORE_PART_part h p))))

/-! ### Teardown (R424) -/

/-- Copies of a cached line under a key of p are dropped without write-back. -/
def State.dropTagged (s : State) (keys : List Nat) : State :=
  let ls := ((s.coh.copies.rows ++ s.coh.wbBuf.rows).filter (fun r => keys.contains r.2.key)).map (fun r => r.1 % 2 ^ 46)
  s.each ls.eraseDups (fun l s => s.invalidateAll l)
/-- A Husk load of p that waits is stopped: it completes with DENIED (R424 step 5). -/
def State.huskStop (s : State) (p : Nat) : State :=
  s.each s.sec.waits.rows fun w s => match w.2 with
    | .husk seq q .. => if q = p then s.onSec (fun x => { x with waits := x.waits.del w.1, resp := x.resp.put w.1 ⟨9, seq, Rot.denied, [], 0⟩ }) else s
    | _ => s
def State.teardown (s : State) (p : Nat) : State :=
  let s := s.huskStop p
  let x := s.part p
  let mine := fun (c : Nat) => s.gf F.TRANS_ATTR_part_id c = p
  let st := ((List.range 8).flatMap (fun n => (List.range 64).map (fun k => (n, k)))).filter (fun q => strmOn s q.1 q.2 && mine (strmCtx s q.1 q.2))
  let s := s.each st (fun q s => match execStreamDisable .rot q.1 q.2 s with | .next t => t | _ => s)
  let s := s.each ((List.range 256).filter (fun v => mine (vnfCtx s v))) (fun v s => ({ s with eth := { s.eth with vnfs := s.eth.vnfs.del v, vnfRegs := s.eth.vnfRegs.keep (fun k _ => k / 8 ≠ v) } } : State))
  let s := s.each ((List.range 128).filter (fun h => s.gf F.CORE_PART_part h = p)) (fun h s => s.pf F.CORE_PART_part h 0)
  let s := s.each [0, 1] fun m s =>
    s.sealDrop m (fun rid => (sealsOf m).any (fun i => s.gb F.IOMMU_SEAL_valid i && s.gf F.IOMMU_SEAL_part i = p && s.gf F.IOMMU_SEAL_rid i = rid) ||
      s.sec.admitted.at? (m * 65536 + rid) = some p)
  let s := s.each (s.nme.rekeys.rows.filter (fun r => r.2.part = p)) (fun r s => s.rkStop r.1)
  let s := s.dropTagged (x.live.map (fun g => s.keyOf p g))
  let s := s.each (List.range 4) (fun g s => s.newKey p g)
  let s := s.onSec (fun y => { y with husk := y.husk.keep (fun k _ => k / 8 ≠ p) })
  let z := (s.part 0).gen
  let s := s.each x.ranges (fun r s => (s.zeroRange (s.keyOf 0 z) r.1 r.2).setCat r.1 r.2 0 z)
  let s := s.unitsTo p 0 (unitsOfRanges x.ranges)
  let s := s.setPart p (fun y => { y with state := 2, ranges := [], live := [], units := {}, kem := 0 })
  let cs := (List.range 64).filter mine
  let s := (s.each cs (fun c s => s.pf F.TRANS_ROOT_enable c 0)).invalCtxs cs
  let s := s.pf F.STEP_CTRL_c_die_mask p 0
  s.each (maskList x.mask 8) (fun n s => if s.epochFull then s else s.dieReset n)

/-- A second teardown of p merges with the first (R425). -/
def execPartTeardown (i seq p : Nat) (s : State) : Res :=
  .next (s.mbox i seq 3 p (fun s =>
    if !(isHost i || isOp i || isTen i p) then s.deny Rot.denied
    else if !s.sealedPart p then s.deny Rot.invalid
    else if (s.part p).state = 1 then s.deny Rot.busy
    else if (s.part p).state = 2 then s.deny Rot.ok
    else (if s.epochRoom (maskList (s.part p).mask 8).length then Rot.ok else Rot.epochExhausted, [], s.teardown p)))

/-! ### Generations (R427, R428) -/

def execKeyRotate (i seq p : Nat) (s : State) : Res :=
  .next (s.mbox i seq 6 0 (fun s =>
    let x := s.part p
    if !(isHost i || isOp i || isTen i p) then s.deny Rot.denied
    else if s.partBusy p then s.deny Rot.busy
    else if !(p = 0 || s.sealedPart p) then s.deny Rot.invalid
    else if x.live.length ≥ 3 then s.deny Rot.rotateBusy
    else
      let g := (([1, 2, 3].map (fun d => (x.gen + d) % 4)).find? (fun g => !x.live.contains g)).getD 0
      let s := (s.newKey p g).setPart p (fun x => { x with gen := g, live := x.live ++ [g] })
      (Rot.ok, [], s.dropGen p x.gen)))

/-- REKEY_START: part_id of the descriptor must be the requester's, and new_gen the current generation. -/
def execRekeyStart (i seq p : Nat) (mc : Bool) (unit ctx desc : Nat) (s : State) : Res :=
  .next (s.mboxWait i (.rekey seq p mc unit ctx desc) (fun s => s.rangeHeld (rkX (rkUnit mc unit)) (ctx % 64) desc 64 accLoad (rkNode (rkUnit mc unit)))
    fun s => s.mbox i seq 7 0 (fun s =>
    let u := rkUnit mc unit
    if !(isHost i || isTen i p) then s.deny Rot.denied
    else if s.partBusy p then s.deny Rot.busy
    else if (isHost i && p ≠ 0) || (if mc then unit ≥ 2 else unit ≥ 16) || ctx ≥ 64 || desc % 256 ≠ 0 || s.gf F.TRANS_ATTR_part_id ctx ≠ p then s.deny Rot.invalid
    else
      match s.vread (rkX u) ctx desc 64 (rkNode u) with
      | (.error _, s) => s.deny Rot.invalid
      | (.ok b, s) =>
        if fieldB b 0 1 % 16 ≠ p || fieldB b 2 1 % 4 ≠ (s.part p).gen then s.deny Rot.invalid
        else if (s.rk? u).isSome || !rkUp s u then s.deny Rot.busy
        else
          let s := if u < 16 then (s.pf F.NME_REKEY_CTRL_ctx u ctx).pf F.NME_REKEY_CTRL_desc u (desc / 256)
            else (s.pf F.MC_REKEY_CTRL_ctx (u - 16) ctx).pf F.MC_REKEY_CTRL_desc (u - 16) (desc / 256)
          (Rot.ok, [], s.rkGo u ctx desc)))

/-! ### Key release and Husks (R429 to R431) -/

def execKeyRelease (i seq p slot : Nat) (reportDigest : Nat) (ct wrapped tag : Bytes) (s : State) : Res :=
  .next (s.mbox i seq 8 0 (fun s =>
    let d := leBytes 32 reportDigest
    if !(isHost i || isTen i p) then s.deny Rot.denied
    else if s.partBusy p then s.deny Rot.busy
    else if !s.sealedPart p || slot ≥ 8 then s.deny Rot.invalid
    else
      match ((s.sec.reports.filter (fun r => r.2.1.contains p)).take 16).find? (fun r => r.1 = d) with
      | none => s.deny Rot.staleReport
      | some r =>
        if s.now > r.2.2 + s.odN 0x6010 1 * 10 ^ 9 then s.deny Rot.staleReport
        else
          let ss := Config.kemDecaps (s.part p).kem ct
          let kek := Config.shake256 32 (ss ++ d ++ leBytes 1 p)
          match Config.aeadOpen kek (zerosB 12) (leBytes 1 p ++ leBytes 1 slot ++ zerosB 6 ++ d) wrapped tag with
          | none => s.deny Rot.unwrapFail
          | some k => (Rot.ok, [], s.onSec (fun x => { x with husk := x.husk.put (p * 8 + slot) k }))))

/-- The stack that holds all pieces, if they lie in one. -/
def stackOf (s : State) (ps : List (Nat × Nat × Nat × Nat)) : Option Nat :=
  match ps with
  | [] => none
  | q :: _ =>
    let k := hbmStack s.hbmMode q.1
    if ps.all (fun r => s.region r.1 = .hbm && hbmStack s.hbmMode r.1 = k) then some k else none
/-- Decrypts the chunks in order: a result and the body of the response. -/
def State.huskChunks (s : State) (p slot ctx : Nat) (header : Bytes) : List (Nat × Nat × Nat) → Nat × Bytes × State
  | [] => (Rot.ok, [], s)
  | (src, dst, idx) :: cs =>
    let n := fieldB header 16 4
    match s.xlRange (.nme 0) ctx src (n + 16) accLoad 0 with
    | (.error _, s) => s.deny Rot.invalid
    | (.ok a, s) =>
      match s.xlRange (.nme 0) ctx dst n accStore 0 with
      | (.error _, s) => s.deny Rot.invalid
      | (.ok b, s) =>
        match stackOf s b with
        | none => s.deny Rot.huskStack
        | some k =>
          if stackOf s a ≠ some k then s.deny Rot.huskStack
          else
            match s.readPieces a with
            | .error pa => (s.memErr pa).deny Rot.invalid
            | .ok d =>
              match Config.aeadOpen (s.sec.husk.atD (p * 8 + slot) []) (beBytes 4 (fieldB header 4 4) ++ beBytes 8 idx) (sliceB header 0 64) (d.take n) (d.drop n) with
              | some t => State.huskChunks (s.writePieces b (sliceB t 0 n)) p slot ctx header cs
              | none => let (f, s) := s.freeBytes n; (Rot.huskTag, leBytes 8 idx, s.writePieces b f)
/-- A source or a destination of the chunks meets a locked page. -/
def State.chunksHeld (s : State) (n ctx : Nat) (chunks : List (Nat × Nat × Nat)) : Bool × State :=
  chunks.foldl (fun (a : Bool × State) (c : Nat × Nat × Nat) =>
    if a.1 then a else
    match a.2.rangeHeld (.nme 0) ctx c.1 (n + 16) accLoad 0 with
    | (true, s) => (true, s)
    | (false, s) => s.rangeHeld (.nme 0) ctx c.2.1 n accStore 0) (false, s)
def execHuskLoad (i seq p slot ctx : Nat) (header : Bytes) (chunks : List (Nat × Nat × Nat)) (s : State) : Res :=
  let n := fieldB header 16 4
  .next (s.mboxWait i (.husk seq p slot ctx header chunks) (fun s => s.chunksHeld n (ctx % 64) chunks) fun s => s.mbox i seq 9 0 (fun s =>
    if !isTen i p then s.deny Rot.denied
    else if s.partBusy p then s.deny Rot.busy
    else if !s.sealedPart p || slot ≥ 8 || ctx ≥ 64 || s.gf F.TRANS_ATTR_part_id ctx ≠ p || !s.sec.husk.has (p * 8 + slot) ||
        fieldB header 0 2 ≠ 1 || n = 0 || n % 4096 ≠ 0 || n > 64 * 2 ^ 20 then s.deny Rot.invalid
    else s.huskChunks p slot ctx header chunks))

/-! ### Devices (R432) -/

def secretKey (kind idx : Nat) : Nat := kind * 2 ^ 32 + idx
/-- PROVISION: kind 0 a CAK and CKN by link, 1 a BMP PSK by its number, 2 an SPDM PSK by H-die · 65536 + requester. -/
def execProvision (i seq kind idx : Nat) (secret : Bytes) (s : State) : Res :=
  .next (s.mbox i seq 14 0 (fun s =>
    if !isOp i then s.deny Rot.denied
    else if kind ≥ 3 || idx ≥ 2 ^ 32 || (kind = 1 && idx ≥ 8) then s.deny Rot.invalid
    else (Rot.ok, [], s.onSec (fun x => { x with secrets := x.secrets.put (secretKey kind idx) secret }))))

def execTdispAdmit (i seq p rid port : Nat) (accepted : Bool) (measurement : Bytes) (s : State) : Res :=
  .next (s.mbox i seq 10 p (fun s =>
    let k := port / 4 * 65536 + rid
    if !(isHost i || isOp i) then s.deny Rot.denied
    else if s.partBusy p then s.deny Rot.busy
    else if !s.sealedPart p || rid ≥ 65536 || port ≥ 8 then s.deny Rot.invalid
    else if !accepted || !s.sec.secrets.has (secretKey 2 k) then s.deny Rot.deviceRefused
    else
      let s := s.setPart p (fun x => { x with pmr := extendM x.pmr (Config.shake256 32 measurement), state := 3 })
      (Rot.ok, measurement, s.onSec (fun x => { x with admitted := x.admitted.put k p }))))

/-- The interface moves to RUN, and a seal entry binds it (R392). -/
def execTdispStart (i seq p rid : Nat) (s : State) : Res :=
  .next (s.mbox i seq 11 0 (fun s =>
    if !isTen i p then s.deny Rot.denied
    else if s.partBusy p then s.deny Rot.busy
    else
      match [0, 1].find? (fun m => s.sec.admitted.at? (m * 65536 + rid % 65536) = some p) with
      | none => s.deny Rot.invalid
      | some m =>
        match (sealsOf m).find? (fun j => !s.gb F.IOMMU_SEAL_valid j) with
        | none => s.deny Rot.invalid
        | some j =>
          let k := m * 65536 + rid % 65536
          let s := s.onSec (fun x => { x with admitted := x.admitted.del k })
          let s := s.onPcie (fun q => { q with run := if q.run.contains k then q.run else k :: q.run })
          (Rot.ok, [], ((s.pf F.IOMMU_SEAL_rid j rid).pf F.IOMMU_SEAL_part j p).pf F.IOMMU_SEAL_valid j 1)))
/-- A device interface leaves RUN: its seal goes before any later request of it is admitted (R392). -/
def execTdispLeaveRun (rid : Nat) (s : State) : Res := .next ((s.sealDrop 0 (· = rid)).sealDrop 1 (· = rid))

/-! ### Firmware (R406, R408) -/

def imgSvn (b : Bytes) : Nat := fieldB b 4 4
def imgDigest (b : Bytes) : Bytes := Config.shake256 32 (sliceB b 0 64)
/-- Minimum svn of a class (OD 0x6004). -/
def State.svnMin (s : State) (cls : Nat) : Nat := s.sec.minSvn.atD cls (leVal (sliceB (Config.factory 0x6004 (cls + 1)) 0 4))
/-- The checks of R406: signature, body, svn. -/
def imgCheck (s : State) (cls : Nat) (b : Bytes) : Nat :=
  if !Config.sigOk 2 (sliceB b 0 2884) || b.length ≠ 2884 + fieldB b 8 8 || Config.shake256 32 (b.drop 2884) ≠ sliceB b 16 32 then Rot.verifyFail
  else if imgSvn b < s.svnMin cls then Rot.rollback
  else Rot.ok
/-- Dies a class of image is for. -/
def clsDies (cls mask : Nat) : List Nat := if cls = 2 then maskList mask 8 else if cls = 3 then (maskList mask 10).filter (8 ≤ ·) else []

def execFwStage (i seq cls dieMask : Nat) (image : Bytes) (s : State) : Res :=
  .next (s.mbox i seq 12 0 (fun s =>
    let dies := clsDies cls dieMask
    if !isOp i then s.deny Rot.denied
    else if cls ≥ 5 || fieldB image 0 4 ≠ cls || ((cls = 2 || cls = 3) && dies = []) then s.deny Rot.invalid
    else if dies.any (fun n => s.dieState n = 1) then s.deny Rot.busy
    else
      let r := imgCheck s cls image
      if r ≠ Rot.ok then s.testFails.deny r
      else
        let d := imgDigest image
        let s := s.onSec (fun x => { x with slots := x.slots.put cls (leVal d, imgSvn image) })
        let s := s.when (cls < 2) (fun s => s.onSec (fun x => { x with rotStaged := some d }))
        (Rot.ok, [], s.each dies (fun n s =>
          s.onSec (fun x => { x with dies := x.dies.put n { x.dies.atD n {} with staged := some (leVal d, imgSvn image), started := false } })))))

/-- FW_ACTIVATE: a die reset that starts the staged image. -/
def execFwActivate (i seq node : Nat) (s : State) : Res :=
  .next ((s.mbox i seq 13 0 (fun s =>
    let f := s.sec.dies.atD node {}
    if !isOp i then s.deny Rot.denied
    else if node ≥ 10 || f.staged.isNone then s.deny Rot.invalid
    else if f.started || f.reset || !s.dieIn node then s.deny Rot.busy
    else if s.epochFull then s.deny Rot.epochExhausted
    else (Rot.ok, [], (s.onSec (fun x => { x with dies := x.dies.put node { f with started := true } })).dieReset node))).settle)

/-! ### Zeroisation and debug (R404, R435) -/

/-- Every partition is torn down; the keys R404 names and the provisioned secrets are destroyed. -/
def State.zeroise (s : State) : State :=
  let s := s.each (sealedParts s) (fun p s => if (s.part p).state = 2 then s else s.teardown p)
  let s := s.each (sealedParts s) (fun p s => s.onSec (fun x => { x with parts := x.parts.del p }))
  let s := s.each (List.range 4) (fun g s => s.newKey 0 g)
  let s := s.setPart 0 (fun x => { x with live := [] })
  let s := s.each (List.range 40) (fun i s => s.pf F.CR_LINK_STATUS_keyed i 0)
  let s := (s.sealDrop 0 (fun _ => true)).sealDrop 1 (fun _ => true)
  let s := { s with eth := { s.eth with links := s.eth.links.mapVals (fun _ l => { l with rx := [] }) } }
  s.onSec (fun x => { x with secrets := {}, husk := {}, admitted := {} })
def execZeroise (i seq : Nat) (s : State) : Res :=
  .next (s.mbox i seq 16 0 (fun s => if !isOp i then s.deny Rot.denied else (Rot.ok, [], s.zeroise)))
def execDebugUnlock (i seq : Nat) (token : Bytes) (s : State) : Res :=
  .next (s.mbox i seq 17 0 (fun s =>
    if !isOp i then s.deny Rot.denied
    else if !Config.sigOk 4 token then s.deny Rot.verifyFail
    else (Rot.ok, [], (s.zeroise.pf F.ROT_STATUS_debug_unlocked 0 1).approvedSync)))

/-! ### Chainring cells (R433, R434) -/

/-- The other end of a station's link: the peer's link of the opposite direction. The Acorn ends have no station. -/
def crPeer (s : State) (i k : Nat) : Option Nat :=
  let n := s.gf F.CR_LINK_STATUS_peer i
  if k = 3 || n ≥ 10 then none else some (crIdx n (if k = 0 then 1 else if k = 1 then 0 else k))
def crThere (node k : Nat) : Bool := node < 10 && (k < 3 || (k = 3 && node ≥ 8))
/-- A cell arrives: counted at both ends, or refused with auth_fail and F3. At the Acorn, node 10, link k comes from H-die k, whose station
alone has registers. -/
def execCrCellRx (node k : Nat) (tagOk : Bool) (_cell : Bytes) (s : State) : Res :=
  let i := crIdx node k
  if node = 10 && k < 2 then .next (if s.gb F.CR_LINK_STATUS_keyed (crIdx (8 + k) 3) then s.bump64 .CR_TX_CTR (crIdx (8 + k) 3) else s) else
  if !crThere node k || !s.gb F.CR_LINK_STATUS_keyed i then .next s
  else
    let s := match crPeer s i k with
      | some j => s.bump64 .CR_TX_CTR j
      | none => s
    if tagOk then .next (s.bump64 .CR_RX_CTR i)
    else .next (((s.pf F.CR_LINK_STATUS_auth_fail i 1).raise node 0 0 false 0).settle)
/-- A counter has reached 2^63: a new key at a marker cell, and both counters restart. In the error state no key is installed (R403). -/
def execCrLinkRekey (node k : Nat) (s : State) : Res :=
  let i := crIdx node k
  if !crThere node k || !s.gb F.CR_LINK_STATUS_keyed i || s.gb F.ROT_STATUS_error then .next s
  else
    let peer := fun (r : Reg) (s : State) => match crPeer s i k with
      | some j => s.wr r j 1
      | none => s
    let s := if s.rdN .CR_TX_CTR i < 2 ^ 63 then s else peer .CR_RX_CTR (s.wr .CR_TX_CTR i 1)
    .next (if s.rdN .CR_RX_CTR i < 2 ^ 63 then s else peer .CR_TX_CTR (s.wr .CR_RX_CTR i 1))

/-! ### Supply sag (R456 to R458) -/

/-- Per partition: current generation, live mask, and units of the four generations (R457). -/
def genTable (s : State) : Bytes :=
  (List.range 16).flatMap (fun p =>
    let x := s.part p
    let mask := genByte x / 16
    leBytes 1 x.gen ++ leBytes 1 mask ++ leBytes 2 0 ++ (List.range 4).flatMap (fun g => leBytes 4 (s.unitsOf p g)))
/-- PWRFAIL_N held: requests in progress end with BUSY, and the save starts. -/
def execPowerfailAssert (s : State) : Res :=
  if s.flt.sag then .next s
  else
    let held := fun (c : MboxCmd) => match c with
      | .bind seq .. => (⟨4, seq, Rot.busy, [], 0⟩ : MboxResp)
      | .rekey seq .. => ⟨7, seq, Rot.busy, [], 0⟩
      | .husk seq .. => ⟨9, seq, Rot.busy, [], 0⟩
    let s := s.onSec (fun x => { x with
      resp := x.waits.rows.foldl (fun t r => t.put r.1 (held r.2)) (x.resp.mapVals (fun _ r => { r with result := Rot.busy, body := [] }))
      waits := {} })
    let c := faultCopies s
    let r : SaveRec := {
      attLeaf := s.gf F.ROT_ATT_LEAF_next, idLeaf := s.gf F.ROT_ID_LEAF_next, resvSeq := s.sec.resvSeq
      counts := c.1, held := c.2.1, ring := c.2.2, gens := genTable s }
    let s := s.pf F.PWR_STATUS_powerfail 0 1
    let save := if s.pwr.steps.contains 1 && !s.pwr.inReset then some r else s.flt.save
    .next { s with flt := { s.flt with sag := true, save := save } }
/-- A reset takes hold: the package stands in reset until RESET_N is released (R510, R511). -/
def State.resetNow (s : State) : State :=
  { s with pwr := { s.pwr with inReset := true, resetHeld := false, up := false } }
/-- A save runs whose valid marker is not written. -/
def saving (s : State) : Bool := s.flt.sag && (match s.flt.save with | some r => !r.valid | none => false)
/-- The record's valid marker is written last; a reset that waited for it takes effect (R511). -/
def execSagSaveDone (s : State) : Res :=
  if !saving s then .next s
  else
    let r := s.flt.save.map (fun (r : SaveRec) => { r with valid := true })
    let s := { s with flt := { s.flt with save := r } }
    .next (if s.pwr.resetHeld then s.resetNow else s)
/-- 40 ms after the assertion a reset that waited takes effect without the marker. -/
def execSaveDeadline (s : State) : Res := .next (if saving s && s.pwr.resetHeld then s.resetNow else s)
/-- RESET_N asserted: deferred while a save runs. -/
def execResetNAssert (s : State) : Res :=
  .next (if saving s then { s with pwr := { s.pwr with resetHeld := true } } else s.resetNow)
/-- Released with power present: the save is completed and marked invalid, and service resumes. -/
def execPowerfailRelease (s : State) : Res :=
  if !s.flt.sag then .next s
  else
    let s := s.pf F.PWR_STATUS_powerfail 0 0
    .next { s with flt := { s.flt with sag := false, save := if s.pwr.inReset then s.flt.save else none } }

end Sys2Proof.Machine
end

