-- ==== Sys2Proof/Machine/Power.lean ====
section
/-! DEFINITION. Power inputs, the governor, temperature, reference clocks, package reset and start-up (R486 to R500), the
control pins (R510, R511), island sleep (R29) and the Acorn links (R23). -/

namespace Sys2Proof.Machine

def State.onPwr (s : State) (f : PwrSt → PwrSt) : State := { s with pwr := f s.pwr }

/-! ### What outlives the dies -/

/-- Copy i of a register lies in the Acorn blocks. -/
def acornReg (k : Nat) : Bool :=
  ((Reg.all.getD (k / 65536) .TB_CTRL).locs).any (fun l => 0x0F0080000000 ≤ l.base && l.start ≤ k % 65536)
/-- Dies latched in state 3 (R447). -/
def latchedDies (s : State) : List Nat := (List.range 10).filter (fun n => s.gf F.FLT_STATUS_state (fltIdx n 0) = 3)
def State.latch (s : State) (l : List Nat) : State := s.each l (fun n s => s.pf F.FLT_STATUS_state (fltIdx n 0) 3)
/-- Cells of HBM4, DDR5 and CXL.mem: their lines keep what they hold, under keys that are no more (R78, R404). -/
def memCells (m : Mem) : Mem := m.filter (fun c => encrypted c.1)

/-- The main domain ends: every die's work ends as at a package reset, and the Acorn blocks run on (R487, R491). -/
def State.mainOff (s : State) (lost : Bool) : State :=
  let l := latchedDies s
  let z := State.reset
  let t : State := { z with
    pending := s.pending, outbox := s.outbox, freeCtr := s.freeCtr, rndCtr := s.rndCtr
    regs := s.regs.keep (fun k _ => acornReg k), mem := memCells s.mem, lineKey := s.lineKey
    badLines := s.badLines, keyIds := s.keyIds, keyNext := s.keyNext, fused := s.fused
    hbmMode := s.hbmMode, ddrMode := s.ddrMode
    time := { s.time with bad := {}, good := {}, out := [], tandemPend := none, left := [] }
    sec := s.sec, od := s.od, bmp := s.bmp, flt := { s.flt with due := [], soft := [], ppr := {} } }
  let t := t.onPwr (fun _ => { s.pwr with up := false, off := true, lost := s.pwr.lost || lost })
  t.latch l

/-- A trip: the main domain is off until package reset, and THERMTRIP_N is asserted (R491, R497). -/
def State.tripOff (s : State) (src : Nat) : State :=
  let s := s.notice 10 4 src
  let s := (s.fltRecord 10 4 src ((fltClass 10 4 src).getD 0) 0 false 0).emit (.pin .thermtripN false)
  (s.mainOff false).onPwr (fun p => { p with trip := true })
def execIvrTrip (node : Nat) (s : State) : Res := .next (if node < 10 && !s.pwr.off && s.pwr.main then s.tripOff 6 else s)

/-! ### Package reset (R404, R455, R457, R498) -/

/-- The NV copies of fault state that count: the save record's when its marker is valid. -/
def nvCopies (s : State) : Tab Nat × List Nat × List Bytes :=
  match s.flt.save with
  | some r => if r.valid then (r.counts, r.held, r.ring) else (s.flt.nvRec, s.flt.nvHeld, s.flt.nvRing)
  | none => (s.flt.nvRec, s.flt.nvHeld, s.flt.nvRing)
/-- FLT_RECOVERY and the escalation as the copies give them. -/
def State.restoreFaults (s : State) (c : Tab Nat × List Nat × List Bytes) : State :=
  let s := s.each c.1.rows (fun r s =>
    let s := (s.pf F.FLT_RECOVERY_count r.1 (r.2 % 65536)).pf F.FLT_RECOVERY_overflow r.1 (bitsN r.2 16 16)
    if bitN r.2 17 then (s.pf F.FLT_STATUS_escalated r.1 1).pf F.FLT_RECOVERY_auto r.1 0 else s)
  s.each c.2.1 (fun i s => s.pf F.FLT_STATUS_state i 2)

/-- What OD entries set at package reset (R54, R318, R388, R447, R482). -/
def State.applyOd (s : State) : State :=
  let m := s.odN 0x8001 1
  let d := s.odN 0x8001 2
  let hm := if m ≤ 2 then m else 0
  let dm := if d ≤ 1 then d else 0
  let s := ({ s with hbmMode := hm, ddrMode := dm } : State).pf F.MEMMAP_STATUS_hbm_mode 0 hm |>.pf F.MEMMAP_STATUS_ddr_mode 0 dm
  let s := s.each (List.range 8) (fun r s => let v := s.odN 0x8003 (r + 1); s.pf F.PCIE_CTRL_bifurc r (if v ≤ 2 then v else 0))
  let s := s.each (List.range 24) (fun p s => let v := s.odN 0x7002 (p + 1); s.pf F.PORT_CTRL_mode p v)
  let s := (s.pf F.TB_CTRL_source 0 (s.odN 0x2010 1)).pf F.TB_CTRL_pps_out_en 0 (s.odN 0x2010 2)
  let s := (s.pf F.TB_CTRL_pps_in_edge 0 (s.odN 0x2010 3)).pf F.TB_CTRL_pps_out_width 0 (s.odN 0x2010 4)
  let s : State := { s.netStart with eth := { s.eth with udpPort := s.odN 0x7010 1 } }
  let i3 : I3cSt := { s.bmp.i3c with on := s.odN 0x7400 5 ≠ 0 }
  { s with flt := { s.flt with compat := s.odN 0x4F00 1 ≠ 0 }, bmp := { s.bmp with i3c := i3 } }

/-- The package reset: everything but the NV store, the fuses and the DRAM cells starts anew, and every key is new. -/
def State.packageReset (s : State) (powerOn : Bool) : State :=
  let c := nvCopies s
  let l := latchedDies s
  let gens := match s.flt.save with
    | some r => if r.valid then r.gens else []
    | none => []
  let z := State.reset
  let sec : SecSt := {
    slots := s.sec.slots, minSvn := s.sec.minSvn, attBlock := s.sec.attBlock, idBlock := s.sec.idBlock, resvSeq := s.sec.resvSeq
    attUsed := s.sec.attUsed, secrets := s.sec.secrets
    svns := s.sec.slots.rows.foldl (fun t r => t.put r.1 r.2.2) s.sec.svns }
  let flt : FltSt := {
    records := c.2.2, repairs := s.flt.repairs, save := s.flt.save, gensAtBoot := gens
    nvRec := c.1, nvHeld := c.2.1, nvRing := c.2.2 }
  let t : State := { z with
    pending := s.pending, outbox := s.outbox, freeCtr := s.freeCtr, rndCtr := s.rndCtr
    mem := memCells s.mem, lineKey := s.lineKey, badLines := s.badLines
    keyIds := ({} : Tab Nat).put 0 s.keyNext, keyNext := s.keyNext + 1, fused := s.fused
    od := { vals := s.od.saved, saved := s.od.saved }, sec := sec, flt := flt }
  let t := t.onPwr (fun p => { p with main := s.pwr.main, aux := s.pwr.aux, bothOut := s.pwr.bothOut && !powerOn })
  let t := if powerOn then t else (t.wr .PWR_ENERGY 0 (s.rdN .PWR_ENERGY)).onPwr (fun p => { p with energyRem := s.pwr.energyRem })
  let t := (t.restoreFaults c).applyOd
  let t := if s.pwr.trip then t.emit (.pin .thermtripN true) else t
  if powerOn then t else t.latch l

/-- Release of RESET_N, or a reset request. A release while a save still runs is ignored (R511). -/
def execPackageReset (s : State) : Res :=
  if saving s then .next (s.onPwr (fun p => { p with resetHeld := false }))
  else .next (if s.pwr.aux then s.packageReset false else s)

/-! ### Inputs (R486 to R488) -/

def execMainInputLoss (s : State) : Res :=
  if !s.pwr.main then .next s
  else
    let s := (s.onPwr (fun p => { p with main := false, bothOut := p.bothOut || !p.aux })).pf F.PWR_STATUS_main_good 0 0
    .next (if s.pwr.aux && s.pwr.steps.contains 3 && !s.pwr.off then s.mainOff true else s)
/-- The main input returns: a shutdown that its loss caused ends with a package reset. -/
def execMainInputRestore (s : State) : Res :=
  if s.pwr.main then .next s
  else
    let s := (s.onPwr (fun p => { p with main := true })).pf F.PWR_STATUS_main_good 0 1
    .next (if s.pwr.aux && s.pwr.lost then s.packageReset false else s)
/-- The Acorn regulator drops out: nothing runs. -/
def execAuxInputLoss (s : State) : Res :=
  if !s.pwr.aux then .next s
  else
    let s := (s.mainOff false).onPwr (fun p => { p with aux := false, bothOut := p.bothOut || !p.main, inReset := true })
    .next ((s.pf F.PWR_STATUS_aux_good 0 0).pf F.ROT_STATUS_ready 0 0)
/-- The auxiliary input comes into range: a package reset, after both inputs were absent a power-on reset. -/
def execAuxInputApply (s : State) : Res :=
  if s.pwr.aux then .next s
  else
    let s := s.onPwr (fun p => { p with aux := true })
    .next ((s.packageReset s.pwr.bothOut).pf F.PWR_STATUS_aux_good 0 1)

/-! ### Power measurement and the governor (R492, R493) -/

/-- The cap in mW; while domains differ, the lowest (R494). -/
def gearCap (g : Nat) : Nat := if g = gearSprint then 4200000 else if g = gearCoast then 2400000 else 3600000
def capOf (s : State) : Nat := (minList ((liveDomains s).map (fun d => gearCap (s.domGear d)))).getD 3600000
def dies8 : List Nat := List.range 8
def clkOf (s : State) (n : Nat) : Nat := s.gf F.PWR_TILE_CLK_mhz n
/-- A sensor of the C-die reads above its throttle temperature. -/
def hotDie (s : State) (n : Nat) : Bool := (List.range 4).any (fun i => sgnN 16 (s.gf F.PWR_TEMP_centi_c (4 * n + i)) > 10000)
def State.tileClocks (s : State) (f : Nat → Nat → Nat) : State := s.each dies8 (fun n s => s.pf F.PWR_TILE_CLK_mhz n (f n (clkOf s n)))
def State.throttleSync (s : State) : State :=
  s.pb F.PWR_STATUS_throttle_power 0 (dies8.any (fun n => clkOf s n < gearCeil (s.gearOf n)))
def State.governor (s : State) (avg : Nat) : State :=
  let cap := capOf s
  let atFloor := dies8.all (fun n => clkOf s n ≤ 600)
  let above := atFloor && avg > cap
  let s := s.onPwr (fun p => { p with floorRun := if above then min 100 (p.floorRun + 1) else 0 })
  let s := if s.pwr.floorRun ≥ 100 && !s.pwr.breach then
      ((s.pf F.PWR_STATUS_cap_breach 0 1).notice 10 4 1).onPwr (fun p => { p with breach := true })
    else s
  if avg * 100 > cap * 98 then (s.tileClocks (fun _ c => max 600 (c - 25))).throttleSync
  else if avg * 100 < cap * 92 then
    ((s.onPwr (fun p => { p with breach := false })).tileClocks
      (fun n c => if hotDie s n then c else min (max c (gearCeil (s.gearOf n))) (c + 25))).throttleSync
  else s

def execPowerSample (mw mainMv auxMv : Nat) (s : State) : Res :=
  if !s.pwr.aux || s.pwr.inReset then .next s
  else
    let mainOk := decide (11400 ≤ mainMv ∧ mainMv ≤ 12600)
    let auxOk := decide (10800 ≤ auxMv ∧ auxMv ≤ 13200)
    let s := s.when (s.gb F.PWR_STATUS_main_good && !mainOk) (fun s => s.notice 10 4 2)
    let s := s.when (s.gb F.PWR_STATUS_aux_good && !auxOk) (fun s => s.notice 10 4 3)
    let s := (s.pb F.PWR_STATUS_main_good 0 mainOk).pb F.PWR_STATUS_aux_good 0 auxOk
    let s := s.onPwr (fun p => { p with samples := (mw :: p.samples).take 100 })
    let avg := s.pwr.samples.sum / max 1 s.pwr.samples.length
    let s := ((s.pf F.PWR_INPUT_main_mv 0 mainMv).pf F.PWR_INPUT_aux_mv 0 auxMv).pf F.PWR_INPUT_main_w 0 (avg / 1000)
    let e := s.pwr.energyRem + mw
    let s := (s.bump64 .PWR_ENERGY 0 (e / 100)).onPwr (fun p => { p with energyRem := e % 100 })
    .next (if s.pwr.up then s.governor avg else s)

/-! ### Temperature (R480, R497) -/

/-- Effective value of a calibration item: factory value plus user offset, within the limits (R481). -/
def effCal (s : State) (k sub : Nat) (lo hi : Int) : Int :=
  let f := sgnN 32 (leVal (sliceB (Config.factory (0x3000 + k) sub) 0 4))
  let u := match s.od.vals.at? (odKey (0x3400 + k) sub) with
    | some b => sgnN 32 (leVal b)
    | none => 0
  max lo (min hi (f + u))
/-- Throttle and trip temperatures of a sensor in 0.01 °C. -/
def tempLimits (i : Nat) : Int × Int := if i < 36 then (10000, 11000) else if i < 52 then (9000, 10000) else (9500, 10500)
def clustersOf (m : Nat) : List Nat := (List.range 8).map (fun j => 8 * m + j)
/-- A cluster runs at the lower of its max_mhz and its thermal limit (R493). -/
def State.clusterSync (s : State) (k : Nat) : State :=
  s.pf F.PWR_CLUSTER_mhz k (min (s.gf F.PWR_CLUSTER_max_mhz k) (s.pwr.clusterLim.atD k 3000))
def State.clusterStep (s : State) (m : Nat) (f : Nat → Nat) : State :=
  s.each (clustersOf m) (fun k s =>
    (s.onPwr (fun p => { p with clusterLim := p.clusterLim.put k (f (p.clusterLim.atD k 3000)) })).clusterSync k)

def execTempSample (i : Nat) (centiC : Int) (s : State) : Res :=
  if i ≥ 53 || !s.pwr.aux || s.pwr.inReset then .next s
  else
    let t := centiC + effCal s 0x20 (i + 1) (-1000) 1000
    let s := s.pf F.PWR_TEMP_centi_c i (uN 16 t)
    let lim := tempLimits i
    let m := (i - 32) / 2
    if t ≥ lim.2 then .next (if s.pwr.off then s else s.tripOff 7)
    else if t > lim.1 then
      let s := (s.pf F.PWR_STATUS_throttle_thermal 0 1).notice 10 4 0
      .next (if !s.pwr.up then s
        else if i < 32 then s.pf F.PWR_TILE_CLK_mhz (i / 4) (max 600 (clkOf s (i / 4) - 25))
        else if i < 36 then s.clusterStep m (fun c => max 600 (c - 25))
        else s)
    else .next (if s.pwr.up && 32 ≤ i && i < 36 && s.pwr.clusterLim.has (8 * m) then s.clusterStep m (fun c => min 3000 (c + 25)) else s)

/-! ### Gear requests (R494) -/

def execGearRequest (role : Role) (gear : Nat) (s : State) : Res :=
  if !(role = .operator || privRole role) || gear ≥ 4 then .next s
  else
    let s := ((s.pf F.PWR_GEAR_REQ_gear 0 gear).pf F.PWR_GEAR_requested 0 gear).pf F.PWR_GEAR_REQ_go 0 1
    let same := dies8.all (fun n => s.gearOf n = gear)
    .next ((if same then s.pf F.PWR_GEAR_REQ_go 0 0 else s).gearSync)

/-! ### Reference clocks (R496) -/

def execRefclkLoss (c : RefClk) (s : State) : Res :=
  match c with
  | .pcie r =>
    if r ≥ 8 then .next s
    else .next ((s.each (List.range 4) (fun l s => s.pcieDown (linkIdx r l))).notice 10 4 4)
  | .eth n =>
    if n ≥ 8 then .next s
    else
      let s := s.each [3 * n, 3 * n + 1, 3 * n + 2] (fun p s =>
        let up := s.gf F.PORT_STATUS_link_up p
        (s.portOut p).when (up ≠ 0) (fun s => s.notice (portDie p) (portBlk p) 0))
      .next (s.notice 10 4 4)
  | .sys =>
    let s := s.tripOff 4
    .next ((s.pf F.TB_STATUS_holdover 0 1).pf F.TB_STATUS_locked 0 0)
/-- REFCLK_SYS returns: the time base is stepped under R32. -/
def execRefclkReturn (c : RefClk) (trueNs : Word64) (s : State) : Res :=
  match c with
  | .sys => .next ((s.adjust ((trueNs.toNat : Int) - s.now)).pf F.TB_STATUS_holdover 0 0)
  | _ => .next s

/-! ### Sleep and the Acorn links (R23, R29) -/

def execIslandSleep (u : UnitId) (s : State) : Res :=
  if !unitExists s u || !unitIn s u || unitAsleep s u || unitBusy s u then .next s
  else
    match u with
    | .tile t => .next (if s.tileState t = 1 && (s.tile t).queued.isNone then s.pf F.TILE_STATUS_state t 3 else s)
    | .nme st => .next (if (s.rk? st).isSome || (s.nmeU st).sweep.isSome then s else { s with asleep := s.asleep ++ [u] })
    | .drl _ => .next { s with asleep := s.asleep ++ [u] }
def execAcornLinkDown (s : State) : Res := .next (s.onPwr (fun p => { p with acornAlt := true }))
def execAcornLinkRestore (s : State) : Res := .next (s.onPwr (fun p => { p with acornAlt := false }))

/-! ### Start-up (R498, R499) -/

/-- Stations in the placement of R23, row by row. -/
def rowOf (node : Nat) : List Nat := if [0, 1, 8, 2, 3].contains node then [0, 1, 8, 2, 3] else [4, 5, 9, 6, 7]
/-- The node at the other end of link k: row-left, row-right, column, Acorn. -/
def crNeighbour (node k : Nat) : Option Nat :=
  let r := rowOf node
  let x := r.idxOf node
  if k = 0 then (if x = 0 then none else r[x - 1]?)
  else if k = 1 then r[x + 1]?
  else if k = 2 then ((if node < 4 || node = 8 then [4, 5, 9, 6, 7] else [0, 1, 8, 2, 3]) : List Nat)[x]?
  else if k = 3 && node ≥ 8 then some 10
  else none
/-- Step 4: every link is keyed (R434). -/
def State.keyLinks (s : State) : State :=
  s.each (List.range 10) fun node s => s.each (List.range 4) fun k s =>
    match crNeighbour node k with
    | some p => (s.crRekey (crIdx node k)).pf F.CR_LINK_STATUS_peer (crIdx node k) p
    | none => s

/-- Leaves resume where a matching save record says, or at the block after the reservation, which is renewed (R410, R411).
A record's leaf is the one after the last that signed (log entry 20). -/
def State.resumeLeaves (s : State) : State :=
  let inside := fun (b l : Nat) => b ≠ 0 && 1024 * (b - 1) < l && l ≤ 1024 * b
  let use := match s.flt.save with
    | some r => if r.valid && r.resvSeq = s.sec.resvSeq && inside s.sec.attBlock r.attLeaf then some r else none
    | none => none
  let s := { s with flt := { s.flt with save := none } }
  match use with
  | some r => (s.pf F.ROT_ATT_LEAF_next 0 r.attLeaf).pf F.ROT_ID_LEAF_next 0 r.idLeaf
  | none =>
    let a := s.sec.attBlock
    let b := s.sec.idBlock
    let s := (s.pf F.ROT_ATT_LEAF_next 0 (1024 * a)).pf F.ROT_ID_LEAF_next 0 (1024 * b)
    s.onSec (fun x => { x with attBlock := a + 1, idBlock := b + 1, resvSeq := x.resvSeq + 1 })

/-- Step 5: each die's measurement and svn; a die whose image fails both slots is held ISOLATED, with F3 (R407). -/
def State.loadDies (s : State) (failMask : Nat) (imgs : List Nat) : State :=
  s.each (List.range 10) fun node s =>
    if bitN failMask node then
      (((s.testFails.fltReport node 0 2).fltRecord node 0 2 3 0 false 0).setQuiet node 0 none).pf F.FLT_STATUS_state (fltIdx node 0) 2
    else s.onSec (fun x => { x with dies := x.dies.put node { run := imgs.getD (2 * node) 0, svn := imgs.getD (2 * node + 1) 0 } })

/-- Step 7: listed rows of HBM4 (or, in step 8, of DDR5) are hard-repaired; those with no hard spare, given by their places
in the list, are applied again as soft repairs (R452). -/
def State.hardRepairs (s : State) (hbm : Bool) (noSpare : List Nat) : State :=
  let mine := fun (r : Nat × Nat) => decide (r.1 < 16) == hbm
  let l := s.flt.repairs.zipIdx.filter (fun p => mine p.1)
  let s := s.each l (fun p s =>
    match ctlOf (if hbm then .hbm p.1.1 else .ddr (p.1.1 - 16)) with
    | some k =>
      let w := p.1.2
      let s := s.rowLines k (w % 64) (bitsN w 10 6) (bitsN w 29 12)
      if noSpare.contains p.2 then
        let sp := spareKey k (w % 64) (bitsN w 10 6)
        let soft := if s.flt.soft.contains sp then s.flt.soft else sp :: s.flt.soft
        ({ s with flt := { s.flt with soft := soft } } : State).notice k.node k.blk 3
      else s
    | none => s)
  let keep := s.flt.repairs.zipIdx.filter (fun p => !mine p.1 || noSpare.contains p.2)
  { s with flt := { s.flt with repairs := keep.map (·.1) } }

/-- A DDR5 channel as training finds it: type (1 RDIMM, 2 MRDIMM), two DIMMs, ranks, MT/s, GiB. -/
structure Dimm where
  type : Nat
  two : Bool
  ranks : Nat
  mts : Nat
  gib : Nat
def dimmOf (l : List Nat) (ch : Nat) : Dimm :=
  ⟨l.getD (5 * ch) 0, l.getD (5 * ch + 1) 0 ≠ 0, l.getD (5 * ch + 2) 0, l.getD (5 * ch + 3) 0, l.getD (5 * ch + 4) 0⟩
/-- Channels that stay after the rules of R385: positions that both H-dies populate, all eight or the even ones, less each channel that breaks
rule 1. -/
def ddrKept (l : List Nat) : List Nat :=
  let r := dimmOf l 0
  let fit := fun (ch : Nat) =>
    let d := dimmOf l ch
    d.gib ≠ 0 && (d.type = 1 || d.type = 2 && !d.two) && d.type = r.type && d.two == r.two
  let both := fun (c : Nat) => (dimmOf l c).gib ≠ 0 && (dimmOf l (8 + c)).gib ≠ 0
  let pos := if (List.range 8).all both then List.range 8 else [0, 2, 4, 6].filter both
  (pos ++ pos.map (8 + ·)).filter fit
def State.trainDdr (s : State) (l : List Nat) : State :=
  let kept := ddrKept l
  let cap := (minList (kept.map (fun ch => (dimmOf l ch).gib))).getD 0
  let mts := (minList (((List.range 16).filter (fun ch => (dimmOf l ch).gib ≠ 0)).map (fun ch => (dimmOf l ch).mts))).getD 0
  let s := s.each (List.range 16) fun ch s =>
    let d := dimmOf l ch
    let s := (((s.pf F.MC_CFG_dimm_type ch (if d.gib = 0 then 0 else if d.type = 1 || d.type = 2 && !d.two then d.type else 3)).pb F.MC_CFG_dpc2 ch d.two).pf
      F.MC_CFG_ranks ch d.ranks).pf F.MC_CAP_installed_gib ch d.gib
    if kept.contains ch then ((s.pf F.MC_CAP_mapped_gib ch cap).pf F.MC_STATUS_trained ch 1).pf F.MC_CFG_mts ch mts
    else if d.gib ≠ 0 then (s.pf F.MC_STATUS_held_out ch 1).notice (8 + ch / 8) (8 + ch % 8) 4
    else s
  let s := { s with ddrChans := kept.map (fun ch => (ch, cap * 2 ^ 30)) }
  if kept = [] then s else s.pf F.DDR_TOP_top 0 (0x020000000000 + kept.length * cap * 2 ^ 30)

/-- CXL.mem windows in ascending root-port order, each rounded up to 1 GiB (R57, R396): link and bytes of each device. -/
def State.cxlPlace (s : State) : List (Nat × Nat) → Nat → State
  | [], _ => s
  | (k, n) :: r, base =>
    let size := roundUp n (2 ^ 30)
    if k ≥ 32 || n = 0 then State.cxlPlace s r base
    else if base + size > 0x0C0000000000 then State.cxlPlace (s.notice (8 + k / 16) (16 + k % 16 / 4) 1) r base
    else State.cxlPlace { s with cxlWins := s.cxlWins ++ [(base, size, k)] } r (base + size)
def pairList : List Nat → List (Nat × Nat)
  | a :: b :: r => (a, b) :: pairList r
  | _ => []
def sortPairs (l : List (Nat × Nat)) : List (Nat × Nat) := (List.range 32).flatMap (fun k => l.filter (fun p => p.1 = k))

/-- The step a completion names may complete: 1 to 7 in order, 8 beside 7, 9 after 7, 10 after 7 and 8, 11 after 9. -/
def stepReady (p : PwrSt) (n : Nat) : Bool :=
  !p.steps.contains n && 1 ≤ n && n ≤ 11 &&
  (if n = 8 then p.steps.contains 6 else if n = 9 then p.steps.contains 7
   else if n = 10 then p.steps.contains 7 && p.steps.contains 8
   else if n = 11 then p.steps.contains 9 else n = 1 || p.steps.contains (n - 1))
/-- What the steps wait for: step 3 for the main input and for 10 °C at every sensor. -/
def stepWaits (s : State) (n : Nat) : Bool :=
  n = 3 && (!s.gb F.PWR_STATUS_main_good || (List.range 53).any (fun i => sgnN 16 (s.gf F.PWR_TEMP_centi_c i) < 1000))
/-- What a start-up step leaves. -/
def State.startStep (s : State) (n : Nat) (info : List Nat) : State :=
  if n = 1 then
    let s := s.onSec (fun x => { x with bootM := extendM (zerosB 32) (leBytes 32 (info.headD 0)) })
    s.resumeLeaves
  else if n = 2 then
    let s := s.onSec (fun x => { x with bootM := extendM x.bootM (leBytes 32 (info.headD 0)) })
    let s := (s.pf F.MGMT_STATUS_ready 0 1).pf F.ROT_STATUS_ready 0 1
    s.approvedSync
  else if n = 4 then s.keyLinks
  else if n = 5 then s.loadDies (info.headD 0) (info.drop 1)
  else if n = 6 then s.setPart 0 (fun x => { x with gen := 0, live := [0] })
  else if n = 7 then (s.hardRepairs true info).onPwr (fun p => { p with up := true })
  else if n = 8 then (s.hardRepairs false (info.drop 80)).trainDdr info
  else if n = 9 then s.cxlPlace (sortPairs (pairList info)) 0x0A0000000000
  else if n = 10 then s.coreStart (info.headD 0)
  else if n = 11 then (if s.gf F.TB_CTRL_source = 1 then (s.pf F.TB_STATUS_locked 0 1).pf F.TB_STATUS_holdover 0 0 else s)
  else s

/-- A start-up step completes, named by the first value of info. A failure of step 1 is the error state (R402); one of
step 5 for every C-die, or of step 7, stops start-up there (R499). -/
def execStartupStepDone (ok : Bool) (info : List Nat) (s : State) : Res :=
  let n := info.headD 0
  let d := info.drop 1
  if !stepReady s.pwr n || s.gb F.PWR_START_fail || s.flt.sag || s.pwr.inReset || s.pwr.off || s.gb F.ROT_STATUS_error || stepWaits s n then .next s
  else if !ok || (n = 5 && d.headD 0 % 256 = 255) then
    .next (if n = 1 then s.rotError else if n = 5 || n = 7 then s.pf F.PWR_START_fail 0 n else s)
  else .next (((s.startStep n d).onPwr (fun p => { p with steps := p.steps ++ [n] })).pf F.PWR_START_stage 0 n)

end Sys2Proof.Machine
end

