-- ==== Sys2Proof/Machine/Mmio.lean ====
section
/-! DEFINITION. Accesses to the package MMIO (R9 to R14, R18, R20, R145, R514): where a register lies, what a read returns,
what a write does under the access codes of R11 and the guards of each register's chapter, the buffers of the security
mailboxes and in-band channels (R413, R478), and accesses to tile-store and Pod windows from off the tile (R58). -/

namespace Sys2Proof.Machine

/-- What a meaning that stops nowhere answers. -/
def Res.get (r : Res) (s : State) : State :=
  match r with
  | .next t => t
  | .fault _ => s
  | .refused _ => s

/-- A load from MMIO: its value, and what its arrival does (R9, R14, R29). -/
def State.mmioLoad (s : State) (pa size : Nat) : Nat × State := (s.mmioVal pa size, s.ioTouch pa)

/-! ### Writes under the access codes (R11, R13, R453) -/

def rangeMask (hi lo : Nat) : Nat := 2 ^ (hi + 1) - 2 ^ lo
def andNot (a b : Nat) : Nat := a - Nat.land a b
/-- One field of a register after a write of v to the bits of m. -/
def fldWrite (m v old : Nat) (f : Fld) : Nat :=
  let b := Nat.land m (rangeMask f.hi f.lo)
  match f.acc with
  | .RO => old
  | .WO => old
  | .RW => Nat.lor (andNot old b) (Nat.land v b)
  | .W1C => andNot old (Nat.land v b)
  | .W1S => Nat.lor old (Nat.land v b)
/-- The overflow bit of a saturating count (R453). -/
def ovfBit (r : Reg) : Option Nat :=
  if r = .HCR_STATUS then some 16
  else if r.fields.any (fun f => f.hi = 32 && f.lo = 32 && f.acc == .W1C) then some 32 else none

/-- Clearing the bit zeroes the count: of every one but HCR_MEM_STATUS.discarded, which only a package reset clears (R80). -/
def ovfZeroes (r : Reg) : Bool := r != .HCR_MEM_STATUS

/-- A register after a write of v (in place) to its bits of mask m. -/
def regAfter (r : Reg) (old m v : Nat) : Nat :=
  let w := r.fields.foldl (fldWrite m v) old
  let w := match ovfBit r with
    | some b => if bitN old b && !bitN w b && ovfZeroes r then setBitsN w (b - 1) 0 0 else w
    | none => w
  let one := fun (f : Fld) => Nat.land (Nat.land m v) (rangeMask f.hi f.lo) ≠ 0
  if r = .TRANS_STATUS then (if one F.TRANS_STATUS_first_fault then setBitsN w 2 0 0 else w)
  else if r = .IOMMU_FAULT then (if one F.IOMMU_FAULT_first_fault then setBitsN w 2 0 0 else w)
  else if r = .HA_RETRY_MAX then (if one F.HA_RETRY_MAX_clear then setBitsN w 31 0 0 else w)
  else w

/-- The word a register's own command gets: read-write bits outside the written ones as they are. -/
def State.regWord (s : State) (a : RegAcc) (v : Nat) : Nat :=
  let rw := a.reg.fields.foldl (fun w f => if f.acc == .RW then Nat.lor w (rangeMask f.hi f.lo) else w) 0
  setBitsN (Nat.land (s.rdN a.reg a.idx) rw) (a.lo + a.n - 1) a.lo v
/-- The plain write of R11. -/
def State.regPut (s : State) (a : RegAcc) (v : Nat) : State :=
  let m := rangeMask (a.lo + a.n - 1) a.lo
  let old := s.rdN a.reg a.idx
  let s := s.wr a.reg a.idx (regAfter a.reg old m ((v % 2 ^ a.n) * 2 ^ a.lo))
  let gone := fun (f : Fld) => bitN old f.lo && !s.gb f a.idx
  if a.reg = .FLT_STATUS then
    s.pf F.FLT_STATUS_class_max a.idx (classMax (fltNode a.idx) (fltBlock a.idx) (s.gf F.FLT_STATUS_src a.idx))
  else if a.reg = .NUM_NF_ORIGIN && gone F.NUM_NF_ORIGIN_valid then s.unwr .NUM_NF_ORIGIN a.idx
  else if a.reg = .DRL_ROUTE_FAULT && gone F.DRL_ROUTE_FAULT_valid then s.unwr .DRL_ROUTE_FAULT a.idx
  else if a.reg = .HBM_ERR_INFO && gone F.HBM_ERR_INFO_valid then (s.unwr .HBM_ERR_INFO a.idx).unwr .HBM_ERR_ADDR a.idx
  else if a.reg = .MC_ERR_INFO && gone F.MC_ERR_INFO_valid then (s.unwr .MC_ERR_INFO a.idx).unwr .MC_ERR_ADDR a.idx
  else if a.reg = .POD_ERR_INFO && gone F.POD_ERR_INFO_valid then (s.unwr .POD_ERR_INFO a.idx).unwr .POD_ERR_ADDR a.idx
  else s

/-! ### Writes by chapter

Each group answers none for a register it does not hold. `a` is the access, `v` what it carries, `w` the register's word. -/

/-- Time, step domains and translation (spec/01, 02, 07). -/
def State.mmioCore (s : State) (role : Role) (a : RegAcc) (v : Nat) : Option State :=
  let w := s.regWord a v
  let w64 := BitVec.ofNat 64 w
  let i := a.idx
  let soft := s.mmioRole role
  let r := a.reg
  let dom := s.mayWriteDom role i
  if r = .TB_CTRL then
    some (if !soft then s else
      let s := s.regPut a v
      s.when (s.gf F.TB_CTRL_pps_out_width = 0) (fun s => s.pf F.TB_CTRL_pps_out_width 0 1))
  else if r = .TB_ADJ then some (if soft then (execTbAdj w64 s).get s else s)
  else if r = .TB_INCR then some (if soft then (execTbIncrWrite w64 s).get s else s)
  else if r = .TANDEM_CTRL then some ((execTandemCtrlWrite role (BitVec.ofNat 32 w) s).get s)
  else if r = .STEP_LEAD then some (if dom then s.pf F.STEP_LEAD_lead_ns i (max 500 (min 1000000 w)) else s)
  else if r = .TRANS_ROOT then some ((execTransCtxWrite role false i w64 s).get s)
  else if r = .TRANS_ATTR then some ((execTransCtxWrite role true i w64 s).get s)
  else if r = .TRANS_INVAL then some ((execTransInval role w64 s).get s)
  else if r = .CAT_ROOT then some ((execCatRootWrite role w64 s).get s)
  else if r = .HCR_CTRL then
    some (if !mayReset s role then s
      else if bitN w 0 then ((if bitN w 1 then execCoreResetForced role s else execCoreResetGraceful role s).get s)
      else (s.pf F.HCR_CTRL_forced 0 (bitsN w 1 1)).pf F.HCR_CTRL_forced 1 (bitsN w 1 1))
  else if r = .NUM_TABLE_BASE then
    some (if !dom then s else
      let t := (s.pf F.NUM_TABLE_BASE_shadow_en i (bitsN w 1 1)).pf F.NUM_TABLE_BASE_verdict_en i (bitsN w 2 2)
      if s.tableOn i then (if bitN w 0 then t else t.pf F.NUM_TABLE_BASE_enable i 0)
      else
        let t := t.pf F.NUM_TABLE_BASE_base i (bitsN w 51 8)
        if !bitN w 0 then t else if tableFits t i then (execValidationFold role i t).get s else s)
  else if r = .NUM_TABLE_COUNT then some (if dom && !s.tableOn i then s.regPut a v else s)
  else if [Reg.NUM_STATUS, .NUM_VERDICT, .NUM_NF_ORIGIN, .NUM_SKIP_COUNT, .NUM_COLD_COUNT, .NUM_EXTRA_COUNT, .NUM_SHADOW_ALERTS, .NUM_WIDE_COUNT, .NUM_ZERO_COUNT].elem r then
    some (if dom then s.regPut a v else s)
  else none

/-- Tiles, Pannier, NMEs (spec/04, 08, 09). Writes to an isolated tile's registers are ignored (R145). -/
def State.mmioUnits (s : State) (role : Role) (a : RegAcc) (v : Nat) : Option State :=
  let w := s.regWord a v
  let w64 := BitVec.ofNat 64 w
  let w32 := BitVec.ofNat 32 w
  let i := a.idx
  let soft := s.mmioRole role
  let r := a.reg
  let nme := s.mayWriteNme role i
  if r = .TILE_RNG_KEY then some ((execTileRngKeyWrite role i w64 s).get s)
  else if r = .TILE_RNG_LANE then some (if role = .seq && s.tileIn i then s.regPut a v else s)
  else if [Reg.TILE_CTRL, .TILE_STATUS, .TILE_BANK_STALLS, .TILE_ERR_AUX].elem r then some (if soft && s.tileIn i then s.regPut a v else s)
  else if r = .PAN_CTRL then some ((execPanEnable role i w32 s).get s)
  else if r = .PAN_CMD then some ((execPanClear role i w32 s).get s)
  else if r = .PAN_SIZES then some ((execPanSizesWrite role i w64 s).get s)
  else if r = .PAN_RING_BASE || r = .PAN_SEED_BASE then some (if soft && !s.gb F.PAN_CTRL_enable i then s.regPut a v else s)
  else if r = .NME_CTRL then some (if nme then s.pf F.NME_CTRL_rekey_share i (min 100 (bitsN w 14 8)) else s)
  else if r = .NME_PROG then some ((execNmeProgWrite role (i / 128) (i / 64 % 2) (i % 64) w64 s).get s)
  else if r = .NME_PROG_ENTRIES_0 then some ((execNmeProgWrite role i 0 64 w64 s).get s)
  else if r = .NME_PROG_ENTRIES_1 then some ((execNmeProgWrite role i 1 64 w64 s).get s)
  else if r = .NME_PROG_CTRL then some (if bitN w 1 then (execProgCommit role i s).get s else s)
  else if r = .NME_REKEY_CTRL then some ((execRekeyGo role i w64 s).get s)
  else if [Reg.NME_STATUS, .NME_FLAGS, .NME_CLAMP_FALLBACK, .NME_DIGEST_MISMATCH].elem r then some (if nme then s.regPut a v else s)
  else if r = .MC_REKEY_CTRL then some ((execMcRekeyGo role i w64 s).get s)
  else none

/-- An MSI entry of die n that an entry of a sealed partition's stream names, as far as the complex holds it (R317). -/
def msiSealed (s : State) (n k : Nat) : Bool :=
  let sealedStrm := fun (st : Nat) => s.gf F.TRANS_ATTR_part_id (strmCtx s n st) ≠ 0
  let names := fun (e : Bytes) => decide (fieldB e 60 2 = k)
  s.seq.streams.rows.any (fun r => r.1 / 64 = n && sealedStrm (r.1 % 64) && r.2.fetched.any (fun e => names e.2)) ||
  s.seq.ents.any (fun e => e.die = n && sealedStrm e.stream && names e.entry)

/-- Sequencers, ports, Aedian Transport, Derailleurs (spec/10, 11, 12). -/
def State.mmioNet (s : State) (role : Role) (a : RegAcc) (v : Nat) : Option State :=
  let w := s.regWord a v
  let w32 := BitVec.ofNat 32 w
  let i := a.idx
  let soft := s.mmioRole role
  let r := a.reg
  let n := i / 64
  let st := i % 64
  let strm := s.mayWriteStream role n st (strmCtx s n st)
  let drl := s.mayWriteDom role (s.domainOf i)
  if r = .SEQ_STREAM_BASE then some (if strm && !strmOn s n st then s.regPut a v else s)
  else if r = .SEQ_STREAM_CTRL then some ((execStreamEnable role n st w32 s).get s)
  else if r = .SEQ_STREAM_STATUS then
    some (if !strm then s
      else
        let halt := s.gf F.SEQ_STREAM_STATUS_halted i
        let t := (s.regPut a v).pf F.SEQ_STREAM_STATUS_halted i halt
        if bitN w 1 then (execHaltClear role n st t).get t else t)
  else if r = .SEQ_MSI_ADDR || r = .SEQ_MSI_DATA then
    some (if privRole role || soft && !msiSealed s (i / 256) (i % 256) then s.regPut a v else s)
  else if r = .PORT_CTRL then
    some (if !soft then s else
      let s := (s.pf F.PORT_CTRL_retrain_max i (max 1 (bitsN w 15 8))).pf F.PORT_CTRL_pfc_en i (bitsN w 23 16)
      let t := (execPortModeWrite role i (w % 4) s).get s
      if bitN w 2 then (execPortRetrain role i t).get t else t)
  else if r = .PORT_CLASS then
    some (if !soft then s else
      let s := s.regPut a v
      s.pf F.PORT_CLASS_xon_kib i (min (s.gf F.PORT_CLASS_xon_kib i) (s.gf F.PORT_CLASS_xoff_kib i)))
  else if r = .AT_CTRL then
    some (if !soft then s else if bitN w 0 then (execAtEnable role i s).get s else s.pf F.AT_CTRL_enable i 0)
  else if r = .AT_RETX_SIZE then
    some (if soft && !s.gb F.AT_CTRL_enable i then s.pf F.AT_RETX_SIZE_mib i (max 8 (min 4096 (w % 65536))) else s)
  else if [Reg.AT_CONN_BASE, .AT_CONN_COUNT, .AT_ADDR_BASE, .AT_RETX_BASE].elem r then
    some (if soft && !s.gb F.AT_CTRL_enable i then s.regPut a v else s)
  else if r = .AT_CONN_CMD then
    let c := w % 65536
    let op := bitsN w 17 16
    some (if op = 1 then (execConnOpen role i c s).get s
      else if op = 2 then (execConnClose role i c s).get s
      else if op = 3 then (execConnReset role i c s).get s
      else if soft && !s.gb F.AT_CONN_CMD_busy i then (s.pf F.AT_CONN_CMD_conn i c).pf F.AT_CONN_CMD_op i 0 else s)
  else if r = .DRL_CTRL then some ((execDrlEnable role i w32 s).get s)
  else if r = .DRL_RT_CTRL then some (if bitN w 1 then (execRouteCommit role i s).get s else s)
  else if r = .DRL_STAGE_SIZE then
    some (if drl && !drlOn s i then s.pf F.DRL_STAGE_SIZE_mib i (max 16 (min 4096 (w % 65536))) else s)
  else if [Reg.DRL_RT_SAVE, .DRL_STAGE_BASE, .DRL_DELIV_BASE].elem r then
    some (if drl && !drlOn s i then s.regPut a v else s)
  else if [Reg.DRL_STATUS, .DRL_ROUTE_FAULT, .DRL_DROPPED, .DRL_LATE_STARTS, .DRL_BAD_MSGS].elem r then some (if drl then s.regPut a v else s)
  else none

/-- A write from a wrong requester is ignored and counted (R413, R478). -/
def mboxRole (i : Nat) (role : Role) : Bool :=
  match role with
  | .host => i = 0
  | .operator => i = 1
  | .tenant p => 1 ≤ p && i = 1 + p
  | _ => false
def odcRole (c : Nat) (role : Role) : Bool :=
  match role with
  | .host => c < 8
  | .tenant p => 1 ≤ p && c = 7 + p
  | _ => false

/-- Devices, security, faults, management, power (spec/13 to 17). -/
def State.mmioDevices (s : State) (role : Role) (a : RegAcc) (v : Nat) : Option State :=
  let w := s.regWord a v
  let w64 := BitVec.ofNat 64 w
  let w32 := BitVec.ofNat 32 w
  let i := a.idx
  let soft := s.mmioRole role
  let r := a.reg
  let node := fltNode i
  let b := fltBlock i
  if r = .IOMMU_DT_INVAL then some ((execIommuDtInval role i w32 s).get s)
  else if r = .HBM_PPR_CMD then some ((execRowRepair role (.hbm i) w64 s).get s)
  else if r = .MC_PPR_CMD then some ((execRowRepair role (.ddr i) w64 s).get s)
  else if [Reg.MBOX_CTRL, .MBOX_STATUS, .MBOX_MSI_ADDR, .MBOX_MSI_DATA, .MBOX_DENIED].elem r then
    some (if mboxRole i role then s.regPut a v else s.bump .MBOX_DENIED i)
  else if [Reg.ODC_CTRL, .ODC_STATUS, .ODC_MSI_ADDR, .ODC_MSI_DATA, .ODC_DENIED].elem r then
    some (if odcRole i role then s.regPut a v else s.bump .ODC_DENIED i)
  else if isFltReg r && !blkThere node b then some s
  else if r = .FLT_FORCE then some ((execFltForce role node b w32 s).get s)
  else if r = .FLT_CMD then
    some (if !mayCommand s role then s
      else if !bitN w 2 then s.pf F.FLT_CMD_op i (w % 4)
      else
        let (f, t) := s.free
        let pass := bitN f.toNat 0
        if w % 4 = 1 then (execFltIsolate role node b s).get s
        else if w % 4 = 2 then (execFltRestore role node b pass t).get t
        else if w % 4 = 3 then (execFltReset role node b pass t).get t
        else s.pf F.FLT_CMD_op i 0)
  else if r = .FLT_MSI_ADDR || r = .FLT_MSI_DATA then
    some (if privRole role || soft && !(node < 8 && s.sealedPart (s.domainOf node)) then s.regPut a v else s)
  else if r = .PWR_GEAR_REQ then
    some (if bitN w 2 then (execGearRequest role (w % 4) s).get s
      else if role = .operator || privRole role then s.pf F.PWR_GEAR_REQ_gear 0 w else s)
  else if r = .PWR_CLUSTER then
    let bound := (List.range 8).any (fun h => s.gf F.CORE_PART_part (8 * i + h) ≠ 0)
    some (if privRole role || soft && !bound then
        (s.pf F.PWR_CLUSTER_max_mhz i (max 800 (min 3000 (bitsN w 23 12)))).clusterSync i
      else s)
  else none

/-- A register write from a role (R11, R20). -/
def State.regStore (s : State) (role : Role) (a : RegAcc) (v : Nat) : State :=
  match s.mmioCore role a v with
  | some t => t
  | none => match s.mmioUnits role a v with
    | some t => t
    | none => match s.mmioNet role a v with
      | some t => t
      | none => match s.mmioDevices role a v with
        | some t => t
        | none => if s.mmioRole role || privRole role then s.regPut a v else s

/-- A write of a VNF's word: of a sealed partition's VNF through the RoT only (R333). -/
def State.vnfStore (s : State) (role : Role) (v k sh size val : Nat) : State :=
  let word := BitVec.ofNat 64 (setBitsN (s.eth.vnfRegs.atD (v * 8 + k) 0).toNat (sh + 8 * size - 1) sh val)
  let t : State := { s with eth := { s.eth with vnfRegs := s.eth.vnfRegs.put (v * 8 + k) word } }
  let free := fun (x : State) => x.gf F.TRANS_ATTR_part_id (vnfCtx x v) = 0
  if privRole role || s.mmioRole role && free s && free t then t else s

/-- A store to MMIO. -/
def State.mmioStore (s : State) (role : Role) (pa size v : Nat) : State :=
  let s := s.ioTouch pa
  match tileMmio pa with
  | some t =>
    if !s.winUp pa || !s.enabled t then s
    else match regAcc pa size with
      | some a => s.regStore role a v
      | none => s
  | none =>
    if !s.winUp pa then s
    else if (msiFile pa).isSome then s.msiWrite pa size v
    else if (size ≠ 4 && size ≠ 8) || pa % size ≠ 0 then s
    else match bufAt pa with
      | some (.mbox i req) =>
        if !mboxRole i role then s.bump .MBOX_DENIED i
        else if !req || s.gb F.MBOX_CTRL_go i then s else { s with mem := s.mem.putBytes pa (leBytes size v) }
      | some (.odc c req) =>
        if !odcRole c role || (req && s.gb F.ODC_CTRL_go c) then s.bump .ODC_DENIED c
        else if !req then s else { s with mem := s.mem.putBytes pa (leBytes size v) }
      | none => match routeAt pa with
        | some (n, slot, i, o) => (execRouteWindowWrite role n slot i o size (BitVec.ofNat 64 v) s).get s
        | none => match vnfAt pa with
          | some (x, k) => s.vnfStore role x k (pa % 8 * 8) size v
          | none => match regAcc pa size with
            | some a => s.regStore role a v
            | none => s

/-! ### Windows of Pods and tile stores (R9, R58, R145) -/

/-- A window access is performed at its SRAM; the windows of disabled and isolated tiles read zero. -/
def State.winOpen (s : State) (pa : Nat) : Bool := s.pwr.up && (s.region pa = .pod || s.windowUp pa)

/-- A load or store from an agent off the tile; an access crosses no window's end. -/
def execWindowAccess (agent pa : Nat) (write : Bool) (len : Nat) (data : Bytes) (s : State) : Res :=
  let n := if write then data.length else len
  let reg := s.region pa
  if reg = .hole && n ≠ 0 then .next ((s.hole pa (agentNode agent)).emit (.reqFailed agent pa St.addrHole))
  else if (reg ≠ .pod && reg ≠ .tstore) || n = 0 || s.region (pa + n - 1) ≠ reg || (reg = .tstore && windowTile pa ≠ windowTile (pa + n - 1)) then .next s
  else if !s.winOpen pa then
    let s := s.ioTouch pa
    .next (if write then s else s.emit (.readData agent pa (zerosB n)))
  else if write then .next ((s.ioTouch pa).sramWrite pa data)
  else match s.pieceBad pa n 4 with
    | some bad =>
      let s := s.ioTouch pa
      .next (((s.badRead (agentNode agent) agent bad).emit (.reqFailed agent pa St.memUncorrectable)).settle)
    | none => .next ((s.ioTouch pa).emit (.readData agent pa (s.sramRead pa n)))

end Sys2Proof.Machine
end

