-- ==== Sys2Proof/Machine/Dict.lean ====
section
/-! DEFINITION. The object dictionary's entries (R6, R19 to R22, R54, R81, R82, R200, R232, R259, R283, R295, R398, R436,
R440, R447, R454, R457, R459 to R464, R480 to R485): type, access, limits, value, and what a write does. -/

namespace Sys2Proof.Machine

/-! ### Types (R19) and descriptions (R469) -/

namespace OdT
def bool : Nat := 0
def u8 : Nat := 1
def u16 : Nat := 2
def u32 : Nat := 3
def u64 : Nat := 4
def i32 : Nat := 5
def f32 : Nat := 7
def str : Nat := 8
def octets : Nat := 9
def digest : Nat := 10
def time : Nat := 11
end OdT

/-- Role masks: bit 0 HOST, 1 OPERATOR, 2 TENANT, 3 ROT, 4 VENDOR. -/
def roH : Nat := 1
def roO : Nat := 2
def roHO : Nat := 3
def roOT : Nat := 6
def roHOT : Nat := 7

/-- An entry: limits apply as `rule` says (0 none, 1 clamps, 2 rejects), `mask` is what is stored of a value when not 0,
`also` a value outside the limits that is good, and `round` rounds down to a multiple. -/
structure OdDesc where
  ty : Nat
  size : Nat
  rd : Nat
  wr : Nat := 0
  /-- 0 volatile, 1 saved, 2 factory. -/
  pers : Nat := 0
  thru : Bool := false
  rule : Nat := 0
  lo : Int := 0
  hi : Int := 0
  mask : Nat := 0
  also : Option Nat := none
  round : Nat := 1
  deriving DecidableEq, Repr

def tySize (ty : Nat) : Nat :=
  if ty = OdT.bool || ty = OdT.u8 then 1 else if ty = OdT.u16 then 2
  else if ty = OdT.u32 || ty = OdT.i32 || ty = OdT.f32 then 4 else if ty = OdT.str then 64 else if ty = OdT.digest then 32 else 8
def entry (ty rd : Nat) : OdDesc := { ty := ty, size := tySize ty, rd := rd }
/-- HOST reads, OPERATOR reads and writes, saved. -/
def setting (ty : Nat) : OdDesc := { entry ty roHO with wr := roO, pers := 1 }
def clamped (ty : Nat) (lo hi : Int) : OdDesc := { setting ty with rule := 1, lo := lo, hi := hi }
def thruEntry (ty rd : Nat) : OdDesc := { entry ty rd with thru := true }

/-! ### Calibration items (R480) -/

/-- Count of subindices, user limit, and effective limits of item k. -/
def calItem (k : Nat) : Option (Nat × Int × Int × Int) :=
  if k = 0x000 then some (192, 16, -64, 0)
  else if k = 0x001 then some (192, 16, -96, 0)
  else if k = 0x002 then some (192, 16, -64, 0)
  else if k = 0x003 then some (192, 30, 0, 200)
  else if k = 0x004 || k = 0x005 then some (192, 10000, 0, 1000000)
  else if k = 0x010 then some (128, 30, 0, 180)
  else if k = 0x011 then some (16, 20, 400, 900)
  else if k = 0x020 then some (53, 500, -1000, 1000)
  else if k = 0x030 then some (10, 25, -50, 50)
  else if k = 0x040 || k = 0x041 then some (1, 5000, 0, 100000)
  else if k = 0x042 then some (10, 2000, 0, 50000)
  else none

/-! ### Counters (R483) -/

def linkCounters : List Reg :=
  [.LINK_TX_FRAMES, .LINK_RX_FRAMES, .LINK_FEC_CORRECTED, .LINK_FEC_UNCORRECTED, .LINK_RX_DROP, .LINK_RX_UNMATCHED, .LINK_PFC_XOFF_TX,
   .LINK_PFC_XOFF_RX, .LINK_ECN_MARKED, .LINK_MACSEC_INVALID, .LINK_MACSEC_REKEY, .LINK_LINK_DOWNS, .LINK_PTP_TS_LOST]
/-- Registers of a C-die's counter entries with the fault block each belongs to; none at 19, the absent-tile accesses. -/
def dieCounters : List (Option (Reg × Nat)) :=
  [some (.SEQ_WAKES, 1), some (.SEQ_LAPS, 1), some (.PAN_PUSH_WAITS, 3), some (.PAN_FILL_WAITS, 3), some (.PAN_SPILL_LINES, 3), some (.PAN_FILL_LINES, 3),
   some (.AT_CONN_FAILS, 5), some (.AT_RETX_PKTS, 5), some (.AT_CNP_RX, 5), some (.AT_BAD_PKTS, 5), some (.DRL_ROWS_SENT, 4),
   some (.DRL_COLL_DONE, 4), some (.DRL_DROPPED, 4), some (.DRL_LATE_STARTS, 4), some (.DRL_BAD_MSGS, 4), some (.HA_RETRY_COUNT, 6),
   some (.HA_RETRY_MAX, 6), some (.HA_LOST_DIRTY, 6), none, some (.TANDEM_LATE, 0), some (.POD_UE_COUNT, 0), some (.POD_CE_COUNT, 0)]

/-- Where a counter entry's value lies: a register's copy, or a die's absent-tile count; and its block. -/
inductive CntAt where
  | reg (r : Reg) (i node blk : Nat)
  | absent (n : Nat)
  deriving DecidableEq, Repr
def pickReg (l : List Reg) (sub : Nat) : Option Reg := if sub = 0 then none else l[sub - 1]?
def cntAt (index sub : Nat) : Option CntAt :=
  if index = 0x5001 then (pickReg [.HOLE_COUNT, .MGMT_HS_FAILS] sub).map (fun r => .reg r 0 10 (if sub = 1 then 2 else 5))
  else if 0x5010 ≤ index && index < 0x5018 then
    let n := index - 0x5010
    if sub = 0 then none
    else match dieCounters[sub - 1]? with
      | some (some p) => some (.reg p.1 n n p.2)
      | some none => some (.absent n)
      | none => none
  else if 0x5020 ≤ index && index < 0x5030 then
    let st := index - 0x5020
    (pickReg [.NME_SWEEP_BLOCKS, .NME_CLAMP_FALLBACK, .NME_DIGEST_MISMATCH, .NME_REKEY_PAGES, .HBM_CE_COUNT, .HBM_UE_COUNT] sub).map
      (fun r => .reg r st (stackDie st) ((if sub ≤ 4 then 8 else 10) + st % 2))
  else if index = 0x5030 || index = 0x5031 then
    let m := index - 0x5030
    (pickReg [.HCR_STATUS, .HCR_MEM_STATUS, .IOMMU_FAULT_COUNT, .HA_RETRY_COUNT, .HA_RETRY_MAX, .HA_LOST_DIRTY, .MC_REKEY_PAGES] sub).map
      (fun r => .reg r (if 4 ≤ sub && sub ≤ 6 then 8 + m else m) (8 + m) (if sub = 3 then 4 else if 4 ≤ sub && sub ≤ 6 then 2 else if sub = 7 then 0 else 1))
  else if 0x5040 ≤ index && index < 0x5050 then
    let ch := index - 0x5040
    (pickReg [.MC_CE_COUNT, .MC_UE_COUNT] sub).map (fun r => .reg r ch (8 + ch / 8) (8 + ch % 8))
  else if 0x5050 ≤ index && index < 0x5070 then
    let k := index - 0x5050
    (pickReg [.PCIE_LOST] sub).map (fun r => .reg r k (8 + k / 16) (16 + k / 4 % 4))
  else if 0x5070 ≤ index && index < 0x5080 then
    (pickReg [.STEP_NUMBER, .NUM_SKIP_COUNT, .NUM_COLD_COUNT, .NUM_EXTRA_COUNT, .NUM_SHADOW_ALERTS, .NUM_WIDE_COUNT, .NUM_ZERO_COUNT] sub).map
      (fun r => .reg r (index - 0x5070) 10 3)
  else if 0x5100 ≤ index && index < 0x51C0 then
    let l := index - 0x5100
    (pickReg linkCounters sub).map (fun r => .reg r l (l / 24) (12 + l / 8 % 3))
  else if 0x5200 ≤ index && index < 0x5680 then
    let t := index - 0x5200
    (pickReg [.TILE_CYCLES, .TILE_ARRAY_CYCLES, .TILE_FW_UNITS, .TILE_BANK_STALLS] sub).map (fun r => .reg r t (tileDie t) (tileBlk t))
  else none
/-- The counter saturates, so that an OPERATOR's write of 0 clears it. -/
def CntAt.sat : CntAt → Bool
  | .reg r _ _ _ => (ovfBit r).isSome
  | .absent _ => true
/-- The counter reads 0: its tile is disabled, or its block isolated. -/
def State.cntGone (s : State) (index : Nat) : CntAt → Bool
  | .reg _ _ node blk =>
    (0x5200 ≤ index && index < 0x5680 && !s.enabled (index - 0x5200)) || s.blkState node blk ≠ 0 || s.blkState node 0 ≠ 0
  | .absent n => s.blkState n 0 ≠ 0
def State.cntVal (s : State) : CntAt → Nat
  | .reg r i _ _ => s.regVal r i
  | .absent n => s.absent.atD n 0
def State.cntClear (s : State) : CntAt → State
  | .reg r i _ _ => match ovfBit r with
    | some b => s.wr r i (setBitsN (s.rdN r i) b (if ovfZeroes r then 0 else b) 0)
    | none => s
  | .absent n => { s with absent := s.absent.del n }

/-! ### Entries -/

/-- Node and block of a fault mirror's index (R440). -/
def mirrorAt (index : Nat) : Option (Nat × Nat) :=
  if 0x4000 ≤ index && index < 0x4B00 && blkThere ((index - 0x4000) / 256) (index % 256) then some ((index - 0x4000) / 256, index % 256) else none

def odIdentity (index sub : Nat) : Option OdDesc :=
  if index = 0x1000 then (if sub = 1 then some { entry OdT.u32 roHOT with pers := 2 } else none)
  else if index = 0x1001 then
    if 1 ≤ sub && sub ≤ 3 then some { entry OdT.str roHOT with pers := 2 }
    else if sub = 4 then some { entry OdT.u32 roHOT with pers := 2 }
    else if sub = 5 then some { entry OdT.octets roHO with size := 6, pers := 2 } else none
  else if index = 0x1010 then (if 1 ≤ sub && sub ≤ 5 then some (entry OdT.u32 roHOT) else none)
  else if index = 0x1011 then (if 1 ≤ sub && sub ≤ 10 then some (entry OdT.digest roHOT) else none)
  else if index = 0x1012 || index = 0x1020 then (if sub = 1 then some { entry OdT.u8 roHOT with pers := 2 } else none)
  else if index = 0x1021 then (if 1 ≤ sub && sub ≤ 8 then some { entry OdT.octets roHOT with size := 18, pers := 2 } else none)
  else none
def odGears (index sub : Nat) : Option OdDesc :=
  if index = 0x2001 then
    if sub = 1 then some (entry OdT.u8 roHOT)
    else if sub = 2 then some { entry OdT.u8 roHO with wr := roO, rule := 2, lo := 0, hi := 3 } else none
  else if index = 0x2010 then
    if sub = 4 then some (clamped OdT.u8 1 255)
    else if 1 ≤ sub && sub ≤ 3 then some (setting OdT.u8)
    else if sub = 5 then some (thruEntry OdT.time roHOT) else none
  else if index = 0x2011 then
    if 1 ≤ sub && sub ≤ 16 then
      some { thruEntry OdT.u32 roHOT with wr := if sub = 1 then roO else 4, rule := 1, lo := 500, hi := 1000000 } else none
  else if index = 0x2012 then
    if sub = 1 then some { thruEntry OdT.u8 roHO with wr := roO }
    else if sub = 2 then some { thruEntry OdT.bool roHO with wr := roO }
    else if sub = 3 then some (thruEntry OdT.u8 roHO) else none
  else if index = 0x2013 then
    if sub = 1 then some (thruEntry OdT.u32 roHOT) else if sub = 2 then some (thruEntry OdT.bool roHOT) else none
  else none
def odCal (index sub : Nat) : Option OdDesc :=
  let k := if index < 0x3400 then index - 0x3000 else if index < 0x3600 then index - 0x3400 else index - 0x3600
  if index < 0x3000 || 0x3800 ≤ index then none
  else match calItem k with
    | none => none
    | some (n, lim, _, _) =>
      if sub = 0 || sub > n then none
      else if index < 0x3400 then some { entry OdT.i32 roHO with pers := 2 }
      else if index < 0x3600 then some (clamped OdT.i32 (-lim) lim)
      else some (entry OdT.i32 roHO)
def odFaults (index sub : Nat) : Option OdDesc :=
  if (mirrorAt index).isSome then
    if sub = 1 then some { thruEntry OdT.u64 roHOT with wr := roO }
    else if sub = 2 then some { thruEntry OdT.u64 roHO with wr := roHO }
    else if sub = 3 then some { thruEntry OdT.u32 0 with wr := roHO }
    else if sub = 4 then some (thruEntry OdT.u64 roHOT)
    else if sub = 5 then some { thruEntry OdT.u64 roHO with pers := 2 }
    else if sub = 6 then some { thruEntry OdT.u64 roHOT with wr := roO, pers := 1 }
    else if sub = 7 then some (thruEntry OdT.time roHO)
    else if sub = 8 then some { thruEntry OdT.u32 roO with wr := roO } else none
  else if index = 0x4F00 then
    if sub = 1 then some (setting OdT.bool)
    else if sub = 2 then some (clamped OdT.u32 10 60000)
    else if sub = 3 then some (clamped OdT.u32 100 600000) else none
  else if index = 0x4F10 then
    if sub = 0 then some { entry OdT.u8 roHO with pers := 1 }
    else if sub ≤ 64 then some { entry OdT.octets roHO with size := 32, pers := 1 } else none
  else if index = 0x4F20 then (if sub = 1 then some { entry OdT.octets roHO with size := 320 } else none)
  else none
def odSecurity (index sub : Nat) : Option OdDesc :=
  if index = 0x6001 then
    if sub = 1 then some { entry OdT.digest roHOT with pers := 2 }
    else if sub = 2 then some { entry OdT.octets roHOT with size := 64, pers := 2 }
    else if sub = 3 || sub = 4 then some { entry OdT.octets roHOT with size := 9893, pers := 2 } else none
  else if index = 0x6002 then (if sub = 1 then some { entry OdT.u64 roHO with pers := 1 } else none)
  else if index = 0x6004 then (if 1 ≤ sub && sub ≤ 5 then some { entry OdT.u32 roHO with pers := 1 } else none)
  else if index = 0x6010 then (if sub = 1 then some (clamped OdT.u32 1 3600) else none)
  else if 0x6100 ≤ index && index < 0x6110 then
    if sub = 1 || sub = 5 then some (entry OdT.u8 roHOT)
    else if sub = 2 then some (entry OdT.digest roHOT)
    else if sub = 3 then some { entry OdT.octets roHOT with size := 1568 }
    else if sub = 4 then
      if index = 0x6100 then some { entry OdT.u64 roOT with wr := roO, pers := 1 } else some (entry OdT.u64 roOT)
    else if 6 ≤ sub && sub ≤ 9 then some (entry OdT.u64 roHOT) else none
  else none
def octets (n : Nat) : OdDesc := { setting OdT.octets with size := n }
def odNetwork (index sub : Nat) : Option OdDesc :=
  if index = 0x7001 then (if sub = 1 then some { entry OdT.octets roHO with size := 6, pers := 2 } else none)
  else if index = 0x7002 then (if 1 ≤ sub && sub ≤ 24 then some (setting OdT.u8) else none)
  else if index = 0x7010 then
    if sub = 1 then some (setting OdT.u16)
    else if sub = 2 then some (clamped OdT.u8 2 3)
    else if sub = 3 then some (clamped OdT.u32 4000 1000000)
    else if sub = 4 then some (clamped OdT.u8 3 16)
    else if sub = 5 then some (clamped OdT.u16 0 4095) else none
  else if index = 0x7100 then (if 1 ≤ sub && sub ≤ 192 then some (octets 16) else none)
  else if index = 0x7200 then
    if sub = 1 || sub = 3 then some (setting OdT.u8)
    else if sub = 2 then some { setting OdT.u8 with rule := 2, lo := 0, hi := 191, also := some 255 } else none
  else if index = 0x7300 then (if sub = 1 then some (setting OdT.u8) else if sub = 2 then some (setting OdT.u32) else none)
  else if index = 0x7400 then
    if sub = 1 || sub = 3 then some (octets 16)
    else if sub = 2 then some (clamped OdT.u8 1 128)
    else if sub = 4 then some { setting OdT.u16 with rule := 2, lo := 1, hi := 65535 }
    else if sub = 5 then some (setting OdT.bool)
    else if sub = 7 then some (clamped OdT.u16 30 3600) else none
  else if index = 0x7401 then (if 1 ≤ sub && sub ≤ 8 then some { entry OdT.str roO with pers := 1 } else none)
  else none
/-- FP32 limits as bits: positive numbers order as their bits do. -/
def f32Limits (lo hi : Nat) : OdDesc := clamped OdT.f32 lo hi
def odTiers (index sub : Nat) : Option OdDesc :=
  if index = 0x8001 then
    if sub = 1 || sub = 2 then some (setting OdT.u8) else if sub = 3 then some (entry OdT.u64 roHO) else none
  else if index = 0x8003 then (if 1 ≤ sub && sub ≤ 8 then some (setting OdT.u8) else none)
  else if index = 0x8020 then (if sub = 1 then some { clamped OdT.u32 64 1048576 with round := 64 } else none)
  else if index = 0x8030 then (if sub = 1 then some { setting OdT.u8 with rule := 2, lo := 0, hi := 3 } else none)
  else if index = 0x8100 then
    if sub = 0 then some (entry OdT.u8 roHO)
    else if sub ≤ 64 then some { entry OdT.octets roHOT with size := 24, wr := roHO } else none
  else if index = 0xA002 then
    if sub = 1 then some (clamped OdT.u16 1 65535) else if sub = 2 then some (clamped OdT.u8 1 16) else none
  else if index = 0xA003 then
    if sub = 1 then some (f32Limits 0x3E800000 0x41800000)
    else if sub = 2 || sub = 3 then some (f32Limits 0 0x3F800000) else none
  else if index = 0xA005 then (if sub = 1 then some (clamped OdT.u32 1 1000000) else none)
  else if index = 0xA010 then (if sub = 1 then some { setting OdT.u8 with mask := 7 } else none)
  else none
/-- The description of an entry; none where the dictionary holds no such entry. -/
def odDesc (index sub : Nat) : Option OdDesc :=
  if index < 0x2000 then odIdentity index sub
  else if index < 0x3000 then odGears index sub
  else if index < 0x4000 then odCal index sub
  else if index < 0x5000 then odFaults index sub
  else if index < 0x6000 then
    (cntAt index sub).map (fun c => { thruEntry OdT.u64 roHOT with wr := if c.sat then roO else 0 })
  else if index < 0x7000 then odSecurity index sub
  else if index < 0x8000 then odNetwork index sub
  else odTiers index sub

/-- Runs of indices with the subindices an index may hold, ascending (R470 walks them). -/
def odAreas : List (Nat × Nat × Nat) :=
  [(0x1000, 2, 5), (0x1010, 3, 10), (0x1020, 2, 8), (0x2001, 1, 2), (0x2010, 4, 16), (0x3000, 0x43, 192), (0x3400, 0x43, 192), (0x3600, 0x43, 192),
   (0x4000, 0xB00, 8), (0x4F00, 1, 3), (0x4F10, 1, 64), (0x4F20, 1, 1), (0x5001, 1, 2), (0x5010, 8, 22), (0x5020, 18, 7), (0x5040, 16, 2),
   (0x5050, 32, 1), (0x5070, 16, 7), (0x5100, 192, 13), (0x5200, 1152, 4), (0x6001, 4, 5), (0x6010, 1, 1), (0x6100, 16, 9), (0x7001, 2, 24),
   (0x7010, 1, 5), (0x7100, 1, 192), (0x7200, 1, 3), (0x7300, 1, 2), (0x7400, 2, 8), (0x8001, 3, 8), (0x8020, 1, 1), (0x8030, 1, 1), (0x8100, 1, 64),
   (0xA002, 4, 3), (0xA010, 1, 1)]

/-! ### Values -/

/-- Enabled tiles of C-die n in the fused map (R6). -/
def fusedCount (s : State) (n : Nat) : Nat := ((List.range 144).filter (fun t => bitN (s.fusedMap n) t)).length
/-- A running firmware class's svn (R406): of a die class, the lowest of its dies. -/
def State.svnOf (s : State) (cls : Nat) : Nat :=
  let dies := if cls = 2 then List.range 8 else if cls = 3 then [8, 9] else []
  if dies = [] then s.sec.svns.atD cls (leVal (sliceB (Config.factory 0x1010 (cls + 1)) 0 4))
  else (minList (dies.map (fun n => (s.sec.dies.atD n {}).svn))).getD 0
/-- Factory contents cut to an entry's size. -/
def factoryOf (index sub size : Nat) : Bytes := sliceB (Config.factory index sub) 0 size
def partNameBytes : Bytes := [0x54, 0x75, 0x67, 0x61, 0x70, 0x68, 0x6F, 0x72, 0x20, 0x38, 0x38, 0x30]
/-- The ordering code OW-T880-G with the grade, the fused count of a C-die, in decimal (R3). -/
def orderingCode (grade : Nat) : Bytes :=
  [0x4F, 0x57, 0x2D, 0x54, 0x38, 0x38, 0x30, 0x2D, 0x47, 0x30 + grade / 100 % 10, 0x30 + grade / 10 % 10, 0x30 + grade % 10]

/-- A preserved-region entry as it lies in the dictionary. -/
def State.regionEnt (s : State) (sub : Nat) : Bytes := sliceB ((s.od.vals.at? (odKey 0x8100 sub)).getD []) 0 24

/-- The value of an entry. -/
def State.odValue (s : State) (index sub : Nat) (d : OdDesc) : Bytes :=
  let stored := match s.od.vals.at? (odKey index sub) with
    | some b => sliceB b 0 d.size
    | none => leBytes d.size (odInit index sub)
  let num := fun (v : Nat) => leBytes d.size v
  if index < 0x2000 then
    if index = 0x1001 && sub = 1 then sliceB partNameBytes 0 64
    else if index = 0x1001 && sub = 2 then sliceB (orderingCode (fusedCount s 0)) 0 64
    else if index = 0x1000 || index = 0x1012 then num (odInit index sub)
    else if index = 0x1010 then num (s.svnOf (sub - 1))
    else if index = 0x1011 then num (s.sec.dies.atD (sub - 1) {}).run
    else if index = 0x1020 then num (fusedCount s 0)
    else if index = 0x1021 then num (s.fusedMap (sub - 1))
    else factoryOf index sub d.size
  else if index = 0x2001 then num (if sub = 1 then s.gf F.PWR_GEAR_gear else s.gf F.PWR_GEAR_requested)
  else if index = 0x2010 && sub = 5 then num s.now
  else if index = 0x2011 then num (s.gf F.STEP_LEAD_lead_ns (sub - 1))
  else if index = 0x2012 then
    num (if sub = 1 then s.gf F.TANDEM_CTRL_group_mask else if sub = 2 then s.gf F.TANDEM_CTRL_enable else s.gf F.TANDEM_STATUS_locked)
  else if index = 0x2013 then num (if sub = 1 then s.pkgEpoch else bN s.epochFull)
  else if 0x3000 ≤ index && index < 0x3400 then factoryOf index sub 4
  else if 0x3600 ≤ index && index < 0x3800 then
    match calItem (index - 0x3600) with
    | some (_, _, lo, hi) => num (uN 32 (effCal s (index - 0x3600) sub lo hi))
    | none => num 0
  else if 0x4000 ≤ index && index < 0x4B00 then
    let i := fltIdx ((index - 0x4000) / 256) (index % 256)
    num (if sub = 1 then s.regVal .FLT_STATUS i else if sub = 2 then s.regVal .FLT_MASK i else if sub = 4 then s.regVal .FLT_COUNT i
      else if sub = 5 then s.regVal .FLT_CLASS i else if sub = 6 then s.regVal .FLT_RECOVERY i else if sub = 7 then s.regVal .FLT_LAST_TIME i
      else s.regVal .FLT_CMD i)
  else if index = 0x4F10 then (if sub = 0 then num s.flt.records.length else sliceB (s.flt.records.getD (sub - 1) []) 0 32)
  else if index = 0x4F20 then sliceB s.flt.gensAtBoot 0 320
  else if 0x5000 ≤ index && index < 0x6000 then
    match cntAt index sub with
    | some c => num (if s.cntGone index c then 0 else s.cntVal c)
    | none => num 0
  else if index = 0x6001 then factoryOf index sub d.size
  else if index = 0x6002 then num s.sec.attUsed
  else if index = 0x6004 then num (s.svnMin (sub - 1))
  else if 0x6100 ≤ index && index < 0x6110 then
    let p := index - 0x6100
    let x := s.part p
    if sub = 1 then num (s.partState p)
    else if sub = 2 then sliceB (if s.sealedPart p then x.pmr else []) 0 32
    else if sub = 3 then sliceB (if s.sealedPart p then kemEk x else []) 0 1568
    else if sub = 4 then (if p = 0 then stored else num (if s.sealedPart p then x.seed.toNat else 0))
    else if p ≠ 0 && !s.sealedPart p then num 0
    else if sub = 5 then num (genByte x)
    else num (x.units.atD (sub - 6) 0)
  else if index = 0x7001 then factoryOf index sub 6
  else if index = 0x7401 then
    match s.sec.secrets.at? (secretKey 1 (sub - 1)) with
    | some b => sliceB (Config.pskId b) 0 64
    | none => zerosB 64
  else if index = 0x8001 && sub = 3 then num (s.gf F.DDR_TOP_top)
  else if index = 0x8100 && sub = 0 then num ((List.range 64).filter (fun i => bitN (fieldB (s.regionEnt (i + 1)) 17 1) 0)).length
  else stored

/-- The change count of an entry; that of a read-through one reads 0 (R460). -/
def State.odGen (s : State) (index sub : Nat) (d : OdDesc) : Nat := if d.thru then 0 else s.od.gens.atD (odKey index sub) 0
/-- The stated default; a fused value's is the value itself (R6). -/
def State.odDefault (s : State) (index sub : Nat) (d : OdDesc) : Bytes :=
  if d.pers = 2 then s.odValue index sub d
  else if (mirrorAt index).isSome && sub = 2 then leBytes 8 (2 ^ 32)
  else if index = 0x2011 then leBytes 4 2000
  else if index = 0x2013 && sub = 1 then leBytes 4 1
  else leBytes d.size (odInit index sub)

/-! ### Views (R463, R469, R485) -/

/-- Bit of a role in a role mask. -/
def roleBit : Role → Nat
  | .host => 1 | .operator => 2 | .tenant _ => 4 | .rot => 8 | .vendor => 16 | .seq => 0
/-- What a TENANT of p reaches (R463, and the entries that R482 grants it; DEDUCED, log entry 158). -/
def State.tenantView (s : State) (p index sub : Nat) : Bool :=
  let dies := (s.part p).mask
  if index < 0x2000 || index = 0x2001 || index = 0x2010 || index = 0x2013 || index = 0x6001 then true
  else if index = 0x2011 then sub = p + 1
  else if 0x6100 ≤ index && index < 0x6110 then index = 0x6100 + p
  else if 0x5010 ≤ index && index < 0x5018 then bitN dies (index - 0x5010)
  else if 0x5020 ≤ index && index < 0x5030 then bitN dies ((index - 0x5020) / 2)
  else if 0x5200 ≤ index && index < 0x5680 then bitN dies ((index - 0x5200) / 144)
  else if 0x4000 ≤ index && index < 0x4800 then bitN dies ((index - 0x4000) / 256) && (sub = 1 || sub = 4 || sub = 6)
  else if index = 0x8100 then 1 ≤ sub && sub ≤ 64 && fieldB (s.regionEnt sub) 16 1 % 16 = p && fieldB (s.regionEnt sub) 17 1 % 2 = 1
  else false
/-- A role's grant in a mask, within its view; VENDOR's while debug is unlocked (R516). -/
def State.odGrant (s : State) (role : Role) (index sub mask : Nat) : Bool :=
  mask / roleBit role % 2 = 1 && roleBit role ≠ 0 && (match role with | .tenant p => s.tenantView p index sub | _ => true) ||
    s.debugOn && mask / roleBit .vendor % 2 = 1

/-! ### Writes (R461, R462, R464, R481) -/

/-! Statuses of R467. -/

namespace BmpS
def ok : Nat := 0
def notFound : Nat := 1
def denied : Nat := 2
def invalid : Nat := 3
def clamped : Nat := 4
def refused : Nat := 5
def busy : Nat := 6
def range : Nat := 7
def version : Nat := 8
def tooLarge : Nat := 9
def nvFail : Nat := 10
def type : Nat := 11
end BmpS

/-- A value under its entry's limits: the value to store and its status, or none to reject. -/
def odLimit (d : OdDesc) (b : Bytes) : Option (Bytes × Nat) :=
  let v := leVal b
  let x : Int := if d.ty = OdT.i32 then sgnN 32 v else v
  let fit := fun (y : Int) => if y = x then some (b, BmpS.ok) else some (leBytes d.size (uN (8 * d.size) y), BmpS.clamped)
  if d.ty = OdT.bool then (if v > 1 then some ([1], BmpS.clamped) else some (b, BmpS.ok))
  else if d.ty = OdT.f32 then
    if v % 2 ^ 31 > 0x7F800000 then none
    else if d.rule ≠ 1 then some (b, BmpS.ok)
    else if v / 2 ^ 31 = 1 then (if v = 2 ^ 31 && d.lo = 0 then some (b, BmpS.ok) else some (leBytes 4 d.lo.toNat, BmpS.clamped))
    else fit (max d.lo (min d.hi x))
  else if d.mask ≠ 0 then fit (Nat.land v d.mask)
  else if d.rule = 1 then
    let y := max d.lo (min d.hi x)
    fit (y - y % d.round)
  else if d.rule = 2 then (if (x < d.lo || d.hi < x) && d.also ≠ some v then none else some (b, BmpS.ok))
  else some (b, BmpS.ok)

/-- Top of the tier an address lies in (R82). -/
def State.tierTop (s : State) (a : Nat) : Option Nat :=
  match s.region a with
  | .hbm => some 0x014000000000
  | .ddr => some (s.gf F.DDR_TOP_top)
  | .cxl => some (maxList (s.cxlWins.map (fun w => w.1 + w.2.1)))
  | _ => none
/-- A preserved-region entry as it is stored, with its status (R82, R461); none where it is invalid. -/
def State.regionCheck (s : State) (sub : Nat) (b : Bytes) : Option (Bytes × Nat) :=
  let base := fieldB b 0 8
  let size := fieldB b 8 8
  let top := (s.tierTop base).getD 0
  let clash := (List.range 64).any (fun i =>
    let e := s.regionEnt (i + 1)
    i + 1 ≠ sub && bitN (fieldB e 17 1) 0 && fieldB e 0 8 < base + size && base < fieldB e 0 8 + fieldB e 8 8)
  if base % 2 ^ 21 ≠ 0 || size % 2 ^ 21 ≠ 0 || size = 0 || base + size > top || clash then none
  else
    let c := sliceB b 0 16 ++ leBytes 1 (fieldB b 16 1 % 16) ++ leBytes 1 (fieldB b 17 1 % 4) ++ zerosB 6
    some (c, if c = b then BmpS.ok else BmpS.clamped)

/-- Stores a value and counts the change. -/
def State.odPut (s : State) (index sub : Nat) (b : Bytes) : State :=
  let k := odKey index sub
  { s with od := { s.od with vals := s.od.vals.put k b, gens := s.od.gens.put k (s.od.gens.atD k 0 + 1) } }
/-- What a stored value changes at once: TB_CTRL (R482). -/
def State.odApply (s : State) (index sub : Nat) (b : Bytes) : State :=
  let v := leVal b
  if index ≠ 0x2010 then s
  else if sub = 1 then s.pf F.TB_CTRL_source 0 v
  else if sub = 2 then s.pf F.TB_CTRL_pps_out_en 0 v
  else if sub = 3 then s.pf F.TB_CTRL_pps_in_edge 0 v
  else s.pf F.TB_CTRL_pps_out_width 0 v
/-- Completes a commit to the NV store. -/
def State.odCommit (s : State) (index sub : Nat) (b : Bytes) : State :=
  let s := s.odPut index sub b
  ({ s with od := { s.od with saved := s.od.saved.put (odKey index sub) b } } : State).odApply index sub b

/-- A write through a mirror (R440), and its status. -/
def State.mirrorWrite (s : State) (role : Role) (node b sub v : Nat) : Nat × State :=
  let i := fltIdx node b
  if sub = 1 then (BmpS.ok, s.regPut ⟨.FLT_STATUS, i, 0, 64⟩ v)
  else if sub = 2 then (BmpS.ok, s.regPut ⟨.FLT_MASK, i, 0, 64⟩ v)
  else if sub = 3 then (BmpS.ok, s.regStore role ⟨.FLT_FORCE, i, 0, 32⟩ v)
  else if sub = 6 then
    if v = 0 then (BmpS.ok, (execFltRecoveryClear .operator node b 0 s).get s) else (BmpS.invalid, s)
  else (BmpS.ok, s.regStore role ⟨.FLT_CMD, i, 0, 32⟩ v)

/-- Writes the tandem register through its entry; a write not yet in force is kept in what is not written. -/
def State.tandemEntry (s : State) (mask : Bool) (v : Nat) : State :=
  let w := s.time.tandemPend.getD (s.rdN .TANDEM_CTRL)
  let w := if mask then setBitsN w 7 0 v else setBitsN w 8 8 v
  (execTandemCtrlWrite .rot (BitVec.ofNat 32 w) s).get s

/-- What a write of a checked value does at once: its status, and the state; none where the value waits for its NV commit. -/
def State.odWriteNow (s : State) (role : Role) (index sub : Nat) (d : OdDesc) (b : Bytes) (st : Nat) : Option (Nat × State) :=
  let v := leVal b
  match mirrorAt index with
  | some (node, blk) => let (r, s) := s.mirrorWrite role node blk sub v; some (r, s)
  | none =>
    if 0x5000 ≤ index && index < 0x6000 then
      match cntAt index sub with
      | some c => some (if v = 0 && c.sat then (BmpS.ok, s.cntClear c) else (BmpS.denied, s))
      | none => some (BmpS.notFound, s)
    else if index = 0x2011 then some (st, s.pf F.STEP_LEAD_lead_ns (sub - 1) v)
    else if index = 0x2012 then some (st, s.tandemEntry (sub = 1) v)
    else if index = 0x2001 then some (st, ((execGearRequest .operator v s).get s).odPut index sub b)
    else if d.pers = 1 then none
    else some (st, s.odPut index sub b)

end Sys2Proof.Machine
end

