-- ==== Sys2Proof/Machine/Bmp.lean ====
section
/-! DEFINITION. The management controller's doors (R459 to R479, R485): BMP requests over DTLS, I3C and the in-band channels,
their responses and events, NV commits, and the I3C target's CCCs. -/

namespace Sys2Proof.Machine

def State.onBmp (s : State) (f : BmpSt → BmpSt) : State := { s with bmp := f s.bmp }
def State.sess (s : State) (k : Nat) : Sess := s.bmp.sess.atD k {}
def State.setSess (s : State) (k : Nat) (f : Sess → Sess) : State := s.onBmp (fun b => { b with sess := b.sess.put k (f (s.sess k)) })
/-- Where a door's session lies. -/
def doorKey : Door → Nat
  | .dtls k => k
  | .i3c => 4
  | .chan c => 5 + c
/-- The role a door brings (R478). -/
def doorRole : Door → Role
  | .dtls _ => .operator
  | .i3c => .operator
  | .chan c => if c < 8 then .host else .tenant (c - 7)
/-- The session of a commit whose requester is gone: nobody is answered (DESIGN CHOICE, log entry 162). -/
def doorNone : Nat := 99
/-- The largest data segment, and the largest message (R468). -/
def doorSeg : Door → Nat
  | .chan _ => 16344
  | _ => 984
def doorMsg : Door → Nat
  | .chan _ => 4096
  | _ => 1024
/-- The target answers on the bus, and has an address. -/
def State.i3cOn (s : State) : Bool := s.mgmtUp && s.bmp.i3c.on
def State.i3cUp (s : State) : Bool := s.i3cOn && s.bmp.i3c.addr.isSome
/-- The door is open to a request. -/
def State.doorOpen (s : State) : Door → Bool
  | .dtls k => s.mgmtUp && k < 4 && (s.sess k).opened
  | .i3c => s.i3cUp
  | .chan c => s.mgmtUp && c < 23

/-! ### Responses -/

def State.onI3c (s : State) (f : I3cSt → I3cSt) : State := s.onBmp (fun b => { b with i3c := f b.i3c })
/-- An in-band interrupt, while the controller has them enabled (R476, R477). -/
def State.ibi (s : State) (byte : Nat) : State := s.when (s.i3cUp && bitN s.bmp.i3c.events 0) (fun s => s.emit (.ibi byte))

/-- Sends a response through its door: DTLS keeps the last 16 by sequence number (R475), I3C holds it for a private read
(R477), a channel writes its buffer (R478), without its MSI while a core reset runs (R80). -/
def State.respond (s : State) (h : BmpHdr) (type status : Nat) (body : Bytes) : State :=
  let m := bmpMsg type h.seq h.odMajor status 1 body
  match h.door with
  | .dtls k =>
    let hi := max ((s.sess k).high.getD 0) h.seq
    (s.setSess k (fun x => { x with resps := ((h.seq, m) :: x.resps).take 16, high := some hi })).emit (.bmp k m)
  | .i3c => (s.onI3c (fun i => { i with resp := some m })).ibi 0xA0
  | .chan c =>
    let s := { s with mem := s.mem.putBytes (odcBuf c + 0x2000) (m.take 16384) }
    let s := ((s.pf F.ODC_STATUS_done c 1).pf F.ODC_STATUS_status c status).pf F.ODC_STATUS_resp_len c m.length
    let quiet := s.pcie.hcr.phase ≠ 0 || s.bmp.mute.contains c
    let s := s.onBmp (fun b => { b with mute := b.mute.filter (· != c) })
    (s.pf F.ODC_CTRL_go c 0).when (!quiet) (fun s => s.msiOut 10 (s.gf F.ODC_MSI_ADDR_addr c * 4) (s.gf F.ODC_MSI_DATA_data c))

/-- A request that is not executed again: 1 is answered from its copy, 2 is dropped (R475). One still waiting for its commit
or behind another is dropped too. -/
def BmpReq.hdr : BmpReq → BmpHdr
  | .read h _ _ _ _ => h
  | .write h _ _ _ _ _ _ => h
  | .describe h _ _ => h
  | .next h _ _ => h
def seenBefore (s : State) (h : BmpHdr) : Nat × Bytes :=
  match h.door with
  | .dtls k =>
    match (s.sess k).resps.find? (·.1 = h.seq) with
    | some r => (1, r.2)
    | none =>
      let waits := (s.bmp.commit.map (fun c => (c.1, c.2.1)) == some (k, h)) || s.bmp.behind.any (fun r => r.hdr == h)
      if waits || (match (s.sess k).high with | some n => h.seq < n | none => false) then (2, []) else (0, [])
  | _ => (0, [])

/-- Carries a request from its door to what executes it: dropped at a closed door, answered again, refused for its major. -/
def State.bmpReq (s : State) (h : BmpHdr) (type : Nat) (run : State → State) : State :=
  if !s.doorOpen h.door then s
  else
    match seenBefore s h with
    | (1, m) => match h.door with
      | .dtls k => s.emit (.bmp k m)
      | _ => s
    | (2, _) => s
    | _ => if h.odMajor ≠ 1 && h.odMajor ≠ 2 then s.respond h type BmpS.version [1, 2] else run s

/-! ### Dictionary requests (R468 to R470) -/

/-- The entry as this requester's view holds it: a status, or its description. -/
def State.odFind (s : State) (h : BmpHdr) (index sub : Nat) : Except Nat OdDesc :=
  if index ≥ 0xF000 then .error (if s.debugOn then BmpS.notFound else BmpS.denied)
  else match odDesc index sub with
    | none => .error (match doorRole h.door with | .tenant _ => BmpS.denied | _ => BmpS.notFound)
    | some d => if h.odMajor = 1 && Config.odSince index sub ≠ 1 then .error BmpS.notFound else .ok d

def State.doRead (s : State) (h : BmpHdr) (index sub off len : Nat) : State :=
  match s.odFind h index sub with
  | .error e => s.respond h 1 e []
  | .ok d =>
    if !s.odGrant (doorRole h.door) index sub d.rd then s.respond h 1 BmpS.denied []
    else if off ≥ d.size then s.respond h 1 BmpS.range []
    else if len > doorSeg h.door then s.respond h 1 BmpS.tooLarge []
    else
      let v := s.odValue index sub d
      s.respond h 1 BmpS.ok (leBytes 1 d.ty ++ zerosB 3 ++ beW 4 d.size ++ beW 8 (s.odGen index sub d) ++ beW 4 off ++ zerosB 4 ++ (v.drop off).take len)

/-- The body of a WRITE response. -/
def State.writeBody (s : State) (index sub : Nat) (d : OdDesc) : Bytes :=
  let v := if d.size ≤ 8 && d.rd ≠ 0 then sliceB (s.odValue index sub d) 0 8 else zerosB 8
  beW 2 index ++ leBytes 1 sub ++ zerosB 5 ++ beW 8 (s.odGen index sub d) ++ v

/-- Applies a whole value: R461's checks, what it does at once, or the commit it waits for (R464). -/
def State.writeValue (s : State) (h : BmpHdr) (index sub : Nat) (d : OdDesc) (b : Bytes) (dflt : Bool) : State :=
  let role := doorRole h.door
  let raw := if dflt then s.odDefault index sub d else if d.ty = OdT.str then sliceB b 0 64 else b
  let size := if d.ty = OdT.str then b.length ≤ 64 else b.length = d.size
  if !dflt && !size then s.respond h 2 BmpS.invalid []
  else if index = 0x8100 && fieldB raw 16 1 % 16 ≠ 0 && role ≠ .operator then s.respond h 2 BmpS.denied []
  else
    let checked := if dflt then some (raw, BmpS.ok) else if index = 0x8100 then s.regionCheck sub raw else odLimit d raw
    match checked with
    | none => s.respond h 2 BmpS.invalid []
    | some (v, st) =>
      match s.odWriteNow role index sub d v st with
      | some (r, t) => t.respond h 2 r (if r = BmpS.ok || r = BmpS.clamped then t.writeBody index sub d else [])
      | none =>
        if s.gb F.ROT_STATUS_error then s.respond h 2 BmpS.refused []
        else if s.flt.sag then s.respond h 2 BmpS.busy []
        else s.onBmp (fun x => { x with commit := some (doorKey h.door, h, odKey index sub, v, st) })

def State.doWrite (s : State) (h : BmpHdr) (index sub : Nat) (final dflt : Bool) (off : Nat) (data : Bytes) : State :=
  let k := doorKey h.door
  match s.odFind h index sub with
  | .error e => s.respond h 2 e []
  | .ok d =>
    if !s.odGrant (doorRole h.door) index sub d.wr then s.respond h 2 BmpS.denied []
    else if 32 + data.length > doorMsg h.door then s.respond h 2 BmpS.tooLarge []
    else
      let old := match (s.sess k).stage with
        | some (e, b) => if e = odKey index sub then b else []
        | none => []
      if final then
        let s := s.setSess k (fun x => { x with stage := none })
        s.writeValue h index sub d (if old = [] && off = 0 then data else setSliceB old off data) dflt
      else if off + data.length > d.size then s.respond h 2 BmpS.range []
      else
        let s := s.setSess k (fun x => { x with stage := some (odKey index sub, setSliceB old off data) })
        s.respond h 2 BmpS.ok (s.writeBody index sub d)

/-- Limits as DESCRIBE gives them: stated ones, else the type's. -/
def descLimits (d : OdDesc) : Nat × Nat :=
  let w := 8 * d.size
  if d.ty = OdT.bool then (0, 1)
  else if d.rule ≠ 0 then (uN w d.lo, uN w (match d.also with | some a => max d.hi a | none => d.hi))
  else if d.mask ≠ 0 then (0, d.mask)
  else if d.ty = OdT.i32 then (2 ^ 31, 2 ^ 31 - 1)
  else if d.ty = OdT.f32 then (0xFF800000, 0x7F800000)
  else if d.size ≤ 8 then (0, 2 ^ w - 1) else (0, 0)
def State.descBody (s : State) (index sub : Nat) (d : OdDesc) : Bytes :=
  let flags := bN d.thru + 2 * bN (d.rule = 1 || d.mask ≠ 0 || d.ty = OdT.bool) + 4 * bN (d.rule = 2)
  let lim := descLimits d
  beW 2 index ++ leBytes 1 sub ++ leBytes 1 d.ty ++ beW 4 d.size ++ leBytes 1 d.rd ++ leBytes 1 d.wr ++ leBytes 1 d.pers ++ leBytes 1 flags ++
    leBytes 1 (Config.odSince index sub) ++ zerosB 3 ++ beW 8 (s.odGen index sub d) ++
    (if d.size ≤ 8 && d.ty ≠ OdT.octets then sliceB (s.odDefault index sub d) 0 8 else zerosB 8) ++
    leBytes 8 lim.1 ++ leBytes 8 lim.2 ++ sliceB (Config.odName index sub) 0 32

def State.doDescribe (s : State) (h : BmpHdr) (index sub : Nat) : State :=
  match s.odFind h index sub with
  | .error e => s.respond h 3 e []
  | .ok d => if s.odGrant (doorRole h.door) index sub (Nat.lor d.rd d.wr) then s.respond h 3 BmpS.ok (s.descBody index sub d)
             else s.respond h 3 BmpS.denied []

/-- The first entry above (index, sub) that the requester may read. -/
def State.nextEntry (s : State) (h : BmpHdr) (index sub : Nat) : Option (Nat × Nat × OdDesc) :=
  odAreas.findSome? (fun a =>
    let first := max a.1 index
    (List.range (a.1 + a.2.1 - first)).findSome? (fun j =>
      (List.range (a.2.2 + 1)).findSome? (fun x =>
        if first + j = index && x ≤ sub then none
        else match s.odFind h (first + j) x with
          | .ok d => if s.odGrant (doorRole h.door) (first + j) x d.rd then some (first + j, x, d) else none
          | .error _ => none)))
def State.doNext (s : State) (h : BmpHdr) (index sub : Nat) : State :=
  match s.nextEntry h index sub with
  | some (i, x, d) => s.respond h 4 BmpS.ok (s.descBody i x d)
  | none => s.respond h 4 BmpS.notFound []

def State.bmpDo (s : State) : BmpReq → State
  | .read h index sub off len => s.doRead h index sub off len
  | .write h index sub final dflt off data => s.doWrite h index sub final dflt off data
  | .describe h index sub => s.doDescribe h index sub
  | .next h index sub => s.doNext h index sub
def reqType : BmpReq → Nat
  | .read _ _ _ _ _ => 1
  | .write _ _ _ _ _ _ _ => 2
  | .describe _ _ _ => 3
  | .next _ _ _ => 4
/-- One access at a time, in the order accepted: behind a commit that runs, a request waits (R459). -/
def State.dict (s : State) (r : BmpReq) : State :=
  s.bmpReq r.hdr (reqType r) (fun s =>
    if s.bmp.commit.isSome then s.onBmp (fun b => { b with behind := b.behind ++ [r] }) else s.bmpDo r)

def execRead (h : BmpHdr) (index sub off len : Nat) (s : State) : Res := .next ((s.dict (.read h index sub off len)).settle)
def execWrite (h : BmpHdr) (index sub : Nat) (final useDefault : Bool) (off : Nat) (data : Bytes) (s : State) : Res :=
  .next ((s.dict (.write h index sub final useDefault off data)).settle)
def execDescribe (h : BmpHdr) (index sub : Nat) (s : State) : Res := .next (s.dict (.describe h index sub))
def execNext (h : BmpHdr) (index sub : Nat) (s : State) : Res := .next (s.dict (.next h index sub))

/-- Requests behind a commit go on, up to the next one that waits. -/
def State.bmpDrain : Nat → State → State
  | 0, s => s
  | n + 1, s =>
    if s.bmp.commit.isSome then s
    else match s.bmp.behind with
      | [] => s
      | r :: rest =>
        let s := s.onBmp (fun b => { b with behind := rest })
        State.bmpDrain n (if s.doorOpen r.hdr.door then s.bmpDo r else s)
/-- The RoT core has committed the value to the NV store, or failed to (R464, R479). -/
def execNvCommitDone (ok : Bool) (s : State) : Res :=
  match s.bmp.commit with
  | none => .next s
  | some (door, h, key, v, st) =>
    let index := key / 256
    let sub := key % 256
    let s := s.onBmp (fun b => { b with commit := none })
    let s :=
      if ok then
        let s := s.odCommit index sub v
        s.when (door ≠ doorNone) (fun s => s.respond h 2 st (match odDesc index sub with | some d => s.writeBody index sub d | none => []))
      else (s.notice 10 5 2).when (door ≠ doorNone) (fun s => s.respond h 2 BmpS.nvFail [])
    .next ((State.bmpDrain (s.bmp.behind.length + 1) s).settle)

/-! ### Other requests (R470 to R472) -/

def State.heartbeat (s : State) (h : BmpHdr) : State :=
  s.bmpReq h 8 (fun s => s.respond h 8 BmpS.ok (beW 8 s.now ++ beW 4 (s.rdN .ROT_STATUS) ++ beW 4 (s.rdN .MGMT_STATUS)))
def execHeartbeat (h : BmpHdr) (s : State) : Res := .next (s.heartbeat h)

def isChan : Door → Bool
  | .chan _ => true
  | _ => false

/-- The final fragment writes mailbox 1 and sets go; the kept response ends with the submit. -/
def State.mboxSubmit (s : State) (h : BmpHdr) (final : Bool) (off : Nat) (data : Bytes) : State :=
  s.bmpReq h 5 (fun s =>
    let k := doorKey h.door
    let all := setSliceB (s.sess k).mstage off data
    if isChan h.door then s.respond h 5 BmpS.denied []
    else if s.gb F.MBOX_CTRL_go 1 then s.respond h 5 BmpS.busy []
    else if 32 + data.length > 1024 || off + data.length > 4096 then s.respond h 5 BmpS.tooLarge []
    else if !final then (s.setSess k (fun x => { x with mstage := all })).respond h 5 BmpS.ok []
    else
      let s := s.setSess k (fun x => { x with mstage := [] })
      let s := { s with mem := s.mem.putBytes (mboxBuf 1 + 0x1000) all }
      ((s.pf F.MBOX_STATUS_done 1 0).pf F.MBOX_CTRL_go 1 1).respond h 5 BmpS.ok [])
def execMboxSubmit (h : BmpHdr) (final : Bool) (off : Nat) (data : Bytes) (s : State) : Res := .next (s.mboxSubmit h final off data)

def State.mboxFetch (s : State) (h : BmpHdr) (off len : Nat) : State :=
  s.bmpReq h 5 (fun s =>
    let n := s.gf F.MBOX_STATUS_resp_len 1
    if isChan h.door then s.respond h 5 BmpS.denied []
    else if !s.gb F.MBOX_STATUS_done 1 then s.respond h 5 BmpS.busy []
    else if off ≥ n then s.respond h 5 BmpS.range []
    else if len > 984 then s.respond h 5 BmpS.tooLarge []
    else s.respond h 5 BmpS.ok (leBytes 1 (s.gf F.MBOX_STATUS_result 1) ++ zerosB 3 ++ beW 4 n ++ beW 4 off ++ zerosB 4 ++
      s.mem.getBytes (mboxBuf 1 + 0x4000 + off) (min len (n - off))))
def execMboxFetch (h : BmpHdr) (off len : Nat) (s : State) : Res := .next (s.mboxFetch h off len)

def State.subscribe (s : State) (h : BmpHdr) (on : Bool) : State :=
  s.bmpReq h 6 (fun s =>
    if isChan h.door then s.respond h 6 BmpS.denied []
    else (s.setSess (doorKey h.door) (fun x => { x with sub := on })).respond h 6 BmpS.ok [])
def execSubscribe (h : BmpHdr) (on : Bool) (s : State) : Res := .next (s.subscribe h on)

/-- A bare header with TYPE (R465). Of the malformed message's type the row says nothing: it is free. -/
def State.badMessage (s : State) (h : BmpHdr) (type : Nat) : State :=
  if !s.doorOpen h.door then s
  else match seenBefore s h with
    | (0, _) => s.respond h type BmpS.type []
    | (1, m) => match h.door with
      | .dtls k => s.emit (.bmp k m)
      | _ => s
    | _ => s
def execBadMessage (h : BmpHdr) (s : State) : Res :=
  let (w, s) := s.free
  .next (s.badMessage h (w.toNat % 256))

/-! ### Messages as bytes (R465 to R471) -/

/-- Executes the message in a string of bytes that came through a door. -/
def State.message (s : State) (door : Door) (b : Bytes) : State :=
  let be := fun (o n : Nat) => beVal (sliceB b o n)
  let type := be 1 1
  let h : BmpHdr := { door := door, seq := be 4 4, odMajor := be 8 2 }
  let n := b.length - 16
  let bad := s.badMessage h type
  if b.length > doorMsg door then (if s.doorOpen door then s.respond h type BmpS.tooLarge [] else s)
  else if b.length < 16 || be 0 1 ≠ 1 || be 2 2 ≠ b.length then bad
  else if type = 1 then (if n = 16 then s.dict (.read h (be 16 2) (be 18 1) (be 20 4) (be 24 2)) else bad)
  else if type = 2 then
    if n < 16 || be 24 2 ≠ n - 16 then bad
    else s.dict (.write h (be 16 2) (be 18 1) (bitN (be 19 1) 0) (bitN (be 19 1) 1) (be 20 4) (b.drop 32))
  else if type = 3 then (if n = 16 then s.dict (.describe h (be 16 2) (be 18 1)) else bad)
  else if type = 4 then (if n = 16 then s.dict (.next h (be 16 2) (be 18 1)) else bad)
  else if type = 5 then
    if n < 16 then bad
    else if be 16 1 = 0 then (if be 24 2 = n - 16 then s.mboxSubmit h (bitN (be 17 1) 0) (be 20 4) (b.drop 32) else bad)
    else if be 16 1 = 1 then (if n = 16 then s.mboxFetch h (be 20 4) (be 24 2) else bad)
    else s.bmpReq h 5 (fun s => s.respond h 5 BmpS.invalid [])
  else if type = 6 then (if n = 1 then s.subscribe h (be 16 1 ≠ 0) else bad)
  else if type = 8 then (if n = 0 then s.heartbeat h else bad)
  else if (type = 0 && door ≠ .i3c) || (type = 7 && isChan door) then s.bmpReq h type (fun s => s.respond h type BmpS.denied [])
  else bad

/-! ### Channels (R478) -/

/-- go is set in channel c: its request buffer's message is executed. While the controller is out, the channel completes
with BUSY (R479). -/
def State.chanGo (s : State) (c : Nat) : State :=
  let s := s.pf F.ODC_CTRL_go c 1
  if !s.mgmtUp then
    if s.blkState 10 5 = 0 then s
    else (((s.pf F.ODC_CTRL_go c 0).pf F.ODC_STATUS_done c 1).pf F.ODC_STATUS_status c BmpS.busy).when (s.pcie.hcr.phase = 0)
      (fun s => s.msiOut 10 (s.gf F.ODC_MSI_ADDR_addr c * 4) (s.gf F.ODC_MSI_DATA_data c))
  else
    let buf := s.mem.getBytes (odcBuf c + 0x1000) 4096
    let n := beVal (sliceB buf 2 2)
    s.message (.chan c) (if n < 16 || n > 4096 then buf.take 16 else buf.take n)
/-- A hart writes ODC_CTRL_c.go. -/
def execOdcGo (hart c : Nat) (s : State) : Res :=
  let p := s.gf F.CORE_PART_part hart
  if hart ≥ 128 || c ≥ 23 then .next s
  else if !(if p = 0 then c < 8 else c = 7 + p) then .next (s.bump .ODC_DENIED c)
  else if s.gb F.ODC_CTRL_go c then .next s
  else .next ((s.chanGo c).settle)
/-- A store to MMIO; setting a channel's go runs its message. -/
def State.busStore (s : State) (role : Role) (pa size v : Nat) : State :=
  let t := s.mmioStore role pa size v
  match regAcc pa size with
  | some a => if a.reg = .ODC_CTRL && !s.gb F.ODC_CTRL_go a.idx && t.gb F.ODC_CTRL_go a.idx then t.chanGo a.idx else t
  | none => t

/-- REG_WRITE: a write of a register with no row of its own; of one with a row, that row's effect. -/
def execRegWrite (role : Role) (pa width : Nat) (v : Word64) (s : State) (node : Nat := 8) : Res :=
  if s.region pa = .hole && (width = 4 || width = 8) then .next ((s.hole pa node).emit (.reqFailed agentNone pa St.addrHole))
  else if s.region pa ≠ .mmio || (width ≠ 4 && width ≠ 8) then .next s
  else .next ((s.busStore role pa width (v.toNat % 2 ^ (8 * width))).settle)

/-! ### DTLS sessions (R474) -/

def State.sessCount (s : State) : State := s.pf F.MGMT_STATUS_sessions 0 (((List.range 4).filter (fun k => (s.sess k).opened)).length)
def execDtlsHandshake (pskId : Bytes) (finishedOk rateOk : Bool) (s : State) : Res :=
  if !s.mgmtUp || !rateOk then .next s
  else
    let known := (List.range 8).any (fun i => (s.sec.secrets.at? (secretKey 1 i)).map Config.pskId == some pskId)
    match (List.range 4).find? (fun k => !(s.sess k).opened) with
    | some k =>
      if known && finishedOk then .next ((s.setSess k (fun _ => { opened := true })).sessCount)
      else .next (((s.bump .MGMT_HS_FAILS 0).notice 10 5 0).emit .alert)
    | none => .next (((s.bump .MGMT_HS_FAILS 0).notice 10 5 0).emit .alert)
def execSessionIdleTimeout (session : Nat) (s : State) : Res :=
  if session ≥ 4 || !(s.sess session).opened then .next s
  else .next ((s.onBmp (fun b => { b with
    sess := b.sess.del session, commit := b.commit.map (fun c => if c.1 = session then (doorNone, c.2) else c)
    behind := b.behind.filter (fun r => doorKey r.hdr.door ≠ session) })).sessCount)

/-! ### I3C (R476, R477) -/

def crc32Byte (crc b : Nat) : Nat :=
  (List.range 8).foldl (fun c _ => if c % 2 = 1 then Nat.xor (c / 2) 0xEDB88320 else c / 2) (Nat.xor crc b)
/-- The CRC-32 of IEEE 802.3. -/
def crc32 (b : Bytes) : Nat := Nat.xor (b.foldl (fun c x => crc32Byte c x.toNat) 0xFFFFFFFF) 0xFFFFFFFF

/-- While a request of this port is executed, the target does not acknowledge. -/
def i3cBusy (s : State) : Bool :=
  (s.bmp.commit.map (fun c => c.1) == some 4) || s.bmp.behind.any (fun r => r.hdr.door == .i3c)
def execI3cPrivateWrite (bytes : Bytes) (crc : Word32) (s : State) : Res :=
  if !s.i3cUp || i3cBusy s then .next s
  else if crc32 bytes ≠ crc.toNat then .next (s.notice 10 5 1)
  else .next ((s.message .i3c bytes).settle)

def withCrc (m : Bytes) : Bytes := m ++ beW 4 (crc32 m)
/-- The pending response, else the oldest event, else NONE. What waits behind it raises its interrupt. -/
def execI3cPrivateRead (s : State) : Res :=
  if !s.i3cUp then .next s
  else
    let again := fun (s : State) => s.when ((s.sess 4).queue ≠ []) (fun s => s.ibi 0xA1)
    match s.bmp.i3c.resp with
    | some m => .next (again ((s.onI3c (fun i => { i with resp := none })).emit (.i3c (withCrc m))))
    | none =>
      match (s.sess 4).queue with
      | m :: r => .next (again ((s.setSess 4 (fun x => { x with queue := r })).emit (.i3c (withCrc m))))
      | [] => .next (s.emit (.i3c (withCrc (bmpMsg 0 0 2 0 0 []))))

/-- The dynamic address, shown in MGMT_STATUS. -/
def State.i3cAddr (s : State) (a : Option Nat) : State :=
  ((s.onI3c (fun i => { i with addr := a })).pb F.MGMT_STATUS_i3c_addressed 0 a.isSome).pf F.MGMT_STATUS_i3c_addr 0 (a.getD 0)
def provisionalId : Bytes := factoryOf 0x1001 5 6
def State.i3cFree (s : State) (n : Nat) : State :=
  let (w, s) := s.free
  s.emit (.i3c (leBytes n w.toNat))

/-- ENTDAA: a target without an address sends its provisional ID, BCR and DCR, and takes the address given. -/
def execEntdaa (addr : Nat) (s : State) : Res :=
  if !s.i3cOn || s.bmp.i3c.addr.isSome then .next s
  else
    let (w, s) := s.free
    .next ((s.emit (.i3c (provisionalId ++ leBytes 2 w.toNat))).i3cAddr (some (addr % 128)))
def execSetdasa (static addr : Nat) (s : State) : Res :=
  .next (if s.i3cOn && static = 0x3A && s.bmp.i3c.addr.isNone then s.i3cAddr (some (addr % 128)) else s)
def execSetnewda (addr : Nat) (s : State) : Res := .next (if s.i3cUp then s.i3cAddr (some (addr % 128)) else s)
def execRstdaa (s : State) : Res := .next (if s.i3cUp then s.i3cAddr none else s)
def execEnec (events : Nat) (s : State) : Res :=
  .next (if s.i3cOn then s.onI3c (fun i => { i with events := Nat.lor i.events (events % 256) }) else s)
def execDisec (events : Nat) (s : State) : Res :=
  .next (if s.i3cOn then s.onI3c (fun i => { i with events := andNot i.events (events % 256) }) else s)
def execGetpid (s : State) : Res := .next (if s.i3cUp then s.emit (.i3c provisionalId) else s)
/-- BCR, DCR and the status word: the spec gives no values. -/
def execGetbcr (s : State) : Res := .next (if s.i3cUp then s.i3cFree 1 else s)
def execGetdcr (s : State) : Res := .next (if s.i3cUp then s.i3cFree 1 else s)
def execGetstatus (s : State) : Res := .next (if s.i3cUp then s.i3cFree 2 else s)
def execGetmwl (s : State) : Res := .next (if s.i3cUp then s.emit (.i3c (beW 2 s.bmp.i3c.mwl)) else s)
def execGetmrl (s : State) : Res := .next (if s.i3cUp then s.emit (.i3c (beW 2 s.bmp.i3c.mrl)) else s)
def execSetmwl (n : Nat) (s : State) : Res := .next (if s.i3cOn then s.onI3c (fun i => { i with mwl := min 1028 n }) else s)
def execSetmrl (n : Nat) (s : State) : Res := .next (if s.i3cOn then s.onI3c (fun i => { i with mrl := min 1028 n }) else s)
/-- RSTACT names the action of the next target reset. -/
def execRstact (action : Nat) (s : State) : Res := .next (if s.i3cOn then s.onI3c (fun i => { i with rst := action % 256 }) else s)

/-! ### The watchdog (R479) -/

def execMgmtWatchdog (s : State) : Res := .next (if s.mgmtUp then (s.raise 10 5 3 false 0).settle else s)

end Sys2Proof.Machine
end

