-- ==== Sys2Proof/Machine/SecCfg.lean ====
section
/-! DEFINITION. CONFIG_WRITE (R415): the RoT writes one register of a block that belongs to a partition. -/

namespace Sys2Proof.Machine

/-- C-die n is one of partition p's; partition 0 has those of no sealed partition. -/
def dieOfPart (s : State) (p n : Nat) : Bool := if p = 0 then s.domainOf n = 0 else bitN (s.part p).mask n
def ctxPart (s : State) (c : Nat) : Nat := s.gf F.TRANS_ATTR_part_id c

/-- The write's register belongs to p. A stream of p's dies that no partition uses is p's when the write gives it a context
of p. -/
def regOfPart (s : State) (p addr width : Nat) (v : Nat) : Bool :=
  match vnfAt addr with
  | some (x, _) => ctxPart s (vnfCtx s x) = p
  | none => match routeAt addr with
    | some (n, _, _, _) => dieOfPart s p n
    | none => match regAcc addr width with
      | none => false
      | some a =>
        let i := a.idx
        let n := i / 64
        let cur := ctxPart s (strmCtx s n (i % 64))
        let r := a.reg
        if r = .TRANS_ROOT then ctxPart s i = p
        else if r = .SEQ_STREAM_CTRL then
          ctxPart s (bitsN v 6 1) = p && (cur = p || (cur = 0 && !strmOn s n (i % 64) && dieOfPart s p n))
        else if r = .SEQ_STREAM_BASE || r = .SEQ_STREAM_STATUS || r = .SEQ_STREAM_HEAD then cur = p
        else if r = .SEQ_MSI_ADDR || r = .SEQ_MSI_DATA then dieOfPart s p (i / 256)
        else if [Reg.NUM_TABLE_BASE, .NUM_TABLE_COUNT, .NUM_STATUS, .NUM_VERDICT, .NUM_NF_ORIGIN, .NUM_SKIP_COUNT, .NUM_COLD_COUNT, .NUM_EXTRA_COUNT, .NUM_SHADOW_ALERTS, .NUM_WIDE_COUNT, .NUM_ZERO_COUNT, .NUM_SHADOW_LAST, .NUM_SHADOW_METRIC, .NUM_ZERO_LAST].elem r then i = p
        else if r = .NME_PROG then dieOfPart s p (i / 256)
        else if [Reg.NME_CTRL, .NME_STATUS, .NME_FLAGS, .NME_PROG_CTRL, .NME_PROG_ENTRIES_0, .NME_PROG_ENTRIES_1, .NME_CLAMP_FALLBACK, .NME_DIGEST_MISMATCH, .NME_REKEY_CTRL].elem r then dieOfPart s p (i / 2)
        else if [Reg.DRL_CTRL, .DRL_STATUS, .DRL_RT_CTRL, .DRL_RT_SAVE, .DRL_STAGE_BASE, .DRL_STAGE_SIZE, .DRL_DELIV_BASE, .DRL_ROUTE_FAULT, .DRL_DROPPED, .DRL_LATE_STARTS, .DRL_BAD_MSGS].elem r then dieOfPart s p i
        else if [Reg.PAN_CTRL, .PAN_RING_BASE, .PAN_SEED_BASE, .PAN_SIZES, .PAN_CMD, .PAN_STATUS, .PAN_PUSH_WAITS, .PAN_FILL_WAITS].elem r then dieOfPart s p i
        else if r = .FLT_MSI_ADDR || r = .FLT_MSI_DATA then fltNode i < 8 && dieOfPart s p (fltNode i)
        else if r = .PWR_CLUSTER then (List.range 8).any (fun h => s.gf F.CORE_PART_part (8 * i + h) = p)
        else false

def execConfigWrite (i seq p addr value width : Nat) (s : State) : Res :=
  .next ((s.mbox i seq 15 0 (fun s =>
    if !(isHost i || isOp i || isTen i p) then s.deny Rot.denied
    else if s.partBusy p then s.deny Rot.busy
    else if width ≠ 4 && width ≠ 8 then s.deny Rot.invalid
    else if !regOfPart s p addr width value then s.deny Rot.denied
    else (Rot.ok, [], s.mmioStore .rot addr width (value % 2 ^ (8 * width))))).settle)

end Sys2Proof.Machine
end

