-- ==== Sys2Proof/Machine/Retry.lean ====
section
/-! DEFINITION. What waited goes on: accesses on locked pages at their retry (R64), writes and watches on lines whose transactions have
closed (R93, R110), and what the block does when no command waits. -/

namespace Sys2Proof.Machine

/-- Mailbox requests that waited run again. -/
def State.mailRetry (s : State) : State :=
  let l := s.sec.waits.rows
  (s.onSec (fun x => { x with waits := {} })).each l fun r s =>
    let s := s.pf F.MBOX_CTRL_go r.1 0
    match r.2 with
    | .bind seq p m harts va len => (execBindHart r.1 seq p m harts va len s).get s
    | .rekey seq p mc unit ctx desc => (execRekeyStart r.1 seq p mc unit ctx desc s).get s
    | .husk seq p slot ctx header chunks => (execHuskLoad r.1 seq p slot ctx header chunks s).get s

/-- A unit goes on with what waited. The actions of units not named here are commands, which come again. -/
def State.unitGo (s : State) (u : XUnit) : State :=
  match u with
  | .tile t => s.setTile t (fun tl => { tl with groups := tl.groups.mapVals (fun _ g => if g.wait = .lock then { g with wait := .ready } else g) })
  | .seq n => (s.seqGo n).streamsRetry n
  | .drl n => s.drlRetry n
  | .at n => (s.atRetry n).drlGo
  | .iommu m => s.peersRetry m
  | .core m => (s.coresRetry m).mailRetry
  | .nme _ => s.mailRetry
  | .dma _ _ => s
  | .pannier _ => s
  | .vnf _ => s

/-- The access still meets a locked page. A core's goes by the core attribute table (R66). -/
def lockHeld (s : State) (w : LockWait) : Bool :=
  match w.unit, decide (w.ctx = 64) with
  | .core _, true => match s.catLeaf w.va with | .ok (some (e, _)) => peLock e | _ => false
  | _, _ => match s.xlate w.unit w.ctx w.va w.acc (unitNode w.unit) with | (.locked, _) => true | _ => false
/-- The i-th waiting access retries its walk; once the lock is clear its unit goes on (R64). -/
def execLockedAccessRetry (i : Nat) (s : State) : Res :=
  match s.xl.lockWait[i]? with
  | none => .next s
  | some w =>
    if lockHeld s w then .next s
    else .next (({ s with xl := { s.xl with lockWait := s.xl.lockWait.filter (· != w) } } : State).unitGo w.unit)

/-- The WATCH that complex a owes a line it lost is issued again: it waits on an open line, and otherwise returns the line's value (R110). -/
def State.rewatchOne (s : State) (a line : Nat) : State :=
  let n := a - agentSeq 0
  let wanted := s.seq.streams.rows.any (fun r => r.1 / 64 = n && r.2.watch == some line) ||
    s.seq.ents.any (fun e => e.die = n && entType e.entry = 5 && e.line = line)
  let s := s.onCoh fun h => { h with rewatch := h.rewatch.filter (· != (a, line)) }
  let key := s.lineKey.atD line (s.keyOf 0 0)
  if !seqUp s n || !wanted then s
  else if s.lineBad line then (s.memErr (line * 64)).watchFailed n line
  else match s.shareNow a line key true with
    | (true, s) => s.seqWatched n line (match s.copy? a line with | some c => c.data | none => [])
    | (false, s) => s.homeReq { kind := .watch, agent := a, line := line, key := key }
def State.rewatchAll (s : State) : State := s.each s.coh.rewatch (fun r s => s.rewatchOne r.1 r.2)

/-- The block with no command waiting: the reference clock ticks (log entry 1), and what waits on no outside event goes on: woken watches,
and writes and requests that met an open line (log entry 130). -/
def State.idle (s : State) : State :=
  let s := s.tick.rewatchAll
  let l := s.xl.lineWait
  let s := ({ s with xl := { s.xl with lineWait := [] } } : State).each l (fun u s => s.unitGo u)
  if s.pcie.wait = [] then s else (s.peersRetry 0).peersRetry 1

end Sys2Proof.Machine
end

