-- ==== Sys2Proof/Machine/TileMem.lean ====
section
/-! DEFINITION. A tile's accesses (R171 to R175, R104 to R111), its fences, barriers and waits (R180 to R182), and the
completions of its tile-level queues (R160, R175, R249). An instruction's threads act in ascending order; an access that
meets an open line or a locked page leaves its instruction waiting with nothing performed. -/

namespace Sys2Proof.Machine

/-! ### One thread's access -/

/-- Part of an access within one line: its physical place, effective type, key, and the page's visibility floor. -/
structure MemPiece where
  pa : Nat
  n : Nat
  ty : Nat
  key : Nat
  floor : Bool

/-- A thread's access: its address and pieces. -/
structure MemAcc where
  th : Nat
  addr : Nat
  pieces : List MemPiece

/-- What one thread's access answers. -/
inductive MemOut where
  | done (s : State)
  /-- It meets an uncorrectable line. -/
  | bad (pa : Nat)
  /-- It ends the job with a status. -/
  | stop (status : Nat)
  /-- It waits for an open line. -/
  | wait

/-- A space of format M with its reserved values applied as the default (R153). -/
def memSpace (w : FmtM) : Nat := if w.space > 1 then 0 else w.space
def memSize (w : FmtM) : Nat := if w.size > 4 then 2 else w.size
/-- Bytes of a size code (R150): the FP6 size moves 3. -/
def sizeBytes (z : Nat) : Nat := [1, 2, 4, 8, 3].getD z 4
/-- The unit an access must be aligned to: FP6 accesses are byte aligned (R171). -/
def sizeAlign (z : Nat) : Nat := if z = 4 then 1 else sizeBytes z

/-- The address of a thread's access (R171): a tile-local address or a 64-bit virtual address, plus the offset. -/
def memAddr (x : Group) (th : Nat) (w : FmtM) : Nat :=
  uN 64 ((if memSpace w = 0 then (x.reg th w.va : Int) else x.reg64 th w.va) + w.offset)

/-- Reserved values in the fields of format M, read or not (R153). -/
def fmtMRes (w : FmtM) : Bool := w.space > 1 || w.size > 4 || w.aop > 9
/-- Reserved values and odd register pairs of an access (R118, R153). -/
def memRes (w : FmtM) (pair : Bool) : Bool := fmtMRes w || (memSpace w = 1 && w.va % 2 = 1) || pair

/-- The pieces of one access, or the status (0: the page is locked) that ends it and the address it names. -/
def State.memPieces (s : State) (t acc space a n : Nat) : Except (Nat × Nat) (List MemPiece) × State :=
  if space = 0 then
    if a + n > tstoreBytes then (.error (St.tstoreRange, a), s) else (.ok [⟨tstoreBase t + a, n, 3, 0, false⟩], s)
  else
    let ctx := (s.lapOf t).ctx
    let one := fun (s : State) (a n : Nat) =>
      match s.xlate (.tile t) ctx a acc (tileDie t) with
      | (.ok pa e ty key, s) => ((.ok [⟨pa, n, ty, key, peVis e == 3⟩] : Except (Nat × Nat) (List MemPiece)), s)
      | (.fail st, s) => (.error (st, a), s)
      | (.locked, s) => (.error (0, a), s)
    let k := min n (64 - a % 64)
    match one s a k with
    | (.error e, s) => (.error e, s)
    | (.ok l, s) =>
      if k = n then (.ok l, s)
      else match one s (a + k) (n - k) with
        | (.error e, s) => (.error e, s)
        | (.ok r, s) => (.ok (l ++ r), s)

/-- Every thread's access in ascending order, up to the first that fails: the status (0: locked), thread and address. -/
def State.memPlan (s : State) (t acc space n : Nat) (check : State → MemPiece → Option Nat) (early : Nat → Option Nat) :
    List (Nat × Nat) → List MemAcc → List MemAcc × Option (Nat × Nat × Nat) × State
  | [], out => (out.reverse, none, s)
  | (th, a) :: r, out =>
    match early a with
    | some st => (out.reverse, some (st, th, a), s)
    | none =>
      match s.memPieces t acc space a n with
      | (.error e, s) => (out.reverse, some (e.1, th, e.2), s)
      | (.ok ps, s) =>
        match ps.findSome? (check s) with
        | some st => (out.reverse, some (st, th, a), s)
        | none => State.memPlan s t acc space n check early r (⟨th, a, ps⟩ :: out)

/-- Performs planned accesses; none: one of them waits. False: one ended the job. -/
def State.memRun (s : State) (t g pc : Nat) (act : State → MemAcc → MemOut) : List MemAcc → Option (Bool × State)
  | [] => some (true, s)
  | m :: r =>
    match act s m with
    | .done s => State.memRun s t g pc act r
    | .bad pa => some (false, (s.badRead (tileDie t) t pa).lapStop t St.memUncorrectable g m.th uThread pc m.addr)
    | .stop st => some (false, s.lapStop t st g m.th uThread pc m.addr)
    | .wait => none

/-- An access instruction of a group. Its release precedes its accesses (R73, R74). -/
def State.memOp (s : State) (t g : Nat) (w : FmtM) (acc n : Nat) (res : Bool) (check : State → MemPiece → Option Nat)
    (early : Nat → Option Nat) (act : State → MemAcc → MemOut) : State :=
  (s.issue t g fun s =>
    let x := s.group t g
    let ths := threadsOf (x.execMask w.pred w.pneg)
    if ths = [] then s.advance t g else
    let s0 := s
    let s := s.tileRes t res
    let s := s.when (w.order ≥ 2) (fun s => s.tileRelease t w.scope)
    match s.memPlan t acc (memSpace w) n check early (ths.map (fun th => (th, memAddr x th w))) [] with
    | (_, some (0, _, a), s) =>
      (s.lockWaitFor (.tile t) (s.lapOf t).ctx a acc).setGroup t g (fun x => { x with wait := .lock })
    | (plan, e, s) =>
      match s.memRun t g x.pc act plan with
      | none => s0
      | some (false, s) => s
      | some (true, s) =>
        match e with
        | some (st, th, a) => s.lapStop t st g th uThread x.pc a
        | none => s.advance t g).settle

/-- Role of a tile's register accesses: its context's partition, or the host software that runs the tile (R19). -/
def State.tileRole (s : State) (t : Nat) : Role :=
  let p := s.gf F.TRANS_ATTR_part_id (s.lapOf t).ctx
  if p = 0 then .host else .tenant p

def inTiers (s : State) (pa : Nat) : Bool := s.region pa = .hbm || s.region pa = .ddr || s.region pa = .cxl

/-- Reads a piece (R61, R71): a COH page through the thread cache, STREAM coherently, NC directly, a window at its SRAM,
a register by its rule; a peer answers what it sends. -/
def State.loadPiece (s : State) (t : Nat) (p : MemPiece) : Except MemOut (Bytes × State) :=
  let line := lineOf p.pa
  if s.region p.pa = .mmio then
    let (v, s) := s.mmioLoad p.pa p.n
    .ok (leBytes p.n v, s)
  else if inTiers s p.pa && p.ty ≠ 2 && s.lineOpen line then .error .wait
  else
    match s.pieceBad p.pa p.n p.ty with
    | some pa => .error (.bad pa)
    | none =>
      if inTiers s p.pa && p.ty = 0 then
        match s.shareNow t line p.key false with
        | (true, s) => .ok (s.cohRead p.key p.pa p.n, s)
        | (false, _) => .error .wait
      else .ok (s.readPiece p.pa p.n p.ty p.key)

/-- Writes a piece: a COH page into a line the thread cache owns, STREAM and NC pages coherently at the home. -/
def State.storePiece (s : State) (t : Nat) (p : MemPiece) (bs : Bytes) : MemOut :=
  let line := lineOf p.pa
  if s.region p.pa = .mmio then .done (s.busStore (s.tileRole t) p.pa p.n (leVal bs))
  else if inTiers s p.pa && s.lineOpen line then .wait
  else if inTiers s p.pa && p.ty = 0 then
    if s.lineBad line then .bad (line * 64)
    else match s.ownNow t line p.key with
      | (true, s) => .done (s.storeInto t line (p.pa % 64) bs p.floor)
      | (false, _) => .wait
  else .done (s.writeAt p.key p.pa bs)

def State.loadPieces (s : State) (t : Nat) : List MemPiece → Except MemOut (Bytes × State)
  | [] => .ok ([], s)
  | p :: ps =>
    match s.loadPiece t p with
    | .error e => .error e
    | .ok (b, s) =>
      match State.loadPieces s t ps with
      | .error e => .error e
      | .ok (r, s) => .ok (b ++ r, s)

def State.storePieces (s : State) (t : Nat) : List MemPiece → Bytes → MemOut
  | [], _ => .done s
  | p :: ps, bs =>
    match s.storePiece t p (bs.take p.n) with
    | .done s => State.storePieces s t ps (bs.drop p.n)
    | e => e

/-! ### LD and ST (R171) -/

/-- The four 6-bit codes of 3 bytes in the low bits of slots 0 to 3, and the reverse (R171). -/
def p6Spread (v : Nat) : Nat := packFrom 8 ((List.range 4).map (fun i => bitsN v (6 * i + 5) (6 * i)))
def p6Gather (v : Nat) : Nat := packFrom 6 ((List.range 4).map (fun i => bitsN v (8 * i + 5) (8 * i)))

/-- A value the spec does not state, in a lap: any value, and in Fixed gear one that depends on its key alone, so that equal runs give
equal bits (R240, log entry 21). -/
def State.openValue (s : State) (fixed : Bool) (tag key : Nat) : Nat × State :=
  if fixed then ((Config.openResult tag key).toNat, s) else let v := s.free; (v.1.toNat, v.2)

/-- A loaded value in a thread's registers. The spec does not state the bits above an 8-bit or 16-bit value: they are
free (log entry 21). -/
def State.loadReg (s : State) (t g th vd size v : Nat) : State :=
  if size = 3 then s.setGroup t g (fun x => x.setReg64 th vd v)
  else if size = 4 then s.setGroup t g (fun x => x.setReg th vd (p6Spread v))
  else if size = 2 then s.setGroup t g (fun x => x.setReg th vd v)
  else
    let n := 8 * sizeBytes size
    let (f, s) := s.openValue ((s.lapOf t).gear = gearFixed) (0x140 + size) (v + 2 ^ n * (th + 32 * (g + 64 * (s.group t g).pc)))
    s.setGroup t g (fun x => x.setReg th vd (v % 2 ^ n + 2 ^ n * (f % 2 ^ (32 - n))))

/-- The bytes a thread stores. -/
def storeBytes (x : Group) (th vd size : Nat) : Bytes :=
  if size = 3 then leBytes 8 (x.reg64 th vd)
  else if size = 4 then leBytes 3 (p6Gather (x.reg th vd))
  else leBytes (sizeBytes size) (x.reg th vd)

def alignCheck (z a : Nat) : Option Nat := if a % sizeAlign z = 0 then none else some St.misaligned

def execLd (t g : Nat) (w : FmtM) (s : State) : Res :=
  let z := memSize w
  .next (s.memOp t g w accLoad (sizeBytes z) (memRes w (z = 3 && w.vd % 2 = 1)) (fun _ _ => none) (alignCheck z)
    fun s m =>
      match s.loadPieces t m.pieces with
      | .error e => e
      | .ok (b, s) => .done (s.loadReg t g m.th w.vd z (leVal b)))

def execSt (t g : Nat) (w : FmtM) (s : State) : Res :=
  let z := memSize w
  .next (s.memOp t g w accStore (sizeBytes z) (memRes w (z = 3 && w.vd % 2 = 1)) (fun _ _ => none) (alignCheck z)
    fun s m => s.storePieces t m.pieces (storeBytes (s.group t g) m.th w.vd z))

/-! ### ATOM (R104, R105, R172) -/

/-- An atomic's place: the thread cache with the near hint on a COH page, and otherwise its home, NME or controller. -/
def State.atomPiece (s : State) (t : Nat) (near : Bool) (p : MemPiece) (aop opnd nv : Nat) : Except MemOut (Nat × State) :=
  let line := lineOf p.pa
  if inTiers s p.pa && s.lineOpen line then .error .wait
  else if s.region p.pa = .tstore && !s.windowUp p.pa then .ok (0, s.ioTouch p.pa)
  else if let some pa := s.pieceBad p.pa p.n 0 then .error (.bad pa)
  else if near && inTiers s p.pa && p.ty = 0 then
    match s.ownNow t line p.key with
    | (true, s) =>
      let old := s.cohVal p.key p.pa p.n
      .ok (old, s.storeInto t line (p.pa % 64) (leBytes p.n (atomicNew aop p.n old opnd nv)) p.floor)
    | (false, _) => .error .wait
  else .ok ((s.ioTouch p.pa).atomicMem p.key p.pa p.n aop opnd nv)

def execAtom (t g : Nat) (w : FmtM) (s : State) : Res :=
  let z := memSize w
  let n := sizeBytes z
  let aop := if w.aop > 9 then 0 else w.aop
  .next (s.memOp t g w accStore n (memRes w (z = 3 && (w.vd % 2 = 1 || w.vb % 2 = 1)))
    (fun s p => if p.ty = 4 || s.region p.pa = .bar then some St.atomicType else none)
    (fun a => if z ≠ 2 && z ≠ 3 then some St.atomicType else alignCheck z a)
    fun s m =>
      let x := s.group t g
      let rd := fun (r : Nat) => if z = 3 then x.reg64 m.th r else x.reg m.th r
      let opnd := if aop = 9 then rd w.vd else rd w.vb
      match m.pieces with
      | p :: _ =>
        match s.atomPiece t (!w.far) p aop opnd (rd w.vb) with
        | .error e => e
        | .ok (old, s) => .done (s.loadReg t g m.th w.vd z old)
      | [] => .done s)

/-! ### WATCH and WWAIT (R109 to R111, R173) -/

/-- The place of a watch on a line: the line's own, or the lowest that holds no armed watch (DEDUCED, log entry 22). -/
def watchPlace (tl : Tile) (line : Nat) : Option Nat :=
  match tl.watches.rows.find? (fun r => r.2.line = line) with
  | some r => some r.1
  | none => (List.range 8).find? (fun i => match tl.watches.at? i with | some v => !v.armed | none => true)

def execWatch (t g : Nat) (w : FmtM) (s : State) : Res :=
  .next (s.memOp t g { w with size := 2 } accLoad 4 (memRes w false)
    (fun s p => if inTiers s p.pa && p.ty ≤ 1 then none else some St.watchType)
    (fun a => if memSpace w = 0 then some St.watchType else alignCheck 2 a)
    fun s m =>
      match m.pieces with
      | p :: _ =>
        let line := lineOf p.pa
        if s.lineOpen line then .wait
        else
          match watchPlace (s.tile t) line with
          | none => .stop St.watchFull
          | some i =>
            if s.lineBad line then .bad (line * 64)
            else
              match s.shareNow t line p.key true with
              | (false, _) => .wait
              | (true, s) =>
                let v := s.cohVal p.key p.pa 4
                let s := s.setTile t (fun tl => { tl with watches := tl.watches.put i { line := line } })
                .done (s.setGroup t g (fun x => (x.setReg m.th w.vd v).setReg m.th (w.vd + 1) (setBitsN (x.reg m.th (w.vd + 1)) 2 0 i)))
      | [] => .done s)

/-- WWAIT: imm 0 sets no limit. -/
def execWwait (t g : Nat) (w : FmtI) (s : State) : Res :=
  .next (s.issue t g fun s =>
    let mask := (s.group t g).execMask w.pred w.pneg
    if mask = 0 then s.advance t g
    else s.setGroup t g fun x =>
      let y : Group := { x with wait := .watch w.vd (w.imm % 65536 != 0) mask }
      if x.woken ≠ 0 then y.wwaitReturn x.woken else y)

/-- A WWAIT limit expires: vd receives 0. -/
def execWwaitTimeout (t g : Nat) (s : State) : Res :=
  .next (match (s.group t g).wait with
    | .watch _ true _ => if (s.tile t).stopped then s else s.setGroup t g (fun x => x.wwaitReturn 0)
    | _ => s)

/-! ### FENCE, BAR, WAITQ (R180 to R182) -/

/-- FENCE: order 0 acts as 3. Reads of this model are always current, so an acquire changes nothing. -/
def execFence (t g : Nat) (w : FmtM) (s : State) : Res :=
  .next (s.issue t g fun s =>
    let go := (s.group t g).execMask w.pred w.pneg ≠ 0 && (w.order = 0 || w.order ≥ 2)
    ((s.vecRes t g w.pred w.pneg (fmtMRes w)).when go (fun s => s.tileRelease t w.scope)).advance t g)

/-- Groups that wait at barrier b. -/
def atBarrier (b : Nat) (x : Group) : Bool := match x.wait with | .bar c _ => c == b | _ => false

def execBar (t g : Nat) (w : FmtI) (s : State) : Res :=
  .next (s.issue t g fun s =>
    let x := s.group t g
    let b := w.imm % 16
    let count := bitsN w.imm 9 4 + 1
    match s.leader t g w.pred w.pneg with
    | none => s.advance t g
    | some th =>
      if x.active ≠ maskSub allMask x.exited then s.lapStop t St.barDiverged g th uThread x.pc x.pc
      else
        let s := (s.tileRelease t 0).setGroup t g (fun x => { x with wait := .bar b count })
        let here := ((List.range (s.lapOf t).groups).filter (fun k => atBarrier b (s.group t k))).length
        if here ≥ count then
          s.setTile t (fun tl => { tl with groups := tl.groups.mapVals (fun _ y => if atBarrier b y then ({ y with wait := .ready } : Group).next else y) })
        else s.barCheck t)

def execWaitq (t g : Nat) (w : FmtI) (s : State) : Res :=
  .next (s.issue t g fun s =>
    let u := if w.imm % 8 > 5 then 0 else w.imm % 8
    let lim := bitsN w.imm 15 8
    if (s.group t g).execMask w.pred w.pneg = 0 then s.advance t g
    else
      let s := s.tileRes t (w.imm % 8 > 5)
      if (s.tile t).outstanding g u ≤ lim then s.advance t g
      else s.setGroup t g (fun x => { x with wait := .queue u lim }))

/-! ### DMA (R160, R174, R175) -/

def execDma (t g : Nat) (w : FmtT) (s : State) : Res :=
  .next (s.issue t g fun s =>
    match s.leader t g w.pred w.pneg with
    | none => s.advance t g
    | some th =>
      let ch := w.src % 4
      let q := (s.tile t).dmaQ.atD ch []
      if q.length ≥ 16 then s
      else
        let s := s.tileRes t (fmtTRes w false false)
        let x := s.group t g
        let a := x.reg th w.va
        let stop := fun (s : State) (st addr : Nat) => s.lapStop t st g th (uDma ch) x.pc addr
        if a % 64 ≠ 0 then stop s St.misaligned a
        else if a + 64 > tstoreBytes then stop s St.tstoreRange a
        else if (s.rangeBad (tstoreBase t + a) 64).isSome then stop (s.badRead (tileDie t) t (tstoreBase t + a)) St.memUncorrectable a
        else
          let bs := s.sramRead (tstoreBase t + a) 64
          let f := dmaFields bs
          let s := s.tileRes t f.reserved
          match dmaCheck f with
          | some (st, addr) => stop s st addr
          | none =>
            let d : DmaDesc := { bytes := bs, group := g, leader := th, pc := x.pc, behind := if ch = 3 then (s.tile t).panQ.length else 0 }
            (s.setTile t (fun tl => { tl with dmaQ := tl.dmaQ.put ch (q ++ [d]) })).advance t g).settle

/-- A channel starts its oldest descriptor (R160). -/
def execDmaDescStart (t ch : Nat) (s : State) : Res :=
  .next (match dmaHead s t ch with
    | none => s
    | some d =>
      if (s.tile t).dmaBusy.contains ch || d.behind ≠ 0 || !s.tileIn t then s
      else ((s.setTile t (fun tl => { tl with dmaBusy := ch :: tl.dmaBusy })).dmaRun t ch false).settle)

/-- A descriptor completes when its reads and writes can all be performed (R175). -/
def execDmaDescDone (t ch : Nat) (s : State) : Res :=
  .next (if (s.tile t).dmaBusy.contains ch && s.tileIn t then (s.dmaRun t ch true).settle else s)

/-! ### Completions of the array and the Pannier -/

/-- The operation in the array completes, or its read is uncorrectable and ends the job (R124, R449). -/
def execArrayOpDone (t : Nat) (s : State) : Res :=
  match (s.tile t).arrQ, (s.tile t).arrBusy with
  | o :: _, true =>
    if !s.tileIn t then .next s
    else match s.arrBad t o with
      | some pa =>
        .next ((((s.badRead (tileDie t) t pa).lapStop t St.memUncorrectable o.group o.leader uArray o.pc o.a).setTile t
          (fun tl => { tl with arrQ := [], arrBusy := false })).settleQueues t).settle
      | none => .next (s.arrDone t).settle
  | _, _ => .next s

/-- A push completes: its data is captured and its data and records are performed (R248, R249). -/
def execPpushDone (t : Nat) (s : State) : Res :=
  match (s.tile t).lap, (s.tile t).panQ with
  | some l, o :: _ =>
    let n := l.die
    let k := l.panStack
    if !o.push || !o.started then .next s
    else if !panUp s n then .next (s.panStop t St.unitReset o o.addr)
    else
      match s.rangeBad (tstoreBase t + o.addr) o.len with
      | some bad =>
        .next ((s.badRead (tileDie t) t bad).panStop t St.memUncorrectable o (bad - tstoreBase t)).settle
      | none =>
        let data := s.sramRead (tstoreBase t + o.addr) o.len
        let off := if l.rerun then o.off else panEnd s n k
        let F := frameSize o.len
        let (index, s) : Nat × State :=
          if l.rerun then
            match s.panRead n k off 64 (panBottom s n k ≤ off) with
            | (.ok r, s) => (fieldB r 8 4, s)
            | (.error _, s) => (panFrames s n k, s)
          else (panFrames s n k, s)
        let r := panRecord o.len o.tag index l.index (s.stepOf (s.domainOf n))
        match s.panWrite n k off (r ++ data ++ r) (panBottom s n k ≤ off) with
        | (.error f, s) => if f.1 = 0 then .next s else .next (s.panStop t f.1 o f.2)
        | (.ok _, s) =>
          if l.rerun then .next ((s.setLap t (fun l => { l with pushAt := some (off + F) })).panFinish t)
          else .next ((panSet s n k (panTop s n k + F) (panEnd s n k + F) (panBottom s n k) (panFrames s n k + 1)).panFinish t)
  | _, _ => .next s

end Sys2Proof.Machine
end

