-- ==== Sys2Proof/Machine/Dispatch.lean ====
section
/-! DEFINITION. The meaning of every command, one arm for each constructor of Instr. -/

namespace Sys2Proof.Machine

def exec (i : Instr) (s : State) : Host.Outcome State Fault Refusal :=
  match i with
  | .absentTileAccess t off write => Sys2Proof.Machine.execAbsentTileAccess t off write s
  | .islandWake u => Sys2Proof.Machine.execIslandWake u s
  | .tbAdj v => Sys2Proof.Machine.execTbAdj v s
  | .slewDone => Sys2Proof.Machine.execSlewDone s
  | .tbIncrWrite v => Sys2Proof.Machine.execTbIncrWrite v s
  | .replicaRealign node disagreeNs => Sys2Proof.Machine.execReplicaRealign node disagreeNs s
  | .ppsInEdge rising => Sys2Proof.Machine.execPpsInEdge rising s
  | .ppsMissing => Sys2Proof.Machine.execPpsMissing s
  | .ppsOutPulse => Sys2Proof.Machine.execPpsOutPulse s
  | .ppsOutEnd => Sys2Proof.Machine.execPpsOutEnd s
  | .tbSourceLost => Sys2Proof.Machine.execTbSourceLost s
  | .sendReady n => Sys2Proof.Machine.execSendReady n s
  | .ready n => Sys2Proof.Machine.execReady n s
  | .tBBroadcast n => Sys2Proof.Machine.execTBBroadcast n s
  | .stepBoundary n => Sys2Proof.Machine.execStepBoundary n s
  | .tandemCtrlWrite role v => Sys2Proof.Machine.execTandemCtrlWrite role v s
  | .unitReinit u imageOk => Sys2Proof.Machine.execUnitReinit u imageOk s
  | .transCtxWrite role attr c v => Sys2Proof.Machine.execTransCtxWrite role attr c v s
  | .transInval role v => Sys2Proof.Machine.execTransInval role v s
  | .transInvalDone => Sys2Proof.Machine.execTransInvalDone s
  | .catRootWrite role v => Sys2Proof.Machine.execCatRootWrite role v s
  | .lockedAccessRetry ix => Sys2Proof.Machine.execLockedAccessRetry ix s
  | .coreResetGraceful role => Sys2Proof.Machine.execCoreResetGraceful role s
  | .coreResetForced role => Sys2Proof.Machine.execCoreResetForced role s
  | .coreFlushDone => Sys2Proof.Machine.execCoreFlushDone s
  | .coreBoot imageDigest => Sys2Proof.Machine.execCoreBoot imageDigest s
  | .rdShared agent line tag => Sys2Proof.Machine.execRdShared agent line s tag
  | .rdOwn agent line tag wr => Sys2Proof.Machine.execRdOwn agent line s tag wr
  | .upgrade agent line tag wr => Sys2Proof.Machine.execUpgrade agent line s tag wr
  | .rdOnce agent line tag clean => Sys2Proof.Machine.execRdOnce agent line s tag clean
  | .wrFull agent line data tag => Sys2Proof.Machine.execWrFull agent line data s tag
  | .wrPartial agent line mask data tag => Sys2Proof.Machine.execWrPartial agent line mask data s tag
  | .atomicReq agent pa size aop operand newVal tag => Sys2Proof.Machine.execAtomicReq agent pa size aop operand newVal s tag
  | .watchReq agent line tag => Sys2Proof.Machine.execWatchReq agent line s tag
  | .presenceSetAck stack region => Sys2Proof.Machine.execPresenceSetAck stack region s
  | .snpShared agent line => Sys2Proof.Machine.execSnpShared agent line s
  | .snpInv agent line => Sys2Proof.Machine.execSnpInv agent line s
  | .snpOnce agent line => Sys2Proof.Machine.execSnpOnce agent line s
  | .snpAck agent line => Sys2Proof.Machine.execSnpAck agent line s
  | .snpData agent line => Sys2Proof.Machine.execSnpData agent line s
  | .grantMsg agent line => Sys2Proof.Machine.execGrantMsg agent line s
  | .dataMsg agent line => Sys2Proof.Machine.execDataMsg agent line s
  | .complete agent line => Sys2Proof.Machine.execComplete agent line s
  | .conflictQueueAccept line => Sys2Proof.Machine.execConflictQueueAccept line s
  | .retryQueueGrant line => Sys2Proof.Machine.execRetryQueueGrant line s
  | .cacheEvict agent line => Sys2Proof.Machine.execCacheEvict agent line s
  | .wb agent line => Sys2Proof.Machine.execWb agent line s
  | .evictClean agent line => Sys2Proof.Machine.execEvictClean agent line s
  | .wbAck agent line => Sys2Proof.Machine.execWbAck agent line s
  | .memReadDone line outcome => Sys2Proof.Machine.execMemReadDone line outcome s
  | .memWriteAck line => Sys2Proof.Machine.execMemWriteAck line s
  | .tileRngKeyWrite role t key => Sys2Proof.Machine.execTileRngKeyWrite role t key s
  | .nop t g w => Sys2Proof.Machine.execNop t g w s
  | .reservedOpcode t g op w => Sys2Proof.Machine.execReservedOpcode t g op w s
  | .bra t g w => Sys2Proof.Machine.execBra t g w s
  | .exit t g w => Sys2Proof.Machine.execExit t g w s
  | .s2r t g w => Sys2Proof.Machine.execS2r t g w s
  | .flgclr t g w => Sys2Proof.Machine.execFlgclr t g w s
  | .vote t g w => Sys2Proof.Machine.execVote t g w s
  | .fadd t g w => Sys2Proof.Machine.execFadd t g w s
  | .fsub t g w => Sys2Proof.Machine.execFsub t g w s
  | .fmul t g w => Sys2Proof.Machine.execFmul t g w s
  | .ffma t g w => Sys2Proof.Machine.execFfma t g w s
  | .fmin t g w => Sys2Proof.Machine.execFmin t g w s
  | .fmax t g w => Sys2Proof.Machine.execFmax t g w s
  | .fcmp t g w => Sys2Proof.Machine.execFcmp t g w s
  | .fdiv t g w => Sys2Proof.Machine.execFdiv t g w s
  | .fsqrt t g w => Sys2Proof.Machine.execFsqrt t g w s
  | .frcp t g w => Sys2Proof.Machine.execFrcp t g w s
  | .frsq t g w => Sys2Proof.Machine.execFrsq t g w s
  | .fexp2 t g w => Sys2Proof.Machine.execFexp2 t g w s
  | .flog2 t g w => Sys2Proof.Machine.execFlog2 t g w s
  | .ftanh t g w => Sys2Proof.Machine.execFtanh t g w s
  | .iadd t g w => Sys2Proof.Machine.execIadd t g w s
  | .isub t g w => Sys2Proof.Machine.execIsub t g w s
  | .imul t g w => Sys2Proof.Machine.execImul t g w s
  | .imad t g w => Sys2Proof.Machine.execImad t g w s
  | .and t g w => Sys2Proof.Machine.execAnd t g w s
  | .or t g w => Sys2Proof.Machine.execOr t g w s
  | .xor t g w => Sys2Proof.Machine.execXor t g w s
  | .shl t g w => Sys2Proof.Machine.execShl t g w s
  | .shr t g w => Sys2Proof.Machine.execShr t g w s
  | .sar t g w => Sys2Proof.Machine.execSar t g w s
  | .imin t g w => Sys2Proof.Machine.execImin t g w s
  | .imax t g w => Sys2Proof.Machine.execImax t g w s
  | .icmp t g w => Sys2Proof.Machine.execIcmp t g w s
  | .sel t g w => Sys2Proof.Machine.execSel t g w s
  | .movi t g w => Sys2Proof.Machine.execMovi t g w s
  | .shfl t g w => Sys2Proof.Machine.execShfl t g w s
  | .cvt t g w => Sys2Proof.Machine.execCvt t g w s
  | .cvts t g w => Sys2Proof.Machine.execCvts t g w s
  | .xlut t g w => Sys2Proof.Machine.execXlut t g w s
  | .xszp t g w => Sys2Proof.Machine.execXszp t g w s
  | .ld t g w => Sys2Proof.Machine.execLd t g w s
  | .st t g w => Sys2Proof.Machine.execSt t g w s
  | .atom t g w => Sys2Proof.Machine.execAtom t g w s
  | .watch t g w => Sys2Proof.Machine.execWatch t g w s
  | .dma t g w => Sys2Proof.Machine.execDma t g w s
  | .mload t g w => Sys2Proof.Machine.execMload t g w s
  | .mswap t g w => Sys2Proof.Machine.execMswap t g w s
  | .mstream t g w => Sys2Proof.Machine.execMstream t g w s
  | .mdrain t g w => Sys2Proof.Machine.execMdrain t g w s
  | .mzero t g w => Sys2Proof.Machine.execMzero t g w s
  | .sbind t g w => Sys2Proof.Machine.execSbind t g w s
  | .sget t g w => Sys2Proof.Machine.execSget t g w s
  | .amax t g w => Sys2Proof.Machine.execAmax t g w s
  | .bscale t g w => Sys2Proof.Machine.execBscale t g w s
  | .rand t g w => Sys2Proof.Machine.execRand t g w s
  | .srctx t g w => Sys2Proof.Machine.execSrctx t g w s
  | .ppush t g w => Sys2Proof.Machine.execPpush t g w s
  | .ppop t g w => Sys2Proof.Machine.execPpop t g w s
  | .fence t g w => Sys2Proof.Machine.execFence t g w s
  | .bar t g w => Sys2Proof.Machine.execBar t g w s
  | .waitq t g w => Sys2Proof.Machine.execWaitq t g w s
  | .wwait t g w => Sys2Proof.Machine.execWwait t g w s
  | .wwaitTimeout t g => Sys2Proof.Machine.execWwaitTimeout t g s
  | .arrayQueueStart t => Sys2Proof.Machine.execArrayQueueStart t s
  | .arrayOpDone t => Sys2Proof.Machine.execArrayOpDone t s
  | .dmaDescStart t ch => Sys2Proof.Machine.execDmaDescStart t ch s
  | .dmaDescDone t ch => Sys2Proof.Machine.execDmaDescDone t ch s
  | .lapDispatch t => Sys2Proof.Machine.execLapDispatch t s
  | .lapStart t => Sys2Proof.Machine.execLapStart t s
  | .lapEnd t => Sys2Proof.Machine.execLapEnd t s
  | .sbindComplete t slot => Sys2Proof.Machine.execSbindComplete t slot s
  | .jobLastLapEnd n j => Sys2Proof.Machine.execJobLastLapEnd n j s
  | .reconversionDone n j => Sys2Proof.Machine.execReconversionDone n j s
  | .jobComplete n j => Sys2Proof.Machine.execJobComplete n j s
  | .validationFold role d => Sys2Proof.Machine.execValidationFold role d s
  | .fold unit d => Sys2Proof.Machine.execFold unit d s
  | .ppushStart t => Sys2Proof.Machine.execPpushStart t s
  | .ppushDone t => Sys2Proof.Machine.execPpushDone t s
  | .ppopDone t => Sys2Proof.Machine.execPpopDone t s
  | .spillStart n unit => Sys2Proof.Machine.execSpillStart n unit s
  | .prefetchFillStart n unit => Sys2Proof.Machine.execPrefetchFillStart n unit s
  | .demandFillStart n unit => Sys2Proof.Machine.execDemandFillStart n unit s
  | .moveDone n unit => Sys2Proof.Machine.execMoveDone n unit s
  | .panClear role n v => Sys2Proof.Machine.execPanClear role n v s
  | .panSizesWrite role n v => Sys2Proof.Machine.execPanSizesWrite role n v s
  | .panEnable role n v => Sys2Proof.Machine.execPanEnable role n v s
  | .nmeProgWrite role unit bank ix v => Sys2Proof.Machine.execNmeProgWrite role unit bank ix v s
  | .progCommit role unit => Sys2Proof.Machine.execProgCommit role unit s
  | .sweep n sq => Sys2Proof.Machine.execSweep n sq s
  | .sweepPhaseN unit => Sys2Proof.Machine.execSweepPhaseN unit s
  | .sweepMrDone unit => Sys2Proof.Machine.execSweepMrDone unit s
  | .sweepBarrier d => Sys2Proof.Machine.execSweepBarrier d s
  | .sweepShardUpdate unit => Sys2Proof.Machine.execSweepShardUpdate unit s
  | .prefoldRequest unit tid => Sys2Proof.Machine.execPrefoldRequest unit tid s
  | .sweepPrefold unit => Sys2Proof.Machine.execSweepPrefold unit s
  | .sweepShardDerive unit => Sys2Proof.Machine.execSweepShardDerive unit s
  | .sweepPhaseX unit => Sys2Proof.Machine.execSweepPhaseX unit s
  | .sweepCommit unit => Sys2Proof.Machine.execSweepCommit unit s
  | .repairReq unit shard step die h => Sys2Proof.Machine.execRepairReq unit shard step s die h
  | .repairData unit shard step off data h => Sys2Proof.Machine.execRepairData unit shard step off data s h
  | .repairEnd unit shard step crc h => Sys2Proof.Machine.execRepairEnd unit shard step crc s h
  | .repairNak unit shard step reason h => Sys2Proof.Machine.execRepairNak unit shard step reason s h
  | .repairRetry unit shard => Sys2Proof.Machine.execRepairRetry unit shard s
  | .nmeNop unit op => Sys2Proof.Machine.execNmeNop unit op s
  | .nmeEnd unit => Sys2Proof.Machine.execNmeEnd unit s
  | .nmeMov unit a => Sys2Proof.Machine.execNmeMov unit a s
  | .nmeAdd unit a => Sys2Proof.Machine.execNmeAdd unit a s
  | .nmeSub unit a => Sys2Proof.Machine.execNmeSub unit a s
  | .nmeMul unit a => Sys2Proof.Machine.execNmeMul unit a s
  | .nmeFma unit a => Sys2Proof.Machine.execNmeFma unit a s
  | .nmeFnma unit a => Sys2Proof.Machine.execNmeFnma unit a s
  | .nmeDiv unit a => Sys2Proof.Machine.execNmeDiv unit a s
  | .nmeSqrt unit a => Sys2Proof.Machine.execNmeSqrt unit a s
  | .nmeRsq unit a => Sys2Proof.Machine.execNmeRsq unit a s
  | .nmeExp2 unit a => Sys2Proof.Machine.execNmeExp2 unit a s
  | .nmeLog2 unit a => Sys2Proof.Machine.execNmeLog2 unit a s
  | .nmeMin unit a => Sys2Proof.Machine.execNmeMin unit a s
  | .nmeMax unit a => Sys2Proof.Machine.execNmeMax unit a s
  | .nmeAbs unit a => Sys2Proof.Machine.execNmeAbs unit a s
  | .nmeNeg unit a => Sys2Proof.Machine.execNmeNeg unit a s
  | .nmeSign unit a => Sys2Proof.Machine.execNmeSign unit a s
  | .nmeClamp unit a => Sys2Proof.Machine.execNmeClamp unit a s
  | .nmeSelge unit a => Sys2Proof.Machine.execNmeSelge unit a s
  | .rekeyGo role unit v => Sys2Proof.Machine.execRekeyGo role unit v s
  | .rekeyChunkDone mc unit => Sys2Proof.Machine.execRekeyChunkDone mc unit s
  | .rekeyPageDone mc unit => Sys2Proof.Machine.execRekeyPageDone mc unit s
  | .mcRekeyGo role m v => Sys2Proof.Machine.execMcRekeyGo role m v s
  | .streamEnable role n sq v => Sys2Proof.Machine.execStreamEnable role n sq v s
  | .streamDisable role n sq => Sys2Proof.Machine.execStreamDisable role n sq s
  | .haltClear role n sq => Sys2Proof.Machine.execHaltClear role n sq s
  | .entryFetch n sq => Sys2Proof.Machine.execEntryFetch n sq s
  | .nopEntry n sq => Sys2Proof.Machine.execNopEntry n sq s
  | .jobEntryStart n sq => Sys2Proof.Machine.execJobEntryStart n sq s
  | .mbBegin n sq => Sys2Proof.Machine.execMbBegin n sq s
  | .mbRoundStart n m => Sys2Proof.Machine.execMbRoundStart n m s
  | .waitEntry n sq => Sys2Proof.Machine.execWaitEntry n sq s
  | .waitTimeout n w => Sys2Proof.Machine.execWaitTimeout n w s
  | .stepEnd n sq => Sys2Proof.Machine.execStepEnd n sq s
  | .linkDown p l corr unc => Sys2Proof.Machine.execLinkDown p l s corr unc
  | .linkUp p l => Sys2Proof.Machine.execLinkUp p l s
  | .retrainTimeout p => Sys2Proof.Machine.execRetrainTimeout p s
  | .portRetrain role p => Sys2Proof.Machine.execPortRetrain role p s
  | .portModeWrite role p mode => Sys2Proof.Machine.execPortModeWrite role p mode s
  | .frameRx p l f corr unc => Sys2Proof.Machine.execFrameRx p l f s corr unc
  | .frameTx p l cls f => Sys2Proof.Machine.execFrameTx p l cls f s
  | .pfcRepeat p l c => Sys2Proof.Machine.execPfcRepeat p l c s
  | .pfcRx p l mask quanta => Sys2Proof.Machine.execPfcRx p l mask quanta s
  | .pfcPauseExpiry p l c => Sys2Proof.Machine.execPfcPauseExpiry p l c s
  | .pfcWatchdog p l c => Sys2Proof.Machine.execPfcWatchdog p l c s
  | .pfcWdEnd p l c => Sys2Proof.Machine.execPfcWdEnd p l c s
  | .sakInstall p l an => Sys2Proof.Machine.execSakInstall p l an s
  | .sakRetire p l an => Sys2Proof.Machine.execSakRetire p l an s
  | .mkaLifetimeExpiry p l => Sys2Proof.Machine.execMkaLifetimeExpiry p l s
  | .vnfEnable role v => Sys2Proof.Machine.execVnfEnable role v s
  | .vnfTxPoll v => Sys2Proof.Machine.execVnfTxPoll v s
  | .vnfItrExpiry v => Sys2Proof.Machine.execVnfItrExpiry v s
  | .atEnable role n => Sys2Proof.Machine.execAtEnable role n s
  | .connOpen role n conn => Sys2Proof.Machine.execConnOpen role n conn s
  | .connClose role n conn => Sys2Proof.Machine.execConnClose role n conn s
  | .connReset role n conn => Sys2Proof.Machine.execConnReset role n conn s
  | .atOpIssue n conn issuer op => Sys2Proof.Machine.execAtOpIssue n conn issuer op s
  | .atWrite n h va data => Sys2Proof.Machine.execAtWrite n h va data s
  | .readReq n h va len reqId => Sys2Proof.Machine.execReadReq n h va len reqId s
  | .readResp n h reqId off code data => Sys2Proof.Machine.execReadResp n h reqId off code data s
  | .atAtomic n h va aop size operand newVal => Sys2Proof.Machine.execAtAtomic n h va aop size operand newVal s
  | .atomicResp n h reqPsn code old => Sys2Proof.Machine.execAtomicResp n h reqPsn code old s
  | .atAck n h sack => Sys2Proof.Machine.execAtAck n h sack s
  | .atNak n h psn code => Sys2Proof.Machine.execAtNak n h psn code s
  | .cnp n h => Sys2Proof.Machine.execCnp n h s
  | .rateIncreaseTimer n conn => Sys2Proof.Machine.execRateIncreaseTimer n conn s
  | .alphaDecayTimer n conn => Sys2Proof.Machine.execAlphaDecayTimer n conn s
  | .ackTimer n conn => Sys2Proof.Machine.execAckTimer n conn s
  | .rtoExpiry n conn => Sys2Proof.Machine.execRtoExpiry n conn s
  | .hello n conn b => Sys2Proof.Machine.execHello n conn b s
  | .helloAck n conn b => Sys2Proof.Machine.execHelloAck n conn b s
  | .helloNak n conn code => Sys2Proof.Machine.execHelloNak n conn code s
  | .helloTimer n conn => Sys2Proof.Machine.execHelloTimer n conn s
  | .drlEnable role n v => Sys2Proof.Machine.execDrlEnable role n v s
  | .routeWindowWrite role n slotWin ix off width v => Sys2Proof.Machine.execRouteWindowWrite role n slotWin ix off width v s
  | .routeCommit role n => Sys2Proof.Machine.execRouteCommit role n s
  | .routeSaveDone n => Sys2Proof.Machine.execRouteSaveDone n s
  | .allReduce n sq => Sys2Proof.Machine.execAllReduce n sq s
  | .reduceScatter n sq => Sys2Proof.Machine.execReduceScatter n sq s
  | .allGather n sq => Sys2Proof.Machine.execAllGather n sq s
  | .allToAll n sq => Sys2Proof.Machine.execAllToAll n sq s
  | .dispatch n sq => Sys2Proof.Machine.execDispatch n sq s
  | .combine n sq => Sys2Proof.Machine.execCombine n sq s
  | .gradDispatch n sq => Sys2Proof.Machine.execGradDispatch n sq s
  | .gradCombine n sq => Sys2Proof.Machine.execGradCombine n sq s
  | .verdict n sq => Sys2Proof.Machine.execVerdict n sq s
  | .digest n sq => Sys2Proof.Machine.execDigest n sq s
  | .collStartInstant n coll => Sys2Proof.Machine.execCollStartInstant n coll s
  | .stageReserve n coll => Sys2Proof.Machine.execStageReserve n coll s
  | .verdictTerm n fromDie => Sys2Proof.Machine.execVerdictTerm n fromDie s
  | .verdictResult n => Sys2Proof.Machine.execVerdictResult n s
  | .drlCount n m h => Sys2Proof.Machine.execDrlCount n m s h
  | .drlAllow n m h => Sys2Proof.Machine.execDrlAllow n m s h
  | .drlRow n m h => Sys2Proof.Machine.execDrlRow n m s h
  | .drlPart n m h => Sys2Proof.Machine.execDrlPart n m s h
  | .drlData n m h => Sys2Proof.Machine.execDrlData n m s h
  | .drlResult n m h => Sys2Proof.Machine.execDrlResult n m s h
  | .drlEnd n m h => Sys2Proof.Machine.execDrlEnd n m s h
  | .drlAbort n m h => Sys2Proof.Machine.execDrlAbort n m s h
  | .drlTimeout n coll => Sys2Proof.Machine.execDrlTimeout n coll s
  | .imsicMsi pa size data => Sys2Proof.Machine.execImsicMsi pa size data s
  | .peerRequest m rid addr ideT op => Sys2Proof.Machine.execPeerRequest m rid addr ideT op s
  | .iommuDtInval role m v => Sys2Proof.Machine.execIommuDtInval role m v s
  | .iommuDtInvalDone m => Sys2Proof.Machine.execIommuDtInvalDone m s
  | .pcieRecoveryEnter r l => Sys2Proof.Machine.execPcieRecoveryEnter r l s
  | .pcieRecoveryExit r l => Sys2Proof.Machine.execPcieRecoveryExit r l s
  | .pcieLinkDown r l => Sys2Proof.Machine.execPcieLinkDown r l s
  | .pcieLinkUp r l speed width flit cxl => Sys2Proof.Machine.execPcieLinkUp r l speed width flit cxl s
  | .attest ix seq nonce scope signOk => Sys2Proof.Machine.execAttest ix seq nonce scope s signOk
  | .partCreate ix seq p mask seed ctxMask ranges pairOk => Sys2Proof.Machine.execPartCreate ix seq p mask seed ctxMask ranges s pairOk
  | .partTeardown ix seq p => Sys2Proof.Machine.execPartTeardown ix seq p s
  | .bindHart ix seq p m harts va len => Sys2Proof.Machine.execBindHart ix seq p m harts va len s
  | .grant ix seq p base size => Sys2Proof.Machine.execGrant ix seq p base size s
  | .keyRotate ix seq p => Sys2Proof.Machine.execKeyRotate ix seq p s
  | .rekeyStart ix seq p mc unit ctx desc => Sys2Proof.Machine.execRekeyStart ix seq p mc unit ctx desc s
  | .keyRelease ix seq p slot reportDigest ct wrapped tag => Sys2Proof.Machine.execKeyRelease ix seq p slot reportDigest ct wrapped tag s
  | .huskLoad ix seq p slot ctx header chunks => Sys2Proof.Machine.execHuskLoad ix seq p slot ctx header chunks s
  | .tdispAdmit ix seq p rid port accepted measurement => Sys2Proof.Machine.execTdispAdmit ix seq p rid port accepted measurement s
  | .tdispStart ix seq p rid => Sys2Proof.Machine.execTdispStart ix seq p rid s
  | .fwStage ix seq cls dieMask image => Sys2Proof.Machine.execFwStage ix seq cls dieMask image s
  | .fwActivate ix seq node => Sys2Proof.Machine.execFwActivate ix seq node s
  | .provision ix seq kind idx secret => Sys2Proof.Machine.execProvision ix seq kind idx secret s
  | .configWrite ix seq p addr value width => Sys2Proof.Machine.execConfigWrite ix seq p addr value width s
  | .zeroise ix seq => Sys2Proof.Machine.execZeroise ix seq s
  | .debugUnlock ix seq token => Sys2Proof.Machine.execDebugUnlock ix seq token s
  | .unknownMboxCommand ix seq cmd => Sys2Proof.Machine.execUnknownMboxCommand ix seq cmd s
  | .mboxResponse ix => Sys2Proof.Machine.execMboxResponse ix s
  | .selfTestPeriodic pass => Sys2Proof.Machine.execSelfTestPeriodic pass s
  | .crCellRx node k tagOk cell => Sys2Proof.Machine.execCrCellRx node k tagOk cell s
  | .crLinkRekey node k => Sys2Proof.Machine.execCrLinkRekey node k s
  | .faultEvent node b src detail => Sys2Proof.Machine.execFaultEvent node b src detail s
  | .fltForce role node b mask => Sys2Proof.Machine.execFltForce role node b mask s
  | .fltIsolate role node b => Sys2Proof.Machine.execFltIsolate role node b s
  | .fltRestore role node b pass => Sys2Proof.Machine.execFltRestore role node b pass s
  | .fltReset role node b pass => Sys2Proof.Machine.execFltReset role node b pass s
  | .quietPeriodEnd node b pass => Sys2Proof.Machine.execQuietPeriodEnd node b pass s
  | .fltRecoveryClear role node b v => Sys2Proof.Machine.execFltRecoveryClear role node b v s
  | .recentWindowExpiry node b => Sys2Proof.Machine.execRecentWindowExpiry node b s
  | .fltNvSave => Sys2Proof.Machine.execFltNvSave s
  | .patrolScrub pa found pch bank row => Sys2Proof.Machine.execPatrolScrub pa found pch bank row s
  | .rowRepair role c v => Sys2Proof.Machine.execRowRepair role c v s
  | .rowRepairDone c => Sys2Proof.Machine.execRowRepairDone c s
  | .powerfailAssert => Sys2Proof.Machine.execPowerfailAssert s
  | .sagSaveDone => Sys2Proof.Machine.execSagSaveDone s
  | .powerfailRelease => Sys2Proof.Machine.execPowerfailRelease s
  | .read h index sub off len => Sys2Proof.Machine.execRead h index sub off len s
  | .write h index sub final useDefault off data => Sys2Proof.Machine.execWrite h index sub final useDefault off data s
  | .describe h index sub => Sys2Proof.Machine.execDescribe h index sub s
  | .next h index sub => Sys2Proof.Machine.execNext h index sub s
  | .heartbeat h => Sys2Proof.Machine.execHeartbeat h s
  | .mboxSubmit h final off data => Sys2Proof.Machine.execMboxSubmit h final off data s
  | .mboxFetch h off len => Sys2Proof.Machine.execMboxFetch h off len s
  | .subscribe h on => Sys2Proof.Machine.execSubscribe h on s
  | .badMessage h => Sys2Proof.Machine.execBadMessage h s
  | .dtlsHandshake pskId finishedOk rateOk => Sys2Proof.Machine.execDtlsHandshake pskId finishedOk rateOk s
  | .sessionIdleTimeout session => Sys2Proof.Machine.execSessionIdleTimeout session s
  | .i3cPrivateWrite bytes crc => Sys2Proof.Machine.execI3cPrivateWrite bytes crc s
  | .i3cPrivateRead => Sys2Proof.Machine.execI3cPrivateRead s
  | .entdaa addr => Sys2Proof.Machine.execEntdaa addr s
  | .setdasa static addr => Sys2Proof.Machine.execSetdasa static addr s
  | .setnewda addr => Sys2Proof.Machine.execSetnewda addr s
  | .rstdaa => Sys2Proof.Machine.execRstdaa s
  | .enec events => Sys2Proof.Machine.execEnec events s
  | .disec events => Sys2Proof.Machine.execDisec events s
  | .getpid => Sys2Proof.Machine.execGetpid s
  | .getbcr => Sys2Proof.Machine.execGetbcr s
  | .getdcr => Sys2Proof.Machine.execGetdcr s
  | .getstatus => Sys2Proof.Machine.execGetstatus s
  | .getmwl => Sys2Proof.Machine.execGetmwl s
  | .getmrl => Sys2Proof.Machine.execGetmrl s
  | .setmwl n => Sys2Proof.Machine.execSetmwl n s
  | .setmrl n => Sys2Proof.Machine.execSetmrl n s
  | .rstact action => Sys2Proof.Machine.execRstact action s
  | .odcGo hart c => Sys2Proof.Machine.execOdcGo hart c s
  | .mgmtWatchdog => Sys2Proof.Machine.execMgmtWatchdog s
  | .powerSample mw mainMv auxMv => Sys2Proof.Machine.execPowerSample mw mainMv auxMv s
  | .tempSample unit centiC => Sys2Proof.Machine.execTempSample unit centiC s
  | .gearRequest role gear => Sys2Proof.Machine.execGearRequest role gear s
  | .ivrTrip node => Sys2Proof.Machine.execIvrTrip node s
  | .mainInputLoss => Sys2Proof.Machine.execMainInputLoss s
  | .mainInputRestore => Sys2Proof.Machine.execMainInputRestore s
  | .refclkLoss c => Sys2Proof.Machine.execRefclkLoss c s
  | .refclkReturn c trueNs => Sys2Proof.Machine.execRefclkReturn c trueNs s
  | .resetNAssert => Sys2Proof.Machine.execResetNAssert s
  | .packageReset => Sys2Proof.Machine.execPackageReset s
  | .startupStepDone ok info => Sys2Proof.Machine.execStartupStepDone ok info s
  | .regWrite role pa width v node => Sys2Proof.Machine.execRegWrite role pa width v s node
  | .islandSleep u => Sys2Proof.Machine.execIslandSleep u s
  | .coreBootDone => Sys2Proof.Machine.execCoreBootDone s
  | .windowAccess agent pa write len data => Sys2Proof.Machine.execWindowAccess agent pa write len data s
  | .acornLinkDown => Sys2Proof.Machine.execAcornLinkDown s
  | .acornLinkRestore => Sys2Proof.Machine.execAcornLinkRestore s
  | .saveDeadline => Sys2Proof.Machine.execSaveDeadline s
  | .auxInputLoss => Sys2Proof.Machine.execAuxInputLoss s
  | .auxInputApply => Sys2Proof.Machine.execAuxInputApply s
  | .nvCommitDone ok => Sys2Proof.Machine.execNvCommitDone ok s
  | .tdispLeaveRun rid => Sys2Proof.Machine.execTdispLeaveRun rid s

end Sys2Proof.Machine
end

