-- ==== Sys2Proof/Safety.lean ====
section
/-! DEFINITION. The words of the statements: what a safe run is, when a thread group issues, and which parts of a state a
frame speaks of. -/

namespace Sys2Proof.Machine

/-- Every waiting command is well-formed. -/
def State.queueWf (s : State) : Bool := s.pending.all Instr.wf

/-- k steps from a state all answer a next state. -/
def safeRun (k : Nat) (s : State) : Prop := ∃ t, Host.Core.run Sys2Proof.core k s = .next t

/-- Group g of tile t issues now, and its word's line is in the instruction cache (R147). -/
def State.runs (s : State) (t g : Nat) : Bool :=
  s.canIssue t g && (s.tile t).icache.contains ((s.group t g).pc / 64 * 64)

/-- A thread executes an instruction with this predicate (R155). -/
def State.executes (s : State) (t g pred : Nat) (pneg : Bool) (th : Nat) : Bool :=
  (threadsOf ((s.group t g).execMask pred pneg)).contains th

/-- Everything but the tiles is as before. -/
def sameBeyondTiles (s s' : State) : Prop := s' = { s with tiles := s'.tiles }

/-- Everything but the registers and the tiles is as before. -/
def sameBeyondTileRegs (s s' : State) : Prop := s' = { s with tiles := s'.tiles, regs := s'.regs }

/-- Every register but copy i of r is as before. -/
def sameRegsBut (r : Reg) (i : Nat) (s s' : State) : Prop := ∀ r' j, r'.key j ≠ r.key i → s'.rd r' j = s.rd r' j

/-- Byte a of the memory list reads as before for every address outside n bytes from pa. -/
def sameMemOutside (pa n : Nat) (s s' : State) : Prop := ∀ a, (a < pa ∨ pa + n ≤ a) → Mem.get a s'.mem = Mem.get a s.mem

/-- The instructions that neither access memory nor read a descriptor: all of TTIS but LD, ST, ATOM, WATCH and DMA (R154). -/
def isLocalOp (i : Instr) : Bool :=
  match encodeTile i with
  | some (_, _, w) => !((0x40 ≤ w % 256 && w % 256 ≤ 0x43) || w % 256 == 0x60)
  | none => false

/-- The complex of die n starts an entry of type ty of stream st next, which is `ent` once the state is s1 (R297). -/
def State.starts (s : State) (n st ty slot : Nat) (ent : Ent) (s1 : State) : Prop :=
  seqPick s n st = some st ∧ entType ent.entry = ty ∧ s.takeEntry n st slot = some (ent, s1)

/-- The RoT takes a request of mailbox i (R402, R413): it is ready, saves nothing, has answered the last one, and has no error. -/
def State.mboxOpen (s : State) (i : Nat) : Bool :=
  i < 17 && s.gb F.ROT_STATUS_ready && !s.flt.sag && !s.pwr.inReset && !s.sec.resp.has i && !s.sec.waits.has i &&
  !(s.pf F.MBOX_CTRL_go i 1).gb F.ROT_STATUS_error

/-- The answer to a mailbox request stands ready with a result (R414). -/
def State.answered (s : State) (i cmd seq result : Nat) : Prop :=
  ∃ r, s.sec.resp.at? i = some r ∧ r.cmd = cmd ∧ r.seq = seq ∧ r.result = result

/-- No thread of a group is both active and ended (R156, R158). -/
def Group.threadsOk (g : Group) : Bool := Nat.land g.active g.exited == 0

end Sys2Proof.Machine
end

