-- ==== Sys2Proof/Certificates/Slice0/Obligations.lean ====
section
/-! DEFINITION. The statements for the provers: what each command does, clause by clause. -/

open Sys2Proof Sys2Proof.Machine

/-- A command at the front of the queue runs as exec on the state with the queue's rest. -/
def Obligations.StepRunsTheFrontCommand : Prop :=
  ∀ (s : State) (c : Instr) (rest : List Instr), s.pending = c :: rest →
    step s = exec c { s with pending := rest }

/-- On an empty queue the reference clock ticks (the model's choice, log entries 1 and 130): where nothing waits inside the block, nothing
but the time base's own state and registers changes. -/
def Obligations.EmptyQueueTicks : Prop :=
  ∀ s : State, s.pending = [] →
    step s = .next s.idle ∧ (s.coh.rewatch = [] → s.xl.lineWait = [] → s.pcie.wait = [] → s.idle = s.tick) ∧
    s.tick.pending = [] ∧ s.tick.mem = s.mem ∧ s.tick.coh = s.coh ∧ s.tick.tiles = s.tiles ∧
    s.tick.nme = s.nme ∧ s.tick.seq = s.seq ∧ s.tick.flt = s.flt

/-- Ordinary data ends no run: every command, with every operand, answers a next state in every state; where a rule turns it away, its
meaning is what the rule leaves behind (R29, R44, R153). -/
def Obligations.NoCommandStops : Prop :=
  ∀ (i : Instr) (s : State), ∃ t, exec i s = .next t

/-- Decoding the word of a tile instruction gives the instruction back, with every field at every value its bits allow. Decoding the word of
an update-program instruction gives the instruction back. -/
def Obligations.WordsDecodeBack : Prop :=
  (
    ∀ (i : Instr) (t g w : Nat), i.wf = true → encodeTile i = some (t, g, w) → w < 2 ^ 64 ∧ decodeTile t g w = i) ∧
  (
    ∀ (i : Instr) (n w : Nat), i.wf = true → encodeNme i = some (n, w) → w < 2 ^ 25 ∧ decodeNme n w = i)

/-- Words written out from R150, R154 and R264, R265: MOVI v1 = 5; FADD v3 = v1 + v2; BRA −2 under p1; LD v4 from the pair v2 + 16 in the
virtual space, size 32; MSTREAM of 64 rows into row 128; and the example's MUL and FMA. -/
def Obligations.WrittenOutWordsDecode : Prop :=
  decodeTile 7 2 0x000000050000102E = .movi 7 2 { vd := 1, imm := 5 } ∧
  decodeTile 7 2 0x0000000002043010 = .fadd 7 2 { vd := 3, va := 1, vb := 2 } ∧
  decodeTile 7 2 0xFFFFFFFE00000101 = .bra 7 2 { pred := 1, tgtOff := -2 } ∧
  decodeTile 7 2 0x0001000240084040 = .ld 7 2 { vd := 4, va := 2, space := 1, size := 2, offset := 16 } ∧
  decodeTile 7 2 0x2007E00000000072 = .mstream 7 2 { mMinus1 := 63, accRow := 128 } ∧
  decodeNme 3 0x00088CC5 = .nmeMul 3 { rd := 3, sa := 3, sb := 17 } ∧
  decodeNme 3 0x003904C6 = .nmeFma 3 { rd := 3, sa := 1, sb := 18, sc := 3 }

/-- An opcode that the table does not list is reserved: it decodes to no listed instruction, the group goes on as at NOP, and
TILE_STATUS.reserved_encoding sets (R153). -/
def Obligations.ReservedOpcodesActAsNop : Prop :=
  (∀ t g w : Nat, reservedOp (w % 256) = true → decodeTile t g w = .reservedOpcode t g (w % 256) (decFmtI w)) ∧
  (∀ (s : State) (t g op : Nat) (w : FmtI), s.runs t g = true →
    ∃ s', exec (.reservedOpcode t g op w) s = .next s' ∧ s'.gb F.TILE_STATUS_reserved_encoding t = true ∧
      s'.group t g = (s.group t g).next ∧ s'.mem = s.mem)

/-- Every memory operation of the bus keeps the memory list in its canonical form. The memory of the machine at reset is in its canonical
form, nothing waits, and no lap runs. -/
def Obligations.MemoryStaysCanonical : Prop :=
  (
    ∀ (s : State) (key pa line : Nat) (bs : Bytes), Mem.wf s.mem = true →
      Mem.wf (s.writeAt key pa bs).mem = true ∧ Mem.wf (s.sramWrite pa bs).mem = true ∧ Mem.wf (s.cohWrite key pa bs).mem = true ∧
      Mem.wf (s.memLine key line bs).mem = true) ∧
  (
    Mem.wf State.reset.mem = true ∧ State.reset.pending = [] ∧ ∀ t, (State.reset.tile t).lap = none)

/-- Every arithmetic thread instruction of a group that issues completes: its operation acts in the executing threads (R154), a reserved rm
is noted, and the group goes on. -/
def Obligations.VectorArithmeticCompletes : Prop :=
  ∀ (s : State) (t g : Nat) (w : FmtV), s.runs t g = true →
    let go := fun (f : Group → Nat → Group × Nat) => (.next ((s.rmRes t g w).vec t g w.pred w.pneg f) : Res)
    let fp := fun (f : Bool → Bool → Nat → Nat → Nat × Nat) => go (v2 w (f (s.vecDaz t) (s.vecFtz t)))
    let f1 := fun (f : Bool → Bool → Nat → Nat × Nat) => go (v1 w (f (s.vecDaz t) (s.vecFtz t)))
    let int := fun (f : Nat → Nat → Nat) => go (v2 w (fun a b => (f (intA w a) (intB w b), 0)))
    exec (.fadd t g w) s = fp (fpAdd w) ∧ exec (.fsub t g w) s = fp (fpSub w) ∧ exec (.fmul t g w) s = fp (fpMul w) ∧
    exec (.fmin t g w) s = fp (fpMinMax false w) ∧ exec (.fmax t g w) s = fp (fpMinMax true w) ∧ exec (.fdiv t g w) s = fp (fpDiv w) ∧
    exec (.ffma t g w) s = go (v3 w (fpFma w (s.vecDaz t) (s.vecFtz t))) ∧ exec (.fsqrt t g w) s = f1 (fpSqrt w) ∧
    exec (.frcp t g w) s = f1 (fpApprox 0x19 1 w) ∧ exec (.frsq t g w) s = f1 (fpApprox 0x1A 1 w) ∧
    exec (.fexp2 t g w) s = f1 (fpApprox 0x1B 2 w) ∧ exec (.flog2 t g w) s = f1 (fpApprox 0x1C 2 w) ∧
    exec (.ftanh t g w) s = f1 (fpApprox 0x1D 2 w) ∧
    exec (.iadd t g w) s = int iAdd ∧ exec (.isub t g w) s = int iSub ∧ exec (.imul t g w) s = int iMul ∧
    exec (.imad t g w) s = go (v3 w (fun a b c => (iAdd (iMul (intA w a) (intB w b)) c, 0))) ∧
    exec (.and t g w) s = int Nat.land ∧ exec (.or t g w) s = int Nat.lor ∧ exec (.xor t g w) s = int Nat.xor ∧
    exec (.shl t g w) s = int iShl ∧ exec (.shr t g w) s = int iShr ∧ exec (.sar t g w) s = int iSar ∧
    exec (.imin t g w) s = int iMin ∧ exec (.imax t g w) s = int iMax

/-- An integer instruction of two sources leaves in vd of every executing thread the function R154 gives of va and vb, taken before the
instruction and negated or made absolute as its modifiers say (R150; on integers the model's reading, log entry 12), and every other
register of the group as it was; no flag changes. -/
def Obligations.IntegerResults : Prop :=
  ∀ (s : State) (t g : Nat) (w : FmtV), s.runs t g = true → w.vd < 64 →
    let x := s.group t g
    let gives := fun (i : Instr) (f : Nat → Nat → Nat) => ∃ s', exec i s = .next s' ∧
      (∀ th r, th < 32 → r < 64 → (s'.group t g).reg th r =
        if s.executes t g w.pred w.pneg th ∧ r = w.vd then f (intA w (x.reg th w.va)) (intB w (x.reg th w.vb)) else x.reg th r) ∧
      (s'.group t g).flags = x.flags ∧ (s'.group t g).p = x.p ∧ s'.mem = s.mem
    gives (.iadd t g w) (fun a b => (a + b) % 2 ^ 32) ∧ gives (.isub t g w) (fun a b => (a + (2 ^ 32 - b)) % 2 ^ 32) ∧
    gives (.imul t g w) (fun a b => a * b % 2 ^ 32) ∧ gives (.and t g w) (fun a b => Nat.land a b) ∧
    gives (.or t g w) (fun a b => Nat.lor a b) ∧ gives (.xor t g w) (fun a b => Nat.xor a b) ∧
    gives (.shl t g w) (fun a b => a * 2 ^ (b % 32) % 2 ^ 32) ∧ gives (.shr t g w) (fun a b => a / 2 ^ (b % 32))

/-- A thread instruction changes no other group, no memory and no register but TILE_STATUS of its own tile: its frame, for every instruction
of class 1 and 2 of R154. -/
def Obligations.VectorFrame : Prop :=
  ∀ (s : State) (t g : Nat) (w : FmtV) (i : Instr), s.runs t g = true →
    i ∈ [Instr.fadd t g w, .fsub t g w, .fmul t g w, .ffma t g w, .fmin t g w, .fmax t g w, .fcmp t g w, .fdiv t g w, .fsqrt t g w,
      .frcp t g w, .frsq t g w, .fexp2 t g w, .flog2 t g w, .ftanh t g w, .iadd t g w, .isub t g w, .imul t g w, .imad t g w,
      .and t g w, .or t g w, .xor t g w, .shl t g w, .shr t g w, .sar t g w, .imin t g w, .imax t g w, .icmp t g w, .sel t g w,
      .shfl t g w, .vote t g w] →
    ∃ s', exec i s = .next s' ∧ sameBeyondTileRegs s s' ∧ sameRegsBut .TILE_STATUS t s s' ∧
      (∀ t' g', (t' ≠ t ∨ g' ≠ g) → s'.group t' g' = s.group t' g') ∧
      (∀ th r, th < 32 → r < 64 → ¬ s.executes t g w.pred w.pneg th → (s'.group t g).reg th r = (s.group t g).reg th r) ∧
      (∀ th r, th < 32 → r < 64 → r ≠ w.vd % 64 → (s'.group t g).reg th r = (s.group t g).reg th r)

/-- A compare writes its condition into pd of the executing threads and no general register; p0 stays 1 (R148, R154). With a NaN operand
FCMP EQ, LT, LE, GT and GE give 0, and NE gives 1, and a NaN operand is unordered (R154). p0 always reads 1, and writes to it are
ignored. -/
def Obligations.ComparesAndPredicateZero : Prop :=
  (
    ∀ (s : State) (t g : Nat) (w : FmtV), s.runs t g = true →
      exec (.icmp t g w) s =
        .next ((s.vecRes t g w.pred w.pneg (typeRes w)).vec t g w.pred w.pneg (vp w (fun a b => (icmpCond w.rm (intA w a) (intB w b), 0)))) ∧
      exec (.fcmp t g w) s = .next ((s.vecRes t g w.pred w.pneg (typeRes w)).vec t g w.pred w.pneg (vp w (fpCmp w (s.vecDaz t)))) ∧
      (∀ i ∈ [Instr.icmp t g w, .fcmp t g w], ∃ s', exec i s = .next s' ∧
        (∀ th r, (s'.group t g).reg th r = (s.group t g).reg th r) ∧ (s'.group t g).predMask 0 = allMask)) ∧
  (
    ∀ (x y : FV), x = .nan ∨ y = .nan →
      fcmp 0 x y = false ∧ fcmp 1 x y = true ∧ fcmp 2 x y = false ∧ fcmp 3 x y = false ∧ fcmp 4 x y = false ∧ fcmp 5 x y = false ∧
      fcmp 6 x y = false ∧ fcmp 7 x y = true) ∧
  (
    ∀ (x : Group) (th p : Nat) (b : Bool), x.predMask 0 = allMask ∧ (p % 8 = 0 → x.setPred th p b = x) ∧
      (th < 32 → p % 8 ≠ 0 → bitN ((x.setPred th p b).predMask p) th = b))

/-- Moves, selections, conversions and the reads of slots and special values complete in a group that issues. The modifiers act on moved
values and codes as the model reads R150 (log entry 12). Instructions that name a scaling slot complete once its binding is complete
(R159). -/
def Obligations.MovesAndSlotsComplete : Prop :=
  (
    ∀ (s : State) (t g : Nat) (w : FmtV) (w' : FmtI), s.runs t g = true →
      let x := s.group t g
      let go := fun (s : State) (f : Group → Nat → Group × Nat) => (.next (s.vec t g w.pred w.pneg f) : Res)
      exec (.vote t g w) s = go (s.rmRes t g w) (fun y th => (y.setReg th w.vd (Nat.land x.active (x.predMask w.pd)), 0)) ∧
      exec (.sel t g w) s = go (s.rmRes t g w) (fun y th =>
        (y.setReg th w.vd (if bitN (y.predMask w.pd) th then modA w (y.reg th w.va) else modB w (y.reg th w.vb)), 0)) ∧
      exec (.shfl t g w) s = go (s.rmRes t g w) (fun y th => (y.setReg th w.vd (modA w (x.reg (intB w (x.reg th w.vb) % 32) w.va)), 0)) ∧
      exec (.movi t g w') s = .next (s.vec t g w'.pred w'.pneg (fun y th => (y.setReg th w'.vd w'.imm, 0))) ∧
      exec (.cvt t g w) s = .next (s.cvtRun t g w false) ∧ exec (.cvts t g w) s = .next (s.cvtRun t g w true) ∧
      (∀ scaled, ((s.cvtRun t g w scaled).group t g).pc = (x.next).pc) ∧
      exec (.xszp t g w) s = (let ts := if w.ts = 9 then 9 else 8
        go ((s.rmRes t g w).vecRes t g w.pred w.pneg (w.ts ≠ 8 && w.ts ≠ 9 || slotBad w.slot (slotBits ts))) (fun y th =>
          let r := xszpBits w ts (srcOf ts w.slot (y.reg th w.va)) (y.reg th w.vc) (y.reg th w.vb) (s.vecDaz t) (s.vecFtz t)
          (y.setReg th w.vd r.1, r.2))) ∧
      (∃ s', exec (.s2r t g w') s = .next s' ∧
        ∀ th, th < 32 → s.executes t g w'.pred w'.pneg th → (s'.group t g).reg th w'.vd % 2 ^ 32 = s2rVal s t g x th w'.imm % 2 ^ 32)) ∧
  (
    ∀ (s : State) (t g : Nat) (w : FmtV), s.runs t g = true → (∀ k, s.slotReady t k = true) →
      let x := s.group t g
      (∃ s', exec (.xlut t g w) s = .next s' ∧ (s'.group t g).pc = x.next.pc ∧
        ∀ th, th < 32 → s.executes t g w.pred w.pneg th → (s'.group t g).reg th w.vd =
          (xlutVal (s.slot t (intB w (x.reg th w.vb) % 16)) (codeA w (slotGet (x.reg th w.va) (slotNo w.slot 4) 4)) (s.vecFtz t)).1 % 2 ^ 32) ∧
      (∃ s', exec (.sget t g w) s = .next s' ∧ (s'.group t g).pc = x.next.pc ∧ (w.td ≠ 11 →
        ∀ th, th < 32 → s.executes t g w.pred w.pneg th → (s'.group t g).reg th w.vd =
          (if (s.slot t (w.slot % 16)).bound then (s.slot t (w.slot % 16)).scale else 0x3F800000) % 2 ^ 32)) ∧
      (∃ s', exec (.amax t g w) s = .next s' ∧ (s'.group t g).pc = x.next.pc ∧ (s.slot t (w.slot % 16)).max ≤ (s'.slot t (w.slot % 16)).max) ∧
      (∃ s', exec (.bscale t g w) s = .next s' ∧ (s'.group t g).pc = x.next.pc) ∧
      (∃ s', exec (.sbind t g w) s = .next s' ∧ (s'.group t g).pc = x.next.pc) ∧
      (∃ s', exec (.rand t g w) s = .next s' ∧ (s'.group t g).pc = x.next.pc) ∧
      (∃ s', exec (.srctx t g w) s = .next s' ∧ (s'.group t g).pc = x.next.pc ∧
        ∀ th, s.leader t g w.pred w.pneg = some th → (s'.group t g).srTid = intA w (x.reg th w.va) % 2 ^ 24))

/-- NOP, FLGCLR and a branch that does not diverge let the group go on; EXIT ends its executing threads. If all active threads fall in one
set, the group moves as one: its stack does not grow. -/
def Obligations.ControlFlowCompletes : Prop :=
  (
    ∀ (s : State) (t g : Nat) (w : FmtI) (b : FmtB), s.runs t g = true →
      let x := s.group t g
      exec (.nop t g w) s = .next (s.setGroup t g Group.next) ∧
      (∃ s', exec (.flgclr t g w) s = .next s' ∧ (s'.group t g).pc = x.next.pc ∧ (x.execMask w.pred w.pneg ≠ 0 →
        (s'.group t g).flags = maskSub x.flags (w.imm % 256))) ∧
      (x.execMask b.pred b.pneg = 0 → exec (.bra t g b) s = .next (s.setGroup t g (fun _ => x.next))) ∧
      (x.execMask b.pred b.pneg ≠ 0 → maskSub x.active (x.execMask b.pred b.pneg) = 0 →
        exec (.bra t g b) s = .next (s.setGroup t g (fun _ => x.jump (uN 64 ((x.pc : Int) + 8 * b.tgtOff))))) ∧
      (∃ s', exec (.exit t g w) s = .next s' ∧ (s'.group t g).exited = Nat.lor x.exited (x.execMask w.pred w.pneg))) ∧
  (
    ∀ (x : Group) (taken target : Nat) (rpc : Option Nat),
      taken = 0 ∨ maskSub x.active taken = 0 →
      ∃ y, x.branch taken rpc target = some y ∧ y.stack.length ≤ x.stack.length ∧ y.v = x.v ∧ y.exited = x.exited)

/-- A divergent branch whose reconvergence address is the top entry's splits that entry's paths and pushes nothing; the stack holds 16
entries, and a branch that needs a seventeenth ends the job with status DIVERGE_DEPTH (R157). -/
def Obligations.ReconvergenceStackHolds16 : Prop :=
  (∀ (x : Group) (taken target : Nat) (rpc : Option Nat), taken ≠ 0 → maskSub x.active taken ≠ 0 →
    (∀ e rest, x.stack = e :: rest → e.rpc = rpc → rpc.isSome = true →
      ∃ ps : List Path, ps.Perm (⟨target % 2 ^ 64, taken⟩ :: e.paths) ∧
        x.branch taken rpc target = some ({ x with active := maskSub x.active taken, stack := { e with paths := ps } :: rest } : Group).next) ∧
    (∀ y, x.stack.length ≤ 16 → x.branch taken rpc target = some y → y.stack.length ≤ 16)) ∧
  (∀ (s : State) (t g : Nat) (b : FmtB), s.runs t g = true → (s.tile t).lap.isSome = true →
    let x := s.group t g
    let taken := x.execMask b.pred b.pneg
    let rpc := if b.rpcOff = 0 then none else some (uN 64 ((x.pc : Int) + 8 * b.rpcOff))
    taken ≠ 0 → maskSub x.active taken ≠ 0 → x.stack.length = 16 → (∀ e ∈ x.stack.head?, e.rpc ≠ rpc ∨ rpc = none) →
    ∃ s', exec (.bra t g b) s = .next s' ∧ (s'.tile t).stopped = true ∧ s'.gf F.TILE_ERR_INFO_status t = St.divergeDepth ∧
      s'.gf F.TILE_ERR_PC_pc t = x.pc % 2 ^ 64 ∧ s'.mem = s.mem)

/-- No thread that has ended becomes active again: every local instruction keeps the active mask of every group of every tile apart from its
ended threads (R156, R158). -/
def Obligations.EndedThreadsStayOut : Prop :=
  ∀ (s s' : State) (i : Instr), isLocalOp i = true → (∀ t g, (s.group t g).threadsOk = true) → exec i s = .next s' →
    ∀ t g, (s'.group t g).threadsOk = true

/-- A local instruction keeps memory in its canonical form, what the release of a FENCE or BAR writes back included. -/
def Obligations.LocalInstructionsKeepMemoryCanonical : Prop :=
  ∀ (s s' : State) (i : Instr), isLocalOp i = true → Mem.wf s.mem = true → exec i s = .next s' → Mem.wf s'.mem = true

/-- A lap's first status stops it: its record is what was given, and a later status changes nothing (R184, R186). -/
def Obligations.FirstStatusIsRecorded : Prop :=
  ∀ (s : State) (t status g th unit pc addr : Nat), (s.tile t).stopped = false → (s.tile t).lap.isSome = true →
    status < 256 → g < 64 → th < 32 → unit < 8 → pc < 2 ^ 64 → addr < 2 ^ 64 →
    let s' := s.lapStop t status g th unit pc addr
    s'.gf F.TILE_ERR_INFO_status t = status ∧ s'.gf F.TILE_ERR_INFO_group t = g ∧ s'.gf F.TILE_ERR_INFO_thread t = th ∧
    s'.gf F.TILE_ERR_INFO_unit t = unit ∧ s'.gf F.TILE_ERR_PC_pc t = pc ∧ s'.gf F.TILE_ERR_ADDR_addr t = addr ∧
    s'.mem = s.mem ∧ (s'.tile t).stopped = true ∧ (∀ g', s'.canIssue t g' = false) ∧
    ∀ st' g' th' u' pc' a', s'.lapStop t st' g' th' u' pc' a' = s'

/-- One thread's tile-local load of 8 to 64 bits at an aligned address in range: the bytes of the tile store, little-endian in vd; and the
state's memory is as before (R171). One thread's tile-local store: the bytes of vd stand at the address, and every other byte reads as
before (R171). An access whose address is not aligned to its size ends the job with MISALIGNED and performs nothing (R171, R185). An
atomic at the tile store's controller: the old value returns in vd and the word holds the operation's result (R104, R172). -/
def Obligations.TileLocalAccessesComplete : Prop :=
  (
    ∀ (s : State) (t g th : Nat) (w : FmtM), s.runs t g = true → (s.tile t).lap.isSome = true → t < 1152 →
      w.space = 0 → w.size ≤ 3 → w.order ≤ 1 → w.vd < 64 → (w.size = 3 → w.vd % 2 = 0) → s.flt.due = [] →
      threadsOf ((s.group t g).execMask w.pred w.pneg) = [th] →
      let a := memAddr (s.group t g) th w
      let n := sizeBytes w.size
      a % n = 0 → a + n ≤ 0x200000 → s.windowUp (tstoreBase t + a) = true →
      s.rangeBad (tstoreBase t + a) n = none →
      ∃ s', exec (.ld t g w) s = .next s' ∧ s'.mem = s.mem ∧ (s'.group t g).pc = ((s.group t g).next).pc ∧
        (w.size = 3 → (s'.group t g).reg64 th w.vd = leVal (s.sramRead (tstoreBase t + a) 8)) ∧
        (w.size < 3 → (s'.group t g).reg th w.vd % 2 ^ (8 * n) = leVal (s.sramRead (tstoreBase t + a) n)) ∧
        ∀ th' r, th' < 32 → r < 64 → th' ≠ th → (s'.group t g).reg th' r = (s.group t g).reg th' r) ∧
  (
    ∀ (s : State) (t g th : Nat) (w : FmtM), s.runs t g = true → (s.tile t).lap.isSome = true → t < 1152 → Mem.wf s.mem = true →
      w.space = 0 → w.size ≤ 3 → w.order ≤ 1 → w.vd < 64 → (w.size = 3 → w.vd % 2 = 0) → s.flt.due = [] → s.badWords = [] →
      threadsOf ((s.group t g).execMask w.pred w.pneg) = [th] →
      let a := memAddr (s.group t g) th w
      let n := sizeBytes w.size
      a % n = 0 → a + n ≤ 0x200000 → s.windowUp (tstoreBase t + a) = true →
      ∃ s', exec (.st t g w) s = .next s' ∧ Mem.wf s'.mem = true ∧
        s'.sramRead (tstoreBase t + a) n = storeBytes (s.group t g) th w.vd w.size ∧
        sameMemOutside (tstoreBase t + a) n s s' ∧ (s'.group t g).pc = ((s.group t g).next).pc ∧
        ∀ th' r, (s'.group t g).reg th' r = (s.group t g).reg th' r) ∧
  (
    ∀ (s : State) (t g th : Nat) (w : FmtM) (i : Instr), (i = .ld t g w ∨ i = .st t g w) →
      s.runs t g = true → (s.tile t).lap.isSome = true → w.size ≤ 3 → w.order ≤ 1 → s.flt.due = [] → g < 64 →
      threadsOf ((s.group t g).execMask w.pred w.pneg) = [th] →
      memAddr (s.group t g) th w % sizeBytes w.size ≠ 0 →
      ∃ s', exec i s = .next s' ∧ s'.gf F.TILE_ERR_INFO_status t = St.misaligned ∧ (s'.tile t).stopped = true ∧ s'.mem = s.mem ∧
        s'.gf F.TILE_ERR_ADDR_addr t = memAddr (s.group t g) th w) ∧
  (
    ∀ (s : State) (t g th : Nat) (w : FmtM), s.runs t g = true → (s.tile t).lap.isSome = true → t < 1152 → Mem.wf s.mem = true →
      w.space = 0 → w.size = 2 → w.order ≤ 1 → w.vd < 64 → w.aop ≤ 8 → s.flt.due = [] → s.badWords = [] → s.cxlWins = [] →
      threadsOf ((s.group t g).execMask w.pred w.pneg) = [th] →
      let x := s.group t g
      let pa := tstoreBase t + memAddr x th w
      memAddr x th w % 4 = 0 → memAddr x th w + 4 ≤ 0x200000 → s.windowUp pa = true →

      ∃ s', exec (.atom t g w) s = .next s' ∧ (s'.group t g).reg th w.vd = leVal (s.sramRead pa 4) ∧
        leVal (s'.sramRead pa 4) = atomicNew w.aop 4 (leVal (s.sramRead pa 4)) (x.reg th w.vb) (x.reg th w.vb) % 2 ^ 32 ∧
        sameMemOutside pa 4 s s')

/-- A tile-level instruction whose checks pass joins its unit's queue with the leader's operands, and its group goes on (R149, R160, R174,
R176). A group that issues to a full queue stalls, and the stall is not a fault: the state is as before (R160). The array and the DMA
engine work through their queues in issue order: the oldest array operation starts and completes, and a channel's oldest descriptor
starts (R160). -/
def Obligations.TileLevelInstructionsQueue : Prop :=
  (
    ∀ (s : State) (t g th : Nat) (w : FmtT), s.runs t g = true → s.leader t g w.pred w.pneg = some th →
      let x := s.group t g
      (∀ (i : Instr) (k : ArrKind),
        (i, k) ∈ [(Instr.mload t g w, ArrKind.mload), (.mswap t g w, .mswap), (.mstream t g w, .mstream), (.mdrain t g w, .mdrain), (.mzero t g w, .mzero)] →
        let o : ArrOp := { kind := k, w := w, a := x.reg th w.va, stride := x.reg th (w.va + 1), b := x.reg th w.vb, b1 := x.reg th (w.vb + 1),
                           group := g, leader := th, pc := x.pc }
        s.arrSlotOk t w = true → (s.tile t).arrQ.length < 16 → arrCheck s t o = none →
        ∃ s', exec i s = .next s' ∧ (s'.tile t).arrQ = (s.tile t).arrQ ++ [o] ∧ s'.group t g = x.next ∧ s'.mem = s.mem ∧
          (fmtTRes w true (decide (k = .mdrain)) = false → s'.regs = s.regs)) ∧
      (∀ (i : Instr) (push : Bool), (i, push) ∈ [(Instr.ppush t g w, true), (.ppop t g w, false)] →
        let len := x.reg th (w.va + 1)
        (s.tile t).panQ.length < 8 → (push = true → len % 64 = 0 ∧ 64 ≤ len) → x.reg th w.va + len ≤ 2 ^ 21 →
        (push = false → w.axis = true → len % (4096 * typeBits (if w.f1 ≤ 11 then w.f1 else 0) / 8) = 0) →
        ∃ s', exec i s = .next s' ∧ s'.group t g = x.next ∧ s'.mem = s.mem ∧
          (s'.tile t).panQ.map (fun o => (o.push, o.addr, o.len, o.tag)) =
            (s.tile t).panQ.map (fun o => (o.push, o.addr, o.len, o.tag)) ++ [(push, x.reg th w.va, len, w.accRow)]) ∧
      (let a := x.reg th w.va
       let bs := s.sramRead (tstoreBase t + a) 64
       let q := (s.tile t).dmaQ.atD (w.src % 4) []
       q.length < 16 → a % 64 = 0 → a + 64 ≤ 0x200000 → s.rangeBad (tstoreBase t + a) 64 = none → dmaCheck (dmaFields bs) = none →
       s.flt.due = [] →
       ∃ s', exec (.dma t g w) s = .next s' ∧ s'.group t g = x.next ∧ s'.mem = s.mem ∧
         ((s'.tile t).dmaQ.atD (w.src % 4) []).map (fun d => d.bytes) = q.map (fun d => d.bytes) ++ [bs])) ∧
  (
    ∀ (s : State) (t g th : Nat) (w : FmtT), s.runs t g = true → s.leader t g w.pred w.pneg = some th → s.flt.due = [] →
      (16 ≤ (s.tile t).arrQ.length → s.arrSlotOk t w = true → exec (.mload t g w) s = .next s ∧ exec (.mzero t g w) s = .next s) ∧
      (16 ≤ ((s.tile t).dmaQ.atD (w.src % 4) []).length → exec (.dma t g w) s = .next s) ∧
      (8 ≤ (s.tile t).panQ.length → exec (.ppush t g w) s = .next s ∧ exec (.ppop t g w) s = .next s)) ∧
  (
    ∀ (s : State) (t ch : Nat), s.tileIn t = true → s.flt.due = [] →
      (∀ o, (s.tile t).arrQ.head? = some o → (s.tile t).arrBusy = false → (o.kind = .mstream → arrRange s t o = none) →
        exec (.arrayQueueStart t) s = .next (s.setTile t (fun tl => { tl with arrBusy := true }))) ∧
      (∀ o rest, (s.tile t).arrQ = o :: rest → (s.tile t).arrBusy = true → o.kind = .mswap →
        ∃ s', exec (.arrayOpDone t) s = .next s' ∧ (s'.tile t).arrQ = rest ∧ (s'.tile t).arrBusy = false ∧
          (s'.tile t).active = (s.tile t).shadow ∧ (s'.tile t).shadow = (s.tile t).active) ∧
      (∀ d, dmaHead s t ch = some d → d.behind = 0 → (s.tile t).dmaBusy.contains ch = false →
        exec (.dmaDescStart t ch) s = .next ((s.setTile t (fun tl => { tl with dmaBusy := ch :: tl.dmaBusy })).dmaRun t ch false).settle) ∧
      ((s.tile t).dmaBusy.contains ch = true → exec (.dmaDescDone t ch) s = .next (s.dmaRun t ch true).settle))

/-- WAITQ waits until the group has at most imm[15:8] incomplete instructions on unit imm[2:0]; unit values 6 and 7 are reserved, and only
the issuing group's instructions count (R182). -/
def Obligations.WaitqCountsItsOwnGroup : Prop :=
  (∀ (s : State) (t g : Nat) (w : FmtI), s.runs t g = true → (s.group t g).execMask w.pred w.pneg ≠ 0 →
    let u := w.imm % 8
    let lim := bitsN w.imm 15 8
    (u ≤ 5 → (s.tile t).outstanding g u ≤ lim → exec (.waitq t g w) s = .next (s.setGroup t g Group.next)) ∧
    (u ≤ 5 → lim < (s.tile t).outstanding g u →
      exec (.waitq t g w) s = .next (s.setGroup t g (fun x => { x with wait := .queue u lim }))) ∧
    (6 ≤ u → ∃ s', exec (.waitq t g w) s = .next s' ∧ s'.gb F.TILE_STATUS_reserved_encoding t = true ∧ s'.mem = s.mem)) ∧
  (∀ (tl : Tile) (g u lim : Nat) (x : Group), tl.groups.at? g = some x → x.wait = .queue u lim →
    (lim < tl.outstanding g u → tl.settleQueues.groups.at? g = some x) ∧
    (tl.outstanding g u ≤ lim → tl.settleQueues.groups.at? g = some ({ x with wait := .ready } : Group).next)) ∧
  (∀ (tl : Tile) (g : Nat) (a : List ArrOp) (p : List PanOp) (d : Tab (List DmaDesc)),
    (∀ o ∈ a, o.group ≠ g) → (∀ o ∈ p, o.group ≠ g) → (∀ ch, ∀ o ∈ d.atD ch [], o.group ≠ g) →
    (∀ u, u ≤ 5 → ({ tl with arrQ := a, panQ := p, dmaQ := d } : Tile).outstanding g u = 0) ∧
    ({ tl with arrQ := tl.arrQ ++ a } : Tile).outstanding g 0 = tl.outstanding g 0 ∧
    ({ tl with panQ := tl.panQ ++ p } : Tile).outstanding g 5 = tl.outstanding g 5)

/-- WAITQ goes on at once when the group has at most the limit of instructions incomplete on the unit, and waits otherwise (R182); WWAIT
returns the watches woken since its last return, or sleeps; its timeout returns 0 (R173). FENCE and BAR complete: the release of a FENCE
by its order, and a BAR that opens its barrier lets every group at it go on (R180, R181). If every live group of the lap waits at a BAR
and none of those barriers can reach its count, the job ends with BAR_DEADLOCK (R181). WATCH on a line of a COH page: its word is loaded
into vd, the index of its place into bits [2:0] of vd + 1, and the place holds an armed watch of the line (R109, R173). -/
def Obligations.WaitsFencesAndWatchesComplete : Prop :=
  (
    ∀ (s : State) (t g : Nat) (w : FmtI), s.runs t g = true → (s.group t g).execMask w.pred w.pneg ≠ 0 →
      let x := s.group t g
      let mask := x.execMask w.pred w.pneg
      (w.imm % 8 ≤ 5 → (s.tile t).outstanding g (w.imm % 8) ≤ bitsN w.imm 15 8 → exec (.waitq t g w) s = .next (s.setGroup t g Group.next)) ∧
      (w.imm % 8 ≤ 5 → bitsN w.imm 15 8 < (s.tile t).outstanding g (w.imm % 8) →
        exec (.waitq t g w) s = .next (s.setGroup t g (fun x => { x with wait := .queue (w.imm % 8) (bitsN w.imm 15 8) }))) ∧
      (x.woken ≠ 0 → ∃ s', exec (.wwait t g w) s = .next s' ∧ (s'.group t g).woken = 0 ∧
        ∀ th, th < 32 → s.executes t g w.pred w.pneg th = true → (s'.group t g).reg th w.vd = x.woken % 2 ^ 32) ∧
      (x.woken = 0 → exec (.wwait t g w) s = .next (s.setGroup t g (fun x => { x with wait := .watch w.vd (w.imm % 65536 != 0) mask }))) ∧
      (∀ (s1 : State) (vd m : Nat), (s1.group t g).wait = .watch vd true m → (s1.tile t).stopped = false →
        ∃ s', exec (.wwaitTimeout t g) s1 = .next s' ∧ (s'.group t g).woken = 0 ∧
          ∀ th, th ∈ threadsOf m → (s'.group t g).reg th vd = 0)) ∧
  (
    ∀ (s : State) (t g : Nat) (m : FmtM) (w : FmtI), s.runs t g = true →
      let x := s.group t g
      ((x.execMask m.pred m.pneg ≠ 0 → (m.order = 0 ∨ 2 ≤ m.order) →
        exec (.fence t g m) s = .next (((s.vecRes t g m.pred m.pneg (fmtMRes m)).tileRelease t m.scope).setGroup t g Group.next)) ∧
       (m.order = 1 → exec (.fence t g m) s = .next ((s.vecRes t g m.pred m.pneg (fmtMRes m)).setGroup t g Group.next))) ∧
      (∀ th, s.leader t g w.pred w.pneg = some th → x.active = maskSub allMask x.exited → bitsN w.imm 9 4 = 0 → g < (s.lapOf t).groups →
        ∃ s', exec (.bar t g w) s = .next s' ∧ (s'.group t g).wait ≠ .bar (w.imm % 16) 1 ∧ (s'.group t g).pc = (x.next).pc) ∧
      (∀ th, s.leader t g w.pred w.pneg = some th → x.active ≠ maskSub allMask x.exited → (s.tile t).lap.isSome = true →
        ∃ s', exec (.bar t g w) s = .next s' ∧ (s'.tile t).stopped = true ∧ s'.gf F.TILE_ERR_INFO_status t = St.barDiverged)) ∧
  (
    ∀ (s : State) (t g : Nat), (s.tile t).lap.isSome = true → (s.tile t).stopped = false → g < (s.lapOf t).groups →
      (s.group t g).wait ≠ .ended →
      (∀ g', g' < (s.lapOf t).groups → (s.group t g').wait = .ended ∨ ∃ b c, (s.group t g').wait = .bar b c) →
      ((s.barCheck t).tile t).stopped = true ∧ (s.barCheck t).gf F.TILE_ERR_INFO_status t = St.barDeadlock) ∧
  (
    ∀ (s s1 s2 : State) (t g th i : Nat) (w : FmtM) (pa e key : Nat), s.runs t g = true → s.flt.due = [] →
      w.space = 1 → w.va % 2 = 0 → w.vd + 1 < 64 → threadsOf ((s.group t g).execMask w.pred w.pneg) = [th] →
      let x := s.group t g
      let a := memAddr x th w
      let line := lineOf pa
      a % 4 = 0 → ((s.tileRes t (fmtMRes w)).when (w.order ≥ 2) (fun s => s.tileRelease t w.scope)).xlate (.tile t) (s.lapOf t).ctx a accLoad (tileDie t) = (.ok pa e 0 key, s1) → inTiers s1 pa = true →
      s1.lineOpen line = false → s1.lineBad line = false → watchPlace (s1.tile t) line = some i → i < 8 →
      s1.shareNow t line key true = (true, s2) → s2.flt.due = [] →
      ∃ s', exec (.watch t g w) s = .next s' ∧ (s'.group t g).reg th w.vd = s2.cohVal key pa 4 % 2 ^ 32 ∧
        (s'.group t g).reg th (w.vd + 1) % 8 = i ∧ (s'.tile t).watches.at? i = some { line := line })

/-- Commands of the time base: what each leaves in TB_STATUS, TB_TIME, TB_PPS_CAPTURE and at the pins (R31 to R34, R40). A replica is set
back at once at its realignment, at a free offset: the model's choice (log entries 24 and 124); a PPS edge clears holdover (log entry
25). -/
def Obligations.TimeBaseCompletes : Prop :=
  ∀ (s : State),
    (∀ v : Word64, 0 < v.toInt → ∃ s', exec (.tbAdj v) s = .next s' ∧ s'.now = (s.now + v.toNat) % 2 ^ 64 ∧ s'.gb F.TB_STATUS_stepped = true) ∧
    (∀ v : Word64, v.toInt < 0 → ∃ s', exec (.tbAdj v) s = .next s' ∧ s'.now = s.now ∧ s'.gb F.TB_STATUS_slewing = true ∧
      s'.time.slewRem = (-v.toInt).toNat * nsUnit) ∧
    (s.gb F.TB_STATUS_slewing = true → s.time.slewRem = 0 → ∃ s', exec .slewDone s = .next s' ∧ s'.gb F.TB_STATUS_slewing = false) ∧
    (∀ v : Word64, 171712792495 ≤ v.toNat → v.toNat ≤ 171884591185 →
      ∃ s', exec (.tbIncrWrite v) s = .next s' ∧ s'.gf F.TB_INCR_incr = v.toNat % 2 ^ (F.TB_INCR_incr.hi + 1 - F.TB_INCR_incr.lo)) ∧
    (∀ node ns, node < 10 → 5 ≤ ns → ns ≤ 10 → ∃ s' k, exec (.replicaRealign node ns) s = .next s' ∧ k ≤ 8 ∧
      s'.dieTime node = (s.now + 2 ^ 64 + k - 4) % 2 ^ 64 ∧ s'.time.bad.at? node = some 0 ∧ s'.time.good.at? node = some 0) ∧
    (∀ rising, rising ≠ s.gb F.TB_CTRL_pps_in_edge →
      ∃ s', exec (.ppsInEdge rising) s = .next s' ∧ s'.gf F.TB_PPS_CAPTURE_capture = s.now ∧
        (s.gf F.TB_CTRL_source = 2 → s'.gb F.TB_STATUS_holdover = false)) ∧
    (s.gf F.TB_CTRL_source = 2 → exec .ppsMissing s =
      .next ((((s.pf F.TB_STATUS_pps_missing 0 1).pf F.TB_STATUS_holdover 0 1).pf F.TB_STATUS_locked 0 0).notice 10 1 0)) ∧
    (s.time.second = true → s.gb F.TB_CTRL_pps_out_en = true →
      ∃ s', exec .ppsOutPulse s = .next s' ∧ s'.outbox = .pin .ppsOut true :: s.outbox ∧ s'.time.second = false) ∧
    (s.time.ppsHigh = true → ∃ s', exec .ppsOutEnd s = .next s' ∧ s'.outbox = .pin .ppsOut false :: s.outbox ∧ s'.time.ppsHigh = false) ∧
    (s.gf F.TB_CTRL_source = 1 ∨ s.gf F.TB_CTRL_source = 2 → ∃ s', exec .tbSourceLost s = .next s' ∧ s'.gb F.TB_STATUS_holdover = true ∧ s'.gb F.TB_STATUS_locked = false)

/-- A write to TB_INCR, whose unit is 2⁻³² ns, is clamped to 39.98 ns to 40.02 ns: a value within stands, any other becomes the limit next
to it (R34). -/
def Obligations.TbIncrIsClamped : Prop :=
  ∀ (s : State) (v : Word64), ∃ s' : State, exec (.tbIncrWrite v) s = .next s' ∧
    let r := s'.gf F.TB_INCR_incr
    3998 * 2 ^ 32 ≤ 100 * r ∧ 100 * r ≤ 4002 * 2 ^ 32 ∧
    (3998 * 2 ^ 32 ≤ 100 * v.toNat → 100 * v.toNat ≤ 4002 * 2 ^ 32 → r = v.toNat) ∧
    (100 * v.toNat < 3998 * 2 ^ 32 → 100 * (r - 1) < 3998 * 2 ^ 32) ∧
    (4002 * 2 ^ 32 < 100 * v.toNat → 4002 * 2 ^ 32 < 100 * (r + 1)) ∧
    s'.mem = s.mem ∧ s'.tiles = s.tiles ∧ s'.time = s.time

/-- Commands of the step boundary. SEND_READY: once a STEP_END has started on every enabled stream that is counted, and the sweeps they name
are complete, READY leaves with the die's time (R309, R38). READY reaches the lead die, which then looks whether it has all (R38). The
broadcast of T_b: a tandem die whose replica has not passed T_b holds the boundary, and any other takes it (R38, R40). STEP_BOUNDARY:
the die that holds it takes it when its replica reaches T_b (R40). -/
def Obligations.StepBoundaryCompletes : Prop :=
  ∀ (s : State) (n : Nat),
    let d := s.domainOf n
    let counted := fun (st : Nat) => st < 64 ∧ strmOn s n st = true ∧ s.gb F.SEQ_STREAM_CTRL_step_bound (sk n st) = true
    let ended := fun (st : Nat) (e : Ent) => e ∈ s.seq.ents ∧ e.die = n ∧ entType e.entry = 6 ∧ e.stream = st
    (∀ lead, seqUp s n = true → seqHeld s n = false → s.leadDie d = some lead → (∃ st, counted st) → (∀ st, counted st → ∃ e, ended st e) →
      (∀ st e, counted st → ended st e → e.swept.isSome = true) →
      exec (.sendReady n) s = .next (((s.pf F.SEQ_STATUS_ready_sent n 1).setDom d (fun x => { x with
        readyNet := x.readyNet ++ [(n, s.dieTime n)] })).emit (.ready n lead (s.dieTime n)))) ∧
    (∀ r, (s.dom d).readyNet.find? (·.1 = n) = some r →
      exec (.ready n) s = .next ((s.setDom d (fun x => { x with
        readyNet := x.readyNet.filter (·.1 != n), ready := x.ready.filter (·.1 != n) ++ [r] })).leadCheck d)) ∧
    (∀ tb, (s.dom d).tb = some tb → (s.dom d).bcast.contains n = true → (s.dom d).away.contains n = false →
      (inTandem s n = true → s.dieTime n ≤ tb →
        ∃ s', exec (.tBBroadcast n) s = .next s' ∧ n ∈ (s'.dom d).hold ∧ n ∉ (s'.dom d).bcast ∧ s'.regs = s.regs ∧ s'.mem = s.mem) ∧
      (inTandem s n = false → ∃ s1 : State, n ∈ (s1.dom d).took ∧ n ∉ (s1.dom d).bcast ∧ s1.regs = s.regs ∧ s1.mem = s.mem ∧
        exec (.tBBroadcast n) s = .next (s1.boundaryCheck d))) ∧
    (∀ tb, (s.dom d).tb = some tb → (s.dom d).hold.contains n = true → tb ≤ s.dieTime n →
      ∃ s1 : State, n ∈ (s1.dom d).took ∧ n ∉ (s1.dom d).hold ∧ (s1.dom d).tb = some tb ∧ s1.regs = s.regs ∧ s1.mem = s.mem ∧
        exec (.stepBoundary n) s = .next (s1.boundaryCheck d) ∧
        ((s1.dom d).bcast = [] → (s1.dom d).hold = [] → s1.boundaryCheck d = s1.applyBoundary d tb))

/-- A write of TANDEM_CTRL whose group lies in one domain is held for the boundary as it was written (R43, R45). A transaction wakes a
sleeping unit (R29). A stale unit that is idle and in service re-initialises: its epoch is the package's again (R48). -/
def Obligations.TandemWritesWakesAndReinitialisation : Prop :=
  ∀ (s : State),
    (∀ (role : Role) (v : Word32), s.mmioRole role = true →
      (∀ i j, i < 8 → j < 8 → bitN v.toNat i = true → bitN v.toNat j = true → s.domainOf i = s.domainOf j) →
      exec (.tandemCtrlWrite role v) s =
        .next { s with time := { s.time with tandemPend := some (v.toNat % 256 + bitsN v.toNat 8 8 * 256) } }) ∧
    (∀ t, s.enabled t = true → s.tileState t = 3 → exec (.islandWake (.tile t)) s = .next (s.pf F.TILE_STATUS_state t 1)) ∧
    (∀ st, st < 16 → exec (.islandWake (.nme st)) s = .next { s with asleep := s.asleep.filter (· != .nme st) }) ∧
    (∀ n, n < 8 → exec (.islandWake (.drl n)) s = .next { s with asleep := s.asleep.filter (· != .drl n) }) ∧
    (∀ t ok, s.tileIn t = true → (s.tile t).lap = none → seqUp s (tileDie t) = true → s.unitEpoch (.tile t) < s.pkgEpoch →
      ∃ s', exec (.unitReinit (.tile t) ok) s = .next s' ∧ s'.unitEpoch (.tile t) = s.pkgEpoch ∧ (s'.tile t).slots = {} ∧ s'.mem = s.mem) ∧
    (∀ st ok, st < 16 → unitIn s (.nme st) = true → (s.nmeU st).sweep = none → s.unitEpoch (.nme st) < s.pkgEpoch →
      exec (.unitReinit (.nme st) ok) s = .next (s.reinit (.nme st) ok)) ∧
    (∀ n ok, n < 8 → s.blkIn n 4 = true → instsOf s n = [] → seqUp s n = true → s.unitEpoch (.drl n) < s.pkgEpoch →
      exec (.unitReinit (.drl n) ok) s = .next (s.reinit (.drl n) ok))

/-- Translation and core-attribute registers and their invalidation (R48, R60, R64, R66, R68). -/
def Obligations.TranslationCommandsComplete : Prop :=
  ∀ (s : State) (role : Role) (v : Word64), s.mmioRole role = true →
    (∀ c, c < 64 → s.gf F.TRANS_ATTR_part_id c = 0 → ∃ s', exec (.transCtxWrite role false c v) s = .next s' ∧
      s'.gf F.TRANS_ROOT_enable c = v.toNat % 2 ∧ s'.gf F.TRANS_ROOT_root c = bitsN v.toNat 51 12 ∧ s'.mem = s.mem) ∧
    (∀ c, c < 64 → s.gf F.TRANS_ATTR_part_id c = 0 → v.toNat % 16 = 0 → ∃ s', exec (.transCtxWrite role true c v) s = .next s' ∧
      s'.gf F.TRANS_ATTR_open_access c = bitsN v.toNat 5 4 ∧ s'.gf F.TRANS_ATTR_part_id c = 0 ∧ s'.mem = s.mem) ∧
    (s.gb F.TRANS_INVAL_busy = false → s.epochFull = false → ∃ s', exec (.transInval role v) s = .next s' ∧
      s'.gb F.TRANS_INVAL_busy = true ∧ s'.xl.inval = some (v.toNat % 2 ^ 48)) ∧
    (s.gb F.TRANS_INVAL_busy = true → ∃ s', exec (.transInval role v) s = .next s' ∧ s'.gb F.TRANS_STATUS_inval_overrun = true ∧
      s'.xl = s.xl) ∧
    (∀ w, s.xl.inval = some w → ∃ s', exec .transInvalDone s = .next s' ∧ s'.gb F.TRANS_INVAL_busy = false ∧ s'.xl.inval = none ∧
      ∀ e ∈ s'.xl.tlb, (∀ u, xunitUnit e.unit = some u → unitAway s u = false) → invalHits w e = false) ∧
    (s.gb F.CAT_ROOT_enable = false → ∃ s', exec (.catRootWrite role v) s = .next s' ∧ s'.gf F.CAT_ROOT_enable = v.toNat % 2 ∧
      s'.gf F.CAT_ROOT_key_gen = bitsN v.toNat 5 4 ∧ s'.gf F.CAT_ROOT_root = bitsN v.toNat 51 16) ∧
    (∀ i w t s1 pa e ty key, s.xl.lockWait[i]? = some w → w.unit = .tile t →
      s.xlate w.unit w.ctx w.va w.acc (unitNode w.unit) = (.ok pa e ty key, s1) →
      ∃ s', exec (.lockedAccessRetry i) s = .next s' ∧ w ∉ s'.xl.lockWait ∧ s'.mem = s.mem)

/-- A failed check of R63 answers its status in the order walk, permission, partition, hole. A context of a sealed partition fetches only
from pages of its own partition: open_access permits no fetch (R63). -/
def Obligations.ChecksComeInOrder : Prop :=
  (
    ∀ (s : State) (ctx va acc node entry lg : Nat), acc ≤ 2 →
      let perm := if acc = accLoad then peRead entry else if acc = accStore then peWrite entry else peExec entry
      let partOk := pePart entry = s.gf F.TRANS_ATTR_part_id ctx ∨
        (pePart entry = 0 ∧ openPermits (s.gf F.TRANS_ATTR_open_access ctx) acc = true)
      (perm = false → (s.xlCheck ctx va acc node entry lg).1 = .fail St.permFault) ∧
      (perm = true → ¬ partOk → (s.xlCheck ctx va acc node entry lg).1 = .fail St.partFault) ∧
      (∀ pa e ty key, (s.xlCheck ctx va acc node entry lg).1 = .ok pa e ty key → perm = true ∧ partOk ∧ s.region pa ≠ .hole ∧ e = entry ∧ ty ≤ 4)) ∧
  (
    (∀ oa, openPermits oa accFetch = false) ∧ (∀ oa, openPermits oa accStore = true ↔ oa = 2) ∧
    (∀ oa, openPermits oa accLoad = true ↔ oa = 1 ∨ oa = 2))

/-- The core-reset domain (R79, R381, R382): a graceful reset starts the flush, a forced one takes steps 1 to 4 at once, and the cores boot
and run again. -/
def Obligations.CoreResetCompletes : Prop :=
  ∀ (s : State),
    (s.pcie.hcr.phase = 0 → exec (.coreResetGraceful .operator) s =
      .next (((s.coreStop false).onHcr (fun h => { h with phase := 1 })).both F.HCR_MEM_STATUS_flush_active 1)) ∧
    (s.pcie.hcr.phase = 0 → exec (.coreResetForced .operator) s = .next (s.coreStop true).coreForce) ∧
    (s.pcie.hcr.phase = 1 → exec (.coreResetForced .operator) s = .next (s.both F.HCR_CTRL_forced 1).coreForce) ∧
    (2 ≤ s.pcie.hcr.phase → ∃ s', exec (.coreResetForced .operator) s = .next s' ∧ s'.pcie.hcr.held = some true) ∧
    (s.pcie.hcr.phase = 1 → corePending s = false →
      exec .coreFlushDone s = .next (((s.agentLeave (agentH 0)).agentLeave (agentH 1)).coreDown false)) ∧
    (∀ d, s.pcie.hcr.phase = 2 → ∃ s', exec (.coreBoot d) s = .next s' ∧ s'.pcie.hcr.phase = 3) ∧
    (s.pcie.hcr.phase = 3 → s.pcie.hcr.held = none → ∃ s', exec .coreBootDone s = .next s' ∧ s'.pcie.hcr.phase = 0 ∧
      s'.gf F.HCR_CTRL_reset_req 0 = 0 ∧ s'.gf F.HCR_CTRL_reset_req 1 = 0)

/-- Requests at a line's home, of an agent other than a core. A line in use by nobody whose set has a way: RD_SHARED, RD_OWN and WATCH
allocate its entry and start the memory read, RD_ONCE and WR_PARTIAL read without one, WR_FULL writes; the only sharer's UPGRADE is
granted (R91, R93). The request keeps the key of its tags (R69). Requests of cores. One whose page the core attribute table does not
permit faults; a write to a line that the H-die's caches hold in M or E is performed there, a store and an AMO, the AMO's old value
answered; an AMO or a store whose data is yet to come is performed as GRANT makes the copy M; a cbo.clean of a line that no agent owns
ends with nothing to write back (R66, R75, R86, R105). A core's store or atomic is performed with its grant (log entries 115 and 129). A
request for an open line, or for one that others wait for, waits in the slice's conflict queue while that has room; a full queue leaves
it with its station (R93). -/
def Obligations.CoherenceRequestsOpenTransactions : Prop :=
  (
    ∀ (s : State) (a line node : Nat) (tag : ReqTag) (data : Bytes) (mask : List Bool),
      agentIn s a = true → coreHart a tag = none → s.homeOf (line * 64) = some node → s.lineOpen line = false →
      s.stationHeld { kind := .rdShared, agent := a, line := line } = false →
      (s.dirEnt? line = none → (s.setEntries line).length < 16 → s.coh.retryQ.any (fun q => sameSet s q.line line) = false →
        (agentIsTile a = true →
          (∃ s' t e, exec (.rdShared a line tag) s = .next s' ∧ s'.txn? line = some t ∧ t.req.agent = a ∧
            t.req.key = s.keyOf tag.part tag.gen ∧ t.memDue = true ∧ t.give = .E ∧ s'.dirEnt? line = some e ∧ e.cond = 1 ∧ e.owner = a) ∧
          (∀ wr, ∃ s' t e, exec (.rdOwn a line tag wr) s = .next s' ∧ s'.txn? line = some t ∧ t.req.agent = a ∧
            t.req.key = s.keyOf tag.part tag.gen ∧ t.memDue = true ∧ t.give = .M ∧ s'.dirEnt? line = some e ∧ e.cond = 1 ∧ e.owner = a)) ∧
        (agentIsTile a = true ∨ agentIsSeq a = true → (s.watched a).length < watchCap a →
          ∃ s' t e, exec (.watchReq a line tag) s = .next s' ∧ s'.txn? line = some t ∧ t.memDue = true ∧ t.give = .S ∧
            s'.dirEnt? line = some e ∧ e.cond = 0 ∧ e.sharers = [a])) ∧
      (s.dirEnt? line = none →
        (∃ s' t, exec (.rdOnce a line tag false) s = .next s' ∧ s'.txn? line = some t ∧ t.memDue = true ∧ s'.coh.dir = s.coh.dir) ∧
        (∃ s' t, exec (.wrPartial a line mask data tag) s = .next s' ∧ s'.txn? line = some t ∧ t.memDue = true ∧ s'.coh.dir = s.coh.dir) ∧
        (∃ s' t, exec (.wrFull a line data tag) s = .next s' ∧ s'.txn? line = some t ∧
          t.memW = some (sliceB data 0 64, s.keyOf tag.part tag.gen) ∧ s'.coh.dir = s.coh.dir ∧ s'.mem = s.mem)) ∧
      (∀ e wr, s.dirEnt? line = some e → e.cond = 0 → e.sharers = [a] → e.coarse = false → agentIsTile a = true →
        ∃ s' e', exec (.upgrade a line tag wr) s = .next s' ∧ s'.coh.net = s.coh.net ++ [.grant a line] ∧
          s'.dirEnt? line = some e' ∧ e'.cond = 1 ∧ e'.owner = a)) ∧
  (
    ∀ (s : State) (m line : Nat) (tag : ReqTag), m < 2 → holderIn s (agentH m) = true → encrypted (line * 64) = true →
      let a := agentH m
      let hart := 64 * m + tag.hart.getD 0 % 64
      (∀ s0, s.coreAccess hart (line * 64) = (.fault, s0) →
        ∀ wr, exec (.rdShared a line tag) s = .next (s0.emit (.coreFault hart (line * 64))) ∧
          exec (.rdOwn a line tag wr) s = .next (s0.emit (.coreFault hart (line * 64))) ∧
          exec (.upgrade a line tag wr) s = .next (s0.emit (.coreFault hart (line * 64)))) ∧
      (∀ key c, s.coreAccess hart (line * 64) = (.ok key false, s) → s.copy? a line = some c → c.st = .M ∨ c.st = .E → s.pinned line = false →
        (∀ off d,
          exec (.rdOwn a line tag (.store off d)) s = .next (s.setCopy a line { c with st := .M, data := sliceB (setSliceB c.data (off % 64) (d.take (64 - off % 64))) 0 64 })) ∧
        (∀ off size aop opnd nv,
          exec (.upgrade a line tag (.amo off size aop opnd nv)) s =
            .next ((s.setCopy a line { c with st := .M, data := setFieldB c.data off size (atomicNew aop size (fieldB c.data off size) opnd nv) }).emit
              (.atomicOld a (line * 64 + off) (fieldB c.data off size))))) ∧
      (∀ tx c off size aop opnd nv, s.txn? line = some tx → tx.req.wr = .amo off size aop opnd nv → tx.req.floor = false →
        .grant a line ∈ s.coh.net → s.copy? a line = some c →
        ∃ s', exec (.grantMsg a line) s = .next s' ∧
          s'.copy? a line = some { c with st := .M, data := setFieldB c.data off size (atomicNew aop size (fieldB c.data off size) opnd nv) } ∧
          .complete a line ∈ s'.coh.net ∧ s'.outbox = .atomicOld a (line * 64 + off) (fieldB c.data off size) :: s.outbox) ∧
      (∀ key floor node, s.coreAccess hart (line * 64) = (.ok key floor, s) → tag.pbmt = 0 → s.homeOf (line * 64) = some node → s.lineOpen line = false →
        s.stationHeld { kind := .clean, agent := a, line := line } = false → s.dirEnt? line = none →
        ∃ s', exec (.rdOnce a line tag true) s = .next s' ∧ s'.pinned line = false ∧ s'.mem = s.mem ∧ s'.outbox = .cleanDone a line :: s.outbox)) ∧
  (
    ∀ (s : State) (a line node : Nat) (tag : ReqTag), agentIn s a = true → coreHart a tag = none → s.homeOf (line * 64) = some node →
      s.lineOpen line = true → s.stationHeld { kind := .rdOnce, agent := a, line := line } = false →
      let r : Req := { kind := .rdOnce, agent := a, line := line, key := s.keyOf tag.part tag.gen, since := s.now }
      ((s.coh.conflictQ.filter (fun q => sameSlice s q.line line)).length < 64 →
        exec (.rdOnce a line tag false) s = .next (s.onCoh fun h => { h with conflictQ := h.conflictQ ++ [r] })) ∧
      (64 ≤ (s.coh.conflictQ.filter (fun q => sameSlice s q.line line)).length →
        exec (.rdOnce a line tag false) s = .next (s.onCoh fun h => { h with waitQ := h.waitQ ++ [{ r with held := true }] })))

/-- A far atomic on a Pod word returns the old value and writes the operation's result there (R104, R106); a load by address of a disabled
tile's window returns 0 and is counted, a store is dropped and counted (R9); windows in service are read and written (R58, R100); the
keys of a tile's lanes are written one by one (R142). -/
def Obligations.DirectAccessesComplete : Prop :=
  ∀ (s : State) (a pa n : Nat) (tag : ReqTag) (data : Bytes),
    (∀ size aop opnd newVal, agentIn s a = true → coreHart a tag = none → (size = 4 ∨ size = 8) → aop ≤ 9 → pa % size = 0 →
      s.region pa = .pod → Mem.wf s.mem = true → s.badWords = [] →
      ∃ s', exec (.atomicReq a pa size aop opnd newVal tag) s = .next s' ∧
        s'.outbox = .atomicOld a pa (leVal (s.sramRead pa size)) :: s.outbox ∧
        leVal (s'.sramRead pa size) = atomicNew aop size (leVal (s.sramRead pa size)) opnd newVal ∧ sameMemOutside pa size s s') ∧
    (∀ t off, t < 1152 → s.enabled t = false →
      (∃ s' l, exec (.absentTileAccess t off false) s = .next s' ∧ s'.outbox = .readData agentNone (tstoreBase t + off) (zerosB 8) :: (l ++ s.outbox) ∧
        s'.absent.atD (tileDie t) 0 = min (s.absent.atD (tileDie t) 0 + 1) (2 ^ 32 - 1) ∧ s'.mem = s.mem) ∧
      (∃ s', exec (.absentTileAccess t off true) s = .next s' ∧ s'.mem = s.mem ∧
        s'.absent.atD (tileDie t) 0 = min (s.absent.atD (tileDie t) 0 + 1) (2 ^ 32 - 1))) ∧
    (s.region pa = .pod → s.winOpen pa = true → 0 < n → s.region (pa + n - 1) = .pod → s.pieceBad pa n 4 = none →
      exec (.windowAccess a pa false n []) s = .next (s.emit (.readData a pa (s.sramRead pa n)))) ∧
    (s.region pa = .pod → s.winOpen pa = true → data ≠ [] → s.region (pa + data.length - 1) = .pod → s.badWords = [] → Mem.wf s.mem = true →
      ∃ s', exec (.windowAccess a pa true n data) s = .next s' ∧ s'.sramRead pa data.length = data ∧ sameMemOutside pa data.length s s') ∧
    (∀ t (key : Word64), t < 1152 → s.tileIn t = true →
      ∃ s', exec (.tileRngKeyWrite .seq t key) s = .next s' ∧
        (s'.tile t).rngKey.at? (s.gf F.TILE_RNG_LANE_lane t) = some key.toNat ∧
        s'.gf F.TILE_RNG_LANE_lane t = (s.gf F.TILE_RNG_LANE_lane t + 1) % 64)

/-- Snoops at their agent: SNP_SHARED leaves a tile's E copy in S, SNP_INV leaves no copy, SNP_ONCE leaves the copy as it is; each is
answered by an SNP_ACK (R87, R91, R92). A clean takes the owner's dirty data to the home (R75). The message of a clean and the state it
leaves its owner in are the model's choice (log entry 128). Messages back at the home and at the requester: the last SNP_ACK of an
RD_OWN whose owner sent the data leaves it waiting for COMPLETE; SNP_DATA is kept; DATA and GRANT install the granted state and send
COMPLETE, which closes the transaction; a presence acknowledgement lets its request go on; a request that waits for a closed line, or
for a way, is accepted (R91, R92, R93, R102, R107). -/
def Obligations.SnoopsAndMessagesComplete : Prop :=
  (
    ∀ (s : State) (a line : Nat), snoopWaits s a line = false →
      (∀ c, .snpShared a line ∈ s.coh.net → s.copy? a line = some c → c.st = .E →
        ∃ s', exec (.snpShared a line) s = .next s' ∧ s'.copy? a line = some { c with st := .S } ∧
          .snpAck a line (some .S) true false ∈ s'.coh.net ∧ .data (s.requesterOf line) line (some .S) c.data c.key ∈ s'.coh.net) ∧
      (.snpInv a line ∈ s.coh.net → ∃ s' gave carries, exec (.snpInv a line) s = .next s' ∧ s'.copy? a line = none ∧
        s'.wbBuf? a line = none ∧ .snpAck a line none gave carries ∈ s'.coh.net) ∧
      (∀ c t, .snpOnce a line ∈ s.coh.net → s.copy? a line = some c → c.st = .M → s.txn? line = some t → t.req.kind = .rdOnce →
        ∃ s', exec (.snpOnce a line) s = .next s' ∧ s'.copy? a line = some c ∧
          .snpAck a line (some .M) true false ∈ s'.coh.net ∧ .data t.req.agent line none c.data c.key ∈ s'.coh.net) ∧
      (∀ c t, .snpOnce a line ∈ s.coh.net → s.copy? a line = some c → c.st = .M → s.txn? line = some t → t.req.kind = .clean →
        ∃ s', exec (.snpOnce a line) s = .next s' ∧ .snpAck a line (some .E) false true ∈ s'.coh.net ∧
          .snpData a line c.data c.key ∈ s'.coh.net ∧ ∃ c', s'.copy? a line = some c' ∧ c'.data = c.data ∧ c'.st = .E)) ∧
  (
    ∀ (s : State) (a line : Nat),
      (∀ t left carries, s.coh.net.find? (fun m => match m with | .snpAck x l _ _ _ => x == a && l == line | _ => false) =
          some (.snpAck a line left true carries) → s.txn? line = some t → t.req.line = line → t.req.kind = .rdOwn → t.acks = [a] → t.dataDue = false →
        carries = false → t.memDue = false → t.presDue = none → t.victim = none → t.sent = false → t.done = false → t.memW = none →
        ∃ s' t', exec (.snpAck a line) s = .next s' ∧ s'.txn? line = some t' ∧ t'.acks = [] ∧ t'.sent = true ∧ t'.byOwner = true) ∧
      (∀ t d k, s.coh.net.find? (fun m => match m with | .snpData x l _ _ => x == a && l == line | _ => false) = some (.snpData a line d k) →
        s.txn? line = some t → t.acks ≠ [] →
        ∃ s', exec (.snpData a line) s = .next s' ∧ s'.txn? line = some { t with dirty := some (d, k), dataDue := false }) ∧
      (∀ c t, .grant a line ∈ s.coh.net → s.copy? a line = some c → s.txn? line = some t → t.req.wr = .none →
        ∃ s', exec (.grantMsg a line) s = .next s' ∧ s'.copy? a line = some { c with st := .M } ∧ .complete a line ∈ s'.coh.net) ∧
      (∀ t st b k, s.coh.net.find? (fun m => match m with | .data x l _ _ _ => x == a && l == line | _ => false) =
          some (.data a line (some st) b k) → s.txn? line = some t → t.req.wr = .none → agentIsTile a = true → holderIn s a = true →
        ∃ s' c, exec (.dataMsg a line) s = .next s' ∧ s'.copy? a line = some c ∧ c.st = st ∧ c.data = asKey line t.req.key (b, k) ∧
          c.key = t.req.key ∧ .complete a line ∈ s'.coh.net) ∧
      (∀ t, .complete a line ∈ s.coh.net → s.txn? line = some t → t.req.line = line → t.req.agent = a → t.req.kind = .rdOwn → t.acks = [] → t.dataDue = false →
        t.memDue = false → t.presDue = none → t.victim = none → t.sent = true → t.memW = none → t.wbs = [] →
        ∃ s', exec (.complete a line) s = .next s' ∧ s'.pinned line = false ∧ s'.mem = s.mem) ∧
      (∀ r stack region, s.coh.txns.rows.find? (fun r => r.2.presDue == some (stack, region)) = some r → r.2.memDue = true →
        ∃ s', exec (.presenceSetAck stack region) s = .next s' ∧ s'.txn? r.1 = some { r.2 with presDue := none }) ∧
      (∀ r node, s.pinned line = false → s.coh.conflictQ.find? (fun q => q.line == line) = some r → s.homeOf (line * 64) = some node →
        ∃ rest, rest.length + 1 = s.coh.conflictQ.length ∧
          exec (.conflictQueueAccept line) s = .next (((s.onCoh fun h => { h with conflictQ := rest }).acceptReq node r).letIn line)) ∧
      (∀ r node, s.coh.retryQ.find? (fun q => sameSet s q.line line) = some r → (s.setEntries r.line).length < 16 →
        s.homeOf (line * 64) = some node →
        ∃ rest, rest.length + 1 = s.coh.retryQ.length ∧
          let s0 := s.onCoh fun h => { h with retryQ := rest }
          exec (.retryQueueGrant line) s = .next ((if s.pinned r.line then s0.enqueue r else s0.openReq node r).letIn line)))

/-- Evictions and memory: an S line leaves silently, an E line by EVICT_CLEAN, which frees its entry, a dirty line by WB through the write-
back buffer, which WB_ACK empties; a WB is accepted whatever requests wait; a memory read supplies DATA, and the write acknowledgement
of WR_FULL performs the write, frees the entry and closes the transaction; that of a cbo.clean completes it (R75, R86, R90, R92, R94).
-/
def Obligations.EvictionsAndMemoryComplete : Prop :=
  ∀ (s : State) (a line : Nat),
    (∀ c, s.copy? a line = some c → ∃ s', exec (.cacheEvict a line) s = .next s' ∧ s'.copy? a line = none ∧ s'.mem = s.mem ∧
      (c.st = .S → s'.coh.net = s.coh.net) ∧ (c.st = .E → s'.coh.net = s.coh.net ++ [.evictClean a line]) ∧
      (c.st = .M ∨ c.st = .O → s'.coh.net = s.coh.net ++ [.wb a line c.data c.key] ∧ s'.wbBuf? a line = some c)) ∧
    (∀ e, .evictClean a line ∈ s.coh.net → s.dirEnt? line = some e → s.pinned line = false → e.cond = 1 → e.owner = a →
      ∃ s', exec (.evictClean a line) s = .next s' ∧ s'.dirEnt? line = none ∧ s'.mem = s.mem) ∧
    (∀ d k, s.coh.net.find? (fun m => match m with | .wb x l _ _ => x == a && l == line | _ => false) = some (.wb a line d k) →
      (∀ e, s.txn? line = none → s.dirEnt? line = some e → e.cond ≠ 0 → e.owner = a → (s.wbBuf? a line).isSome = true →
        ∃ s' t, exec (.wb a line) s = .next s' ∧ s'.txn? line = some t ∧ t.memW = some (d, k)) ∧
      (∀ t, s.txn? line = some t →
        ∃ s', exec (.wb a line) s = .next s' ∧ s'.txn? line = some { t with wbs := t.wbs ++ [(a, d, k)] } ∧ s'.mem = s.mem)) ∧
    (.wbAck a line ∈ s.coh.net → ∃ s', exec (.wbAck a line) s = .next s' ∧ s'.wbBuf? a line = none ∧ s'.mem = s.mem) ∧
    (∀ t, s.txn? line = some t → t.req.line = line → t.memDue = true → s.memBad line = false → t.req.kind = .rdShared → t.acks = [] → t.dataDue = false →
      t.presDue = none → t.victim = none → t.sent = false → t.done = false → t.memW = none → t.byOwner = false → t.dirty = none →
      ∃ s' , exec (.memReadDone line .clean) s = .next s' ∧ s'.mem = s.mem ∧
        s'.coh.net = s.coh.net ++ [.data t.req.agent line (some t.give) (s.memBytes t.req.key (line * 64) 64) t.req.key]) ∧
    (∀ t d k, s.txn? line = some t → t.req.line = line → t.memW = some (d, k) → t.acks = [] → t.dataDue = false →
      t.memDue = false → t.presDue = none → t.victim = none → t.sent = true → t.done = true → t.wbs = [] →
      (∀ b, t.req.kind = .wrFull b →
        ∃ s', exec (.memWriteAck line) s = .next s' ∧ s'.pinned line = false ∧ s'.dirEnt? line = none ∧ s'.mem = (s.memLine k line d).mem) ∧
      (t.req.kind = .clean →
        ∃ s', exec (.memWriteAck line) s = .next s' ∧ s'.pinned line = false ∧ s'.mem = (s.memLine k line d).mem ∧
          s'.outbox = .cleanDone t.req.agent line :: (s.memLine k line d).outbox))

/-- Requests, snoops and their answers move lines between agents and homes and leave memory as it is: only a write acknowledgement, the data
of an agent that has left service, the rebuild of a directory entry (R100) and a core's write to a page whose vis_floor is SYSTEM (R73)
write it. -/
def Obligations.CoherenceMessagesLeaveMemory : Prop :=
  ∀ (s s' : State) (a line : Nat) (tag : ReqTag) (clean : Bool) (data : Bytes) (mask : List Bool) (wr : CoreWr) (i : Instr),
    coreHart a tag = none → (∀ l t, s.txn? l = some t → t.req.floor = false) →
    (∀ r ∈ s.coh.conflictQ ++ s.coh.waitQ ++ s.coh.retryQ, r.kind ≠ .rebuild) →
    i ∈ [Instr.rdShared a line tag, .rdOwn a line tag wr, .upgrade a line tag wr, .rdOnce a line tag clean, .wrFull a line data tag,
         .wrPartial a line mask data tag, .watchReq a line tag, .snpShared a line, .snpInv a line, .snpOnce a line, .snpAck a line,
         .snpData a line, .grantMsg a line, .complete a line, .conflictQueueAccept line, .retryQueueGrant line, .cacheEvict a line,
         .wb a line, .evictClean a line, .wbAck a line] →
    exec i s = .next s' → s'.mem = s.mem

/-- Entries of a stream's ring: a stream is opened, fetches, and is closed; a NOP, a WAIT, a JOB and a MICROBATCH entry start in their turn,
and each has the effect its type has (R292 to R297, R305, R307). -/
def Obligations.StreamsComplete : Prop :=
  ∀ (s : State) (n st : Nat) (role : Role), n < 8 → st < 64 →
    (∀ v : Word32, s.mayWriteStream role n st (bitsN v.toNat 6 1) = true → strmOn s n st = false →
      ∃ s0 : State, s0.gf F.SEQ_STREAM_CTRL_ctx (sk n st) = bitsN v.toNat 6 1 ∧ s0.gf F.SEQ_STREAM_CTRL_priority (sk n st) = bitsN v.toNat 10 9 ∧
        s0.gf F.SEQ_STREAM_CTRL_ring_log2 (sk n st) = max 6 (min 20 (bitsN v.toNat 15 11)) ∧ s0.mem = s.mem ∧
        exec (.streamEnable role n st v) s =
          .next (if bitN v.toNat 0 then (s0.pf F.SEQ_STREAM_CTRL_enable (sk n st) 1).streamOpen n st else s0)) ∧
    (s.mayWriteStream role n st (strmCtx s n st) = true → strmOn s n st = true →
      ∃ s', exec (.streamDisable role n st) s = .next s' ∧ strmOn s' n st = false ∧ (s'.strm n st).fetched = []) ∧
    (s.mayWriteStream role n st (strmCtx s n st) = true → strmHalted s n st = true → (s.strm n st).stuck = false →
      ∃ s', exec (.haltClear role n st) s = .next s' ∧ strmHalted s' n st = false ∧ s'.mem = s.mem) ∧
    (∀ b s1, seqUp s n = true → strmOn s n st = true → strmHalted s n st = false → (s.strm n st).head < (s.strm n st).limit →
      (s.strm n st).fetched.length < 16 →
      s.vread (.seq n) (strmCtx s n st) ((s.strm n st).ring + (s.strm n st).head % strmSlots s n st * 64) 64 n = (.ok b, s1) →
      ∃ s2 : State, (s2.strm n st).fetched = (s1.strm n st).fetched ++ [((s1.strm n st).head, b)] ∧ (s2.strm n st).head = (s1.strm n st).head + 1 ∧
        exec (.entryFetch n st) s =
          .next (s2.scbPut n st 72 ((s.strm n st).head + 1))) ∧
    (∀ ent s1, s.starts n st 0 ((freeSlot s n).getD 0) ent s1 → cmplBad ent.entry = false →
      exec (.nopEntry n st) s = .next (s1.endEnt ent 0 0 0)) ∧
    (∀ ent s1 rs s2, s.starts n st 1 ((freeSlot s n).getD 0) ent s1 → jobBad s1 ent.entry = false →
      (tset n ent.entry).any (usable s1) = true → pinAbsent s1 n ent.entry = false → s1.reconvTable n ent.entry = (.ok rs, s2) →
      ∃ s' x, exec (.jobEntryStart n st) s = .next s' ∧ s'.job? n ent.slot = some x ∧ x.entry = ent.entry ∧ x.pos = ent.pos ∧
        x.order = s2.seq.nextOrder ∧ x.phase = 0 ∧ s'.seq.nextOrder = s2.seq.nextOrder + 1) ∧
    (∀ ent s1, s.starts n st 2 ((freeSlot s n).getD 0) ent s1 →
      let e := ent.entry
      let k := fieldB e 18 1
      let B := if fieldB e 12 4 = 0 then s1.odN 0x8020 1 else fieldB e 12 4
      let R := ceilDiv (fieldB e 8 4) (max B 1) + (s1.strm n st).report.length
      0 < k → k ≤ 15 → 0 < fieldB e 16 2 → cmplBad e = false → ((s1.strm n st).fetched.take k).any (fun p => entType p.2 ≠ 1) = false →
      fieldB e 24 8 = 0 → 0 < R →
      ∃ s' g, exec (.mbBegin n st) s = .next s' ∧ (s'.strm n st).group = some g ∧ g.rounds = min R (fieldB e 16 2) ∧
        g.jobs = (s1.strm n st).fetched.take k ∧ (s'.strm n st).fetched = (s1.strm n st).fetched.drop k ∧ (s'.strm n st).report = []) ∧
    (∀ m e g r rest, s.seq.ents.find? (fun e => e.die = n && entType e.entry = 2 && e.slot = m) = some e → (s.strm n e.stream).group = some g →
      g.running = false → g.sched = r :: rest → seqUp s n = true → seqHeld s n = false →
      exec (.mbRoundStart n m) s =
        .next (s.setStrm n e.stream (fun x => { x with group := some { g with running := true, cur := r, sched := rest, toStart := g.jobs } }))) ∧
    (∀ ent s1 s2 ok s4 pa key, s.starts n st 5 ((freeWait s n).getD 0) ent s1 → fieldB ent.entry 24 1 ≤ 1 → fieldB ent.entry 8 8 % 8 = 0 →
      cmplBad ent.entry = false → s1.watchTarget (.seq n) (fieldB ent.entry 25 1 % 64) (fieldB ent.entry 8 8) n = (.ok (pa, key), s2) →
      s2.lineBad (lineOf pa) = false →
      (s2.onSeq (fun q => { q with ents := q.ents.map (fun x =>
        if x.die = n && x.stream = st && x.pos = ent.pos then { x with line := lineOf pa } else x) })).shareNow (agentSeq n) (lineOf pa) key true
          = (ok, s4) →
      (ok = false → exec (.waitEntry n st) s =
        .next (s4.homeReq { kind := .watch, agent := agentSeq n, line := lineOf pa, key := key })) ∧
      (ok = true → waitMet ent.entry (s4.cohRead key pa 8) = false →
        exec (.waitEntry n st) s = .next (s4.waitSaw ent (leVal (s4.cohRead key pa 8)))) ∧
      (ok = true → waitMet ent.entry (s4.cohRead key pa 8) = true →
        exec (.waitEntry n st) s = .next (s4.endWait { ent with line := lineOf pa } 0))) ∧
    (∀ w e, s.seq.ents.find? (fun e => e.die = n && entType e.entry = 5 && e.slot = w) = some e → fieldB e.entry 28 4 ≠ 0 →
      exec (.waitTimeout n w) s = .next (s.endWait e St.timeout))

/-- A lap is placed in a tile's queued slot, starts there with every group at the code address and all threads active, holding its Pannier
stack, and ends with the tile idle (R148, R186, R247, R300 to R302). -/
def Obligations.LapsComplete : Prop :=
  ∀ (s : State) (t : Nat),
    (∀ j x i again, s.tileIn t = true → seqUp s (tileDie t) = true → seqHeld s (tileDie t) = false → tileCurrent s t = true →
      (s.tile t).queued = none →
      (jobsOf s (tileDie t)).findSome? (fun p => (lapFor (tileDie t) p.2 t).map (fun l => (p.1, p.2, l.1, l.2))) = some (j, x, i, again) →
      again = true ∨ lapBefore s (tileDie t) x i = false →
      ∃ s' l, exec (.lapDispatch t) s = .next s' ∧ (s'.tile t).queued = some l ∧ l.die = tileDie t ∧ l.job = j ∧ l.index = i ∧
        l.code = fieldB x.entry 8 8 ∧ l.groups = min 64 (fieldB x.entry 2 1) ∧ l.rerun = again ∧
        l.args = (fieldB x.entry 16 8 + x.round * fieldB x.entry 32 4 + i * fieldB x.entry 28 4) % 2 ^ 64 ∧ s'.mem = s.mem) ∧
    (∀ l, (s.tile t).queued = some l → (s.tile t).lap = none → s.tileIn t = true → seqUp s l.die = true → seqHeld s l.die = false →
      tileCurrent s t = true → stackFree s l = true → l.groups ≤ 64 → l.panStack < 144 →
      ∃ s' l', exec (.lapStart t) s = .next s' ∧ (s'.tile t).queued = none ∧ (s'.tile t).lap = some l' ∧ l'.index = l.index ∧
        l'.gear = s.gearOf l.die ∧ (∀ g, g < l.groups → (s'.group t g).pc = l.code ∧ (s'.group t g).active = allMask ∧ (s'.group t g).exited = 0) ∧
        s'.gf F.TILE_STATUS_state t = 2 ∧ s'.gf F.TILE_STATUS_groups_live t = l.groups ∧ s'.gf F.TILE_ERR_INFO_status t = 0 ∧
        s'.gf F.PAN_INFO_held (pk l.die l.panStack) = 1 ∧ s'.mem = s.mem) ∧
    (∀ l, (s.tile t).lap = some l → lapOver s t = true →
      ∃ s', exec (.lapEnd t) s = .next s' ∧ (s'.tile t).lap = none ∧ (s'.tile t).groups = {} ∧ (s'.tile t).stopped = false ∧
        s'.gf F.TILE_STATUS_state t = 1 ∧ s'.gf F.TILE_STATUS_groups_live t = 0)

/-- A job of unscaled tensors ends after its last lap, re-converts its drained rows, and completes its entry; a STEP_END of no collective is
swept at once (R220, R302, R303, R309). The re-converted elements go to a free address (log entry 13). -/
def Obligations.JobsComplete : Prop :=
  ∀ (s : State) (n j : Nat) (x : Job), s.job? n j = some x →
    (x.phase = 0 → x.status = 0 → x.laps ≤ x.ended → x.hands = [] → s.jobQuiet n j = true → s.tableOn (s.domainOf n) = false →
      ∃ s', exec (.jobLastLapEnd n j) s = .next s' ∧ s'.job? n j = some { x with phase := x.nextPhase } ∧ s'.mem = s.mem) ∧
    (x.phase = 0 → x.status = 0 → x.laps ≤ x.ended → x.hands = [] → x.recompute = false → s.jobQuiet n j = true → s.tableOn (s.domainOf n) = true →
      x.produced.any (s.entLocked (s.domainOf n)) = false → x.produced.filter (fun tid => s.triggers (s.domainOf n) x [] tid) = [] →
      exec (.jobLastLapEnd n j) s = .next (s.setJob n j { x with phase := 3 })) ∧
    (∀ r rest, x.phase = 2 → x.todo = r :: rest →
      let tid := fieldB r 0 3
      let dst := (Config.openResult 0x74 tid).toNat + 2 ^ 32 * (Config.openResult 0x75 tid).toNat
      (∀ p cs s1, s.tableOn (s.domainOf n) = true → x.drows.filter (fun p => p.1 = tid) = [p] →
        s.reconvRun n x r (useScale (s.entRead (s.domainOf n) tid)) p.2.1 p.2.2 = (.ok cs, s1) →
        exec (.reconversionDone n j) s =
          .next ((s1.vwrite (.seq n) x.ctx (dst % 2 ^ 47 + p.2.1 * typeBits (fieldB r 3 1) / 8)
            (packElems (fieldB r 3 1) cs) n).2.onJob n j (fun x => { x with todo := rest, phase := if rest = [] then 3 else 2 }))) ∧
      (s.tableOn (s.domainOf n) = false →
        exec (.reconversionDone n j) s = .next (s.setJob n j { x with todo := rest, phase := if rest = [] then 3 else 2 }))) ∧
    (∀ e, x.phase = 3 → s.jobQuiet n j = true → s.seq.ents.find? (fun e => e.die = n && e.stream = x.stream && e.pos = x.pos) = some e →
      ∃ (s1 : State) (r : CRec), s1.job? n j = none ∧ r.status = x.status ∧ r.lapsDone = x.clean ∧ r.failTile = x.failTile ∧
        exec (.jobComplete n j) s = .next (s1.endJobEnt e x.used r)) ∧
    (∀ st ent s1, s.starts n st 6 ((freeSlot s n).getD 0) ent s1 → cmplBad ent.entry = false → fieldB ent.entry 8 8 = 0 →
      exec (.stepEnd n st) s = .next (s1.onSeq (fun q => { q with ents := q.ents.map (fun x =>
        if x.die = ent.die && x.stream = ent.stream && x.pos = ent.pos then { x with swept := some 0 } else x) })))

/-- The scaling engine: SBIND reads its table entry into the slot; the table is enabled with a validation fold, and each stack's part of a
fold leaves the fold's list, the last one ending the fold (R159, R212 to R215, R219). -/
def Obligations.ScalingCompletes : Prop :=
  ∀ (s : State) (t k st d : Nat) (role : Role),
    (let sl := s.slot t (k % 16)
     let pa := s.entPa (s.domainOf (tileDie t)) sl.tid
     let d := s.domainOf (tileDie t)
     sl.complete = false → (s.tile t).lap.isSome = true →
     (s.tableOn d = false → exec (.sbindComplete t k) s = .next (s.setSlot t (k % 16) (fun x => { tid := x.tid, complete := true, bound := true }))) ∧
     (s.tableOn d = true → (s.num.foldDue.atD d []).any (·.stack = hbmStack s.hbmMode pa) = false → s.pageLocked pa = false →
      s.region pa = .hbm → s.physBad pa 256 = none →
      ∃ s', exec (.sbindComplete t k) s = .next s' ∧ (s'.slot t (k % 16)).complete = true ∧ (s'.slot t (k % 16)).bound = true ∧
        (s'.slot t (k % 16)).record = sliceB (s.entRead d sl.tid) 64 128 ∧ s'.mem = s.mem)) ∧
    (d < 16 → s.mayWriteDom role d = true → s.tableOn d = false → tableFits s d = true →
      ∃ s', exec (.validationFold role d) s = .next s' ∧ s'.tableOn d = true ∧
        s'.num.foldDue.atD d [] = s.num.foldDue.atD d [] ++
          (s.domainDies d).flatMap (fun n => [⟨2 * n, false, true⟩, ⟨2 * n + 1, false, true⟩])) ∧
    (∀ f, (s.num.foldDue.atD d []).find? (fun f => f.stack = st) = some f → s.blkState (stackDie st) (8 + st % 2) = 0 → s.nme.locked = [] →
      ∃ s', exec (.fold st d) s = .next s' ∧ s'.num.foldDue.atD d [] = (s.num.foldDue.atD d []).erase f ∧
        ((s.num.foldDue.atD d []).erase f = [] → s'.gf F.NUM_STATUS_fold_busy d = 0))

/-- The Pannier: a push with room starts behind the frames there, its end grows the stack by the frame; a pop of a resident frame writes the
tile and lowers the top (R249 to R251, R256, R257). The mover and the Pannier's registers: a spill or fill of the stack whose turn it is
starts, its end moves bottom and counts its lines; PAN_CMD, PAN_SIZES and PAN_CTRL (R252 to R255, R258, R260). -/
def Obligations.PannierCompletes : Prop :=
  (
    ∀ (s : State) (t : Nat) (l : Lap), (s.tile t).lap = some l → l.rerun = false →
      let n := l.die
      let k := l.panStack
      (∀ i o pend, panNextPush (s.tile t).panQ 0 = some (i, o, pend) → o.push = true → o.behind = 0 → panBlocked s n k = none →
        panEnd s n k ≤ panTop s n k → panEnd s n k + pend + frameSize o.len ≤ panCap s n →
        panEnd s n k + pend + frameSize o.len - panLow s n k ≤ panRing s n →
        ∃ s', exec (.ppushStart t) s = .next s' ∧ s'.mem = s.mem ∧ s'.regs = s.regs ∧
          (s'.tile t).panQ = (s.tile t).panQ.zipIdx.map (fun p => if p.2 = i then { p.1 with started := true, off := panEnd s n k + pend } else p.1)) ∧
      (∀ o rest s1, (s.tile t).panQ = o :: rest → o.push = true → o.started = true → panUp s n = true →
        s.rangeBad (tstoreBase t + o.addr) o.len = none →
        let r := panRecord o.len o.tag (panFrames s n k) l.index (s.stepOf (s.domainOf n))
        s.panWrite n k (panEnd s n k) (r ++ s.sramRead (tstoreBase t + o.addr) o.len ++ r) (panBottom s n k ≤ panEnd s n k) = (.ok (), s1) →
        exec (.ppushDone t) s = .next ((panSet s1 n k (panTop s1 n k + frameSize o.len) (panEnd s1 n k + frameSize o.len) (panBottom s1 n k)
          (panFrames s1 n k + 1)).panFinish t)) ∧
      (∀ o rest s1 s2 start data, (s.tile t).panQ = o :: rest → o.push = false → o.behind = 0 → panBlocked s n k = none → o.xpose = false →
        let s0 := s.onJob n l.job fun x => if x.popOrg.has l.index then x else { x with popOrg := x.popOrg.put l.index (panTop s n k) }
        s0.panFrame n k (panTop s0 n k) o false = (.ok start, s1) → panBottom s1 n k ≤ start →
        s1.panRead n k (start + 64) o.len true = (.ok data, s2) →
        ∃ s', exec (.ppopDone t) s = .next s' ∧ s'.mem = (s2.sramWrite (tstoreBase t + o.addr) data).mem ∧
          panTop s' n k = start % 2 ^ (F.PAN_TOP_top.hi + 1 - F.PAN_TOP_top.lo))) ∧
  (
    ∀ (s : State) (n k len : Nat) (role : Role), n < 8 → k < 144 →
      (∀ s1, panTurn s n 0 (panDemandable s n) = none → panTurn s n 1 (panPrefetchable s n) = none → panTurn s n 2 (panSpillable s n) = some k →
        s.panLenAt n k (panBottom s n k) true = (.ok len, s1) →
        ∃ s', exec (.spillStart n k) s = .next s' ∧ s'.panMove? n k = some { spill := true, off := panBottom s1 n k, size := frameSize len }) ∧
      (∀ s1, panTurn s n 0 (panDemandable s n) = none → panTurn s n 1 (panPrefetchable s n) = some k →
        s.panLenAt n k (panBottom s n k - 64) false = (.ok len, s1) → frameSize len ≤ panBottom s1 n k →
        ∃ s', exec (.prefetchFillStart n k) s = .next s' ∧
          s'.panMove? n k = some { spill := false, off := panBottom s1 n k - frameSize len, size := frameSize len, demand := false }) ∧
      (∀ s1, panTurn s n 0 (panDemandable s n) = some k →
        s.panLenAt n k (panBottom s n k - 64) false = (.ok len, s1) → frameSize len ≤ panBottom s1 n k →
        ∃ s', exec (.demandFillStart n k) s = .next s' ∧
          s'.panMove? n k = some { spill := false, off := panBottom s1 n k - frameSize len, size := frameSize len, demand := true }) ∧
      (∀ m bs s1 s2, s.panMove? n k = some m → s.panRead n k m.off m.size m.spill = (.ok bs, s1) →
        s1.panWrite n k m.off bs (!m.spill) = (.ok (), s2) →
        ∃ s', exec (.moveDone n k) s = .next s' ∧ s'.panMove? n k = none ∧ s'.mem = s2.mem ∧
          panBottom s' n k = (if m.spill then m.off + m.size else m.off) % 2 ^ (F.PAN_BOTTOM_bottom.hi + 1 - F.PAN_BOTTOM_bottom.lo)) ∧
      (s.mmioRole role = true → panHeld s n k = false →
        ∀ v : Word32, bitsN v.toNat 7 0 = k → bitN v.toNat 8 = false → bitN v.toNat 9 = true →
        ∃ s', exec (.panClear role n v) s = .next s' ∧ panTop s' n k = 0 ∧ panEnd s' n k = 0 ∧ panBottom s' n k = 0 ∧ panFrames s' n k = 0 ∧
          s'.panMove? n k = none) ∧
      (s.mmioRole role = true → s.gb F.PAN_CTRL_enable n = false →
        (∀ v : Word64, ∃ s', exec (.panSizesWrite role n v) s = .next s' ∧ s'.gf F.PAN_SIZES_ring_mib n = max 8 (min 4096 (bitsN v.toNat 15 0)) ∧
          s'.gf F.PAN_SIZES_wmark_mib n + 3 ≤ s'.gf F.PAN_SIZES_ring_mib n ∧
          s'.gf F.PAN_SIZES_prefetch_mib n + 3 ≤ s'.gf F.PAN_SIZES_wmark_mib n) ∧
        (∀ v : Word32, bitN v.toNat 0 = true → ∃ s', exec (.panEnable role n v) s = .next s' ∧ s'.gb F.PAN_CTRL_enable n = true ∧
          s'.gf F.PAN_CTRL_ctx n = bitsN v.toNat 6 1 ∧ ∀ k, k < 144 → panTop s' n k = 0 ∧ panFrames s' n k = 0)))

/-- Every arithmetic instruction of the NME puts, in each lane of the loaded block, the operation's result of its three sources into rd and
leaves the lane's other registers; END writes the block back (R264 to R266). The program store: a word of the bank that is not active is
written, the active bank refuses, and commit stands (R267, R268). -/
def Obligations.NmeProgramsComplete : Prop :=
  (
    ∀ (s : State) (st : Nat) (a : NmeArgs), nmeIn s st = true → (s.nmeU st).loaded = true →
      (a.rd < 16 → a.sa < 32 → a.sb < 32 → a.sc < 32 →
        ∀ (i : Instr) (op : Nat), (i, op) ∈ [(Instr.nmeMov st a, 0x02), (.nmeAdd st a, 0x03), (.nmeSub st a, 0x04), (.nmeMul st a, 0x05),
            (.nmeFma st a, 0x06), (.nmeFnma st a, 0x07), (.nmeDiv st a, 0x08), (.nmeSqrt st a, 0x09), (.nmeRsq st a, 0x0A), (.nmeExp2 st a, 0x0B),
            (.nmeLog2 st a, 0x0C), (.nmeMin st a, 0x0D), (.nmeMax st a, 0x0E), (.nmeAbs st a, 0x0F), (.nmeNeg st a, 0x10), (.nmeSign st a, 0x11),
            (.nmeClamp st a, 0x12), (.nmeSelge st a, 0x13)] →
          let cs := match (s.nmeU st).sweep with | some x => x.consts | none => []
          ∃ s' : State, exec i s = .next s' ∧ s'.mem = s.mem ∧ (s'.nmeU st).lanes.length = (s.nmeU st).lanes.length ∧
            ∀ (k : Nat) (lane : List Nat), (s.nmeU st).lanes[k]? = some lane → ∃ v f,
              nmeOp op (s.gb F.NME_CTRL_ftz st) (laneSrc lane cs a.sa) (laneSrc lane cs a.sb) (laneSrc lane cs a.sc) = some (v, f) ∧
              (s'.nmeU st).lanes[k]? = some (lane.set a.rd v)) ∧
      exec (.nmeNop st 0) s = .next s ∧
      (∀ op, op ≠ 0 → exec (.nmeNop st op) s = .next (s.pf F.NME_STATUS_reserved_encoding st 1)) ∧
      (∀ x s0 s1, (s.nmeU st).sweep = some x → x.ended = false → (s.nmeU st).restart = false →
        let u := s.nmeU st
        let q := x.shard x.curU
        Tx.shardRanges st x q s = (.ok (), s0) →
        Tx.shardOut st x q (512 * u.blk) (u.lanes.take (min 512 (shElems q - 512 * u.blk))) s0 = (.ok (), s1) →
        ∃ s', exec (.nmeEnd st) s = .next s' ∧ s'.mem = s1.mem ∧ (s'.nmeU st).loaded = false ∧ (s'.nmeU st).blk = (s1.nmeU st).blk + 1)) ∧
  (
    ∀ (s : State) (role : Role) (st bank i : Nat) (v : Word64), s.mayWriteNme role st = true →
      (s.gf F.NME_PROG_CTRL_active st ≠ bank % 2 → s.gb F.NME_PROG_CTRL_commit st = false → i < 64 →
        ∃ s', exec (.nmeProgWrite role st bank i v) s = .next s' ∧ s'.mem = s.mem ∧
          s'.gf F.NME_PROG_word (progIdx st bank i) = v.toNat % 2 ^ (F.NME_PROG_word.hi + 1 - F.NME_PROG_word.lo)) ∧
      (s.gf F.NME_PROG_CTRL_active st = bank % 2 →
        exec (.nmeProgWrite role st bank i v) s = .next (s.pf F.NME_STATUS_prog_write_refused st 1)) ∧
      (∃ s', exec (.progCommit role st) s = .next s' ∧ s'.gf F.NME_PROG_CTRL_commit st = 1 ∧ s'.mem = s.mem))

/-- A sweep starts on every participant, goes from phase to phase, updates and derives shard by shard, compares digests and commits (R269 to
R281, R306). -/
def Obligations.SweepsComplete : Prop :=
  ∀ (s : State) (st : Nat),
    (∀ n q ent s1 s2 s3 b r, s.starts n q 3 ((freeSlot s n).getD 0) ent s1 → cmplBad ent.entry = false →
      let va := fieldB ent.entry 8 8
      let ctx := fieldB ent.entry 16 1 % 64
      s1.vread (.seq ent.die) ctx va 256 ent.die = (.ok b, s2) → fieldB b 32 8 % 64 = 0 →
      s2.vread (.seq ent.die) ctx (fieldB b 32 8) 64 ent.die = (.ok r, s3) → sweepParts b ≠ [] →
      fieldB r 8 8 ≠ s3.stepOf (s3.domainOf ent.die) → s3.nme.sweeps.any (fun t => t.ctx = ctx && t.desc = va) = false →
      (sweepParts b).any (fun k => (s3.nmeU k).sweep.isSome) = false →
      ∃ s', exec (.sweep n q) s = .next s' ∧ ∀ k ∈ sweepParts b, ∃ x, (s'.nmeU k).sweep = some x ∧ x.ctx = ctx ∧ x.desc = va ∧
        x.step = s3.stepOf (s3.domainOf ent.die) ∧ s'.gf F.NME_STATUS_phase k = 1) ∧
    (∀ x t y h r s1 s2 s3 s4 s5 c qv u, (s.nmeU st).sweep = some x → topOf s x = some t → x.phase = 1 → x.ended = false → nmeRuns s st = true →
      nmeCurrent s st = true → Tx.phaseN st x s = (.ok (y, h), s1) → Tx.nread st x x.res 64 s1 = (.ok r, s2) → fieldB h 5 1 = 0 →
      fieldB h 16 8 ≠ x.step → Tx.verdictOf st y t s2 = (.ok (some (c, qv, u, false)), s3) →
      Tx.nwrite st y (y.list st + 5) ([1, 0, 0] ++ zerosB 8 ++ leBytes 8 y.step) s3 = (.ok (), s4) →
      Tx.enter st y (if y.flag 0 then 2 else 3) (s4.onSweep st (fun _ => { y with c := c, used := u })) = (.ok (), s5) →
      exec (.sweepPhaseN st) s = .next (s5.sweepSettle x)) ∧
    (∀ x r s1 s2, (s.nmeU st).sweep = some x → x.phase = 2 → x.ended = false → nmeRuns s st = true →
      Tx.nread st x (fieldB x.bytes 24 8) 16 s = (.ok r, s1) → fieldB r 15 1 = 1 →
      Tx.nwrite st x (x.list st + 5) (leBytes 1 3) s1 = (.ok (), s2) →
      ∃ s', exec (.sweepMrDone st) s = .next s' ∧ s'.gf F.NME_STATUS_phase st = 3 ∧ s'.mem = s2.mem) ∧
    (∀ d t y s1, s.nme.sweeps.filter (fun t => t.dom = d) = [t] → t.parts = [st] → (s.nmeU st).sweep = some y → y.phase = 3 → y.done = true →
      y.ended = false → Tx.nwrite st y (y.list st + 5) (leBytes 1 4) s = (.ok (), s1) →
      ∃ s', exec (.sweepBarrier d) s = .next s' ∧ s'.gf F.NME_STATUS_phase st = 4) ∧
    (∀ x s1 s2, (s.nmeU st).sweep = some x → x.phase = 3 → x.ended = false → x.done = false → nmeRuns s st = true →
      (s.nmeU st).held.contains x.curU = false → Tx.update st x x.curU s = (.ok (), s1) →
      Tx.nwrite st x (x.list st + 8) (leBytes 4 (x.curU + 1)) s1 = (.ok (), s2) →
      ∃ s', exec (.sweepShardUpdate st) s = .next s' ∧ s'.mem = s2.mem ∧
        (s'.nmeU st).sweep = (s2.nmeU st).sweep.map (fun x => { x with curU := x.curU + 1, done := x.curU + 1 ≥ x.count })) ∧
    (∀ tid, (s.nmeU st).prefNet.any (·.1 = tid) = true → nmeIn s st = true → (s.nmeU st).pref.any (·.1 = tid) = false →
      (s.nmeU st).pref.length < 4096 →
      ∃ s', exec (.prefoldRequest st tid) s = .next s' ∧ (s'.nmeU st).pref = (s.nmeU st).pref ++ [(tid, false)] ∧
        (s'.nmeU st).prefNet = (s.nmeU st).prefNet.filter (·.1 ≠ tid) ∧ s'.mem = s.mem) ∧
    (∀ t, s.nme.sweeps.find? (fun t => t.parts.any (fun k => match (s.nmeU k).sweep with | some y => y.phase = 4 && !y.ended | none => false)) = some t →
      nmeRuns s st = true → (s.nmeU st).pref.any (fun p => !p.2 && s.entLocked t.dom p.1) = false →
      ∃ s', exec (.sweepPrefold st) s = .next s' ∧ ∀ p ∈ (s'.nmeU st).pref, p.2 = true) ∧
    (∀ x s1 s2, (s.nmeU st).sweep = some x → x.phase = 5 → x.ended = false → x.done = false → nmeRuns s st = true →
      (s.nmeU st).held.contains x.curD = false → (s.nmeU st).redo ≠ some x.curD →
      Tx.derive st x x.curD (1 - x.live) (s.setNme st (fun u => { u with redo := none })) = (.ok (), s1) →
      Tx.nwrite st x (x.list st + 12) (leBytes 4 (x.curD + 1)) s1 = (.ok (), s2) →
      ∃ s', exec (.sweepShardDerive st) s = .next s' ∧ s'.mem = s2.mem ∧
        (s'.nmeU st).sweep = (s2.nmeU st).sweep.map (fun x => { x with curD := x.curD + 1, done := x.curD + 1 ≥ x.count })) ∧
    (∀ x e d ref own s1 s2, (s.nmeU st).sweep = some x → x.phase = 6 → x.ended = false → x.done = false → nmeRuns s st = true →
      x.gear ≠ gearFixed → delivery s (deliveryDie s x.dom st) x.dcoll x.step = some e → fieldB e 8 1 = 0 → bitN (fieldB e 10 1) 2 = false →
      s.nme.digests.at? (deliveryDie s x.dom st * 65536 + x.dcoll) = some d →
      Tx.nread st x x.dtab (16 * x.count) s = (.ok own, s1) →
      Tx.read (.nme st) d.ctx (d.dst + st % 2 * (d.size / 2)) (min (d.size / 2) (16 * x.count)) (stackDie st) s1 = (.ok ref, s2) →
      exec (.sweepPhaseX st) s = .next ((s2.each ((List.range x.count).filter (fun i => fieldB own (16 * i) 8 ≠ fieldB ref (16 * i) 8))
        (fun i s => s.digestAsk st i x.step d)).onSweep st (fun x => { x with done := true }))) ∧
    (∀ x s1 s2, (s.nmeU st).sweep = some x → x.phase = 7 → x.ended = false → x.digest = false → nmeRuns s st = true →
      Tx.nwrite st x (x.list st + 4) [BitVec.ofNat 8 (1 - x.live), 0, 0] s = (.ok (), s1) → Tx.resOp st x 24 0 1 0 s1 = (.ok (), s2) →
      (s2.nmeU st).waiting.filter (fun p => p.2.1 = x.step % 2 ^ 32) = [] →
      ∃ s3 : State, s3.gf F.NME_STATUS_phase st = 0 ∧ s3.gf F.NME_STATUS_last_status st = 0 ∧ (s3.nmeU st).last = some { x with live := 1 - x.live } ∧
        s3.mem = s2.mem ∧ exec (.sweepCommit st) s = .next (s3.sweepSettle x))

/-- Repairs between replicas, here of one package: a request is served from the live image in pieces and its CRC, the pieces are written,
and an end whose CRC agrees frees the shard; a refusal holds the repair, and a retry asks again (R284, R285). The NME of the same place
and the pieces of 4,096 bytes are the model's reading (log entry 148). -/
def Obligations.RepairsComplete : Prop :=
  ∀ (s : State) (st shard step die : Nat), nmeIn s st = true →
    (∀ x img s1, (s.nmeU st).sweep = none → (s.nmeU st).last = some x → (s.nmeU st).held.contains shard = false → shard < x.count →
      Tx.image st x (x.shard shard) x.live s = (.ok img, s1) →
      exec (.repairReq st shard step die none) s = .next ((s1.each (List.range (ceilDiv img.length 4096)) (fun j s =>
        s.emit (.nme (2 * die + st % 2) 1 shard step (4096 * j) ((img.drop (4096 * j)).take 4096)))).emit
          (.nme (2 * die + st % 2) 2 shard step 0 (leBytes 8 (crc64 img))))) ∧
    (∀ x off data s1, repairOf s st shard step = some x → Tx.imageWrite st x (x.shard shard) off data s = (.ok (), s1) →
      exec (.repairData st shard step off data none) s = .next s1) ∧
    (∀ x img s1 s2, repairOf s st shard step = some x → Tx.image st x (x.shard shard) x.live s = (.ok img, s1) →
      Tx.derive st x shard x.live s1 = (.ok (), s2) →
      ∃ s', exec (.repairEnd st shard step (crc64 img) none) s = .next s' ∧ shard ∉ (s'.nmeU st).held ∧ s'.mem = s2.mem) ∧
    (∀ reason, (s.nmeU st).repairs.any (fun r => r.shard = shard && r.step % 2 ^ 32 = step && r.phase = 0) = true →
      exec (.repairNak st shard step reason none) s = .next (s.repairFails st shard)) ∧
    (∀ r, (s.nmeU st).repairs.find? (fun r => r.shard = shard && r.phase = 1) = some r → r.conn = 0xFFFF →
      exec (.repairRetry st shard) s = .next ((s.onRepair st shard (fun r => { r with phase := 0 })).emit
        (.nme (2 * r.die + st % 2) 0 shard (r.step % 2 ^ 32) 0 [])))

/-- Re-encryption: go writes the control register and starts, each chunk goes through the journal and is written under the new generation,
and a page that is done changes its leaves, its counts and its place (R286 to R289, R387). -/
def Obligations.ReEncryptionCompletes : Prop :=
  ∀ (s : State) (role : Role) (st m k : Nat) (mc : Bool) (v : Word64),
    (s.mayWriteNme role st = true → s.rk? st = none →
      ∃ s0 : State, s0.gf F.NME_REKEY_CTRL_ctx st = bitsN v.toNat 5 0 ∧ s0.gf F.NME_REKEY_CTRL_desc st = bitsN v.toNat 47 8 ∧ s0.mem = s.mem ∧
        exec (.rekeyGo role st v) s =
          .next (if bitN v.toNat 6 && rkUp s0 st then s0.rkGo st (bitsN v.toNat 5 0) (bitsN v.toNat 47 8 * 256) else s0)) ∧
    (m < 2 → s.mmioRole role = true → s.rk? (16 + m) = none →
      ∃ s0 : State, s0.gf F.MC_REKEY_CTRL_ctx m = bitsN v.toNat 5 0 ∧ s0.gf F.MC_REKEY_CTRL_desc m = bitsN v.toNat 47 8 ∧ s0.mem = s.mem ∧
        exec (.mcRekeyGo role m v) s =
          .next (if bitN v.toNat 6 && rkUp s0 (16 + m) then s0.rkGo (16 + m) (bitsN v.toNat 5 0) (bitsN v.toNat 47 8 * 256) else s0)) ∧
    (∀ r s1 s2, s.rk? (rkUnit mc k) = some r → r.leaves ≠ [] → rkUp s (rkUnit mc k) = true →
      let u := rkUnit mc k
      let pa := r.pa + 4096 * r.chunk
      let r' := { r with chunk := r.chunk + 1 }
      4096 * r.chunk < r.size → s.rangeBad pa 4096 = none →
      let data := s.cohRead (s.keyOf r.part r.oldG) pa 4096
      Tx.write (rkX u) r.ctx r.journal data (rkNode u) s = (.ok (), s1) →
      Tx.rkSave u r' false (((s1.each (List.range 64) (fun i s => s.invalidateAll (lineOf pa + i))).rkPut r data).setRk u r') = (.ok (), s2) →
      exec (.rekeyChunkDone mc k) s = .next s2) ∧
    (∀ r s2 s3, s.rk? (rkUnit mc k) = some r → r.leaves ≠ [] → rkUp s (rkUnit mc k) = true → r.size ≤ 4096 * r.chunk →
      let u := rkUnit mc k
      let n := r.size / 4096
      let s0 := ((s.onLeaves r.leaves (fun e => setBitsN (setBitsN e 53 52 r.newG) 4 4 0)).dropPage r.pa r.size).moveUnits r.part r.oldG r.newG n
      let s0 : State := { s0 with nme := { s0.nme with locked := s0.nme.locked.filter (· != (r.pa, r.size)) } }
      let s1 := if u < 16 then s0.bump64 .NME_REKEY_PAGES u n else s0.bump64 .MC_REKEY_PAGES (u - 16) n
      let r' := { r with page := r.page + 1, chunk := 0, leaves := [] }
      Tx.rkSave u r' false (s1.setRk u r') = (.ok (), s2) → Tx.rkSeek u (r.count - r'.page + 1) r' s2 = (.ok (), s3) →
      exec (.rekeyPageDone mc k) s = .next s3)

/-- Ethernet links: they go down and up, retrain, change mode, and carry frames; a frame with a bad FCS is dropped and counted, one of MKA
goes to the RoT, and any other that MACsec and the buffers let through is steered (R318 to R321, R326, R330, R331). An overlong frame
counts as one with a bad FCS: the model's choice (log entry 151). Priority flow control: a class over xon is paused again, a PFC frame
pauses its classes, the pause ends by time or by the watchdog, which then ignores PFC for its time (R322, R323). MACsec associations: a
new key is accepted beside the old and transmits from packet number 1, a retired one is gone, and when the lifetime of MKA ends the link
has none (R326, R327). MKA starts anew after its life time expires: the model's choice (log entry 153). Virtual network functions:
enabled with the heads of their rings, they send what is posted and moderate their interrupts (R332, R333). -/
def Obligations.EthernetCompletes : Prop :=
  (
    ∀ (s : State) (p l : Nat) (role : Role), linkThere s p l = true →
      (∀ corr unc, linkUp s p l = true → ∃ s', exec (.linkDown p l corr unc) s = .next s' ∧ linkUp s' p l = false ∧
        (s'.link (linkNo p l)).lost = true ∧ s'.mem = s.mem) ∧
      (portIn s p = true → ∃ s0, linkUp s0 p l = true ∧ (s0.link (linkNo p l)).lost = false ∧
        (s0.link (linkNo p l)).txQ = (s.link (linkNo p l)).txQ ∧
        exec (.linkUp p l) s = .next (s0.each (List.range 8) (fun l s => s.drainLink p l))) ∧
      (portIn s p = true → s.gb F.PORT_STATUS_retraining p = true → ∃ s1 : State, s1.gb F.PORT_STATUS_retraining p = false ∧ s1.gf F.PORT_STATUS_retrain_timeout p = 1 ∧
        exec (.retrainTimeout p) s =
          .next ((((s1.each (connsOn s1 p) (fun c s => s.atFail (portDie p) c)).raise (portDie p) (portBlk p) 1 false 0).settle).drlGo)) ∧
      (portIn s p = true → s.gb F.PORT_STATUS_retraining p = false → (s.link (linkNo p l)).lost = true → l < 8 →
        exec (.retrainTimeout p) s = .next ((s.raise (portDie p) (portBlk p) 1 false 0).settle.drlGo)) ∧
      (s.mmioRole role = true → portIn s p = true →
        (∃ s', exec (.portRetrain role p) s = .next s' ∧ s'.gb F.PORT_STATUS_retraining p = true ∧ s'.gf F.PORT_STATUS_link_up p = 0 ∧ s'.mem = s.mem) ∧
        (∀ mode, s.gf F.PORT_CTRL_mode p ≠ mode % 4 → ∃ s', exec (.portModeWrite role p mode) s = .next s' ∧ s'.gf F.PORT_CTRL_mode p = mode % 4 ∧
          s'.gb F.PORT_STATUS_retraining p = true)) ∧
      (∀ (corr unc : Nat) (f : Frame), portIn s p = true → linkUp s p l = true →
        let s1 := (s.fecCount (linkNo p l) corr unc).bump64 .LINK_RX_FRAMES (linkNo p l)
        (f.fcsOk = false ∨ macMax < macLen f → exec (.frameRx p l f corr unc) s = .next (s1.bump .LINK_RX_DROP (linkNo p l))) ∧
        (f.fcsOk = true → macLen f ≤ macMax →
          (isPfcFrame f = true → exec (.frameRx p l f corr unc) s =
            exec (.pfcRx p l (f.be (f.l3 + 2) 2 % 256) ((List.range 8).map (fun c => f.be (f.l3 + 4 + 2 * c) 2))) s1) ∧
          (isPfcFrame f = false → isEapol f = true → ∃ s', exec (.frameRx p l f corr unc) s = .next s' ∧
            s'.eth.rxd = (.rot, linkNo p l, f) :: s.eth.rxd) ∧
          (isPfcFrame f = false → isEapol f = false → isPtp f = false → f.isIp = false → macsecOk s1 (linkNo p l) f = true →
            occupancy s (linkNo p l) (classOf f) + f.bytes.length ≤
              1024 * (s1.gf F.PORT_CLASS_xoff_kib (p * 8 + classOf f) + s1.gf F.PORT_CLASS_headroom_kib (p * 8 + classOf f)) →
            portOccupancy s p + f.bytes.length ≤ 12 * 2 ^ 20 →
            ∃ s0 : State, s0.mem = s.mem ∧ exec (.frameRx p l f corr unc) s = .next (s0.steer p l f)))) ∧
      (∀ (cls : Nat) (f : Frame), isEapol f = true → isPtpEvent f = false → macLen f ≤ macMax → portIn s p = true → linkUp s p l = true →
        s.gb F.PORT_STATUS_retraining p = false → (s.link (linkNo p l)).paused.contains (cls % 8) = false → (s.link (linkNo p l)).txQ = [] →
        ∃ s', exec (.frameTx p l cls f) s = .next s' ∧ s'.outbox = .frame p l (cls % 8) f f.bytes :: s.outbox)) ∧
  (
    ∀ (s : State) (p l c : Nat), linkThere s p l = true → c < 8 → l < 8 →
      let k := linkNo p l
      ((s.link k).xoff.contains c = true → 1024 * s.gf F.PORT_CLASS_xon_kib (p * 8 + c) < occupancy s k c →
        ∃ s', exec (.pfcRepeat p l c) s = .next s' ∧ s'.mem = s.mem ∧
          s'.outbox = .pfc p l (2 ^ c) ((List.range 8).map (fun i => if i = c then 0xFFFF else 0)) :: s.outbox) ∧
      (∀ mask quanta, portIn s p = true → linkUp s p l = true → bitN mask c = true → (s.link k).deaf.contains c = false →
        ∃ s0 : State, ((quanta.getD c 0 ≠ 0 → c ∈ (s0.link k).paused) ∧ (quanta.getD c 0 = 0 → c ∉ (s0.link k).paused)) ∧
          exec (.pfcRx p l mask quanta) s = .next (s0.drainLink p l)) ∧
      ((s.link k).paused.contains c = true → exec (.pfcPauseExpiry p l c) s = .next (s.unpause p l c)) ∧
      ((s.link k).paused.contains c = true → s.gf F.PORT_PFC_WD_wd_ms p ≠ 0 →
        ∃ s0 : State, c ∈ (s0.link k).deaf ∧ s0.gf F.PORT_STATUS_pfc_wd p = 1 ∧ exec (.pfcWatchdog p l c) s = .next (s0.unpause p l c)) ∧
      (∃ s', exec (.pfcWdEnd p l c) s = .next s' ∧ c ∉ (s'.link k).deaf ∧ s'.mem = s.mem)) ∧
  (
    ∀ (s : State) (p l an : Nat),
      let k := linkNo p l
      (linkThere s p l = true → an < 4 → (s.link k).rx.any (·.1 = an) = false → s.gb F.ROT_STATUS_error = false →
        exec (.sakInstall p l an) s =
          .next ((s.setLink k (fun x => { x with rx := x.rx ++ [(an, 1)], tx := some (an, 1), asked := false
                                                 saks := x.saks + 1, sak := x.sak.put an x.saks })).secureBit p l)) ∧
      (∃ s0 : State, (s0.link k).rx.any (·.1 = an) = false ∧ (∀ pn, (s0.link k).tx ≠ some (an, pn)) ∧
        exec (.sakRetire p l an) s = .next (s0.secureBit p l)) ∧
      (linkThere s p l = true → (s.link k).rx ≠ [] →
        exec (.mkaLifetimeExpiry p l) s =
          .next ((((s.setLink k (fun x => { x with rx := [], tx := none })).secureBit p l).mkaStart k).notice (portDie p) (portBlk p) 3))) ∧
  (
    ∀ (s : State) (v : Nat) (role : Role),
      (v < 256 → privRole role = true → (s.vnf v).on = false →
        (List.range 256).any (fun w => w ≠ v && (s.vnf w).on && vnfLink s w = vnfLink s v && vnfMac s w = vnfMac s v) = false →
        ∃ s', exec (.vnfEnable role v) s = .next s' ∧ (s'.vnf v).on = true ∧ (s'.vnf v).quiet = false) ∧
      (∀ b s1 h s2, vnfUp s v = true → s.gb F.PORT_STATUS_retraining (vnfLink s v / 8) = false →
        s.vread (vnfX v) (vnfCtx s v) (vnfCtl s v 8) 8 (vnfNode v) = (.ok b, s1) →
        (s1.vnf v).txHead ≤ fieldB b 0 8 → fieldB b 0 8 - (s1.vnf v).txHead ≤ max 1 (vnfCfg s1 v 5) →
        vnfSend (fieldB b 0 8 - (s1.vnf v).txHead) s1 v (s1.vnf v).txHead (fieldB b 0 8) = (.ok h, s2) →
        ∃ s3 : State, (s3.vnf v).txHead = h ∧
          exec (.vnfTxPoll v) s = .next (s3.vwrite (vnfX v) (vnfCtx s3 v) (vnfCtl s3 v 8 + 8) (leBytes 8 h) (vnfNode v)).2) ∧
      ((s.vnf v).due = false → ∃ s', exec (.vnfItrExpiry v) s = .next s' ∧ (s'.vnf v).quiet = false ∧ s'.outbox = s.outbox) ∧
      ((s.vnf v).due = true → exec (.vnfItrExpiry v) s =
        .next (((s.setVnf v (fun x => { x with quiet := false, due := false })).msiOut (vnfNode v) (vnfCfg s v 12) (vnfCfg s v 13 % 2 ^ 32)).setVnf v
          (fun x => { x with quiet := true, due := false }))))

/-- Connections of Aedian Transport: the engine is enabled, a connection opens, negotiates, is established with the agreed version, and
closes or is reset; a refusal of every version stands (R338, R343, R344, R347). -/
def Obligations.ConnectionsComplete : Prop :=
  ∀ (s : State) (n c : Nat) (role : Role),
    (n < 8 → s.mmioRole role = true → s.gb F.AT_CTRL_enable n = false →
      ∃ s', exec (.atEnable role n) s = .next s' ∧ s'.gb F.AT_CTRL_enable n = true ∧ s'.at'.conns = s.at'.conns ∧ s'.mem = s.mem) ∧
    (let s1 := (s.pf F.AT_CONN_CMD_conn n c).pf F.AT_CONN_CMD_op n 1
     let e := s1.physRead (s1.gf F.AT_CONN_BASE_pa n + 128 * c) 64
     s.mmioRole role = true → s.gb F.AT_CONN_CMD_busy n = false → atOn s n = true → c < s1.gf F.AT_CONN_COUNT_count n → (s.conn n c).state = 0 →
     s1.gf F.TRANS_ATTR_part_id (fieldB e 2 1 % 64) = 0 → 0 < fieldB e 10 1 → fieldB e 10 1 ≤ 4 →
     (List.range (min (fieldB e 10 1) 4)).any (fun i => fieldB e (32 + 8 * i) 1 / 24 ≠ n) = false →
     ∃ s2 : State, (s2.conn n c).state = 1 ∧ (s2.conn n c).entry = e ∧ (s2.conn n c).npaths = fieldB e 10 1 ∧
       exec (.connOpen role n c) s = .next (if (s2.conn n c).perm 3 then s2.sendHello n c else s2)) ∧
    (∀ s1, connCmd s role n c 2 = some s1 → c < s1.gf F.AT_CONN_COUNT_count n → (s1.conn n c).state ≠ 0 → (s1.conn n c).unacked = [] →
      ∃ s2 : State, (s2.conn n c).state = 0 ∧ (s2.conn n c).queue = [] ∧ exec (.connClose role n c) s = .next s2.drlGo) ∧
    (∀ s1, connCmd s role n c 3 = some s1 → c < s1.gf F.AT_CONN_COUNT_count n → (s1.conn n c).state ≠ 0 →
      ∃ s2 : State, (s2.conn n c).state = 0 ∧ (s2.conn n c).unacked = [] ∧ exec (.connReset role n c) s = .next s2.drlGo) ∧
    (∀ (b : HelloBody) v p w np ft inc, let s1 := s.atTake n
      atOn s1 n = true → b.senderPkg = (s1.conn n c).remotePkg → (s1.conn n c).refused = false →
      agree (s1.conn n c) b = some (v, p, w, np, ft, inc) →
      ((s1.conn n c).state = 1 → (s1.conn n c).perm 3 = false →
        ∃ s2 : State, (s2.conn n c).state = 2 ∧ (s2.conn n c).ver = v ∧ (s2.conn n c).rxNext = 0 ∧ exec (.hello n c b) s = .next s2.drlGo) ∧
      ((s1.conn n c).state = 1 →
        ∃ s2 : State, (s2.conn n c).state = 2 ∧ (s2.conn n c).ver = v ∧ (s2.conn n c).window = w ∧ exec (.helloAck n c b) s = .next s2.drlGo)) ∧
    (let s1 := s.atTake n
     atOn s1 n = true → (s1.conn n c).state = 1 →
     ∃ s2 : State, (s2.conn n c).state = 3 ∧ (s2.conn n c).refused = true ∧ exec (.helloNak n c 8) s = .next s2.drlGo) ∧
    (atOn s n = true → ((s.conn n c).state = 1 ∧ (s.conn n c).perm 3 = true) ∨ (s.conn n c).state = 3 → (s.conn n c).refused = false →
      exec (.helloTimer n c) s = .next (s.sendHello n c))

/-- Packets of Aedian Transport: a packet in order is performed and the next sequence number awaited; operations are queued and sent;
acknowledgements, timeouts and congestion change their connection (R335, R339 to R341, R345). What a received operation of Aedian
Transport does at its connection's context: a write is performed there, a read is answered with the bytes, an atomic with the old value;
without the permission it is answered OP_DENIED (R336, R339). -/
def Obligations.TransportPacketsComplete : Prop :=
  (
    ∀ (s : State) (n : Nat) (h : AtHdr),
      let c := h.conn
      (∀ (i : Instr) (op : AtRx), (∃ va d, i = .atWrite n h va d ∧ op = .write va d) ∨ (∃ va len id, i = .readReq n h va len id ∧ op = .readReq va len id) ∨
          (∃ id off code d, i = .readResp n h id off code d ∧ op = .readResp id off code d) ∨
          (∃ va aop size opnd nv, i = .atAtomic n h va aop size opnd nv ∧ op = .atomic va aop size opnd nv) ∨
          (∃ rp code old, i = .atomicResp n h rp code old ∧ op = .atomicResp rp code old.toNat) ∨
          (∃ psn code, i = .atNak n h psn code ∧ op = .nak psn code) →
        let s0 := (s.atTake n).atAcked n c h.ack
        ∀ s1, atKnown (s.atTake n) n h = true → h.psn % 2 ^ 32 = (s0.conn n c).rxNext → s0.atPerform n c (s0.conn n c).rxNext op = some s1 →
          (s1.conn n c).held = [] → s1.at'.cached.contains (ck n c) = true → h.ackReq = false → h.ce = false → (s1.conn n c).owed < 15 →
          ∃ s2 : State, (s2.conn n c).rxNext = mod32 ((s0.conn n c).rxNext + 1) ∧ s2.mem = s1.mem ∧ exec i s = .next s2.drlGo) ∧
      (∀ conn issuer op, n < 8 → atOn s n = true → (s.conn n conn).state = 2 → (s.conn n conn).closing = false →
        exec (.atOpIssue n conn issuer op) s =
          .next (((s.setConn n conn (fun x => { x with queue := x.queue ++ [(issuer, op)] })).atGo n conn).drlGo)) ∧
      (∀ sack, let s0 := (s.atTake n).atAcked n c h.ack
        atKnown (s.atTake n) n h = true → (s0.conn n c).ver ≠ 3 → exec (.atAck n h sack) s = .next s0.drlGo) ∧
      (let s0 := s.atTake n
       atKnown s0 n h = true → ∃ s', exec (.cnp n h) s = .next s' ∧ (s0.at'.cached.contains (ck n c) = true → s'.mem = s0.mem) ∧
         (s'.conn n c).alpha = (s0.conn n c).alpha.decay.add { m := 1, e := 4 }) ∧
      (∀ conn, atOn s n = true → (s.conn n conn).state = 2 →
        (0 < (s.conn n conn).owed → exec (.ackTimer n conn) s = .next (s.atSendAck n conn)) ∧
        (∃ s', exec (.rateIncreaseTimer n conn) s = .next s' ∧ (s'.conn n conn).periods = (s.conn n conn).periods + 1 ∧
          (s.at'.cached.contains (ck n conn) = true → s'.mem = s.mem)) ∧
        (∃ s', exec (.alphaDecayTimer n conn) s = .next s' ∧ (s'.conn n conn).alpha = (s.conn n conn).alpha.decay ∧
          (s.at'.cached.contains (ck n conn) = true → s'.mem = s.mem)) ∧
        ((s.conn n conn).unacked ≠ [] → atStopped s n (s.conn n conn) = false → (s.conn n conn).timeouts + 1 < (s.conn n conn).retryMax →
          ∃ s1 : State, (s1.conn n conn).rto = min 8000000 (2 * (s.conn n conn).rto) ∧
            (s1.conn n conn).timeouts = (s.conn n conn).timeouts + 1 ∧ exec (.rtoExpiry n conn) s = .next s1.drlGo))) ∧
  (
    ∀ (s : State) (n c psn va : Nat),
      let x := s.conn n c
      (∀ d s1, x.perm 0 = true → s.vwrite (.at n) x.ctx va d n = (.ok (), s1) → s.atPerform n c psn (.write va d) = some s1) ∧
      (∀ d, x.perm 0 = false → s.atPerform n c psn (.write va d) = some (s.atSendNak n c psn 7)) ∧
      (∀ len id b s1, x.perm 1 = true → 0 < len → len ≤ 2 ^ 16 → s.vread (.at n) x.ctx va len n = (.ok b, s1) →
        s.atPerform n c psn (.readReq va len id) = some (s1.atReadBack n c id b)) ∧
      (∀ len id, x.perm 1 = false → s.atPerform n c psn (.readReq va len id) = some (s.atSendNak n c psn 7)) ∧
      (∀ aop opnd nv pa e ty key s1, x.perm 2 = true → s.xlate (.at n) x.ctx va accStore n = (.ok pa e ty key, s1) → va % 4 = 0 →
        s1.region pa ≠ .mmio → s1.region pa ≠ .bar → s1.lineBad (lineOf pa) = false →
        ∃ s2, s.atPerform n c psn (.atomic va aop 2 opnd nv) = some s2 ∧ s2.mem = (s1.atomicMem key pa 4 aop opnd nv).2.mem) ∧
      (∀ aop size opnd nv, x.perm 2 = false → s.atPerform n c psn (.atomic va aop size opnd nv) = some (s.atSendNak n c psn 7)))

/-- A COLL entry whose descriptor names an operation and whose checks pass becomes an instance of the Derailleur, which starts at its time
or instant; one whose staging does not fit waits (R348, R350 to R353, R356). -/
def Obligations.CollectivesStart : Prop :=
  ∀ (s : State) (n st c : Nat),
    (∀ ent s1 d s2 s4 op, s.starts n st 4 ((freeSlot s n).getD 0) ent s1 → cmplBad ent.entry = false → s1.blkIn n 4 = true →
      drlCurrent s1 n = true → drlOn s1 n = true →
      (s1.wake (.drl n)).vread (.drl n) (fieldB ent.entry 16 1 % 64) (fieldB ent.entry 8 8) 64 n = (.ok d, s2) →
      fieldB d 0 1 = op → fieldB d 4 2 = c → c ≠ 0xFFFF → s2.inst? n c = none →
      s2.drl.ended.at? (ik n c) ≠ some (s2.stepOf (s2.domainOf n)) → (instsOf s2 n).length < 16 →
      (let x : Inst := { stream := st, pos := ent.pos, desc := d, step := s2.stepOf (s2.domainOf n), gear := s2.gearOf n
                         bank := s2.gf F.DRL_RT_CTRL_active n, members := [(0xFFFF, n)] }
       Tx.instSetup n x ((s2.onDrl (fun g => { g with insts := g.insts.put (ik n c) x })).drlCount n) = (.ok (), s4)) →
      ∀ i, (i, op) ∈ [(Instr.allReduce n st, 0), (.reduceScatter n st, 1), (.allGather n st, 2), (.allToAll n st, 3), (.dispatch n st, 4),
          (.combine n st, 5), (.gradDispatch n st, 6), (.gradCombine n st, 7), (.verdict n st, 8), (.digest n st, 9)] →
        exec i s = .next (s4.instTime n c)) ∧
    (∀ x, s.inst? n c = some x → drlIn s n = true →
      (stageFits s n x = true →
        (x.stage = 0 → x.start ≤ s.dieTime n → exec (.collStartInstant n c) s =
          .next ((((s.setInst n c (fun x => { x with stage := 2 })).stageWaits n).instBegin n c).drlGo)) ∧
        (x.stage = 1 → exec (.stageReserve n c) s =
          .next ((((s.setInst n c (fun x => { x with stage := 2 })).stageWaits n).instBegin n c).drlGo))) ∧
      (stageFits s n x = false → x.stage = 0 → x.start ≤ s.dieTime n →
        ∃ s' x', exec (.collStartInstant n c) s = .next s' ∧ s'.inst? n c = some x' ∧ x'.stage = 1 ∧ s'.mem = s.mem))

/-- Messages of the Derailleur: one for a running instance is taken by it, one that comes before its instance is held, and an instance that
hears nothing for its time fails with 0x82 (R357, R372, R373). What a running instance does with a message: an ABORT ends it with detail
0x81 (R372), a header of another step or group with 0x83 (R357), and a position outside the group is counted as a bad message. The
verdict between the dies, the unit's enable, and its route banks (R359, R364, R374). -/
def Obligations.DerailleurMessagesComplete : Prop :=
  (
    ∀ (s : State) (n : Nat) (m : DrlMsg), n < 8 → drlOn s n = true → s.blkIn n 4 = true →
      (∀ (i : Instr) (kind : Nat), (i, kind) ∈ [(Instr.drlCount n m none, 0), (.drlAllow n m none, 1), (.drlRow n m none, 2), (.drlPart n m none, 3),
          (.drlData n m none, 4), (.drlResult n m none, 5), (.drlEnd n m none, 6), (.drlAbort n m none, 7)] →
        (∀ t, msgRuns (s.wake (.drl n)) n m = some true → (s.wake (.drl n)).takeMsg n kind m = some t → exec i s = .next t.drlGo) ∧
        (msgRuns (s.wake (.drl n)) n m = none →
          (s.drl.early.filter (fun r => r.1 = n && r.2.2.collId = m.collId && r.2.2.step = m.step && r.2.2.senderPos = m.senderPos)).length < 2 →
          exec i s = .next ((s.wake (.drl n)).onDrl (fun d => { d with early := d.early ++ [(n, kind, m)] })).drlGo) ∧
        (msgRuns (s.wake (.drl n)) n m = some false → exec i s = .next ((s.wake (.drl n)).drlBad n).drlGo)) ∧
      (∀ c x, s.inst? n c = some x → x.stage = 2 → exec (.drlTimeout n c) s = .next ((s.instFail n c 0x82).drlGo))) ∧
  (
    ∀ (s : State) (n kind : Nat) (m : DrlMsg) (x : Inst), s.inst? n m.collId = some x →
      (m.senderPos < x.count → s.takeMsg n 7 m = some (s.instFail n m.collId 0x81)) ∧
      (m.senderPos < x.count → kind < 7 → fits x kind m.seg = true → headerBad x m.hdr = true →
        s.takeMsg n kind m = some (s.instFail n m.collId 0x83)) ∧
      (x.count ≤ m.senderPos → s.takeMsg n kind m = some (s.drlBad n))) ∧
  (
    ∀ (s : State) (n k : Nat) (role : Role),
      (∀ t, s.drl.termNet.find? (fun t => t.to' = n && t.from' = k) = some t → s.blkIn n 4 = true →
        msgRuns s n { collId := t.coll, step := t.step } = some true →
        ∃ s1 : State, t ∉ s1.drl.termNet ∧ s1.mem = s.mem ∧ exec (.verdictTerm n k) s = .next ((s1.verdictMerge n t.coll).drlGo)) ∧
      (∀ r x, s.drl.resNet.find? (fun r => r.to' = n) = some r → s.inst? n r.coll = some x → x.step = r.step → x.op = 8 → r.status = 0 →
        ∃ s1 : State, s1.gb F.DRL_STATUS_step_nf n = false ∧ s1.drl.norms.at? n = none ∧
          exec (.verdictResult n) s = .next ((s1.instEnd n r.coll 0 0).drlGo)) ∧
      (∀ v : Word32, n < 8 → s.mayWriteDom role (s.domainOf n) = true → drlAreasOk s n = true →
        ∃ s', exec (.drlEnable role n v) s = .next s' ∧ s'.gf F.DRL_CTRL_enable n = v.toNat % 2 ∧
          s'.gf F.DRL_CTRL_timeout n = max 1 (bitsN v.toNat 15 8) ∧ s'.mem = s.mem) ∧
      (∀ i off (v : Word64), n < 8 → s.mayWriteDom role (s.domainOf n) = true → i < 16384 → off % 8 = 0 → off + 8 ≤ 32 →
        (s.gb F.DRL_RT_CTRL_commit n = false →
          let key := routeKey n (shadowBank s n) i
          ∃ s', exec (.routeWindowWrite role n false i off 8 v) s = .next s' ∧ s'.mem = s.mem ∧
            s'.drl.routes = s.drl.routes.put key (setFieldB (sliceB (s.drl.routes.atD key []) 0 32) off 8 v.toNat)) ∧
        (s.gb F.DRL_RT_CTRL_commit n = true →
          exec (.routeWindowWrite role n false i off 8 v) s = .next (s.pf F.DRL_STATUS_rt_write_refused n 1))) ∧
      (n < 8 → s.mayWriteDom role (s.domainOf n) = true →
        ∃ s', exec (.routeCommit role n) s = .next s' ∧ s'.gb F.DRL_RT_CTRL_commit n = true ∧ s'.drl = s.drl ∧ s'.mem = s.mem) ∧
      (n < 8 → s.gb F.DRL_RT_CTRL_commit n = true → n ∉ s.drl.saved → s.blkIn n 4 = true →
        ∃ s', exec (.routeSaveDone n) s = .next s' ∧ n ∈ s'.drl.saved ∧
          s'.mem = (s.physWrite (s.gf F.DRL_RT_SAVE_pa n * 2 ^ 20 + shadowBank s n * 2 ^ 20) (bankImage s n (shadowBank s n))).mem))

/-- Interrupt files, peer requests, device entries and links of PCIe: an MSI sets its pending bit, a translated read answers its bytes, a
request without a device entry is a fault of kind 5; entries are invalidated; links recover, go down and train (R380, R388, R390 to
R395). -/
def Obligations.PcieCompletes : Prop :=
  ∀ (s : State) (m : Nat) (role : Role),
    (∀ pa f (data : Word32), msiFile pa = some (m, f, 0) → 0 < data.toNat → data.toNat ≤ 2047 → s.pcie.hcr.phase = 0 → s.dieIn (8 + m) = true →
      ∃ s', exec (.imsicMsi pa 4 data) s = .next s' ∧ (m * 640 + f) * 2048 + data.toNat ∈ s'.pcie.imsic ∧ s'.mem = s.mem) ∧
    (∀ rid addr len e ps b ideT s1 s2 s3, m < 2 → rid < 65536 → s.dieIn (8 + m) = true →
      s.pcie.wait.any (fun w => w.1 = m && w.2.1 = rid && ordered w.2.2.2.2) = false → s.devEntry m rid = (.ok (some e), s1) →
      s1.gf F.TRANS_ATTR_part_id (bitsN e 6 1) = 0 → s1.xlRange (.iommu m) (bitsN e 6 1) addr len accLoad (8 + m) = (.ok ps, s2) →
      s2.peerRead m ps = (.ok b, s3) → s3.flt.due = [] → peerGone s3 m rid = false →
      exec (.peerRequest m rid addr ideT (.read len)) s = .next (s3.emit (.peerCpl m rid 0 b))) ∧
    (∀ rid addr ideT op s1, m < 2 → rid < 65536 → s.dieIn (8 + m) = true →
      s.pcie.wait.any (fun w => w.1 = m && w.2.1 = rid && ordered w.2.2.2.2) = false → s.devEntry m rid = (.ok none, s1) →
      s1.gb F.IOMMU_FAULT_first_fault m = false →
      ∃ s', exec (.peerRequest m rid addr ideT op) s = .next s' ∧ s'.gf F.IOMMU_FAULT_first_fault m = 5 ∧
        s'.gf F.IOMMU_FAULT_rid m = rid ∧ s'.mem = s1.mem) ∧
    (∀ v : Word32, m < 2 → s.mmioRole role = true → s.gb F.IOMMU_DT_INVAL_go m = false →
      exec (.iommuDtInval role m v) s = .next (s.wr .IOMMU_DT_INVAL m (v.toNat % 2 ^ 18))) ∧
    (m < 2 → s.gb F.IOMMU_DT_INVAL_go m = true → ∃ s', exec (.iommuDtInvalDone m) s = .next s' ∧ s'.gb F.IOMMU_DT_INVAL_go m = false ∧
      s'.mem = s.mem ∧ (s.gb F.IOMMU_DT_INVAL_all m = true → ∀ r ∈ s'.pcie.dtCache.rows, r.1 / 65536 ≠ m)) ∧
    (∀ r l, pcieThere s r l = true →
      let k := linkIdx r l
      (s.gb F.PCIE_LINK_up k = true → s.gb F.PCIE_LINK_recovery k = false →
        ∃ s', exec (.pcieRecoveryEnter r l) s = .next s' ∧ s'.gb F.PCIE_LINK_recovery k = true) ∧
      (s.gb F.PCIE_LINK_recovery k = true → ∃ s0 : State, s0.gb F.PCIE_LINK_recovery k = false ∧ (s0.pcie.links.atD k {}).queue = [] ∧
        (s0.pcie.links.atD k {}).replay = (s.pcie.links.atD k {}).replay ++ (s.pcie.links.atD k {}).queue ∧
        exec (.pcieRecoveryExit r l) s = .next (s0.each (dmaOn s0 k) (fun c s => s.dmaRun c.1 c.2 false))) ∧
      (s.gb F.PCIE_LINK_up k = true → ∃ (s0 : State) (cnt : Nat × Nat → Nat), s0.gb F.PCIE_LINK_up k = false ∧ s0.gf F.PCIE_LINK_down_event k = 1 ∧
        s0.pcie.links.atD k {} = {} ∧ exec (.pcieLinkDown r l) s =
          .next ((s0.each (dmaOn s0 k) (fun c s => s.dmaLost c.1 c.2 (cnt c))).notice (8 + k / 16) (16 + k % 16 / 4) 0)) ∧
      (∀ speed width flit cxl, s.gb F.PCIE_LINK_up k = false → 0 < speed → speed ≤ 6 → 0 < width → width ≤ 16 / pcieLinks s r →
        s.dieIn (8 + r / 4) = true →
        ∃ s', exec (.pcieLinkUp r l speed width flit cxl) s = .next s' ∧ s'.gb F.PCIE_LINK_up k = true ∧ s'.gf F.PCIE_LINK_speed k = speed ∧
          s'.gf F.PCIE_LINK_width k = width ∧ s'.gb F.PCIE_LINK_cxl k = cxl ∧ s'.mem = s.mem))

/-- Mailbox commands of partitions that pass their checks leave an answer OK: reports, creation, grants, binding, keys and teardown (R414,
R418 to R427). -/
def Obligations.PartitionCommandsComplete : Prop :=
  ∀ (s : State) (i seq p : Nat), s.mboxOpen i = true →
    let q := s.pf F.MBOX_CTRL_go i 1
    (∀ nonce scope, (scope = 0 ∨ scope < 16 ∧ q.sec.parts.has scope = true) → (i = 0 ∨ i = 1) → q.gb F.ROT_STATUS_att_exhausted = false →
      ∃ s1 : State, s1.answered i 1 seq Rot.ok ∧ s1.gf F.ROT_ATT_LEAF_next = ((q.useLeaf).2).gf F.ROT_ATT_LEAF_next ∧
        exec (.attest i seq nonce scope true) s = .next s1.settle) ∧
    (∀ mask (w : Word64) (cm : Word64) ranges, (i = 0 ∨ i = 1) → q.partBusy p = false → 0 < p → p < 16 → q.sec.parts.has p = false → 0 < mask → mask < 256 →
      0 < ranges.length → ranges.length ≤ 64 → (∀ r ∈ ranges, rangeOk q p r.1 r.2 = true) →
      (maskList cm.toNat 64).any (fun c => q.gb F.TRANS_ROOT_enable c && q.gf F.TRANS_ATTR_part_id c ≠ p) = false →
      (maskList mask 8).any (fun n => q.domainOf n ≠ 0 || q.dieState n ≠ 0 || (List.range 64).any (fun st => strmOn q n st)) = false →
      q.epochRoom (maskList mask 8).length = true →
      ∃ s', exec (.partCreate i seq p mask (some w) cm ranges true) s = .next s' ∧ s'.answered i 2 seq Rot.ok) ∧
    (∀ base size, (i = 0 ∨ i = 1) → q.partBusy p = false → q.sealedPart p = true → rangeOk q p base size = true →
      ∃ s', exec (.grant i seq p base size) s = .next s' ∧ s'.answered i 5 seq Rot.ok) ∧
    (∀ m (harts : Word64) va len c ps s1, (i = 0 ∨ i = 1) → q.partBusy p = false → q.sealedPart p = true → m < 2 →
      ((maskList harts.toNat 64).map (fun h => 64 * m + h)).any (fun h => q.gf F.CORE_PART_part h ≠ 0 && q.gf F.CORE_PART_part h ≠ p) = false →
      (maskList (q.part p).ctxMask 64).head? = some c → q.xlRange (.core m) c va len accLoad (8 + m) = (.ok ps, s1) →
      ps.findSome? (fun r => s1.pieceBad r.1 r.2.1 2) = none → (s.rangeHeld (.core m) c va len accLoad (8 + m)).1 = false →
      ∃ s', exec (.bindHart i seq p m harts va len) s = .next s' ∧ s'.answered i 4 seq Rot.ok ∧
        ∀ h ∈ maskList harts.toNat 64, p < 16 → s'.gf F.CORE_PART_part (64 * m + h) = p) ∧
    ((i = 0 ∨ i = 1) → q.sealedPart p = true → (q.part p).state ≠ 1 → (q.part p).state ≠ 2 → q.epochRoom (maskList (q.part p).mask 8).length = true →
      ∃ s', exec (.partTeardown i seq p) s = .next s' ∧ s'.answered i 3 seq Rot.ok) ∧
    ((i = 0 ∨ i = 1) → q.partBusy p = false → (p = 0 ∨ q.sealedPart p = true) → (q.part p).live.length < 3 →
      ∃ s', exec (.keyRotate i seq p) s = .next s' ∧ s'.answered i 6 seq Rot.ok ∧ s'.mem = s.mem) ∧
    (∀ mc unit ctx desc b s1, (i = 0 ∧ p = 0 ∨ isTen i p = true) → q.partBusy p = false → (if mc then unit < 2 else unit < 16) → ctx < 64 → desc % 256 = 0 →
      q.gf F.TRANS_ATTR_part_id ctx = p → q.vread (rkX (rkUnit mc unit)) ctx desc 64 (rkNode (rkUnit mc unit)) = (.ok b, s1) →
      fieldB b 0 1 % 16 = p → fieldB b 2 1 % 4 = (s1.part p).gen → s1.rk? (rkUnit mc unit) = none → rkUp s1 (rkUnit mc unit) = true →
      (s.rangeHeld (rkX (rkUnit mc unit)) ctx desc 64 accLoad (rkNode (rkUnit mc unit))).1 = false →
      ∃ s', exec (.rekeyStart i seq p mc unit ctx desc) s = .next s' ∧ s'.answered i 7 seq Rot.ok) ∧
    (∀ cmd, ∃ s', exec (.unknownMboxCommand i seq cmd) s = .next s' ∧ s'.answered i cmd seq Rot.denied ∧ s'.mem = s.mem)

/-- Mailbox commands of secrets, devices and firmware: each that passes its checks is answered OK, or with what the key encapsulation, the
authenticated decryption or the signature says (R414, R426, R428, R430 to R432). -/
def Obligations.SecretCommandsComplete : Prop :=
  ∀ (s : State) (i seq p : Nat), s.mboxOpen i = true →
    let q := s.pf F.MBOX_CTRL_go i 1
    (∀ slot dg ct wrapped tag r, (i = 0 ∨ isTen i p = true) → q.partBusy p = false → q.sealedPart p = true → slot < 8 →
      ((q.sec.reports.filter (fun r => r.2.1.contains p)).take 16).find? (fun r => r.1 = leBytes 32 dg) = some r →
      q.now ≤ r.2.2 + q.odN 0x6010 1 * 10 ^ 9 →
      let kek := Config.shake256 32 (Config.kemDecaps (q.part p).kem ct ++ leBytes 32 dg ++ leBytes 1 p)
      let k := Config.aeadOpen kek (zerosB 12) (leBytes 1 p ++ leBytes 1 slot ++ zerosB 6 ++ leBytes 32 dg) wrapped tag
      ∃ s', exec (.keyRelease i seq p slot dg ct wrapped tag) s = .next s' ∧
        s'.answered i 8 seq (match k with | some _ => Rot.ok | none => Rot.unwrapFail) ∧
        ∀ key, k = some key → s'.sec.husk.at? (p * 8 + slot) = some key) ∧
    (∀ slot ctx header chunks, isTen i p = true → q.partBusy p = false → q.sealedPart p = true → slot < 8 → ctx < 64 → q.gf F.TRANS_ATTR_part_id ctx = p →
      q.sec.husk.has (p * 8 + slot) = true → fieldB header 0 2 = 1 → 0 < fieldB header 16 4 → fieldB header 16 4 % 4096 = 0 →
      fieldB header 16 4 ≤ 64 * 2 ^ 20 → (s.chunksHeld (fieldB header 16 4) ctx chunks).1 = false →
      ∃ s', exec (.huskLoad i seq p slot ctx header chunks) s = .next s' ∧
        s'.answered i 9 seq (State.huskChunks q p slot ctx header chunks).1 ∧ s'.mem = (State.huskChunks q p slot ctx header chunks).2.2.mem) ∧
    (∀ kind idx secret, i = 1 → kind < 3 → idx < 2 ^ 32 → (kind = 1 → idx < 8) →
      ∃ s', exec (.provision i seq kind idx secret) s = .next s' ∧ s'.answered i 14 seq Rot.ok ∧
        s'.sec.secrets.at? (secretKey kind idx) = some secret ∧ s'.mem = s.mem) ∧
    (∀ rid port ms, (i = 0 ∨ i = 1) → q.partBusy p = false → q.sealedPart p = true → rid < 65536 → port < 8 →
      q.sec.secrets.has (secretKey 2 (port / 4 * 65536 + rid)) = true →
      ∃ s', exec (.tdispAdmit i seq p rid port true ms) s = .next s' ∧ s'.answered i 10 seq Rot.ok ∧
        s'.sec.admitted.at? (port / 4 * 65536 + rid) = some p) ∧
    (∀ rid m j, isTen i p = true → q.partBusy p = false → rid < 65536 → p < 16 →
      [0, 1].find? (fun m => q.sec.admitted.at? (m * 65536 + rid % 65536) = some p) = some m →
      (sealsOf m).find? (fun j => !q.gb F.IOMMU_SEAL_valid j) = some j →
      ∃ s', exec (.tdispStart i seq p rid) s = .next s' ∧ s'.answered i 11 seq Rot.ok ∧ s'.sealed m rid p = true ∧
        m * 65536 + rid ∈ s'.pcie.run) ∧
    (∀ rid, ∃ s', exec (.tdispLeaveRun rid) s = .next s' ∧ ∀ m, m < 2 → rid < 65536 → ∀ part, s'.sealed m rid part = false) ∧
    (∀ cls mask image, i = 1 → cls < 5 → fieldB image 0 4 = cls → (cls = 2 ∨ cls = 3 → clsDies cls mask ≠ []) →
      (clsDies cls mask).any (fun n => q.dieState n = 1) = false →
      ∃ s', exec (.fwStage i seq cls mask image) s = .next s' ∧ s'.answered i 12 seq (imgCheck q cls image) ∧ s'.mem = s.mem) ∧
    (∀ node, i = 1 → node < 10 → (q.sec.dies.atD node {}).staged.isSome = true → (q.sec.dies.atD node {}).started = false →
      (q.sec.dies.atD node {}).reset = false → q.dieIn node = true → q.epochFull = false →
      ∃ s1 : State, s1.answered i 13 seq Rot.ok ∧ exec (.fwActivate i seq node) s = .next s1.settle) ∧
    (i = 1 → ∃ s', exec (.zeroise i seq) s = .next s' ∧ s'.answered i 16 seq Rot.ok) ∧
    (∀ token, i = 1 → ∃ s', exec (.debugUnlock i seq token) s = .next s' ∧
      s'.answered i 17 seq (if Config.sigOk 4 token then Rot.ok else Rot.verifyFail) ∧
      (Config.sigOk 4 token = true → s'.gf F.ROT_STATUS_debug_unlocked = 1))

/-- A mailbox that is not open takes nothing, a request on the error state is answered ERROR_STATE (R402), and the response is written into
the buffer, sets done and sends the MSI (R413, R414). The periodic self-test and the links of the Chainring: a failed test enters the
error state; a cell with a good tag counts, and a counter that has run its half starts again under a new key (R70, R401, R402). -/
def Obligations.MailboxAndLinkKeysComplete : Prop :=
  (
    ∀ (s : State) (i seq : Nat),
      (s.sec.resp.has i = true → ∀ kind idx secret, exec (.provision i seq kind idx secret) s = .next s) ∧
      (i < 17 → s.gb F.ROT_STATUS_ready = true → s.flt.sag = false → s.pwr.inReset = false → s.sec.resp.has i = false →
        s.sec.waits.has i = false →
        (s.pf F.MBOX_CTRL_go i 1).gb F.ROT_STATUS_error = true → ∀ kind idx secret,
        ∃ s', exec (.provision i seq kind idx secret) s = .next s' ∧ s'.answered i 14 seq Rot.errorState ∧ s'.sec.secrets = s.sec.secrets) ∧
      (∀ r, s.sec.resp.at? i = some r → s.flt.sag = false → r.part = 0 → i < 17 → r.result < 256 →
        ∃ s0 : State, s0.gf F.MBOX_STATUS_done i = 1 ∧ s0.gf F.MBOX_STATUS_result i = r.result ∧ s0.gf F.MBOX_CTRL_go i = 0 ∧
          s0.sec.resp.at? i = none ∧ s0.outbox = s.outbox ∧
          s0.mem = s.mem.putBytes (mboxBuf i + 0x4000)
            ((leBytes 2 r.cmd ++ leBytes 2 (8 + r.body.length) ++ leBytes 4 r.seq ++ r.body).take 16384) ∧
          exec (.mboxResponse i) s = .next (s0.msiOut 10 (s.gf F.MBOX_MSI_ADDR_addr i * 4) (s.gf F.MBOX_MSI_DATA_data i)))) ∧
  (
    ∀ (s : State) (node k : Nat) (cell : Bytes),
      exec (.selfTestPeriodic true) s = .next s ∧
      (s.gb F.ROT_STATUS_error = false → exec (.selfTestPeriodic false) s = .next s.rotError) ∧
      (crThere node k = true → s.gb F.CR_LINK_STATUS_keyed (crIdx node k) = true → crPeer s (crIdx node k) k = none →
        exec (.crCellRx node k true cell) s = .next (s.bump64 .CR_RX_CTR (crIdx node k)) ∧
        (2 ^ 63 ≤ s.rdN .CR_TX_CTR (crIdx node k) → s.gb F.ROT_STATUS_error = false → ∃ s', exec (.crLinkRekey node k) s = .next s' ∧ s'.rdN .CR_TX_CTR (crIdx node k) = 1 ∧
          s'.mem = s.mem)) ∧
      (crThere node k = true → s.gb F.CR_LINK_STATUS_keyed (crIdx node k) = true →
        ∃ s1 : State, s1.gf F.CR_LINK_STATUS_auth_fail (crIdx node k) = 1 ∧
          exec (.crCellRx node k false cell) s = .next ((s1.raise node 0 0 false 0).settle)))

/-- A fault event of a tile: one of class F2 takes the block out of service, starts its quiet period and raises the epoch; one of class F0
or F1 is reported, and nothing else happens (R438, R442 to R445). A forced event is the event itself (R439). The operator's commands to
a block that accepts them: isolate, restore and reset, each with its result OK, and a refusal leaves its reason (R448); the recovery
counts are cleared by the operator's write of 0 (R440). Recovery: at the end of the quiet period the block's test passes, and it
returns, or fails, and the period runs again or, at the third time, the block is held (R445, R446); recoveries leave the window of an
hour; the fault state goes to the NV store (R455). -/
def Obligations.FaultsIsolateAndRecover : Prop :=
  (
    ∀ (s : State) (node b src detail : Nat), node < 8 → 16 ≤ b → b < 160 → s.flt.due = [] →
      (0 < src → src < 5 → s.blkState node b = 0 → autoOk s node b = true →
        ∃ s1 : State, s1.blkState node b = 1 ∧ s1.flt.due = [(node, b, src)] ∧ s1.pkgEpoch = min (2 ^ 32 - 1) (s.pkgEpoch + 1) ∧
          s1.flt.quiet.at? (fltIdx node b) = some (s.odN 0x4F00 2) ∧ s1.mem = s.mem ∧ exec (.faultEvent node b src detail) s = .next s1.settle) ∧
      exec (.faultEvent node b 0 detail) s = .next (s.fltReport node b 0) ∧
      (s.fltReport node b 0).blkState node b = s.blkState node b ∧ bitN ((s.fltReport node b 0).gf F.FLT_STATUS_src (fltIdx node b)) 0 = true ∧
      (src < 5 → exec (.fltForce .operator node b (BitVec.ofNat 32 (2 ^ src))) s = .next ((s.raise node b src true 0).settle))) ∧
  (
    ∀ (s : State) (node b : Nat), blkThere node b = true →
      let i := fltIdx node b
      (∀ r, fltRefusal s node b = some r → r < 8 → ∃ s', exec (.fltIsolate .operator node b) s = .next s' ∧ s'.gf F.FLT_CMD_result i = r ∧
        s'.gf F.FLT_CMD_op i = 1 ∧ s'.gf F.FLT_STATUS_state i = s.gf F.FLT_STATUS_state i ∧ s'.mem = s.mem) ∧
      (fltRefusal s node b = none →
        (s.blkState node b = 1 → ∃ s', exec (.fltIsolate .operator node b) s = .next s' ∧ s'.blkState node b = 2 ∧ s'.gf F.FLT_CMD_result i = 0 ∧
          s'.flt.quiet.at? i = none ∧ s'.mem = s.mem) ∧
        (s.blkState node b = 0 → s.flt.due = [] → ∃ s1 : State, s1.blkState node b = 2 ∧ s1.flt.due = [(node, b, 255)] ∧ s1.mem = s.mem ∧
          exec (.fltIsolate .operator node b) s = .next ((s1.settle.fltRecord node b 255 0 4 false 0).fltResult node b 1 0)) ∧
        (s.blkState node b = 2 → s.epochFull = false →
          (∃ s1 : State, s1.gf F.FLT_CMD_result i = 0 ∧ s1.gf F.FLT_CMD_op i = 2 ∧ s1.gf F.FLT_RECOVERY_auto i = 1 ∧
            exec (.fltRestore .operator node b true) s = .next (s1.settle.repairActed node b)) ∧
          (∃ s', exec (.fltRestore .operator node b false) s = .next s' ∧ s'.gf F.FLT_CMD_result i = 6 ∧ s'.blkState node b = 2 ∧
            s'.gf F.FLT_STATUS_selftest_fail i = 1 ∧ s'.mem = s.mem) ∧
          ∃ s1 : State, s1.gf F.FLT_CMD_result i = 0 ∧ s1.gf F.FLT_CMD_op i = 3 ∧ exec (.fltReset .operator node b true) s = .next (s1.settle.repairActed node b))) ∧
      ∃ s', exec (.fltRecoveryClear .operator node b 0) s = .next s' ∧ s'.gf F.FLT_RECOVERY_count i = 0 ∧ s'.gf F.FLT_RECOVERY_recent i = 0 ∧
        s'.gf F.FLT_RECOVERY_failed_tests i = 0 ∧ s'.gf F.FLT_RECOVERY_auto i = 1 ∧ s'.mem = s.mem) ∧
  (
    ∀ (s : State) (node b : Nat),
      let i := fltIdx node b
      (s.blkState node b = 1 → s.flt.quiet.has i = true → s.dieIn node = true → b ≠ 0 → b < 256 → node < 10 →
        (s.epochFull = false → ∃ s1 : State, s1.gf F.FLT_RECOVERY_failed_tests i = 0 ∧ exec (.quietPeriodEnd node b true) s = .next s1.settle) ∧
        (s.gf F.FLT_RECOVERY_failed_tests i < 2 → ∃ s', exec (.quietPeriodEnd node b false) s = .next s' ∧ s'.blkState node b = 1 ∧
          s'.gf F.FLT_RECOVERY_failed_tests i = s.gf F.FLT_RECOVERY_failed_tests i + 1 ∧ s'.gf F.FLT_STATUS_selftest_fail i = 1 ∧
          s'.flt.quiet.has i = true ∧ s'.mem = s.mem) ∧
        (s.gf F.FLT_RECOVERY_failed_tests i = 2 → ∃ s', exec (.quietPeriodEnd node b false) s = .next s' ∧ s'.blkState node b = 2 ∧
          s'.gf F.FLT_RECOVERY_failed_tests i = 3 ∧ s'.flt.quiet.at? i = none ∧ s'.mem = s.mem)) ∧
      (0 < s.gf F.FLT_RECOVERY_recent i → ∃ s', exec (.recentWindowExpiry node b) s = .next s' ∧
        s'.gf F.FLT_RECOVERY_recent i = s.gf F.FLT_RECOVERY_recent i - 1 ∧ s'.gf F.FLT_RECOVERY_count i = s.gf F.FLT_RECOVERY_count i ∧
        (s.gf F.FLT_RECOVERY_recent i = 1 → s.gf F.FLT_RECOVERY_count i < 65535 → s'.gf F.FLT_RECOVERY_auto i = 1) ∧ s'.mem = s.mem) ∧
      ∃ s', exec .fltNvSave s = .next s' ∧ (s'.flt.nvRec, s'.flt.nvHeld, s'.flt.nvRing) = faultCopies s ∧ s'.mem = s.mem ∧ s'.regs = s.regs)

/-- Scrubbing marks a line of DRAM or a word of a tile store it finds uncorrectable (a tile store's is the model's choice, log entry 127),
and corrects others; a row is repaired once for each spare (R449 to R452). -/
def Obligations.ScrubAndRowRepairComplete : Prop :=
  ∀ (s : State) (pa pch bank row : Nat) (role : Role) (c : MemCtl) (k : Ctl) (v : Word64), ctlOf c = some k →
    (exec (.patrolScrub pa .clean pch bank row) s = .next s) ∧
    ((s.region pa = .hbm ∨ s.region pa = .ddr) →
      exec (.patrolScrub pa .corrected pch bank row) s = .next (s.memCorrected pa) ∧
      ∃ s', exec (.patrolScrub pa .uncorrectable pch bank row) s = .next s' ∧ lineOf pa ∈ s'.badLines ∧ s'.mem = s.mem) ∧
    (s.region pa = .tstore → s.enabled (windowTile pa) = true →
      ∃ s', exec (.patrolScrub pa .uncorrectable pch bank row) s = .next s' ∧ pa / 8 ∈ s'.badWords ∧ s'.badLines = s.badLines ∧ s'.mem = s.mem) ∧
    (s.mmioRole role = true → s.gb (k.fld F.HBM_PPR_CMD_go) k.idx = false → bitN v.toNat 30 = true →
      ∃ s', exec (.rowRepair role c v) s = .next s' ∧ s'.flt.ppr.at? k.key = some (v.toNat % 2 ^ 30) ∧
        s'.gb (k.fld F.HBM_PPR_CMD_go) k.idx = true ∧ s'.mem = s.mem) ∧
    (s.mmioRole role = true → s.gb (k.fld F.HBM_PPR_CMD_go) k.idx = true →
      exec (.rowRepair role c v) s = .next (s.pf (k.fld F.HBM_PPR_CMD_result) k.idx 2)) ∧
    (∀ w, s.flt.ppr.at? k.key = some w →
      (spareKey k (w % 64) (bitsN w 10 6) ∉ s.flt.soft → ∃ s', exec (.rowRepairDone c) s = .next s' ∧
        s'.gf (k.fld F.HBM_PPR_CMD_result) k.idx = 0 ∧ spareKey k (w % 64) (bitsN w 10 6) ∈ s'.flt.soft ∧ s'.flt.ppr.at? k.key = none) ∧
      (spareKey k (w % 64) (bitsN w 10 6) ∈ s.flt.soft → ∃ s', exec (.rowRepairDone c) s = .next s' ∧
        s'.gf (k.fld F.HBM_PPR_CMD_result) k.idx = 1 ∧ s'.mem = s.mem ∧ s'.flt.ppr.at? k.key = none))

/-- PWRFAIL_N: its assertion ends requests with BUSY and starts the save of a running RoT; the marker, the deadline and the release end it;
a reset waits for the save (R456 to R458, R488, R511). What shuts the main domain down: its input, a trip of a regulator, a temperature
above the trip limit, or the loss of REFCLK_SYS. The cells keep their bytes, and a trip asserts THERMTRIP_N (R487, R491, R496, R497). -/
def Obligations.SupplyEventsComplete : Prop :=
  (
    ∀ s : State,
      (s.flt.sag = false → ∃ s', exec .powerfailAssert s = .next s' ∧ s'.flt.sag = true ∧ s'.gf F.PWR_STATUS_powerfail = 1 ∧ s'.mem = s.mem ∧
        (∀ i r, s'.sec.resp.at? i = some r → r.result = Rot.busy) ∧
        (1 ∈ s.pwr.steps → s.pwr.inReset = false → ∃ r, s'.flt.save = some r ∧ r.valid = false ∧ r.attLeaf = s.gf F.ROT_ATT_LEAF_next ∧
          r.idLeaf = s.gf F.ROT_ID_LEAF_next ∧ r.ring = s.flt.records)) ∧
      (saving s = true → ∃ s' r, exec .sagSaveDone s = .next s' ∧ s'.flt.save = some r ∧ r.valid = true ∧ s'.mem = s.mem ∧
        s'.pwr.inReset = (s.pwr.resetHeld || s.pwr.inReset)) ∧
      (s.flt.sag = true → ∃ s', exec .powerfailRelease s = .next s' ∧ s'.flt.sag = false ∧ s'.gf F.PWR_STATUS_powerfail = 0 ∧ s'.mem = s.mem ∧
        (s.pwr.inReset = false → s'.flt.save = none)) ∧
      (saving s = true → s.pwr.resetHeld = true → exec .saveDeadline s = .next s.resetNow) ∧
      (saving s = true → ∃ s', exec .resetNAssert s = .next s' ∧ s'.pwr.resetHeld = true ∧ s'.pwr.inReset = s.pwr.inReset ∧ s'.pwr.up = s.pwr.up) ∧
      (saving s = false → ∃ s', exec .resetNAssert s = .next s' ∧ s'.pwr.inReset = true ∧ s'.pwr.up = false ∧ s'.mem = s.mem)) ∧
  (
    ∀ s : State,
      let down (s' : State) : Prop := s'.pwr.up = false ∧ s'.pwr.off = true ∧ s'.tiles = State.reset.tiles ∧ s'.mem = memCells s.mem ∧ s'.pending = s.pending
      (s.pwr.main = true → s.pwr.aux = true → 3 ∈ s.pwr.steps → s.pwr.off = false →
        ∃ s', exec .mainInputLoss s = .next s' ∧ down s' ∧ s'.pwr.main = false ∧ s'.pwr.lost = true) ∧
      (s.pwr.aux = true → ∃ s', exec .auxInputLoss s = .next s' ∧ s'.pwr.aux = false ∧ s'.pwr.inReset = true ∧ s'.pwr.up = false ∧
        s'.gf F.PWR_STATUS_aux_good = 0 ∧ s'.gf F.ROT_STATUS_ready = 0) ∧
      (∀ node, node < 10 → s.pwr.off = false → s.pwr.main = true →
        ∃ s', exec (.ivrTrip node) s = .next s' ∧ down s' ∧ s'.pwr.trip = true ∧ Out.pin .thermtripN false ∈ s'.outbox) ∧
      (∀ i (c : Int), i < 53 → s.pwr.aux = true → s.pwr.inReset = false → s.pwr.off = false → (tempLimits i).2 ≤ c + effCal s 0x20 (i + 1) (-1000) 1000 →
        ∃ s', exec (.tempSample i c) s = .next s' ∧ down s' ∧ s'.pwr.trip = true ∧ Out.pin .thermtripN false ∈ s'.outbox) ∧
      ∃ s', exec (.refclkLoss .sys) s = .next s' ∧ down s' ∧ s'.gf F.TB_STATUS_holdover = 1 ∧ s'.gf F.TB_STATUS_locked = 0)

/-- A package reset: the dies' work and the unsaved entries end, what the cells and the NV store hold stays, and start-up begins (R404,
R464, R498); so does a main input that returns after its loss, and the auxiliary input as it comes (R487). A start-up step that is due
completes in its order, and step 7 brings the dies up; a failure stops start-up (R498, R499). -/
def Obligations.ResetAndStartUpComplete : Prop :=
  (
    ∀ s : State,
      let anew (s' : State) : Prop := s'.pending = s.pending ∧ s'.tiles = State.reset.tiles ∧ s'.mem = memCells s.mem ∧ s'.od.vals = s.od.saved ∧
        s'.od.saved = s.od.saved ∧ s'.sec.secrets = s.sec.secrets ∧ s'.sec.parts = State.reset.sec.parts ∧ s'.pwr.steps = [] ∧ s'.pwr.inReset = false ∧
        s'.pwr.up = false ∧ s'.pwr.off = false
      (saving s = false → s.pwr.aux = true → ∃ s', exec .packageReset s = .next s' ∧ anew s') ∧
      (saving s = true → ∃ s', exec .packageReset s = .next s' ∧ s'.pwr.resetHeld = false ∧ s'.mem = s.mem ∧ s'.regs = s.regs) ∧
      (s.pwr.aux = false → ∃ s', exec .auxInputApply s = .next s' ∧ anew s' ∧ s'.pwr.aux = true ∧ s'.gf F.PWR_STATUS_aux_good = 1) ∧
      (s.pwr.main = false → s.pwr.aux = true → s.pwr.lost = true → ∃ s', exec .mainInputRestore s = .next s' ∧ anew s' ∧ s'.pwr.main = true) ∧
      (s.pwr.main = false → s.pwr.lost = false → ∃ s', exec .mainInputRestore s = .next s' ∧ s'.pwr.main = true ∧ s'.mem = s.mem ∧
        s'.gf F.PWR_STATUS_main_good = 1)) ∧
  (
    ∀ (s : State) (n : Nat) (info : List Nat), stepReady s.pwr n = true → s.gb F.PWR_START_fail = false → s.flt.sag = false →
      s.pwr.inReset = false → s.pwr.off = false → s.gb F.ROT_STATUS_error = false → stepWaits s n = false →
      ((n = 5 → info.headD 0 % 256 ≠ 255) → ∃ s', exec (.startupStepDone true (n :: info)) s = .next s' ∧ s'.pwr.steps = s.pwr.steps ++ [n] ∧
        s'.gf F.PWR_START_stage = n ∧ (n = 7 → s'.pwr.up = true) ∧ (n ≠ 7 → s'.pwr.up = s.pwr.up)) ∧
      (n = 5 ∨ n = 7 → ∃ s', exec (.startupStepDone false (n :: info)) s = .next s' ∧ s'.gf F.PWR_START_fail = n ∧ s'.pwr = s.pwr ∧ s'.mem = s.mem) ∧
      (n = 1 → exec (.startupStepDone false (n :: info)) s = .next s.rotError))

/-- Measurements, gear requests, and the references of PCIe and Ethernet: samples show in their registers, a die above its throttle
temperature is slowed, a request shows until its domains take it, and links go down with their clock (R492, R494, R496, R497). An idle
island sleeps (R29), and the Acorn traffic changes its link (R23). -/
def Obligations.PowerManagementCompletes : Prop :=
  (
    ∀ s : State,
      (∀ mw mainMv auxMv, s.pwr.aux = true → s.pwr.inReset = false → mainMv < 65536 → auxMv < 65536 →
        ∃ s', exec (.powerSample mw mainMv auxMv) s = .next s' ∧ s'.gf F.PWR_INPUT_main_mv = mainMv ∧ s'.gf F.PWR_INPUT_aux_mv = auxMv ∧
          s'.gb F.PWR_STATUS_main_good = decide (11400 ≤ mainMv ∧ mainMv ≤ 12600) ∧ s'.pwr.samples = (mw :: s.pwr.samples).take 100 ∧ s'.mem = s.mem) ∧
      (∀ i (c : Int), i < 53 → s.pwr.aux = true → s.pwr.inReset = false →
        let t := c + effCal s 0x20 (i + 1) (-1000) 1000
        t < (tempLimits i).2 → ∃ s', exec (.tempSample i c) s = .next s' ∧ s'.gf F.PWR_TEMP_centi_c i = uN 16 t ∧ s'.mem = s.mem ∧
          ((tempLimits i).1 < t → s'.gf F.PWR_STATUS_throttle_thermal = 1 ∧
            (i < 32 → s.pwr.up = true → s'.gf F.PWR_TILE_CLK_mhz (i / 4) = max 600 (s.gf F.PWR_TILE_CLK_mhz (i / 4) - 25)))) ∧
      (∀ gear, gear < 4 → ∃ s', exec (.gearRequest .operator gear) s = .next s' ∧ s'.gf F.PWR_GEAR_requested = gear ∧
        s'.gf F.PWR_GEAR_REQ_gear = gear ∧ s'.gears = s.gears ∧ s'.mem = s.mem) ∧
      (∀ r, r < 8 → exec (.refclkLoss (.pcie r)) s = .next ((s.each (List.range 4) (fun l s => s.pcieDown (linkIdx r l))).notice 10 4 4)) ∧
      (∀ n p, n < 8 → 3 * n ≤ p → p < 3 * n + 3 → ∃ s', exec (.refclkLoss (.eth n)) s = .next s' ∧ s'.gf F.PORT_STATUS_link_up p = 0) ∧
      (∀ t : Word64, ∃ s', exec (.refclkReturn .sys t) s = .next s' ∧ s'.gf F.TB_STATUS_holdover = 0 ∧
        (s.now < t.toNat → s'.now = t.toNat) ∧ (t.toNat ≤ s.now → s'.now = s.now ∧ s'.time.slewRem = (s.now - t.toNat) * nsUnit))) ∧
  (
    ∀ s : State,
      (∀ t, s.enabled t = true → s.tileIn t = true → s.tileState t = 1 → (s.tile t).lap = none → (s.tile t).queued = none →
        exec (.islandSleep (.tile t)) s = .next (s.pf F.TILE_STATUS_state t 3)) ∧
      (∀ st, st < 16 → unitIn s (.nme st) = true → UnitId.nme st ∉ s.asleep → (s.nmeU st).sweep = none → s.rk? st = none →
        exec (.islandSleep (.nme st)) s = .next { s with asleep := s.asleep ++ [.nme st] }) ∧
      (∀ n, n < 8 → s.blkIn n 4 = true → UnitId.drl n ∉ s.asleep → instsOf s n = [] →
        exec (.islandSleep (.drl n)) s = .next { s with asleep := s.asleep ++ [.drl n] }) ∧
      (∃ s', exec .acornLinkDown s = .next s' ∧ s'.pwr.acornAlt = true ∧ s'.regs = s.regs ∧ s'.mem = s.mem) ∧
      ∃ s', exec .acornLinkRestore s = .next s' ∧ s'.pwr.acornAlt = false ∧ s'.regs = s.regs ∧ s'.mem = s.mem)

/-- Dictionary requests over an open DTLS session: a READ answers the entry's value, one without the right is DENIED, DESCRIBE and NEXT
answer descriptions, and a WRITE of a saved entry waits for its commit (R461, R464, R465, R468 to R470). The NV commit of an entry
stores its value, or leaves it and answers NV_FAIL (R464). -/
def Obligations.DictionaryRequestsComplete : Prop :=
  (
    ∀ (s : State) (k seq major index sub : Nat), s.mgmtUp = true → k < 4 → (s.sess k).opened = true → (major = 1 ∨ major = 2) → s.flt.due = [] →
      let h : BmpHdr := { door := .dtls k, seq := seq, odMajor := major }
      seenBefore s h = (0, []) →
      (∀ d off len, s.odFind h index sub = .ok d → s.bmp.commit = none →
        (s.odGrant .operator index sub d.rd = true → off < d.size → len ≤ 984 →
          ∃ s', exec (.read h index sub off len) s = .next s' ∧ s'.mem = s.mem ∧ s'.regs = s.regs ∧ s'.od = s.od ∧
            s'.outbox = .bmp k (bmpMsg 1 seq major BmpS.ok 1 (leBytes 1 d.ty ++ zerosB 3 ++ beW 4 d.size ++ beW 8 (s.odGen index sub d) ++
              beW 4 off ++ zerosB 4 ++ ((s.odValue index sub d).drop off).take len)) :: s.outbox) ∧
        (s.odGrant .operator index sub d.rd = false →
          ∃ s', exec (.read h index sub off len) s = .next s' ∧ s'.outbox = .bmp k (bmpMsg 1 seq major BmpS.denied 1 []) :: s.outbox) ∧
        (s.odGrant .operator index sub (Nat.lor d.rd d.wr) = true →
          ∃ s', exec (.describe h index sub) s = .next s' ∧ s'.regs = s.regs ∧
            s'.outbox = .bmp k (bmpMsg 3 seq major BmpS.ok 1 (s.descBody index sub d)) :: s.outbox) ∧
        (∀ data v st, s.odGrant .operator index sub d.wr = true → data.length = d.size → d.size ≤ 992 → d.ty ≠ OdT.str → index ≠ 0x8100 →
          odLimit d data = some (v, st) → (s.sess k).stage = none →
          let s1 := s.setSess k (fun x => { x with stage := none })
          (s1.odWriteNow .operator index sub d v st = none → s.gb F.ROT_STATUS_error = false → s.flt.sag = false →
            ∃ s', exec (.write h index sub true false 0 data) s = .next s' ∧ s'.bmp.commit = some (k, h, odKey index sub, v, st) ∧
              s'.od = s.od ∧ s'.outbox = s.outbox ∧ s'.mem = s.mem) ∧
          (∀ r t, s1.odWriteNow .operator index sub d v st = some (r, t) →
            exec (.write h index sub true false 0 data) s =
              .next ((t.respond h 2 r (if r = BmpS.ok ∨ r = BmpS.clamped then t.writeBody index sub d else [])).settle)))) ∧
      (s.bmp.commit = none → ∃ s', exec (.next h index sub) s = .next s' ∧ s'.regs = s.regs ∧ s'.outbox = .bmp k (match s.nextEntry h index sub with
        | some (i, x, d) => bmpMsg 4 seq major BmpS.ok 1 (s.descBody i x d)
        | none => bmpMsg 4 seq major BmpS.notFound 1 []) :: s.outbox) ∧
      (s.bmp.commit.isSome = true → ∀ off len, ∃ s', exec (.read h index sub off len) s = .next s' ∧
        s'.bmp.behind = s.bmp.behind ++ [.read h index sub off len] ∧ s'.outbox = s.outbox)) ∧
  (
    ∀ (s : State) (k dk key st : Nat) (h : BmpHdr) (v : Bytes), s.bmp.commit = some (dk, h, key, v, st) → h.door = .dtls k → s.bmp.behind = [] →
      s.flt.due = [] →
      (∃ s' body rest, exec (.nvCommitDone true) s = .next s' ∧ s'.bmp.commit = none ∧ s'.od.vals.at? key = some v ∧ s'.od.saved.at? key = some v ∧
        s'.outbox = .bmp k (bmpMsg 2 h.seq h.odMajor st 1 body) :: rest ∧ s'.mem = s.mem) ∧
      ∃ s' rest, exec (.nvCommitDone false) s = .next s' ∧ s'.bmp.commit = none ∧ s'.od = s.od ∧
        s'.outbox = .bmp k (bmpMsg 2 h.seq h.odMajor BmpS.nvFail 1 []) :: rest ∧ s'.mem = s.mem)

/-- The other requests of a session: a heartbeat, the RoT's mailbox, subscriptions, and a message of no type (R465, R470 to R472). Sessions,
channels and the watchdog: a handshake with a provisioned key opens the first closed session, an idle one closes; a channel's go runs
its message, or completes with BUSY while the controller is out (R474, R478, R479). -/
def Obligations.SessionsAndDoorsComplete : Prop :=
  (
    ∀ (s : State) (k seq major : Nat), s.mgmtUp = true → k < 4 → (s.sess k).opened = true → (major = 1 ∨ major = 2) →
      let h : BmpHdr := { door := .dtls k, seq := seq, odMajor := major }
      seenBefore s h = (0, []) →
      (∃ s', exec (.heartbeat h) s = .next s' ∧ s'.mem = s.mem ∧ s'.outbox =
        .bmp k (bmpMsg 8 seq major BmpS.ok 1 (beW 8 s.now ++ beW 4 (s.rdN .ROT_STATUS) ++ beW 4 (s.rdN .MGMT_STATUS))) :: s.outbox) ∧
      (∀ off data, data.length ≤ 992 → off + data.length ≤ 4096 → s.gb F.MBOX_CTRL_go 1 = false →
        (∃ s', exec (.mboxSubmit h true off data) s = .next s' ∧ s'.gf F.MBOX_CTRL_go 1 = 1 ∧ s'.gf F.MBOX_STATUS_done 1 = 0 ∧
          s'.mem = s.mem.putBytes (mboxBuf 1 + 0x1000) (setSliceB (s.sess k).mstage off data) ∧
          s'.outbox = .bmp k (bmpMsg 5 seq major BmpS.ok 1 []) :: s.outbox) ∧
        ∃ s', exec (.mboxSubmit h false off data) s = .next s' ∧ (s'.sess k).mstage = setSliceB (s.sess k).mstage off data ∧ s'.mem = s.mem ∧
          s'.regs = s.regs) ∧
      (∀ off len, s.gb F.MBOX_STATUS_done 1 = true → off < s.gf F.MBOX_STATUS_resp_len 1 → len ≤ 984 →
        ∃ s', exec (.mboxFetch h off len) s = .next s' ∧ s'.mem = s.mem ∧ s'.outbox = .bmp k (bmpMsg 5 seq major BmpS.ok 1
          (leBytes 1 (s.gf F.MBOX_STATUS_result 1) ++ zerosB 3 ++ beW 4 (s.gf F.MBOX_STATUS_resp_len 1) ++ beW 4 off ++ zerosB 4 ++
            s.mem.getBytes (mboxBuf 1 + 0x4000 + off) (min len (s.gf F.MBOX_STATUS_resp_len 1 - off)))) :: s.outbox) ∧
      (∀ on, ∃ s', exec (.subscribe h on) s = .next s' ∧ (s'.sess k).sub = on ∧ s'.mem = s.mem) ∧
      ∃ s' type, exec (.badMessage h) s = .next s' ∧ s'.outbox = .bmp k (bmpMsg type seq major BmpS.type 1 []) :: s.outbox ∧ s'.mem = s.mem) ∧
  (
    ∀ s : State,
      (∀ k i x, s.mgmtUp = true → (List.range 4).find? (fun k => !(s.sess k).opened) = some k → i < 8 → s.sec.secrets.at? (secretKey 1 i) = some x →
        (∃ s', exec (.dtlsHandshake (Config.pskId x) true true) s = .next s' ∧ (s'.sess k).opened = true ∧ s'.mem = s.mem ∧
          ∀ j, j ≠ k → s'.sess j = s.sess j) ∧
        ∃ s' rest, exec (.dtlsHandshake (Config.pskId x) false true) s = .next s' ∧ s'.outbox = .alert :: rest ∧ ∀ j, (s'.sess j).opened = (s.sess j).opened) ∧
      (∀ k, k < 4 → (s.sess k).opened = true → ∃ s', exec (.sessionIdleTimeout k) s = .next s' ∧ (s'.sess k).opened = false ∧ s'.mem = s.mem) ∧
      (∀ hart c, hart < 128 → c < 23 → s.gf F.CORE_PART_part hart = 0 →
        (8 ≤ c → exec (.odcGo hart c) s = .next (s.bump .ODC_DENIED c)) ∧
        (c < 8 → s.gb F.ODC_CTRL_go c = false →
          (∀ n, s.mgmtUp = true → beVal (sliceB (s.mem.getBytes (odcBuf c + 0x1000) 4096) 2 2) = n → 16 ≤ n → n ≤ 4096 →
            exec (.odcGo hart c) s = .next (((s.pf F.ODC_CTRL_go c 1).message (.chan c) ((s.mem.getBytes (odcBuf c + 0x1000) 4096).take n)).settle)) ∧
          (s.blkState 10 5 ≠ 0 → s.flt.due = [] → ∃ s0 : State, s0.gf F.ODC_CTRL_go c = 0 ∧ s0.gf F.ODC_STATUS_done c = 1 ∧
            s0.gf F.ODC_STATUS_status c = BmpS.busy ∧ s0.mem = s.mem ∧ exec (.odcGo hart c) s =
              .next ((if s.pcie.hcr.phase = 0 then s0.msiOut 10 (s.gf F.ODC_MSI_ADDR_addr c * 4) (s.gf F.ODC_MSI_DATA_data c) else s0).settle)))) ∧
      (s.mgmtUp = true → s.flt.due = [] → autoOk s 10 5 = true → ∃ s1 : State, s1.blkState 10 5 = 1 ∧ s1.flt.due = [(10, 5, 3)] ∧ s1.mem = s.mem ∧
        exec .mgmtWatchdog s = .next s1.settle))

/-- Writes of registers: one to a mapped register is the store of that register; one to a hole is reported (R52); one by the RoT for a
partition stays within the partition, and else is denied (R415); an address that is no register space is not written. -/
def Obligations.RegisterWritesComplete : Prop :=
  ∀ (s : State) (role : Role) (node pa width : Nat) (v : Word64),
    (s.region pa = .mmio → (width = 4 ∨ width = 8) →
      exec (.regWrite role pa width v node) s = .next ((s.busStore role pa width (v.toNat % 2 ^ (8 * width))).settle)) ∧
    (s.region pa = .hole → (width = 4 ∨ width = 8) →
      exec (.regWrite role pa width v node) s = .next ((s.hole pa node).emit (.reqFailed agentNone pa St.addrHole))) ∧
    (s.region pa ≠ .mmio → s.region pa ≠ .hole → exec (.regWrite role pa width v node) s = .next s) ∧
    (∀ i seq p value, s.mboxOpen i = true → (i = 0 ∨ i = 1) → (width = 4 ∨ width = 8) →
      let q := s.pf F.MBOX_CTRL_go i 1
      (regOfPart q p pa width value = true → ∃ s1 : State, s1.answered i 15 seq Rot.ok ∧ s1.mem = (q.mmioStore .rot pa width (value % 2 ^ (8 * width))).mem ∧
        s1.regs = (q.mmioStore .rot pa width (value % 2 ^ (8 * width))).regs ∧ exec (.configWrite i seq p pa value width) s = .next s1.settle) ∧
      (regOfPart q p pa width value = false → s.flt.due = [] →
        ∃ s', exec (.configWrite i seq p pa value width) s = .next s' ∧ s'.answered i 15 seq Rot.denied ∧ s'.mem = s.mem))

/-- The I3C target: it takes and loses its address, enables its events, answers its command codes, and carries messages with their CRC
(R476, R477). -/
def Obligations.I3cCompletes : Prop :=
  ∀ s : State, s.i3cOn = true →
    (∀ a, s.bmp.i3c.addr = none →
      (∃ s' w, exec (.entdaa a) s = .next s' ∧ s'.bmp.i3c.addr = some (a % 128) ∧ s'.gf F.MGMT_STATUS_i3c_addressed = 1 ∧
        s'.gf F.MGMT_STATUS_i3c_addr = a % 128 ∧ s'.outbox = .i3c (provisionalId ++ leBytes 2 w) :: s.outbox) ∧
      ∃ s', exec (.setdasa 0x3A a) s = .next s' ∧ s'.bmp.i3c.addr = some (a % 128) ∧ s'.gf F.MGMT_STATUS_i3c_addr = a % 128 ∧ s'.outbox = s.outbox) ∧
    (∀ n, (∃ s', exec (.enec n) s = .next s' ∧ s'.bmp.i3c.events = Nat.lor s.bmp.i3c.events (n % 256) ∧ s'.regs = s.regs) ∧
      (∃ s', exec (.disec n) s = .next s' ∧ s'.bmp.i3c.events = andNot s.bmp.i3c.events (n % 256) ∧ s'.regs = s.regs) ∧
      (∃ s', exec (.setmwl n) s = .next s' ∧ s'.bmp.i3c.mwl = min 1028 n ∧ s'.regs = s.regs) ∧
      (∃ s', exec (.setmrl n) s = .next s' ∧ s'.bmp.i3c.mrl = min 1028 n ∧ s'.regs = s.regs) ∧
      ∃ s', exec (.rstact n) s = .next s' ∧ s'.bmp.i3c.rst = n % 256 ∧ s'.regs = s.regs) ∧
    (s.bmp.i3c.addr.isSome = true →
      (∀ a, ∃ s', exec (.setnewda a) s = .next s' ∧ s'.bmp.i3c.addr = some (a % 128) ∧ s'.gf F.MGMT_STATUS_i3c_addr = a % 128) ∧
      (∃ s', exec .rstdaa s = .next s' ∧ s'.bmp.i3c.addr = none ∧ s'.gf F.MGMT_STATUS_i3c_addressed = 0) ∧
      exec .getpid s = .next (s.emit (.i3c provisionalId)) ∧
      exec .getmwl s = .next (s.emit (.i3c (beW 2 s.bmp.i3c.mwl))) ∧
      exec .getmrl s = .next (s.emit (.i3c (beW 2 s.bmp.i3c.mrl))) ∧
      (∀ p ∈ [(Instr.getbcr, 1), (.getdcr, 1), (.getstatus, 2)],
        ∃ s' w, exec p.1 s = .next s' ∧ s'.outbox = .i3c (leBytes p.2 w) :: s.outbox ∧ s'.bmp = s.bmp ∧ s'.regs = s.regs) ∧
      (∀ bytes crc, i3cBusy s = false →
        (crc32 bytes = crc.toNat → exec (.i3cPrivateWrite bytes crc) s = .next ((s.message .i3c bytes).settle)) ∧
        (crc32 bytes ≠ crc.toNat → exec (.i3cPrivateWrite bytes crc) s = .next (s.notice 10 5 1))) ∧
      (∀ m, s.bmp.i3c.resp = some m → (s.sess 4).queue = [] →
        ∃ s', exec .i3cPrivateRead s = .next s' ∧ s'.bmp.i3c.resp = none ∧ s'.outbox = .i3c (withCrc m) :: s.outbox) ∧
      (s.bmp.i3c.resp = none → (s.sess 4).queue = [] → exec .i3cPrivateRead s = .next (s.emit (.i3c (withCrc (bmpMsg 0 0 2 0 0 []))))))
end

