-- ==== Sys2Proof/Laws/Mem.lean ====
section
/-! SUPPORT. Laws of memory: every operation keeps the canonical form, and what a byte reads after it. -/

namespace Sys2Proof.Machine

theorem Mem.wfFrom_mono {lo lo' : Nat} (h : lo ≤ lo') : ∀ {m : Mem}, Mem.wfFrom lo' m = true → Mem.wfFrom lo m = true
  | [], _ => rfl
  | (a, b) :: m, hm => by
    simp only [Mem.wfFrom, Bool.and_eq_true, decide_eq_true_eq] at hm ⊢
    exact ⟨⟨by omega, hm.1.2⟩, hm.2⟩

theorem Mem.get_below : ∀ {m : Mem} {lo a : Nat}, Mem.wfFrom lo m = true → a < lo → Mem.get a m = Mem.unlisted
  | [], _, _, _, _ => rfl
  | (a', b) :: m, lo, a, hm, h => by
    simp only [Mem.wfFrom, Bool.and_eq_true, decide_eq_true_eq] at hm
    have h1 : a' ≠ a := by omega
    have h2 : a < a' := by omega
    simp [Mem.get, h1, h2]

theorem Mem.wfFrom_cons {lo a : Nat} {b : Byte} {m : Mem} (h : lo ≤ a) (hm : Mem.wfFrom (a + 1) m = true) :
    Mem.wfFrom lo (Mem.cons a b m) = true := by
  unfold Mem.cons
  split
  · exact Mem.wfFrom_mono (by omega) hm
  · next hb => simp [Mem.wfFrom, h, hm, hb]

/-- A write keeps the canonical form. -/
theorem Mem.wfFrom_put {a : Nat} {b : Byte} : ∀ {m : Mem} {lo : Nat}, lo ≤ a → Mem.wfFrom lo m = true →
    Mem.wfFrom lo (Mem.put a b m) = true
  | [], lo, h, _ => by simpa [Mem.put] using Mem.wfFrom_cons h (by rfl)
  | (a', b') :: m, lo, h, hm => by
    have hm' := hm
    simp only [Mem.wfFrom, Bool.and_eq_true, decide_eq_true_eq] at hm
    obtain ⟨⟨h1, h2⟩, h3⟩ := hm
    simp only [Mem.put]
    split
    · next hl =>
      simp only [Mem.wfFrom, Bool.and_eq_true, decide_eq_true_eq]
      exact ⟨⟨h1, h2⟩, Mem.wfFrom_put (by omega) h3⟩
    · split
      · next he => subst he; exact Mem.wfFrom_cons h h3
      · next hl he =>
        refine Mem.wfFrom_cons h ?_
        simp only [Mem.wfFrom, Bool.and_eq_true, decide_eq_true_eq]
        exact ⟨⟨by omega, h2⟩, h3⟩

theorem Mem.wf_put {m : Mem} (a : Nat) (b : Byte) (h : m.wf = true) : (Mem.put a b m).wf = true :=
  Mem.wfFrom_put (Nat.zero_le a) h

theorem Mem.wf_putBytes : ∀ (bs : Bytes) (m : Mem) (a : Nat), m.wf = true → (m.putBytes a bs).wf = true
  | [], _, _, h => h
  | b :: bs, _, a, h => Mem.wf_putBytes bs _ (a + 1) (Mem.wf_put a b h)

theorem Mem.wfFrom_filter (p : Host.Cell → Bool) : ∀ {m : Mem} {lo : Nat}, Mem.wfFrom lo m = true →
    Mem.wfFrom lo (m.filter p) = true
  | [], _, _ => rfl
  | (a, b) :: m, lo, h => by
    simp only [Mem.wfFrom, Bool.and_eq_true, decide_eq_true_eq] at h
    by_cases hp : p (a, b) = true
    · simp only [List.filter_cons, hp, if_true, Mem.wfFrom, Bool.and_eq_true, decide_eq_true_eq]
      exact ⟨h.1, Mem.wfFrom_filter p h.2⟩
    · simp only [List.filter_cons, hp]
      exact Mem.wfFrom_mono (by omega) (Mem.wfFrom_filter p h.2)

/-- Unlisting bytes keeps the canonical form. -/
theorem Mem.wf_clear (m : Mem) (p : Nat → Bool) (h : m.wf = true) : (m.clear p).wf = true := Mem.wfFrom_filter _ h

theorem Mem.get_cons {lo a c : Nat} {b : Byte} {m : Mem} (ha : a < lo) (hm : Mem.wfFrom lo m = true) :
    Mem.get c (Mem.cons a b m) = if c = a then b else Mem.get c m := by
  unfold Mem.cons
  split
  · next hb =>
    split
    · next hc => subst hc; rw [Mem.get_below hm ha, hb]
    · rfl
  · by_cases hc : c = a
    · subst hc; simp [Mem.get]
    · simp only [Mem.get, Ne.symm hc, if_false, hc]
      split
      · next hl => rw [Mem.get_below hm (by omega)]
      · rfl

theorem Mem.get_put_from {a c : Nat} {b : Byte} : ∀ {m : Mem} {lo : Nat}, Mem.wfFrom lo m = true →
    Mem.get c (Mem.put a b m) = if c = a then b else Mem.get c m
  | [], lo, h => by simpa [Mem.put] using Mem.get_cons (lo := a + 1) (by omega) (m := []) (by rfl)
  | (a', b') :: m, lo, h => by
    have h' := h
    simp only [Mem.wfFrom, Bool.and_eq_true, decide_eq_true_eq] at h
    simp only [Mem.put]
    split
    · next hl =>
      have ih := Mem.get_put_from (a := a) (c := c) (b := b) h.2
      by_cases hc : a' = c
      · subst hc; simp [Mem.get, Nat.ne_of_lt hl]
      · simp only [Mem.get, hc, if_false, ih]
        by_cases hca : c = a
        · have h2 : ¬ c < a' := by omega
          simp [hca, Nat.not_lt.mpr (Nat.le_of_lt hl)]
        · simp [hca]
    · split
      · next he =>
        subst he
        rw [Mem.get_cons (Nat.lt_succ_self _) h.2]
        by_cases hc : c = a'
        · simp [hc]
        · simp only [hc, if_false, Mem.get, Ne.symm hc]
          split
          · next hl => rw [Mem.get_below h.2 (by omega)]
          · rfl
      · next hl he =>
        have : Mem.wfFrom a' ((a', b') :: m) = true := by
          simp only [Mem.wfFrom, Bool.and_eq_true, decide_eq_true_eq]
          exact ⟨⟨Nat.le_refl _, h.1.2⟩, h.2⟩
        exact Mem.get_cons (by omega) this

/-- A byte reads what was last written to it; a write leaves every other byte alone. -/
theorem Mem.get_put {m : Mem} (a c : Nat) (b : Byte) (h : m.wf = true) :
    Mem.get c (Mem.put a b m) = if c = a then b else Mem.get c m := Mem.get_put_from h

/-- Bytes outside a written range are unchanged. -/
theorem Mem.get_putBytes_outside : ∀ (bs : Bytes) (m : Mem) (a c : Nat), m.wf = true → (c < a ∨ a + bs.length ≤ c) →
    Mem.get c (m.putBytes a bs) = Mem.get c m
  | [], _, _, _, _, _ => rfl
  | b :: bs, m, a, c, h, hc => by
    simp only [List.length_cons] at hc
    have h1 := Mem.get_putBytes_outside bs (Mem.put a b m) (a + 1) c (Mem.wf_put a b h) (by omega)
    have h2 : c ≠ a := by omega
    simpa [Mem.putBytes, Mem.get_put a c b h, h2] using h1

/-- A range reads back what was written to it. -/
theorem Mem.getBytes_putBytes : ∀ (bs : Bytes) (m : Mem) (a : Nat), m.wf = true →
    (m.putBytes a bs).getBytes a bs.length = bs
  | [], _, _, _ => rfl
  | b :: bs, m, a, h => by
    have hw := Mem.wf_put a b h
    have ih := Mem.getBytes_putBytes bs (Mem.put a b m) (a + 1) hw
    have h1 := Mem.get_putBytes_outside bs (Mem.put a b m) (a + 1) a hw (Or.inl (by omega))
    simp only [List.length_cons, Mem.getBytes, Mem.putBytes, ih, h1, Mem.get_put a a b h, if_true]

end Sys2Proof.Machine
end

