-- ==== Sys2Proof/Laws/Tab.lean ====
section
/-! SUPPORT. Laws of sparse tables: what a table holds after each of its operations. -/

namespace Sys2Proof.Machine

variable {α : Type}

theorem Tab.lookIn_putIn_same (k : Nat) (v : α) (l : List (Nat × α)) : Tab.lookIn k (Tab.putIn k v l) = some v := by
  induction l with
  | nil => simp [Tab.putIn, Tab.lookIn]
  | cons r l ih =>
    obtain ⟨k', v'⟩ := r
    simp only [Tab.putIn]
    split
    · next h => simp [Tab.lookIn, Nat.ne_of_lt h, ih]
    · split <;> simp [Tab.lookIn]

theorem Tab.lookIn_putIn_ne {j k : Nat} (h : j ≠ k) (v : α) (l : List (Nat × α)) :
    Tab.lookIn j (Tab.putIn k v l) = Tab.lookIn j l := by
  induction l with
  | nil => simp [Tab.putIn, Tab.lookIn, h.symm]
  | cons r l ih =>
    obtain ⟨k', v'⟩ := r
    simp only [Tab.putIn]
    split
    · simp [Tab.lookIn, ih]
    · split
      · next h' => subst h'; simp [Tab.lookIn, h.symm]
      · simp [Tab.lookIn, h.symm]

@[simp] theorem Tab.at_put_same (t : Tab α) (k : Nat) (v : α) : (t.put k v).at? k = some v :=
  Tab.lookIn_putIn_same k v t.rows

theorem Tab.at_put_ne (t : Tab α) {j k : Nat} (h : j ≠ k) (v : α) : (t.put k v).at? j = t.at? j :=
  Tab.lookIn_putIn_ne h v t.rows

@[simp] theorem Tab.atD_put_same (t : Tab α) (k : Nat) (v d : α) : (t.put k v).atD k d = v := by simp [Tab.atD]

theorem Tab.atD_put_ne (t : Tab α) {j k : Nat} (h : j ≠ k) (v d : α) : (t.put k v).atD j d = t.atD j d := by
  simp [Tab.atD, Tab.at_put_ne t h]

theorem Tab.lookIn_filter_ne (k : Nat) (l : List (Nat × α)) : Tab.lookIn k (l.filter (fun p => p.1 != k)) = none := by
  induction l with
  | nil => rfl
  | cons r l ih =>
    obtain ⟨k', v'⟩ := r
    by_cases h : k' = k
    · simpa [List.filter_cons, h] using ih
    · simpa [List.filter_cons, h, Tab.lookIn] using ih

@[simp] theorem Tab.at_del_same (t : Tab α) (k : Nat) : (t.del k).at? k = none := Tab.lookIn_filter_ne k t.rows

theorem Tab.lookIn_filter_other {j k : Nat} (h : j ≠ k) (l : List (Nat × α)) :
    Tab.lookIn j (l.filter (fun p => p.1 != k)) = Tab.lookIn j l := by
  induction l with
  | nil => rfl
  | cons r l ih =>
    obtain ⟨k', v'⟩ := r
    by_cases hk : k' = k
    · have : k' ≠ j := fun e => h (by omega)
      simpa [List.filter_cons, hk, Tab.lookIn, h.symm] using ih
    · simp [hk, Tab.lookIn, ih]

theorem Tab.at_del_ne (t : Tab α) {j k : Nat} (h : j ≠ k) : (t.del k).at? j = t.at? j := Tab.lookIn_filter_other h t.rows

theorem Tab.at_mapVals (t : Tab α) (f : Nat → α → α) (k : Nat) : (t.mapVals f).at? k = (t.at? k).map (f k) := by
  obtain ⟨l⟩ := t
  simp only [Tab.mapVals, Tab.at?]
  induction l with
  | nil => rfl
  | cons r l ih =>
    obtain ⟨k', v'⟩ := r
    by_cases h : k' = k
    · subst h; simp [Tab.lookIn]
    · simpa [Tab.lookIn, h] using ih

end Sys2Proof.Machine
end

