-- ==== Sys2Proof/Laws/Regs.lean ====
section
/-! SUPPORT. Laws of bit fields and of register fields: a field reads back what was put into it, and a write to one
field or register leaves the others. -/

namespace Sys2Proof.Machine

theorem bitsN_lt (v hi lo : Nat) : bitsN v hi lo < 2 ^ (hi + 1 - lo) := Nat.mod_lt _ (Nat.two_pow_pos _)

theorem setBitsN_parts (v hi lo f : Nat) :
    setBitsN v hi lo f = (v / 2 ^ lo / 2 ^ (hi + 1 - lo) * 2 ^ (hi + 1 - lo) + f % 2 ^ (hi + 1 - lo)) * 2 ^ lo + v % 2 ^ lo := by
  unfold setBitsN bitsN
  generalize hw : 2 ^ (hi + 1 - lo) = w
  generalize hl : 2 ^ lo = l
  have h1 := Nat.div_add_mod v l
  have h2 := Nat.div_add_mod (v / l) w
  have h3 : v = (v / l / w * w + v / l % w) * l + v % l := by
    rw [Nat.mul_comm (v / l / w) w, h2, Nat.mul_comm]; exact h1.symm
  rw [Nat.add_mul] at h3
  have h4 : v - v / l % w * l = v / l / w * w * l + v % l := by omega
  rw [h4, Nat.add_mul]
  omega

theorem mod_div_two_pow (v lo : Nat) : v % 2 ^ lo / 2 ^ lo = 0 := Nat.div_eq_of_lt (Nat.mod_lt _ (Nat.two_pow_pos _))

@[simp] theorem bitsN_setBitsN (v hi lo f : Nat) : bitsN (setBitsN v hi lo f) hi lo = f % 2 ^ (hi + 1 - lo) := by
  have hp := Nat.two_pow_pos lo
  rw [setBitsN_parts, bitsN, Nat.mul_comm _ (2 ^ lo), Nat.mul_add_div hp, mod_div_two_pow, Nat.add_zero,
    Nat.mul_comm _ (2 ^ (hi + 1 - lo)), Nat.mul_add_mod, Nat.mod_mod]

/-- A field below the one that was set. -/
theorem bitsN_setBitsN_below {hi' lo' hi lo : Nat} (v f : Nat) (h : hi' < lo) (h' : lo' ≤ hi') :
    bitsN (setBitsN v hi lo f) hi' lo' = bitsN v hi' lo' := by
  rw [setBitsN_parts]
  generalize (v / 2 ^ lo / 2 ^ (hi + 1 - lo) * 2 ^ (hi + 1 - lo) + f % 2 ^ (hi + 1 - lo)) = q
  have key : ∀ x y : Nat, x % 2 ^ lo = y % 2 ^ lo → bitsN x hi' lo' = bitsN y hi' lo' := by
    intro x y hxy
    have e : ∀ z : Nat, bitsN z hi' lo' = z % 2 ^ lo / 2 ^ lo' % 2 ^ (hi' + 1 - lo') := by
      intro z
      unfold bitsN
      obtain ⟨d, rfl⟩ : ∃ d, lo = lo' + (hi' + 1 - lo') + d := ⟨lo - (hi' + 1), by omega⟩
      rw [Nat.add_assoc, Nat.pow_add, Nat.mod_mul_right_div_self, Nat.pow_add, Nat.mod_mul_right_mod]
    rw [e, e, hxy]
  apply key
  rw [Nat.mul_comm, Nat.mul_add_mod, Nat.mod_mod]

/-- A field above the one that was set. -/
theorem bitsN_setBitsN_above {hi' lo' hi lo : Nat} (v f : Nat) (h : hi < lo') (h' : lo ≤ hi) :
    bitsN (setBitsN v hi lo f) hi' lo' = bitsN v hi' lo' := by
  unfold bitsN
  obtain ⟨d, rfl⟩ : ∃ d, lo' = lo + (hi + 1 - lo) + d := ⟨lo' - (hi + 1), by omega⟩
  rw [Nat.pow_add, Nat.pow_add, ← Nat.div_div_eq_div_mul, ← Nat.div_div_eq_div_mul, ← Nat.div_div_eq_div_mul,
    ← Nat.div_div_eq_div_mul, setBitsN_parts]
  have hp := Nat.two_pow_pos lo
  have hw := Nat.two_pow_pos (hi + 1 - lo)
  rw [Nat.mul_comm _ (2 ^ lo), Nat.mul_add_div hp, mod_div_two_pow, Nat.add_zero, Nat.mul_comm _ (2 ^ (hi + 1 - lo)),
    Nat.mul_add_div hw, mod_div_two_pow, Nat.add_zero]

theorem setBitsN_lt {v hi lo f : Nat} (hv : v < 2 ^ 64) (h : hi < 64) (h' : lo ≤ hi) : setBitsN v hi lo f < 2 ^ 64 := by
  obtain ⟨d, hd⟩ : ∃ d, 64 = lo + (hi + 1 - lo) + d := ⟨64 - (hi + 1), by omega⟩
  rw [setBitsN_parts]
  rw [hd, Nat.pow_add, Nat.pow_add] at hv ⊢
  have hp := Nat.two_pow_pos lo
  have hw := Nat.two_pow_pos (hi + 1 - lo)
  have h1 : v % 2 ^ lo < 2 ^ lo := Nat.mod_lt _ hp
  have h2 : f % 2 ^ (hi + 1 - lo) < 2 ^ (hi + 1 - lo) := Nat.mod_lt _ hw
  have h3 : v / 2 ^ lo / 2 ^ (hi + 1 - lo) < 2 ^ d := by
    rw [Nat.div_div_eq_div_mul]; exact Nat.div_lt_of_lt_mul hv
  generalize 2 ^ lo = l at *
  generalize 2 ^ (hi + 1 - lo) = w at *
  generalize 2 ^ d = e at *
  generalize v / l / w = a at *
  generalize v % l = b at *
  generalize f % w = c at *
  calc (a * w + c) * l + b < (a * w + c) * l + l := by omega
    _ = (a * w + c + 1) * l := by rw [Nat.add_mul _ 1, Nat.one_mul]
    _ ≤ (a * w + w) * l := Nat.mul_le_mul_right _ (by omega)
    _ = (a + 1) * w * l := by rw [Nat.add_mul a 1, Nat.one_mul]
    _ ≤ e * w * l := Nat.mul_le_mul_right _ (Nat.mul_le_mul_right _ h3)
    _ = l * w * e := by rw [Nat.mul_comm (e * w), Nat.mul_assoc, Nat.mul_comm e]

/-! ### Registers -/

theorem State.rdN_lt (s : State) (r : Reg) (i : Nat) : s.rdN r i < 2 ^ 64 := (s.rd r i).isLt

@[simp] theorem State.rdN_wr_same (s : State) (r : Reg) (i v : Nat) : (s.wr r i v).rdN r i = v % 2 ^ 64 := by
  simp [State.rdN, State.rd, State.wr]

theorem State.rd_wr_ne (s : State) {r r' : Reg} {i j : Nat} (h : r'.key j ≠ r.key i) (v : Nat) :
    (s.wr r i v).rd r' j = s.rd r' j := by
  simp [State.rd, State.wr, Tab.at_put_ne _ h]

theorem State.rdN_wr_ne (s : State) {r r' : Reg} {i j : Nat} (h : r'.key j ≠ r.key i) (v : Nat) :
    (s.wr r i v).rdN r' j = s.rdN r' j := by
  simp [State.rdN, State.rd_wr_ne s h]

theorem State.rdN_pf_same (s : State) (f : Fld) (i v : Nat) (h : f.hi < 64) (h' : f.lo ≤ f.hi) :
    (s.pf f i v).rdN f.reg i = setBitsN (s.rdN f.reg i) f.hi f.lo v := by
  simp only [State.pf, State.rdN_wr_same]
  exact Nat.mod_eq_of_lt (setBitsN_lt (s.rdN_lt _ _) h h')

/-- A field reads back what was put into it. -/
theorem State.gf_pf_same (s : State) (f : Fld) (i v : Nat) (h : f.hi < 64) (h' : f.lo ≤ f.hi) :
    (s.pf f i v).gf f i = v % 2 ^ (f.hi + 1 - f.lo) := by
  simp [State.gf, State.rdN_pf_same s f i v h h']

/-- A write to a field leaves every register at another place. -/
theorem State.gf_pf_reg (s : State) {f f' : Fld} {i j : Nat} (h : f'.reg.key j ≠ f.reg.key i) (v : Nat) :
    (s.pf f i v).gf f' j = s.gf f' j := by
  simp [State.gf, State.pf, State.rdN_wr_ne s h]

/-- A write to a field leaves the other fields of its register. -/
theorem State.gf_pf_field (s : State) {f f' : Fld} {i : Nat} (v : Nat) (hr : f'.reg = f.reg) (h : f.hi < 64)
    (hl : f.lo ≤ f.hi) (hl' : f'.lo ≤ f'.hi) (hd : f'.hi < f.lo ∨ f.hi < f'.lo) :
    (s.pf f i v).gf f' i = s.gf f' i := by
  unfold State.gf
  rw [hr, State.rdN_pf_same s f i v h hl]
  rcases hd with hd | hd
  · exact bitsN_setBitsN_below _ _ hd hl'
  · exact bitsN_setBitsN_above _ _ hd hl

theorem State.gb_pf_one (s : State) (f : Fld) (i : Nat) (h : f.hi < 64) (h' : f.lo ≤ f.hi) : (s.pf f i 1).gb f i = true := by
  have hw : 1 < 2 ^ (f.hi + 1 - f.lo) := Nat.one_lt_two_pow (by omega)
  simp [State.gb, State.gf_pf_same s f i 1 h h', Nat.mod_eq_of_lt hw]

theorem State.gb_pf_zero (s : State) (f : Fld) (i : Nat) (h : f.hi < 64) (h' : f.lo ≤ f.hi) : (s.pf f i 0).gb f i = false := by
  simp [State.gb, State.gf_pf_same s f i 0 h h']

end Sys2Proof.Machine
end

