-- ==== Sys2Proof/Laws/State.lean ====
section
/-! SUPPORT. What the updates of the state leave unchanged: one lemma for each field and update. -/

namespace Sys2Proof.Machine

variable (s : State)

@[simp] theorem State.wr_pending (r : Reg) (i v : Nat) : (s.wr r i v).pending = s.pending := rfl
@[simp] theorem State.wr_outbox (r : Reg) (i v : Nat) : (s.wr r i v).outbox = s.outbox := rfl
@[simp] theorem State.wr_freeCtr (r : Reg) (i v : Nat) : (s.wr r i v).freeCtr = s.freeCtr := rfl
@[simp] theorem State.wr_rndCtr (r : Reg) (i v : Nat) : (s.wr r i v).rndCtr = s.rndCtr := rfl
@[simp] theorem State.wr_mem (r : Reg) (i v : Nat) : (s.wr r i v).mem = s.mem := rfl
@[simp] theorem State.wr_lineKey (r : Reg) (i v : Nat) : (s.wr r i v).lineKey = s.lineKey := rfl
@[simp] theorem State.wr_badLines (r : Reg) (i v : Nat) : (s.wr r i v).badLines = s.badLines := rfl
@[simp] theorem State.wr_badWords (r : Reg) (i v : Nat) : (s.wr r i v).badWords = s.badWords := rfl
@[simp] theorem State.wr_keyIds (r : Reg) (i v : Nat) : (s.wr r i v).keyIds = s.keyIds := rfl
@[simp] theorem State.wr_keyNext (r : Reg) (i v : Nat) : (s.wr r i v).keyNext = s.keyNext := rfl
@[simp] theorem State.wr_fused (r : Reg) (i v : Nat) : (s.wr r i v).fused = s.fused := rfl
@[simp] theorem State.wr_hbmMode (r : Reg) (i v : Nat) : (s.wr r i v).hbmMode = s.hbmMode := rfl
@[simp] theorem State.wr_ddrMode (r : Reg) (i v : Nat) : (s.wr r i v).ddrMode = s.ddrMode := rfl
@[simp] theorem State.wr_ddrChans (r : Reg) (i v : Nat) : (s.wr r i v).ddrChans = s.ddrChans := rfl
@[simp] theorem State.wr_cxlWins (r : Reg) (i v : Nat) : (s.wr r i v).cxlWins = s.cxlWins := rfl
@[simp] theorem State.wr_time (r : Reg) (i v : Nat) : (s.wr r i v).time = s.time := rfl
@[simp] theorem State.wr_gears (r : Reg) (i v : Nat) : (s.wr r i v).gears = s.gears := rfl
@[simp] theorem State.wr_doms (r : Reg) (i v : Nat) : (s.wr r i v).doms = s.doms := rfl
@[simp] theorem State.wr_xl (r : Reg) (i v : Nat) : (s.wr r i v).xl = s.xl := rfl
@[simp] theorem State.wr_coh (r : Reg) (i v : Nat) : (s.wr r i v).coh = s.coh := rfl
@[simp] theorem State.wr_tiles (r : Reg) (i v : Nat) : (s.wr r i v).tiles = s.tiles := rfl
@[simp] theorem State.wr_seq (r : Reg) (i v : Nat) : (s.wr r i v).seq = s.seq := rfl
@[simp] theorem State.wr_pan (r : Reg) (i v : Nat) : (s.wr r i v).pan = s.pan := rfl
@[simp] theorem State.wr_num (r : Reg) (i v : Nat) : (s.wr r i v).num = s.num := rfl
@[simp] theorem State.wr_eth (r : Reg) (i v : Nat) : (s.wr r i v).eth = s.eth := rfl
@[simp] theorem State.wr_at (r : Reg) (i v : Nat) : (s.wr r i v).at' = s.at' := rfl
@[simp] theorem State.wr_drl (r : Reg) (i v : Nat) : (s.wr r i v).drl = s.drl := rfl
@[simp] theorem State.wr_nme (r : Reg) (i v : Nat) : (s.wr r i v).nme = s.nme := rfl
@[simp] theorem State.wr_asleep (r : Reg) (i v : Nat) : (s.wr r i v).asleep = s.asleep := rfl
@[simp] theorem State.wr_redo (r : Reg) (i v : Nat) : (s.wr r i v).redo = s.redo := rfl
@[simp] theorem State.wr_flt (r : Reg) (i v : Nat) : (s.wr r i v).flt = s.flt := rfl
@[simp] theorem State.wr_pcie (r : Reg) (i v : Nat) : (s.wr r i v).pcie = s.pcie := rfl
@[simp] theorem State.wr_absent (r : Reg) (i v : Nat) : (s.wr r i v).absent = s.absent := rfl
@[simp] theorem State.wr_sec (r : Reg) (i v : Nat) : (s.wr r i v).sec = s.sec := rfl
@[simp] theorem State.wr_od (r : Reg) (i v : Nat) : (s.wr r i v).od = s.od := rfl
@[simp] theorem State.wr_bmp (r : Reg) (i v : Nat) : (s.wr r i v).bmp = s.bmp := rfl
@[simp] theorem State.wr_pwr (r : Reg) (i v : Nat) : (s.wr r i v).pwr = s.pwr := rfl

@[simp] theorem State.pf_pending (f : Fld) (i v : Nat) : (s.pf f i v).pending = s.pending := rfl
@[simp] theorem State.pf_outbox (f : Fld) (i v : Nat) : (s.pf f i v).outbox = s.outbox := rfl
@[simp] theorem State.pf_freeCtr (f : Fld) (i v : Nat) : (s.pf f i v).freeCtr = s.freeCtr := rfl
@[simp] theorem State.pf_rndCtr (f : Fld) (i v : Nat) : (s.pf f i v).rndCtr = s.rndCtr := rfl
@[simp] theorem State.pf_mem (f : Fld) (i v : Nat) : (s.pf f i v).mem = s.mem := rfl
@[simp] theorem State.pf_lineKey (f : Fld) (i v : Nat) : (s.pf f i v).lineKey = s.lineKey := rfl
@[simp] theorem State.pf_badLines (f : Fld) (i v : Nat) : (s.pf f i v).badLines = s.badLines := rfl
@[simp] theorem State.pf_badWords (f : Fld) (i v : Nat) : (s.pf f i v).badWords = s.badWords := rfl
@[simp] theorem State.pf_keyIds (f : Fld) (i v : Nat) : (s.pf f i v).keyIds = s.keyIds := rfl
@[simp] theorem State.pf_keyNext (f : Fld) (i v : Nat) : (s.pf f i v).keyNext = s.keyNext := rfl
@[simp] theorem State.pf_fused (f : Fld) (i v : Nat) : (s.pf f i v).fused = s.fused := rfl
@[simp] theorem State.pf_hbmMode (f : Fld) (i v : Nat) : (s.pf f i v).hbmMode = s.hbmMode := rfl
@[simp] theorem State.pf_ddrMode (f : Fld) (i v : Nat) : (s.pf f i v).ddrMode = s.ddrMode := rfl
@[simp] theorem State.pf_ddrChans (f : Fld) (i v : Nat) : (s.pf f i v).ddrChans = s.ddrChans := rfl
@[simp] theorem State.pf_cxlWins (f : Fld) (i v : Nat) : (s.pf f i v).cxlWins = s.cxlWins := rfl
@[simp] theorem State.pf_time (f : Fld) (i v : Nat) : (s.pf f i v).time = s.time := rfl
@[simp] theorem State.pf_gears (f : Fld) (i v : Nat) : (s.pf f i v).gears = s.gears := rfl
@[simp] theorem State.pf_doms (f : Fld) (i v : Nat) : (s.pf f i v).doms = s.doms := rfl
@[simp] theorem State.pf_xl (f : Fld) (i v : Nat) : (s.pf f i v).xl = s.xl := rfl
@[simp] theorem State.pf_coh (f : Fld) (i v : Nat) : (s.pf f i v).coh = s.coh := rfl
@[simp] theorem State.pf_tiles (f : Fld) (i v : Nat) : (s.pf f i v).tiles = s.tiles := rfl
@[simp] theorem State.pf_seq (f : Fld) (i v : Nat) : (s.pf f i v).seq = s.seq := rfl
@[simp] theorem State.pf_pan (f : Fld) (i v : Nat) : (s.pf f i v).pan = s.pan := rfl
@[simp] theorem State.pf_num (f : Fld) (i v : Nat) : (s.pf f i v).num = s.num := rfl
@[simp] theorem State.pf_eth (f : Fld) (i v : Nat) : (s.pf f i v).eth = s.eth := rfl
@[simp] theorem State.pf_at (f : Fld) (i v : Nat) : (s.pf f i v).at' = s.at' := rfl
@[simp] theorem State.pf_drl (f : Fld) (i v : Nat) : (s.pf f i v).drl = s.drl := rfl
@[simp] theorem State.pf_nme (f : Fld) (i v : Nat) : (s.pf f i v).nme = s.nme := rfl
@[simp] theorem State.pf_asleep (f : Fld) (i v : Nat) : (s.pf f i v).asleep = s.asleep := rfl
@[simp] theorem State.pf_redo (f : Fld) (i v : Nat) : (s.pf f i v).redo = s.redo := rfl
@[simp] theorem State.pf_flt (f : Fld) (i v : Nat) : (s.pf f i v).flt = s.flt := rfl
@[simp] theorem State.pf_pcie (f : Fld) (i v : Nat) : (s.pf f i v).pcie = s.pcie := rfl
@[simp] theorem State.pf_absent (f : Fld) (i v : Nat) : (s.pf f i v).absent = s.absent := rfl
@[simp] theorem State.pf_sec (f : Fld) (i v : Nat) : (s.pf f i v).sec = s.sec := rfl
@[simp] theorem State.pf_od (f : Fld) (i v : Nat) : (s.pf f i v).od = s.od := rfl
@[simp] theorem State.pf_bmp (f : Fld) (i v : Nat) : (s.pf f i v).bmp = s.bmp := rfl
@[simp] theorem State.pf_pwr (f : Fld) (i v : Nat) : (s.pf f i v).pwr = s.pwr := rfl

@[simp] theorem State.emit_pending (o : Out) : (s.emit o).pending = s.pending := rfl
@[simp] theorem State.emit_freeCtr (o : Out) : (s.emit o).freeCtr = s.freeCtr := rfl
@[simp] theorem State.emit_rndCtr (o : Out) : (s.emit o).rndCtr = s.rndCtr := rfl
@[simp] theorem State.emit_regs (o : Out) : (s.emit o).regs = s.regs := rfl
@[simp] theorem State.emit_mem (o : Out) : (s.emit o).mem = s.mem := rfl
@[simp] theorem State.emit_lineKey (o : Out) : (s.emit o).lineKey = s.lineKey := rfl
@[simp] theorem State.emit_badLines (o : Out) : (s.emit o).badLines = s.badLines := rfl
@[simp] theorem State.emit_badWords (o : Out) : (s.emit o).badWords = s.badWords := rfl
@[simp] theorem State.emit_keyIds (o : Out) : (s.emit o).keyIds = s.keyIds := rfl
@[simp] theorem State.emit_keyNext (o : Out) : (s.emit o).keyNext = s.keyNext := rfl
@[simp] theorem State.emit_fused (o : Out) : (s.emit o).fused = s.fused := rfl
@[simp] theorem State.emit_hbmMode (o : Out) : (s.emit o).hbmMode = s.hbmMode := rfl
@[simp] theorem State.emit_ddrMode (o : Out) : (s.emit o).ddrMode = s.ddrMode := rfl
@[simp] theorem State.emit_ddrChans (o : Out) : (s.emit o).ddrChans = s.ddrChans := rfl
@[simp] theorem State.emit_cxlWins (o : Out) : (s.emit o).cxlWins = s.cxlWins := rfl
@[simp] theorem State.emit_time (o : Out) : (s.emit o).time = s.time := rfl
@[simp] theorem State.emit_gears (o : Out) : (s.emit o).gears = s.gears := rfl
@[simp] theorem State.emit_doms (o : Out) : (s.emit o).doms = s.doms := rfl
@[simp] theorem State.emit_xl (o : Out) : (s.emit o).xl = s.xl := rfl
@[simp] theorem State.emit_coh (o : Out) : (s.emit o).coh = s.coh := rfl
@[simp] theorem State.emit_tiles (o : Out) : (s.emit o).tiles = s.tiles := rfl
@[simp] theorem State.emit_seq (o : Out) : (s.emit o).seq = s.seq := rfl
@[simp] theorem State.emit_pan (o : Out) : (s.emit o).pan = s.pan := rfl
@[simp] theorem State.emit_num (o : Out) : (s.emit o).num = s.num := rfl
@[simp] theorem State.emit_eth (o : Out) : (s.emit o).eth = s.eth := rfl
@[simp] theorem State.emit_at (o : Out) : (s.emit o).at' = s.at' := rfl
@[simp] theorem State.emit_drl (o : Out) : (s.emit o).drl = s.drl := rfl
@[simp] theorem State.emit_nme (o : Out) : (s.emit o).nme = s.nme := rfl
@[simp] theorem State.emit_asleep (o : Out) : (s.emit o).asleep = s.asleep := rfl
@[simp] theorem State.emit_redo (o : Out) : (s.emit o).redo = s.redo := rfl
@[simp] theorem State.emit_flt (o : Out) : (s.emit o).flt = s.flt := rfl
@[simp] theorem State.emit_pcie (o : Out) : (s.emit o).pcie = s.pcie := rfl
@[simp] theorem State.emit_absent (o : Out) : (s.emit o).absent = s.absent := rfl
@[simp] theorem State.emit_sec (o : Out) : (s.emit o).sec = s.sec := rfl
@[simp] theorem State.emit_od (o : Out) : (s.emit o).od = s.od := rfl
@[simp] theorem State.emit_bmp (o : Out) : (s.emit o).bmp = s.bmp := rfl
@[simp] theorem State.emit_pwr (o : Out) : (s.emit o).pwr = s.pwr := rfl

@[simp] theorem State.setTile_pending (t : Nat) (f : Tile → Tile) : (s.setTile t f).pending = s.pending := rfl
@[simp] theorem State.setTile_outbox (t : Nat) (f : Tile → Tile) : (s.setTile t f).outbox = s.outbox := rfl
@[simp] theorem State.setTile_freeCtr (t : Nat) (f : Tile → Tile) : (s.setTile t f).freeCtr = s.freeCtr := rfl
@[simp] theorem State.setTile_rndCtr (t : Nat) (f : Tile → Tile) : (s.setTile t f).rndCtr = s.rndCtr := rfl
@[simp] theorem State.setTile_regs (t : Nat) (f : Tile → Tile) : (s.setTile t f).regs = s.regs := rfl
@[simp] theorem State.setTile_mem (t : Nat) (f : Tile → Tile) : (s.setTile t f).mem = s.mem := rfl
@[simp] theorem State.setTile_lineKey (t : Nat) (f : Tile → Tile) : (s.setTile t f).lineKey = s.lineKey := rfl
@[simp] theorem State.setTile_badLines (t : Nat) (f : Tile → Tile) : (s.setTile t f).badLines = s.badLines := rfl
@[simp] theorem State.setTile_badWords (t : Nat) (f : Tile → Tile) : (s.setTile t f).badWords = s.badWords := rfl
@[simp] theorem State.setTile_keyIds (t : Nat) (f : Tile → Tile) : (s.setTile t f).keyIds = s.keyIds := rfl
@[simp] theorem State.setTile_keyNext (t : Nat) (f : Tile → Tile) : (s.setTile t f).keyNext = s.keyNext := rfl
@[simp] theorem State.setTile_fused (t : Nat) (f : Tile → Tile) : (s.setTile t f).fused = s.fused := rfl
@[simp] theorem State.setTile_hbmMode (t : Nat) (f : Tile → Tile) : (s.setTile t f).hbmMode = s.hbmMode := rfl
@[simp] theorem State.setTile_ddrMode (t : Nat) (f : Tile → Tile) : (s.setTile t f).ddrMode = s.ddrMode := rfl
@[simp] theorem State.setTile_ddrChans (t : Nat) (f : Tile → Tile) : (s.setTile t f).ddrChans = s.ddrChans := rfl
@[simp] theorem State.setTile_cxlWins (t : Nat) (f : Tile → Tile) : (s.setTile t f).cxlWins = s.cxlWins := rfl
@[simp] theorem State.setTile_time (t : Nat) (f : Tile → Tile) : (s.setTile t f).time = s.time := rfl
@[simp] theorem State.setTile_gears (t : Nat) (f : Tile → Tile) : (s.setTile t f).gears = s.gears := rfl
@[simp] theorem State.setTile_doms (t : Nat) (f : Tile → Tile) : (s.setTile t f).doms = s.doms := rfl
@[simp] theorem State.setTile_xl (t : Nat) (f : Tile → Tile) : (s.setTile t f).xl = s.xl := rfl
@[simp] theorem State.setTile_coh (t : Nat) (f : Tile → Tile) : (s.setTile t f).coh = s.coh := rfl
@[simp] theorem State.setTile_seq (t : Nat) (f : Tile → Tile) : (s.setTile t f).seq = s.seq := rfl
@[simp] theorem State.setTile_pan (t : Nat) (f : Tile → Tile) : (s.setTile t f).pan = s.pan := rfl
@[simp] theorem State.setTile_num (t : Nat) (f : Tile → Tile) : (s.setTile t f).num = s.num := rfl
@[simp] theorem State.setTile_eth (t : Nat) (f : Tile → Tile) : (s.setTile t f).eth = s.eth := rfl
@[simp] theorem State.setTile_at (t : Nat) (f : Tile → Tile) : (s.setTile t f).at' = s.at' := rfl
@[simp] theorem State.setTile_drl (t : Nat) (f : Tile → Tile) : (s.setTile t f).drl = s.drl := rfl
@[simp] theorem State.setTile_nme (t : Nat) (f : Tile → Tile) : (s.setTile t f).nme = s.nme := rfl
@[simp] theorem State.setTile_asleep (t : Nat) (f : Tile → Tile) : (s.setTile t f).asleep = s.asleep := rfl
@[simp] theorem State.setTile_redo (t : Nat) (f : Tile → Tile) : (s.setTile t f).redo = s.redo := rfl
@[simp] theorem State.setTile_flt (t : Nat) (f : Tile → Tile) : (s.setTile t f).flt = s.flt := rfl
@[simp] theorem State.setTile_pcie (t : Nat) (f : Tile → Tile) : (s.setTile t f).pcie = s.pcie := rfl
@[simp] theorem State.setTile_absent (t : Nat) (f : Tile → Tile) : (s.setTile t f).absent = s.absent := rfl
@[simp] theorem State.setTile_sec (t : Nat) (f : Tile → Tile) : (s.setTile t f).sec = s.sec := rfl
@[simp] theorem State.setTile_od (t : Nat) (f : Tile → Tile) : (s.setTile t f).od = s.od := rfl
@[simp] theorem State.setTile_bmp (t : Nat) (f : Tile → Tile) : (s.setTile t f).bmp = s.bmp := rfl
@[simp] theorem State.setTile_pwr (t : Nat) (f : Tile → Tile) : (s.setTile t f).pwr = s.pwr := rfl

@[simp] theorem State.setGroup_pending (t g : Nat) (f : Group → Group) : (s.setGroup t g f).pending = s.pending := rfl
@[simp] theorem State.setGroup_outbox (t g : Nat) (f : Group → Group) : (s.setGroup t g f).outbox = s.outbox := rfl
@[simp] theorem State.setGroup_freeCtr (t g : Nat) (f : Group → Group) : (s.setGroup t g f).freeCtr = s.freeCtr := rfl
@[simp] theorem State.setGroup_rndCtr (t g : Nat) (f : Group → Group) : (s.setGroup t g f).rndCtr = s.rndCtr := rfl
@[simp] theorem State.setGroup_regs (t g : Nat) (f : Group → Group) : (s.setGroup t g f).regs = s.regs := rfl
@[simp] theorem State.setGroup_mem (t g : Nat) (f : Group → Group) : (s.setGroup t g f).mem = s.mem := rfl
@[simp] theorem State.setGroup_lineKey (t g : Nat) (f : Group → Group) : (s.setGroup t g f).lineKey = s.lineKey := rfl
@[simp] theorem State.setGroup_badLines (t g : Nat) (f : Group → Group) : (s.setGroup t g f).badLines = s.badLines := rfl
@[simp] theorem State.setGroup_badWords (t g : Nat) (f : Group → Group) : (s.setGroup t g f).badWords = s.badWords := rfl
@[simp] theorem State.setGroup_keyIds (t g : Nat) (f : Group → Group) : (s.setGroup t g f).keyIds = s.keyIds := rfl
@[simp] theorem State.setGroup_keyNext (t g : Nat) (f : Group → Group) : (s.setGroup t g f).keyNext = s.keyNext := rfl
@[simp] theorem State.setGroup_fused (t g : Nat) (f : Group → Group) : (s.setGroup t g f).fused = s.fused := rfl
@[simp] theorem State.setGroup_hbmMode (t g : Nat) (f : Group → Group) : (s.setGroup t g f).hbmMode = s.hbmMode := rfl
@[simp] theorem State.setGroup_ddrMode (t g : Nat) (f : Group → Group) : (s.setGroup t g f).ddrMode = s.ddrMode := rfl
@[simp] theorem State.setGroup_ddrChans (t g : Nat) (f : Group → Group) : (s.setGroup t g f).ddrChans = s.ddrChans := rfl
@[simp] theorem State.setGroup_cxlWins (t g : Nat) (f : Group → Group) : (s.setGroup t g f).cxlWins = s.cxlWins := rfl
@[simp] theorem State.setGroup_time (t g : Nat) (f : Group → Group) : (s.setGroup t g f).time = s.time := rfl
@[simp] theorem State.setGroup_gears (t g : Nat) (f : Group → Group) : (s.setGroup t g f).gears = s.gears := rfl
@[simp] theorem State.setGroup_doms (t g : Nat) (f : Group → Group) : (s.setGroup t g f).doms = s.doms := rfl
@[simp] theorem State.setGroup_xl (t g : Nat) (f : Group → Group) : (s.setGroup t g f).xl = s.xl := rfl
@[simp] theorem State.setGroup_coh (t g : Nat) (f : Group → Group) : (s.setGroup t g f).coh = s.coh := rfl
@[simp] theorem State.setGroup_seq (t g : Nat) (f : Group → Group) : (s.setGroup t g f).seq = s.seq := rfl
@[simp] theorem State.setGroup_pan (t g : Nat) (f : Group → Group) : (s.setGroup t g f).pan = s.pan := rfl
@[simp] theorem State.setGroup_num (t g : Nat) (f : Group → Group) : (s.setGroup t g f).num = s.num := rfl
@[simp] theorem State.setGroup_eth (t g : Nat) (f : Group → Group) : (s.setGroup t g f).eth = s.eth := rfl
@[simp] theorem State.setGroup_at (t g : Nat) (f : Group → Group) : (s.setGroup t g f).at' = s.at' := rfl
@[simp] theorem State.setGroup_drl (t g : Nat) (f : Group → Group) : (s.setGroup t g f).drl = s.drl := rfl
@[simp] theorem State.setGroup_nme (t g : Nat) (f : Group → Group) : (s.setGroup t g f).nme = s.nme := rfl
@[simp] theorem State.setGroup_asleep (t g : Nat) (f : Group → Group) : (s.setGroup t g f).asleep = s.asleep := rfl
@[simp] theorem State.setGroup_redo (t g : Nat) (f : Group → Group) : (s.setGroup t g f).redo = s.redo := rfl
@[simp] theorem State.setGroup_flt (t g : Nat) (f : Group → Group) : (s.setGroup t g f).flt = s.flt := rfl
@[simp] theorem State.setGroup_pcie (t g : Nat) (f : Group → Group) : (s.setGroup t g f).pcie = s.pcie := rfl
@[simp] theorem State.setGroup_absent (t g : Nat) (f : Group → Group) : (s.setGroup t g f).absent = s.absent := rfl
@[simp] theorem State.setGroup_sec (t g : Nat) (f : Group → Group) : (s.setGroup t g f).sec = s.sec := rfl
@[simp] theorem State.setGroup_od (t g : Nat) (f : Group → Group) : (s.setGroup t g f).od = s.od := rfl
@[simp] theorem State.setGroup_bmp (t g : Nat) (f : Group → Group) : (s.setGroup t g f).bmp = s.bmp := rfl
@[simp] theorem State.setGroup_pwr (t g : Nat) (f : Group → Group) : (s.setGroup t g f).pwr = s.pwr := rfl

@[simp] theorem State.onCoh_pending (f : CohSt → CohSt) : (s.onCoh f).pending = s.pending := rfl
@[simp] theorem State.onCoh_outbox (f : CohSt → CohSt) : (s.onCoh f).outbox = s.outbox := rfl
@[simp] theorem State.onCoh_freeCtr (f : CohSt → CohSt) : (s.onCoh f).freeCtr = s.freeCtr := rfl
@[simp] theorem State.onCoh_rndCtr (f : CohSt → CohSt) : (s.onCoh f).rndCtr = s.rndCtr := rfl
@[simp] theorem State.onCoh_regs (f : CohSt → CohSt) : (s.onCoh f).regs = s.regs := rfl
@[simp] theorem State.onCoh_mem (f : CohSt → CohSt) : (s.onCoh f).mem = s.mem := rfl
@[simp] theorem State.onCoh_lineKey (f : CohSt → CohSt) : (s.onCoh f).lineKey = s.lineKey := rfl
@[simp] theorem State.onCoh_badLines (f : CohSt → CohSt) : (s.onCoh f).badLines = s.badLines := rfl
@[simp] theorem State.onCoh_badWords (f : CohSt → CohSt) : (s.onCoh f).badWords = s.badWords := rfl
@[simp] theorem State.onCoh_keyIds (f : CohSt → CohSt) : (s.onCoh f).keyIds = s.keyIds := rfl
@[simp] theorem State.onCoh_keyNext (f : CohSt → CohSt) : (s.onCoh f).keyNext = s.keyNext := rfl
@[simp] theorem State.onCoh_fused (f : CohSt → CohSt) : (s.onCoh f).fused = s.fused := rfl
@[simp] theorem State.onCoh_hbmMode (f : CohSt → CohSt) : (s.onCoh f).hbmMode = s.hbmMode := rfl
@[simp] theorem State.onCoh_ddrMode (f : CohSt → CohSt) : (s.onCoh f).ddrMode = s.ddrMode := rfl
@[simp] theorem State.onCoh_ddrChans (f : CohSt → CohSt) : (s.onCoh f).ddrChans = s.ddrChans := rfl
@[simp] theorem State.onCoh_cxlWins (f : CohSt → CohSt) : (s.onCoh f).cxlWins = s.cxlWins := rfl
@[simp] theorem State.onCoh_time (f : CohSt → CohSt) : (s.onCoh f).time = s.time := rfl
@[simp] theorem State.onCoh_gears (f : CohSt → CohSt) : (s.onCoh f).gears = s.gears := rfl
@[simp] theorem State.onCoh_doms (f : CohSt → CohSt) : (s.onCoh f).doms = s.doms := rfl
@[simp] theorem State.onCoh_xl (f : CohSt → CohSt) : (s.onCoh f).xl = s.xl := rfl
@[simp] theorem State.onCoh_tiles (f : CohSt → CohSt) : (s.onCoh f).tiles = s.tiles := rfl
@[simp] theorem State.onCoh_seq (f : CohSt → CohSt) : (s.onCoh f).seq = s.seq := rfl
@[simp] theorem State.onCoh_pan (f : CohSt → CohSt) : (s.onCoh f).pan = s.pan := rfl
@[simp] theorem State.onCoh_num (f : CohSt → CohSt) : (s.onCoh f).num = s.num := rfl
@[simp] theorem State.onCoh_eth (f : CohSt → CohSt) : (s.onCoh f).eth = s.eth := rfl
@[simp] theorem State.onCoh_at (f : CohSt → CohSt) : (s.onCoh f).at' = s.at' := rfl
@[simp] theorem State.onCoh_drl (f : CohSt → CohSt) : (s.onCoh f).drl = s.drl := rfl
@[simp] theorem State.onCoh_nme (f : CohSt → CohSt) : (s.onCoh f).nme = s.nme := rfl
@[simp] theorem State.onCoh_asleep (f : CohSt → CohSt) : (s.onCoh f).asleep = s.asleep := rfl
@[simp] theorem State.onCoh_redo (f : CohSt → CohSt) : (s.onCoh f).redo = s.redo := rfl
@[simp] theorem State.onCoh_flt (f : CohSt → CohSt) : (s.onCoh f).flt = s.flt := rfl
@[simp] theorem State.onCoh_pcie (f : CohSt → CohSt) : (s.onCoh f).pcie = s.pcie := rfl
@[simp] theorem State.onCoh_absent (f : CohSt → CohSt) : (s.onCoh f).absent = s.absent := rfl
@[simp] theorem State.onCoh_sec (f : CohSt → CohSt) : (s.onCoh f).sec = s.sec := rfl
@[simp] theorem State.onCoh_od (f : CohSt → CohSt) : (s.onCoh f).od = s.od := rfl
@[simp] theorem State.onCoh_bmp (f : CohSt → CohSt) : (s.onCoh f).bmp = s.bmp := rfl
@[simp] theorem State.onCoh_pwr (f : CohSt → CohSt) : (s.onCoh f).pwr = s.pwr := rfl

@[simp] theorem State.setDom_pending (d : Nat) (f : DomSt → DomSt) : (s.setDom d f).pending = s.pending := rfl
@[simp] theorem State.setDom_outbox (d : Nat) (f : DomSt → DomSt) : (s.setDom d f).outbox = s.outbox := rfl
@[simp] theorem State.setDom_freeCtr (d : Nat) (f : DomSt → DomSt) : (s.setDom d f).freeCtr = s.freeCtr := rfl
@[simp] theorem State.setDom_rndCtr (d : Nat) (f : DomSt → DomSt) : (s.setDom d f).rndCtr = s.rndCtr := rfl
@[simp] theorem State.setDom_regs (d : Nat) (f : DomSt → DomSt) : (s.setDom d f).regs = s.regs := rfl
@[simp] theorem State.setDom_mem (d : Nat) (f : DomSt → DomSt) : (s.setDom d f).mem = s.mem := rfl
@[simp] theorem State.setDom_lineKey (d : Nat) (f : DomSt → DomSt) : (s.setDom d f).lineKey = s.lineKey := rfl
@[simp] theorem State.setDom_badLines (d : Nat) (f : DomSt → DomSt) : (s.setDom d f).badLines = s.badLines := rfl
@[simp] theorem State.setDom_badWords (d : Nat) (f : DomSt → DomSt) : (s.setDom d f).badWords = s.badWords := rfl
@[simp] theorem State.setDom_keyIds (d : Nat) (f : DomSt → DomSt) : (s.setDom d f).keyIds = s.keyIds := rfl
@[simp] theorem State.setDom_keyNext (d : Nat) (f : DomSt → DomSt) : (s.setDom d f).keyNext = s.keyNext := rfl
@[simp] theorem State.setDom_fused (d : Nat) (f : DomSt → DomSt) : (s.setDom d f).fused = s.fused := rfl
@[simp] theorem State.setDom_hbmMode (d : Nat) (f : DomSt → DomSt) : (s.setDom d f).hbmMode = s.hbmMode := rfl
@[simp] theorem State.setDom_ddrMode (d : Nat) (f : DomSt → DomSt) : (s.setDom d f).ddrMode = s.ddrMode := rfl
@[simp] theorem State.setDom_ddrChans (d : Nat) (f : DomSt → DomSt) : (s.setDom d f).ddrChans = s.ddrChans := rfl
@[simp] theorem State.setDom_cxlWins (d : Nat) (f : DomSt → DomSt) : (s.setDom d f).cxlWins = s.cxlWins := rfl
@[simp] theorem State.setDom_time (d : Nat) (f : DomSt → DomSt) : (s.setDom d f).time = s.time := rfl
@[simp] theorem State.setDom_gears (d : Nat) (f : DomSt → DomSt) : (s.setDom d f).gears = s.gears := rfl
@[simp] theorem State.setDom_xl (d : Nat) (f : DomSt → DomSt) : (s.setDom d f).xl = s.xl := rfl
@[simp] theorem State.setDom_coh (d : Nat) (f : DomSt → DomSt) : (s.setDom d f).coh = s.coh := rfl
@[simp] theorem State.setDom_tiles (d : Nat) (f : DomSt → DomSt) : (s.setDom d f).tiles = s.tiles := rfl
@[simp] theorem State.setDom_seq (d : Nat) (f : DomSt → DomSt) : (s.setDom d f).seq = s.seq := rfl
@[simp] theorem State.setDom_pan (d : Nat) (f : DomSt → DomSt) : (s.setDom d f).pan = s.pan := rfl
@[simp] theorem State.setDom_num (d : Nat) (f : DomSt → DomSt) : (s.setDom d f).num = s.num := rfl
@[simp] theorem State.setDom_eth (d : Nat) (f : DomSt → DomSt) : (s.setDom d f).eth = s.eth := rfl
@[simp] theorem State.setDom_at (d : Nat) (f : DomSt → DomSt) : (s.setDom d f).at' = s.at' := rfl
@[simp] theorem State.setDom_drl (d : Nat) (f : DomSt → DomSt) : (s.setDom d f).drl = s.drl := rfl
@[simp] theorem State.setDom_nme (d : Nat) (f : DomSt → DomSt) : (s.setDom d f).nme = s.nme := rfl
@[simp] theorem State.setDom_asleep (d : Nat) (f : DomSt → DomSt) : (s.setDom d f).asleep = s.asleep := rfl
@[simp] theorem State.setDom_redo (d : Nat) (f : DomSt → DomSt) : (s.setDom d f).redo = s.redo := rfl
@[simp] theorem State.setDom_flt (d : Nat) (f : DomSt → DomSt) : (s.setDom d f).flt = s.flt := rfl
@[simp] theorem State.setDom_pcie (d : Nat) (f : DomSt → DomSt) : (s.setDom d f).pcie = s.pcie := rfl
@[simp] theorem State.setDom_absent (d : Nat) (f : DomSt → DomSt) : (s.setDom d f).absent = s.absent := rfl
@[simp] theorem State.setDom_sec (d : Nat) (f : DomSt → DomSt) : (s.setDom d f).sec = s.sec := rfl
@[simp] theorem State.setDom_od (d : Nat) (f : DomSt → DomSt) : (s.setDom d f).od = s.od := rfl
@[simp] theorem State.setDom_bmp (d : Nat) (f : DomSt → DomSt) : (s.setDom d f).bmp = s.bmp := rfl
@[simp] theorem State.setDom_pwr (d : Nat) (f : DomSt → DomSt) : (s.setDom d f).pwr = s.pwr := rfl

end Sys2Proof.Machine
end

