-- ==== Sys2Proof/Laws/Tile.lean ====
section
/-! SUPPORT. Laws of the tile's shared operations: what issuing an instruction, going on and stopping a lap can do. -/

namespace Sys2Proof.Machine

variable (s : State)

/-- A group that runs issues its instruction's body on the state as it is. -/
theorem State.issue_runs {t g : Nat} (h : s.runs t g = true) (body : State → State) : s.issue t g body = body s := by
  simp only [State.runs, Bool.and_eq_true] at h
  unfold State.issue State.fetch
  rw [if_pos h.1, if_pos h.2]

/-- A group that cannot issue leaves the state. -/
theorem State.issue_idle {t g : Nat} (h : s.canIssue t g = false) (body : State → State) : s.issue t g body = s := by
  simp [State.issue, h]

@[simp] theorem State.tile_setTile (t : Nat) (f : Tile → Tile) : (s.setTile t f).tile t = f (s.tile t) := by
  simp [State.setTile, State.tile]

theorem State.tile_setTile_ne {t t' : Nat} (h : t' ≠ t) (f : Tile → Tile) : (s.setTile t f).tile t' = s.tile t' := by
  simp [State.setTile, State.tile, Tab.atD_put_ne _ h]

@[simp] theorem State.group_setGroup (t g : Nat) (f : Group → Group) : (s.setGroup t g f).group t g = f (s.group t g) := by
  simp [State.setGroup, State.group]

theorem State.group_setGroup_ne {t g t' g' : Nat} (h : t' ≠ t ∨ g' ≠ g) (f : Group → Group) :
    (s.setGroup t g f).group t' g' = s.group t' g' := by
  unfold State.setGroup State.group
  by_cases ht : t' = t
  · subst ht
    have hg : g' ≠ g := by rcases h with h | h <;> simp_all
    simp [Tab.atD_put_ne _ hg]
  · rw [State.tile_setTile_ne s ht]

@[simp] theorem State.tile_wr (r : Reg) (i v t : Nat) : (s.wr r i v).tile t = s.tile t := rfl
@[simp] theorem State.tile_pf (f : Fld) (i v t : Nat) : (s.pf f i v).tile t = s.tile t := rfl
@[simp] theorem State.group_pf (f : Fld) (i v t g : Nat) : (s.pf f i v).group t g = s.group t g := rfl
@[simp] theorem State.group_wr (r : Reg) (i v t g : Nat) : (s.wr r i v).group t g = s.group t g := rfl

theorem State.tileRes_group (t : Nat) (c : Bool) (t' g : Nat) : (s.tileRes t c).group t' g = s.group t' g := by
  unfold State.tileRes State.when; split <;> rfl

theorem State.tileRes_mem (t : Nat) (c : Bool) : (s.tileRes t c).mem = s.mem := by
  unfold State.tileRes State.when; split <;> rfl

theorem State.vecRes_group (t g pred : Nat) (pneg c : Bool) (t' g' : Nat) : (s.vecRes t g pred pneg c).group t' g' = s.group t' g' :=
  State.tileRes_group ..

theorem State.vecRes_mem (t g pred : Nat) (pneg c : Bool) : (s.vecRes t g pred pneg c).mem = s.mem := State.tileRes_mem ..

/-- Only the executing group of a thread instruction changes. -/
theorem State.vec_other (t g pred : Nat) (pneg : Bool) (f : Group → Nat → Group × Nat) {t' g' : Nat} (h : t' ≠ t ∨ g' ≠ g) :
    (s.vec t g pred pneg f).group t' g' = s.group t' g' := State.group_setGroup_ne _ h _

/-- A tile's own addresses lie in its window. -/
theorem State.region_tstore {t a : Nat} (ht : t < 1152) (ha : a < 0x200000) : s.region (tstoreBase t + a) = .tstore := by
  have hm : t % 144 < 144 := Nat.mod_lt _ (by omega)
  have hd : t / 144 < 8 := by omega
  have hb : (tstoreBase t + a - 0x0E0000000000) % 0x20000000 / tstoreBytes < 144 := by
    simp only [tstoreBase, tileDie, tileNo, tstoreBytes, tstoreBanks, tstoreBankBytes]; omega
  have hl : 0x0E0000000000 ≤ tstoreBase t + a := by simp only [tstoreBase, tileDie, tileNo, tstoreBytes, tstoreBanks, tstoreBankBytes]; omega
  have hu : tstoreBase t + a < 0x0E0100000000 := by simp only [tstoreBase, tileDie, tileNo, tstoreBytes, tstoreBanks, tstoreBankBytes]; omega
  unfold State.region regionOf
  repeat rw [if_neg (by omega)]
  rw [if_pos hu, if_pos hb]

theorem windowTile_tstore {t a : Nat} (ha : a < 0x200000) : windowTile (tstoreBase t + a) = t := by
  have hm : t % 144 < 144 := Nat.mod_lt _ (by omega)
  simp only [windowTile, tstoreBase, tileDie, tileNo, tstoreBytes, tstoreBanks, tstoreBankBytes]; omega

/-- A lap stops once: a later status leaves the state. -/
theorem State.lapStop_again {t : Nat} (h : (s.tile t).stopped = true) (status g th unit pc addr : Nat) :
    s.lapStop t status g th unit pc addr = s := by simp [State.lapStop, h]

end Sys2Proof.Machine
end

