-- ==== Sys2Proof/Machine/Contacts.lean ====
section
/-! DEFINITION. The contact map of the package (R501 to R507): which signal each position of the
contact array carries. It is no state: the commands name pins, and this file says where they stand. -/

namespace Sys2Proof.Machine

/-- What a position of the contact array holds (R502). -/
inductive Contact where
  /-- No contact: a depopulated corner, or a position outside the array (R501). -/
  | absent
  | gnd
  | vinMain
  | vinAux
  /-- A lane of an Ethernet port; tx and pos say transmit and the P signal (R505). -/
  | eth (port lane : Nat) (tx pos : Bool)
  /-- The Ethernet reference clock of a C-die (R505). -/
  | refclkEth (die : Nat) (pos : Bool)
  /-- A lane of a PCIe root port (R505). -/
  | pcie (root lane : Nat) (tx pos : Bool)
  /-- The reference clock of a root port (R505). -/
  | refclkPcie (root : Nat) (pos : Bool)
  /-- A DDR5 channel's signal of a sub-channel, 0 for A (R506). -/
  | ddr (channel sub : Nat) (name : String)
  /-- A DDR5 channel's ALERT_N or RESET_N (R506). -/
  | ddrCommon (channel : Nat) (name : String)
  /-- A sideband signal of a root port (R507). -/
  | pcieSide (root : Nat) (name : String)
  /-- A signal of the SPD buses of an H-die (R507). -/
  | spd (hdie : Nat) (name : String)
  /-- Any other sideband signal of H0 (R507). -/
  | pin (name : String)
  deriving DecidableEq, Repr

/-- The signals of one sub-channel in their order (R506). -/
def ddrNames : List String :=
  (List.range 40).map (fun i => "DQ" ++ toString i) ++
  (List.range 10).flatMap (fun i => ["DQS" ++ toString i ++ "_T", "DQS" ++ toString i ++ "_C"]) ++
  (List.range 14).map (fun i => "CA" ++ toString i) ++
  ["CS0_N", "CS1_N", "CK_T", "CK_C", "PAR"]

/-- The signal at index w of a channel's block (R506). -/
def ddrContact (channel w : Nat) : Contact :=
  let r := w % 21
  if r % 4 == 0 && r ≤ 16 then .gnd
  else
    let k := 16 * (w / 21) + (r - min 5 ((r + 3) / 4))
    if k < 79 then .ddr channel 0 (ddrNames.getD k "")
    else if k < 158 then .ddr channel 1 (ddrNames.getD (k - 79) "")
    else if k == 158 then .ddrCommon channel "ALERT_N" else .ddrCommon channel "RESET_N"

/-- The sideband signals of H0 before the root ports' own, in their order (R507). -/
def sideNames : List String :=
  ["MGMT_TX_P", "MGMT_TX_N", "MGMT_RX_P", "MGMT_RX_N", "MGMT_MDC", "MGMT_MDIO", "MGMT_PHY_RST_N",
   "I3C_SCL", "I3C_SDA", "TCK", "TMS", "TDI", "TDO", "TRST_N",
   "PPS_IN", "PPS_OUT", "PWRFAIL_N", "RESET_N", "THERMTRIP_N", "REFCLK_SYS"]

/-- The sideband signals of one root port (R502, R507). -/
def portSideNames : List String :=
  ["PERST0_N", "PERST1_N", "PERST2_N", "PERST3_N",
   "CLKREQ0_N", "CLKREQ1_N", "CLKREQ2_N", "CLKREQ3_N", "WAKE_N"]

/-- The signals of the SPD buses (R502). -/
def spdNames : List String := ["SPD_SCL0", "SPD_SDA0", "SPD_SCL1", "SPD_SDA1"]

/-- The sideband signal at rank j of items 7 and 8 of H-die h (R507). -/
def portSideContact (h j : Nat) : Contact :=
  if j < 36 then .pcieSide (4 * h + j / 9) (portSideNames.getD (j % 9) "")
  else if j < 40 then .spd h (spdNames.getD (j - 36) "") else .gnd

/-- The sideband signal at rank j of H-die h (R507). -/
def sideContact (h j : Nat) : Contact :=
  if h == 0 then
    if j < 20 then .pin (sideNames.getD j "")
    else if j < 28 then .vinAux
    else if j < 44 then .pin ("TEST" ++ toString (j - 28))
    else portSideContact 0 (j - 44)
  else portSideContact 1 j

/-- Cell z of the Ethernet field of C-die n; pos is the P signal (R505). -/
def ethCell (n z : Nat) (pos : Bool) : Contact :=
  if z < 48 then .eth (3 * n + z / 16) (z % 16 / 2) (z % 2 == 0) pos
  else if z == 48 then .refclkEth n pos else .gnd

/-- Cell z of the PCIe field of H-die h (R505). -/
def pcieCell (h z : Nat) (pos : Bool) : Contact :=
  if z < 132 then
    if z % 33 == 32 then .refclkPcie (4 * h + z / 33) pos
    else .pcie (4 * h + z / 33) (z % 33 / 2) (z % 33 % 2 == 0) pos
  else .gnd

/-- A position of a SerDes field whose cells are numbered by number (R505): signals stand in the
odd rows of a cell. -/
def serdes (l e : Nat) (number : Nat → Nat → Nat) (cell : Nat → Bool → Contact) : Contact :=
  if e % 2 == 0 then .gnd else cell (number ((l - 1) / 2) ((e - 1) / 2)) (l % 2 == 1)

/-- The number of cell (a, b) in the Ethernet field of an outer C region; the left regions lose
cells 0 to 4 of the first five rows, and the right ones cells 6 to 10 (R501, R505). -/
def outerCell (left : Bool) (a b : Nat) : Nat :=
  if b < 5 then 6 * b + (if left then a - 5 else a) else 30 + 11 * (b - 5) + a

/-- A position of an outer C region (R504). -/
def outerContact (n : Nat) (left : Bool) (l e : Nat) : Contact :=
  if e ≤ 16 then serdes l e (outerCell left) (ethCell n)
  else if 46 ≤ e && (l + e) % 2 == 0 then .vinMain else .gnd

/-- A position of an inner C region whose first DDR5 channel is ch (R504, R506). -/
def innerContact (n ch l e : Nat) : Contact :=
  if e ≤ 10 then serdes l e (fun a b => 11 * b + a) (ethCell n)
  else if e ≤ 40 then
    if l ≤ 21 then ddrContact (ch + (l - 1) / 7) (30 * ((l - 1) % 7) + (e - 11)) else .gnd
  else if 46 ≤ e && (l + e) % 2 == 0 then .vinMain else .gnd

/-- A position of the H region of H-die h (R504, R506, R507). -/
def hContact (h ch l e : Nat) : Contact :=
  if e ≤ 18 then serdes l e (fun a b => 16 * b + a) (pcieCell h)
  else if l ≤ 14 then
    if e ≤ 48 then ddrContact (ch + (l - 1) / 7) (30 * ((l - 1) % 7) + (e - 19)) else .gnd
  else if e ≤ 44 then
    let w := 18 * (e - 19) + (l - 15)
    if w % 2 == 0 then sideContact h (w / 2) else .gnd
  else if 46 ≤ e && l ≤ 30 && (l + e) % 2 == 0 then .vinMain else .gnd

/-- What stands at column x and row y, seen from the lid, (1, 1) at the pin-1 corner (R503). -/
def contactAt (x y : Nat) : Contact :=
  if x == 0 || y == 0 || 120 < x || 100 < y then .absent
  else if (x ≤ 10 || 111 ≤ x) && (y ≤ 10 || 91 ≤ y) then .absent
  else
    let low := y ≤ 50
    let e := if low then y else 101 - y
    if x ≤ 22 then outerContact (if low then 0 else 4) true x e
    else if x ≤ 44 then innerContact (if low then 1 else 5) (if low then 0 else 8) (x - 22) e
    else if x ≤ 76 then hContact (if low then 0 else 1) (if low then 3 else 11) (x - 44) e
    else if x ≤ 98 then innerContact (if low then 2 else 6) (if low then 5 else 13) (x - 76) e
    else outerContact (if low then 3 else 7) false (x - 98) e

end Sys2Proof.Machine
end

