-- ==== Sys2Proof/Tests/Slice0.lean ====
section
/-! SUPPORT. Tests: ill-formed commands, words written out from the encoding tables, one step on small states, and witnesses of the
statements' hypotheses. -/

namespace Sys2Proof.Tests

open Sys2Proof Sys2Proof.Machine

/-! ### Ill-formed commands: one for each check of WellFormed -/

theorem test_wf_tile : (Instr.absentTileAccess 1152 0 false).wf = false := by decide
theorem test_wf_tile_offset : (Instr.absentTileAccess 0 0x200000 false).wf = false := by decide
theorem test_wf_unit_tile : (Instr.islandWake (.tile 1152)).wf = false := by decide
theorem test_wf_unit_nme : (Instr.islandWake (.nme 16)).wf = false := by decide
theorem test_wf_unit_drl : (Instr.islandWake (.drl 8)).wf = false := by decide
theorem test_wf_node : (Instr.replicaRealign 10 0).wf = false := by decide
theorem test_wf_role : (Instr.transInval (.tenant 16) 0).wf = false := by decide
theorem test_wf_agent : (Instr.rdShared 1154 0 {}).wf = false := by decide
theorem test_wf_line : (Instr.rdShared 0 (2 ^ 46) {}).wf = false := by decide
theorem test_wf_line_data : (Instr.wrFull 0 0 [] {}).wf = false := by decide
theorem test_wf_mask : (Instr.wrPartial 0 0 [] (zerosB 64) {}).wf = false := by decide
theorem test_wf_atomic_size : (Instr.atomicReq 0 0 2 0 0 0 {}).wf = false := by decide
theorem test_wf_atomic_op : (Instr.atomicReq 0 0 4 10 0 0 {}).wf = false := by decide
theorem test_wf_group : (Instr.nop 0 64 {}).wf = false := by decide
theorem test_wf_vector : (Instr.fadd 0 0 { vd := 64 }).wf = false := by decide
theorem test_wf_imm : (Instr.movi 0 0 { imm := 2 ^ 32 }).wf = false := by decide
theorem test_wf_branch : (Instr.bra 0 0 { rpcOff := 524288 }).wf = false := by decide
theorem test_wf_memory : (Instr.ld 0 0 { offset := -524289 }).wf = false := by decide
theorem test_wf_tileop : (Instr.mload 0 0 { accRow := 512 }).wf = false := by decide
theorem test_wf_reserved_op : (Instr.reservedOpcode 0 0 0x10 {}).wf = false := by decide
theorem test_wf_nme : (Instr.nmeAdd 0 { rd := 16 }).wf = false := by decide
theorem test_wf_nme_unit : (Instr.nmeAdd 16 {}).wf = false := by decide
theorem test_wf_memctl : (Instr.rowRepair .host (.hbm 16) 0).wf = false := by decide
theorem test_wf_refclk : (Instr.refclkLoss (.eth 8)).wf = false := by decide
theorem test_wf_door : (Instr.heartbeat { door := .chan 23 }).wf = false := by decide
theorem test_wf_ctx : (Instr.transCtxWrite .host false 64 0).wf = false := by decide

/-! ### Words written out from the tables of R150, R154, R264 and R265, one for each class -/

/-- NOP: opcode 0x00, all other bits 0. -/
theorem test_word_nop : decodeTile 0 0 0 = .nop 0 0 {} := by decide
/-- IADD v63 = v0 + v1, not p7: opcode 0x20, pred [10:8] = 7, pneg [11] = 1, vd [17:12] = 63, vb [29:24] = 1. -/
theorem test_word_iadd : decodeTile 0 0 (0x20 + 7 * 2 ^ 8 + 2 ^ 11 + 63 * 2 ^ 12 + 1 * 2 ^ 24) =
    .iadd 0 0 { pred := 7, pneg := true, vd := 63, vb := 1 } := by decide
/-- LD, ATOM and the rest of class 4 keep the offset's sign: a word whose top 20 bits are ones has offset −1. -/
theorem test_word_ld_negative : (match decodeTile 0 0 (0x40 + 0xFFFFF * 2 ^ 44) with | .ld _ _ w => w.offset == -1 | _ => false) = true := by decide
/-- Opcode 0x06 is not listed. -/
theorem test_word_reserved : (match decodeTile 0 0 0x06 with | .reservedOpcode _ _ op _ => op == 6 | _ => false) = true := by decide

/-! ### Small states -/

/-- The package with its dies running and the cores up. -/
def up : State := ({ State.reset with
  pwr := { State.reset.pwr with up := true }
  pcie := { State.reset.pcie with hcr := { State.reset.pcie.hcr with phase := 0 } } } : State).setPart 0 (fun x => { x with live := [0] })
/-- A unit's page of 1 GiB at 0 in context 0: readable, writable, executable, COH. -/
def page (u : XUnit) (s : State) : State := { s with xl := { s.xl with tlb := ⟨u, 0, 0, 30, 14⟩ :: s.xl.tlb } }
/-- Bytes laid at an address. -/
def lay (a : Nat) (b : Bytes) (s : State) : State := { s with mem := s.mem.putBytes a b }
theorem ok_pair {α β γ : Type} {p : Except α β × γ} (h : (match p.1 with | .ok _ => true | .error _ => false) = true) : ∃ x t, p = (.ok x, t) := by
  obtain ⟨a, t⟩ := p
  cases a with
  | ok x => exact ⟨x, t, rfl⟩
  | error e => simp at h
theorem xl_pair {p : XRes × State} (h : (match p.1 with | .ok _ _ _ _ => true | _ => false) = true) :
    ∃ pa e ty key t, p = (.ok pa e ty key, t) := by
  obtain ⟨a, t⟩ := p
  cases a with
  | ok pa e ty key => exact ⟨pa, e, ty, key, t, rfl⟩
  | fail st => simp at h
  | locked => simp at h
/-- What a command leaves. -/
def after (i : Instr) (s : State) : State := match exec i s with | .next t => t | _ => {}
/-- A part of an access succeeds with a state. -/
def okWith {α : Type} (r : Except (Nat × Nat) α × State) (P : α → State → Bool) : Bool :=
  match r with
  | (.ok x, t) => P x t
  | (.error _, _) => false
theorem okWith_elim {α : Type} {r : Except (Nat × Nat) α × State} {P : α → State → Bool} (h : okWith r P = true) : ∃ x t, r = (.ok x, t) ∧ P x t = true := by
  obtain ⟨a, t⟩ := r
  cases a with
  | ok x => exact ⟨x, t, rfl, h⟩
  | error e => cases h
/-- A group of which every thread is active, at 0x1000, with v1 = 64 and v2 = 7 in thread 0. -/
def grp : Group := { pc := 0x1000, active := allMask, v := ⟨[(1, 64), (2, 7)]⟩ }
/-- Tile 0 runs a lap of two groups, the second of which has one thread. -/
def lap : State := up.setTile 0 (fun tl => { tl with
  lap := some { groups := 2 }, groups := ⟨[(0, grp), (1, { grp with active := 1 })]⟩, icache := [0x1000] })
/-- The lap with another first group, and with another tile. -/
def lapG (f : Group → Group) : State := lap.setGroup 0 0 f
def lapT (f : Tile → Tile) : State := lap.setTile 0 f

/-! ### Witnesses: commands, words, memory -/

theorem wit_step_runs : ({ up with pending := [.slewDone] } : State).pending = [Instr.slewDone] := rfl
theorem wit_empty_queue : up.pending = [] ∧ up.coh.rewatch = [] ∧ up.xl.lineWait = [] ∧ up.pcie.wait = [] := ⟨rfl, rfl, rfl, rfl⟩
theorem wit_words : (Instr.bra 1151 63 { tgtOff := -2147483648 }).wf = true ∧
    encodeTile (.bra 1151 63 { tgtOff := -2147483648 }) ≠ none ∧
    (Instr.nmeMul 15 { rd := 15, sa := 31 }).wf = true ∧ encodeNme (.nmeMul 15 { rd := 15, sa := 31 }) ≠ none := by decide
theorem wit_reserved : reservedOp 0xFF = true ∧ lap.runs 0 0 = true ∧ lap.runs 0 1 = true := by decide
theorem wit_memory : Mem.wf ({ up with mem := [(0, 1), (5, 2)] } : State).mem = true := by decide

/-! ### Witnesses: thread instructions -/

theorem wit_vector : lap.runs 0 0 = true ∧ ({ vd := 63, va := 1, vb := 2 } : FmtV).vd < 64 ∧
    lap.executes 0 0 0 false 31 = true ∧ ¬ lap.executes 0 1 0 false 1 = true := by decide
theorem wit_frame_member : Instr.vote 0 0 {} ∈ [Instr.shfl 0 0 {}, .vote 0 0 {}] := by decide
theorem wit_nan : (FV.nan = FV.nan ∨ FV.nan = FV.nan) ∧ 8 % 8 = 0 ∧ 7 % 8 ≠ 0 := by decide
theorem wit_slots : lap.runs 0 0 = true ∧ ∀ k, lap.slotReady 0 k = true := ⟨by decide, fun _ => rfl⟩
theorem wit_branches :
    (lap.group 0 0).execMask 1 false = 0 ∧
    ((lap.group 0 0).execMask 0 false ≠ 0 ∧ maskSub (lap.group 0 0).active ((lap.group 0 0).execMask 0 false) = 0) := by decide
def fullStack : State := lapG (fun x => { x with stack := List.replicate 16 ⟨some 8, 0, []⟩, p := ⟨[(1, 1)]⟩ })
theorem wit_full_stack : fullStack.runs 0 0 = true ∧ (fullStack.tile 0).lap.isSome = true ∧ (fullStack.group 0 0).execMask 1 false = 1 ∧
    maskSub (fullStack.group 0 0).active 1 ≠ 0 ∧ (fullStack.group 0 0).stack.length = 16 ∧
    (∀ e ∈ (fullStack.group 0 0).stack.head?, e.rpc ≠ some 16 ∨ some 16 = (none : Option Nat)) := by decide
theorem wit_shared_entry : ∃ e rest, (fullStack.group 0 0).stack = e :: rest ∧ e.rpc = some 8 ∧ (1 : Nat) ≠ 0 := ⟨_, _, rfl, rfl, by decide⟩
theorem wit_local_op : isLocalOp (.exit 0 0 {}) = true ∧ Mem.wf lap.mem = true := by decide
theorem wit_threads_ok : ∀ t g, (up.group t g).threadsOk = true := by
  intro t g
  show ({} : Group).threadsOk = true
  decide
theorem wit_local_next : ∃ s', exec (.nop 0 0 {}) lap = .next s' := ⟨_, rfl⟩
theorem wit_first_status : (lap.tile 0).stopped = false ∧ (lap.tile 0).lap.isSome = true ∧ 255 < 256 ∧ 63 < 64 ∧ 31 < 32 ∧ 7 < 8 := by decide

/-! ### Witnesses: tile memory, queues and waits -/

def one : FmtM := { va := 1, size := 3, vd := 62 }
theorem wit_tile_load : lap.runs 0 1 = true ∧ (lap.tile 0).lap.isSome = true ∧ one.vd % 2 = 0 ∧ lap.flt.due = [] ∧ lap.badWords = [] ∧
    lap.cxlWins = [] ∧ Mem.wf lap.mem = true ∧ threadsOf ((lap.group 0 1).execMask one.pred one.pneg) = [0] ∧
    memAddr (lap.group 0 1) 0 one = 64 ∧ lap.windowUp (tstoreBase 0 + 64) = true ∧ lap.rangeBad (tstoreBase 0 + 64) 8 = none := by decide
theorem wit_tile_load_edge : let w : FmtM := { va := 1, size := 3, vd := 62, offset := 0x1FFFB8 - 0x180000 }
    memAddr ((lap.setGroup 0 1 (fun x => { x with v := ⟨[(1, 0x180040)]⟩ })).group 0 1) 0 w + 8 = 0x200000 := by decide
theorem wit_misaligned : memAddr (lap.group 0 1) 0 { va := 2, size := 2 } % sizeBytes 2 ≠ 0 := by decide
theorem wit_atomic : memAddr (lap.group 0 1) 0 { va := 1, size := 2, aop := 8 } % 4 = 0 := by decide
theorem wit_leader : lap.leader 0 0 0 false = some 0 := by decide
/-- An MZERO and MSWAP pass their checks. -/
theorem wit_array_queue : lap.arrSlotOk 0 {} = true ∧ (lap.tile 0).arrQ.length < 16 ∧
    arrCheck lap 0 { kind := .mswap, w := {}, a := 0, stride := 0, b := 0, b1 := 0, group := 0, leader := 0, pc := 0x1000 } = none := by decide
/-- A frame of 64 bytes: v1 and v2 name address 64 and length 64. -/
theorem wit_pannier_queue : let x := (lapG (fun x => { x with v := ⟨[(1, 64), (2, 64)]⟩ })).group 0 0
    (lap.tile 0).panQ.length < 8 ∧ x.reg 0 2 % 64 = 0 ∧ 64 ≤ x.reg 0 2 ∧ x.reg 0 1 + x.reg 0 2 ≤ 2 ^ 21 ∧
    4096 % (4096 * typeBits 2 / 8) = 4096 % 8192 ∧ 8192 % (4096 * typeBits 2 / 8) = 0 := by decide
/-- A descriptor of one row of 64 bytes at address 64 of the tile store, which v1 names. -/
theorem wit_dma_queue : let s := lay (tstoreBase 0 + 64) (setFieldB (setFieldB (zerosB 64) 16 4 1) 20 4 64) lap
    let bs := s.sramRead (tstoreBase 0 + (s.group 0 0).reg 0 1) 64
    (s.group 0 0).reg 0 1 = 64 ∧ s.rangeBad (tstoreBase 0 + 64) 64 = none ∧ dmaCheck (dmaFields bs) = none ∧ s.flt.due = [] ∧
    ((s.tile 0).dmaQ.atD 0 []).length < 16 := by decide
def oldOp : ArrOp := { kind := .mswap, w := {}, a := 0, stride := 0, b := 0, b1 := 0, group := 0, leader := 0, pc := 0x1000 }
theorem wit_full_queues : 16 ≤ ((lapT (fun tl => { tl with arrQ := List.replicate 16 oldOp })).tile 0).arrQ.length ∧
    (lapT (fun tl => { tl with arrQ := List.replicate 16 oldOp })).runs 0 0 = true ∧ (lapT (fun tl => { tl with arrQ := List.replicate 16 oldOp })).arrSlotOk 0 {} = true ∧
    8 ≤ ((lapT (fun tl => { tl with panQ := List.replicate 8 { push := true, addr := 0, len := 64, tag := 0 } })).tile 0).panQ.length ∧
    16 ≤ (((lapT (fun tl => { tl with dmaQ := ⟨[(3, List.replicate 16 { bytes := [], group := 0, leader := 0, pc := 0 })]⟩ })).tile 0).dmaQ.atD 3 []).length := by decide
theorem wit_array_done : ((lapT (fun tl => { tl with arrQ := [oldOp], arrBusy := true })).tile 0).arrQ = [oldOp] ∧ oldOp.kind = .mswap ∧
    lap.tileIn 0 = true ∧ arrRange lap 0 { oldOp with kind := .mstream } = none ∧
    (let d : DmaDesc := { bytes := [], group := 0, leader := 0, pc := 0 }
     let s := lapT (fun tl => { tl with dmaQ := ⟨[(3, [d])]⟩ })
     dmaHead s 0 3 = some d ∧ d.behind = 0 ∧ (s.tile 0).dmaBusy.contains 3 = false) ∧
    ((lapT (fun tl => { tl with dmaBusy := [3] })).tile 0).dmaBusy.contains 3 = true := by decide
theorem wit_waitq : (lap.group 0 0).execMask 0 false ≠ 0 ∧ (lap.tile 0).outstanding 0 5 ≤ bitsN 5 15 8 ∧
    bitsN 0 15 8 < ((lapT (fun tl => { tl with arrQ := [oldOp] })).tile 0).outstanding 0 0 ∧ 6 ≤ 7 % 8 := by decide
theorem wit_waitq_settles : ∃ x, ((lapG (fun x => { x with wait := .queue 0 0 })).tile 0).groups.at? 0 = some x ∧ x.wait = .queue 0 0 :=
  ⟨_, rfl, rfl⟩
theorem wit_wwait : ((lapG (fun x => { x with woken := 3 })).group 0 0).woken ≠ 0 ∧ (lap.group 0 0).woken = 0 ∧
    ((lapG (fun x => { x with wait := .watch 4 true 1 })).group 0 0).wait = .watch 4 true 1 ∧ (lap.tile 0).stopped = false := by decide
theorem wit_fence_bar : (lap.group 0 0).active = maskSub allMask (lap.group 0 0).exited ∧ bitsN 0 9 4 = 0 ∧ 0 < (lap.lapOf 0).groups ∧
    (lap.group 0 1).active ≠ maskSub allMask (lap.group 0 1).exited ∧ lap.leader 0 1 0 false = some 0 := by decide
def deadlock : State := (lap.setGroup 0 0 (fun x => { x with wait := .bar 0 2 })).setGroup 0 1 (fun x => { x with wait := .bar 1 2 })
theorem wit_deadlock : (deadlock.tile 0).lap.isSome = true ∧ (deadlock.tile 0).stopped = false ∧ (deadlock.group 0 0).wait ≠ .ended ∧
    ∀ g', g' < (deadlock.lapOf 0).groups → (deadlock.group 0 g').wait = .ended ∨ ∃ b c, (deadlock.group 0 g').wait = .bar b c := by
  refine ⟨by decide, by decide, by decide, fun g' h => .inr ?_⟩
  have h2 : g' < 2 := h
  match g', h2 with
  | 0, _ => exact ⟨0, 2, by decide⟩
  | 1, _ => exact ⟨1, 2, by decide⟩

/-! ### Witnesses: time, translation, core reset -/

theorem wit_watch : let s := page (.tile 0) lap
    let w : FmtM := { va := 2, space := 1, size := 2, vd := 3, offset := 57 }
    let s0 := (s.tileRes 0 (fmtMRes w)).when (w.order ≥ 2) (fun s => s.tileRelease 0 w.scope)
    s.runs 0 1 = true ∧ w.va % 2 = 0 ∧ threadsOf ((s.group 0 1).execMask 0 false) = [0] ∧ memAddr (s.group 0 1) 0 w = 64 ∧
    (s0.xlate (.tile 0) (s.lapOf 0).ctx 64 accLoad 0).1 = .ok 64 14 0 0 ∧
    (let s1 := (s0.xlate (.tile 0) (s.lapOf 0).ctx 64 accLoad 0).2
     inTiers s1 64 = true ∧ s1.lineOpen 1 = false ∧ s1.lineBad 1 = false ∧ watchPlace (s1.tile 0) 1 = some 0 ∧
     (s1.shareNow 0 1 0 true).1 = true ∧ (s1.shareNow 0 1 0 true).2.flt.due = []) := by decide
theorem wit_time : 0 < (5 : Word64).toInt ∧ (BitVec.ofNat 64 (2 ^ 64 - 1)).toInt < 0 ∧
    (up.pf F.TB_STATUS_slewing 0 1).gb F.TB_STATUS_slewing = true ∧ (up.pf F.TB_STATUS_slewing 0 1).time.slewRem = 0 ∧
    (5 ≤ 10 ∧ 9 < 10) ∧ true ≠ up.gb F.TB_CTRL_pps_in_edge ∧ up.gf F.TB_CTRL_source ≠ 2 ∧
    (up.pf F.TB_CTRL_source 0 2).gf F.TB_CTRL_source = 2 ∧ (up.pf F.TB_CTRL_source 0 1).gf F.TB_CTRL_source = 1 ∧
    (up.pf F.TB_CTRL_pps_out_en 0 1).gb F.TB_CTRL_pps_out_en = true ∧
    ({ up with time := { up.time with second := true, ppsHigh := true } } : State).time.second = true ∧
    ({ up with time := { up.time with second := true, ppsHigh := true } } : State).time.ppsHigh = true := by decide
theorem wit_incr_limits : 3998 * 2 ^ 32 ≤ 100 * 171712792495 ∧ 100 * 171712792494 < 3998 * 2 ^ 32 ∧
    100 * 171884591185 ≤ 4002 * 2 ^ 32 ∧ 4002 * 2 ^ 32 < 100 * 171884591186 := by decide
/-- A STEP_END of stream 0 whose collective is complete. -/
def stepEnd0 : Ent := { die := 0, stream := 0, pos := 0, entry := [6], swept := some 0 }
def readyS : State :=
  (({ up with seq := { up.seq with ents := [stepEnd0] } } : State).pf F.SEQ_STREAM_CTRL_enable (sk 0 0) 1).pf F.SEQ_STREAM_CTRL_step_bound (sk 0 0) 1
theorem wit_ready : let s := readyS
    let counted := fun (st : Nat) => st < 64 ∧ strmOn s 0 st = true ∧ s.gb F.SEQ_STREAM_CTRL_step_bound (sk 0 st) = true
    seqUp s 0 = true ∧ seqHeld s 0 = false ∧ s.leadDie (s.domainOf 0) = some 0 ∧ (∃ st, counted st) ∧
    (∀ st, counted st → ∃ e, e ∈ s.seq.ents ∧ e.die = 0 ∧ entType e.entry = 6 ∧ e.stream = st) ∧
    (∀ st e, counted st → e ∈ s.seq.ents ∧ e.die = 0 ∧ entType e.entry = 6 ∧ e.stream = st → e.swept.isSome = true) := by
  refine ⟨by decide, by decide, by decide, ⟨0, by decide, by decide, by decide⟩, ?_, ?_⟩
  · rintro st ⟨h, h1, -⟩
    have h0 : st = 0 := (by decide : ∀ st < 64, strmOn readyS 0 st = true → st = 0) st h h1
    exact ⟨stepEnd0, List.mem_singleton.mpr rfl, rfl, rfl, h0.symm⟩
  · rintro st e - ⟨h, -⟩
    rw [List.mem_singleton.mp h]
    rfl
theorem wit_boundary : let s := up.setDom 0 (fun x => { x with readyNet := [(0, 5)], tb := some 7, bcast := [0], hold := [1] })
    (s.dom (s.domainOf 0)).readyNet.find? (·.1 = 0) = some (0, 5) ∧ (s.dom 0).tb = some 7 ∧ (s.dom 0).bcast.contains 0 = true ∧
    (s.dom 0).away.contains 0 = false ∧ inTandem s 0 = false ∧
    inTandem ((s.pf F.TANDEM_CTRL_enable 0 1).pf F.TANDEM_CTRL_group_mask 0 3) 0 = true ∧ s.dieTime 0 ≤ 7 ∧ (s.dom 0).hold.contains 1 = true ∧
    7 ≤ (s.pf F.DIE_TIME_time 1 7).dieTime 1 := by decide
theorem wit_tandem_islands : up.mmioRole .host = true ∧ (0x300 : Word32).toNat % 256 = 0 ∧ up.enabled 0 = true ∧
    (up.pf F.TILE_STATUS_state 0 3).tileState 0 = 3 ∧ up.tileIn 0 = true ∧ (up.tile 0).lap = none ∧ seqUp up (tileDie 0) = true ∧
    (up.pf F.TILE_UNIT_EPOCH_epoch 0 0).unitEpoch (.tile 0) < up.pkgEpoch ∧ unitIn up (.nme 15) = true ∧ (up.nmeU 15).sweep = none ∧
    (up.pf F.NME_UNIT_EPOCH_epoch 15 0).unitEpoch (.nme 15) < up.pkgEpoch ∧ up.blkIn 7 4 = true ∧ instsOf up 7 = [] ∧
    (up.pf F.DRL_UNIT_EPOCH_epoch 7 0).unitEpoch (.drl 7) < up.pkgEpoch := by decide
theorem wit_translation : up.mmioRole .host = true ∧ up.gf F.TRANS_ATTR_part_id 63 = 0 ∧ up.gb F.TRANS_INVAL_busy = false ∧ up.epochFull = false ∧
    (up.pf F.TRANS_INVAL_busy 0 1).gb F.TRANS_INVAL_busy = true ∧ ({ up with xl := { up.xl with inval := some 0 } } : State).xl.inval = some 0 ∧
    up.gb F.CAT_ROOT_enable = false := by decide
theorem wit_locked : let s := page (.tile 0) { up with xl := { up.xl with lockWait := [⟨.tile 0, 0, 0, 0⟩] } }
    s.xl.lockWait[0]? = some ⟨.tile 0, 0, 0, 0⟩ ∧ ∃ pa e ty key t, s.xlate (.tile 0) 0 0 0 (unitNode (.tile 0)) = (.ok pa e ty key, t) :=
  ⟨rfl, xl_pair (by decide)⟩
/-- Checks of R63: no permission; permission and another partition's page; open_access 1 and a page of partition 0. -/
theorem wit_checks : peRead 0 = false ∧ (peRead 2 = true ∧ ¬ (pePart (2 + 3 * 256) = up.gf F.TRANS_ATTR_part_id 0 ∨ pePart (2 + 3 * 256) = 0)) ∧
    (peRead 14 = true ∧ pePart 14 = up.gf F.TRANS_ATTR_part_id 0 ∧ (page (.tile 0) up |>.xlCheck 0 0 0 0 14 30).1 = .ok 0 14 0 0) := by decide
def hcr (f : HcrSt → HcrSt) : State := { up with pcie := { up.pcie with hcr := f up.pcie.hcr } }
theorem wit_core_reset : up.pcie.hcr.phase = 0 ∧ 2 ≤ (hcr (fun h => { h with phase := 2 })).pcie.hcr.phase ∧
    (hcr (fun h => { h with phase := 1 })).pcie.hcr.phase = 1 ∧ corePending (hcr (fun h => { h with phase := 1 })) = false ∧
    (hcr (fun h => { h with phase := 3 })).pcie.hcr.phase = 3 ∧ (hcr (fun h => { h with phase := 3 })).pcie.hcr.held = none := by decide

/-! ### Witnesses: coherence -/

def coh (f : CohSt → CohSt) : State := { up with coh := f up.coh }
theorem wit_requests : agentIn up 0 = true ∧ coreHart 0 {} = none ∧ up.homeOf (1 * 64) = some 0 ∧ up.lineOpen 1 = false ∧
    up.stationHeld { kind := .rdShared, agent := 0, line := 1 } = false ∧ up.dirEnt? 1 = none ∧ (up.setEntries 1).length < 16 ∧
    up.coh.retryQ.any (fun q => sameSet up q.line 1) = false ∧ agentIsTile 0 = true ∧ agentIsSeq 1160 = true ∧ (up.watched 0).length < watchCap 0 := by decide
theorem wit_upgrade : let s := coh (fun h => { h with dir := ⟨[(1, { sharers := [0] })]⟩ })
    s.dirEnt? 1 = some { sharers := [0] } ∧ s.lineOpen 1 = false := by decide
def txn (t : Txn) (net : List CMsg) : State := coh (fun h => { h with txns := ⟨[(t.req.line, t)]⟩, net := net })
def own : Txn := { req := { kind := .rdOwn, agent := 0, line := 1 }, acks := [2], give := .M }
def once : Req := { kind := .rdOnce, agent := 0, line := 1 }
theorem wit_pinned : (txn own []).lineOpen 1 = true ∧ (txn own []).stationHeld once = false ∧
    ((txn own []).coh.conflictQ.filter (fun q => sameSlice (txn own []) q.line 1)).length < 64 ∧
    (let s := coh (fun h => { h with txns := ⟨[(1, own)]⟩, conflictQ := List.replicate 64 once })
     64 ≤ (s.coh.conflictQ.filter (fun q => sameSlice s q.line 1)).length ∧ s.stationHeld once = false) := by decide
/-- H-die 0 is a core's, whose caches hold line 1; an attribute table outside memory faults its accesses. -/
theorem wit_core_requests : let s := coh (fun h => { h with copies := ⟨[(1152 * 2 ^ 46 + 1, { st := .E, data := zerosB 64 })]⟩ })
    let z := ({ s with xl := { s.xl with cat := 1 + 2 ^ 51 } } : State)
    let tx : Txn := { req := { kind := .rdOwn, agent := 1152, line := 1, wr := .amo 8 8 0 1 0 }, sent := true }
    let g := coh (fun h => { h with copies := ⟨[(1152 * 2 ^ 46 + 1, { st := .S, data := zerosB 64 })]⟩, txns := ⟨[(1, tx)]⟩, net := [.grant 1152 1] })
    holderIn s (agentH 0) = true ∧ encrypted (1 * 64) = true ∧ (z.coreAccess 0 64).1 = .fault ∧ s.coreAccess 0 64 = (.ok 0 false, s) ∧
    s.copy? (agentH 0) 1 = some { st := .E, data := zerosB 64 } ∧ s.pinned 1 = false ∧
    g.txn? 1 = some tx ∧ tx.req.wr = .amo 8 8 0 1 0 ∧ tx.req.floor = false ∧ .grant (agentH 0) 1 ∈ g.coh.net ∧
    g.copy? (agentH 0) 1 = some { st := .S, data := zerosB 64 } ∧
    s.homeOf 64 = some 0 ∧ s.lineOpen 1 = false ∧ s.stationHeld { kind := .clean, agent := agentH 0, line := 1 } = false ∧ s.dirEnt? 1 = none := by decide
theorem wit_direct : agentIn up 0 = true ∧ up.region 0x0C0000000000 = .pod ∧ 0x0C0000000000 % 8 = 0 ∧ up.winOpen 0x0C0000000000 = true ∧
    up.region (0x0C0000000000 + 7) = .pod ∧ up.badWords = [] ∧ coreHart 0 {} = none ∧ up.pieceBad 0x0C0000000000 8 4 = none ∧ up.tileIn 1151 = true ∧
    ({ up with fused := ⟨[(0, 0)]⟩ } : State).enabled 0 = false := by decide
def cpy (st : Moesi) (net : List CMsg) : State :=
  coh (fun h => { h with copies := ⟨[(0 * 2 ^ 46 + 1, { st := st, data := zerosB 64 })]⟩, net := net })
theorem wit_snoops :
    snoopWaits (cpy .E [.snpShared 0 1]) 0 1 = false ∧ CMsg.snpShared 0 1 ∈ (cpy .E [.snpShared 0 1]).coh.net ∧
    ((cpy .E []).copy? 0 1).map (·.st) = some .E ∧ snoopWaits (cpy .M [.snpInv 0 1]) 0 1 = false ∧
    snoopWaits (cpy .M [.snpOnce 0 1]) 0 1 = false ∧ ((cpy .M []).copy? 0 1).map (·.st) = some .M ∧
    (let t : Txn := { req := { kind := .rdOnce, agent := 2, line := 1 }, acks := [0] }
     ((cpy .M [.snpOnce 0 1]).onCoh (fun h => { h with txns := ⟨[(1, t)]⟩ })).txn? 1 = some t ∧ t.req.kind = .rdOnce ∧
     ({ t with req := { t.req with kind := .clean } } : Txn).req.kind = .clean) := by decide
theorem wit_ack : let s := txn own [.snpAck 2 1 none true false]
    s.coh.net.find? (fun m => match m with | .snpAck x l _ _ _ => x == 2 && l == 1 | _ => false) = some (.snpAck 2 1 none true false) ∧
    s.txn? 1 = some own ∧ own.req.kind = .rdOwn ∧ own.dataDue = false ∧ own.memDue = false ∧ own.presDue = none ∧ own.victim = none ∧ own.sent = false ∧
    own.done = false ∧ own.memW = none := by decide
theorem wit_messages :
    CMsg.grant 0 1 ∈ (cpy .S [.grant 0 1]).coh.net ∧ ((cpy .S []).copy? 0 1).isSome = true ∧ holderIn up 0 = true ∧ agentIsTile 0 = true ∧ own.req.wr = .none ∧
    (coh (fun h => { h with net := [.data 0 1 (some .S) [] 5] })).coh.net.find?
      (fun m => match m with | .data x l _ _ _ => x == 0 && l == 1 | _ => false) = some (.data 0 1 (some .S) [] 5) ∧
    (txn own [.snpData 2 1 [] 5]).coh.net.find? (fun m => match m with | .snpData x l _ _ => x == 2 && l == 1 | _ => false) = some (.snpData 2 1 [] 5) ∧
    (txn { own with acks := [], sent := true } [.complete 0 1]).txn? 1 = some { own with acks := [], sent := true } ∧ own.wbs = [] ∧
    (txn { own with presDue := some (0, 5), memDue := true } []).coh.txns.rows.find? (fun r => r.2.presDue == some (0, 5)) =
      some (1, { own with presDue := some (0, 5), memDue := true }) := by decide
theorem wit_queues : let s := coh (fun h => { h with conflictQ := [once], retryQ := [once] })
    s.pinned 1 = false ∧ s.coh.conflictQ.find? (fun q => q.line == 1) = some once ∧ s.coh.retryQ.find? (fun q => sameSet s q.line 1) = some once ∧
    (s.setEntries 1).length < 16 ∧ s.homeOf 64 = some 0 := by decide
theorem wit_evictions : let s := coh (fun h => { h with
      net := [.evictClean 0 1, .wb 0 2 [] 5, .wbAck 0 2], dir := ⟨[(1, { cond := 1, owner := 0 }), (2, { cond := 1, owner := 0 })]⟩
      wbBuf := ⟨[(2, { st := .M, data := [] })]⟩ })
    CMsg.evictClean 0 1 ∈ s.coh.net ∧ s.dirEnt? 1 = some { cond := 1, owner := 0 } ∧ s.pinned 1 = false ∧ (s.wbBuf? 0 2).isSome = true ∧
    s.dirEnt? 2 = some { cond := 1, owner := 0 } ∧ s.txn? 2 = none ∧ (txn own []).txn? 1 = some own ∧
    s.coh.net.find? (fun m => match m with | .wb x l _ _ => x == 0 && l == 2 | _ => false) = some (.wb 0 2 [] 5) ∧ CMsg.wbAck 0 2 ∈ s.coh.net := by decide
theorem wit_memory_answers :
    (txn { req := { kind := .rdShared, agent := 0, line := 1 }, memDue := true, give := .E } []).txn? 1 =
      some { req := { kind := .rdShared, agent := 0, line := 1 }, memDue := true, give := .E } ∧ up.memBad 1 = false ∧
    (txn { req := { kind := .wrFull [], agent := 0, line := 1 }, memW := some ([], 5), sent := true, done := true } []).txn? 1 =
      some { req := { kind := .wrFull [], agent := 0, line := 1 }, memW := some ([], 5), sent := true, done := true } ∧
    (txn { req := { kind := .clean, agent := 0, line := 1 }, memW := some ([], 5), sent := true, done := true } []).txn? 1 =
      some { req := { kind := .clean, agent := 0, line := 1 }, memW := some ([], 5), sent := true, done := true } := by decide
theorem wit_leave_memory : (∃ s', exec (.snpAck 0 1) up = .next s') ∧ coreHart 0 {} = none ∧ (∀ l t, up.txn? l = some t → t.req.floor = false) ∧
    (∀ r ∈ up.coh.conflictQ ++ up.coh.waitQ ++ up.coh.retryQ, r.kind ≠ .rebuild) ∧
    Instr.snpAck 0 1 ∈ [Instr.upgrade 0 1 {} .none, .snpAck 0 1] :=
  ⟨⟨_, rfl⟩, rfl, fun _ _ h => (by cases h), fun _ h => (by cases h), by decide⟩

/-! ### Witnesses: streams, laps, jobs -/

/-- An entry of 64 bytes with the fields (offset, length, value). -/
def rec64 (l : List (Nat × Nat × Nat)) : Bytes := l.foldl (fun b x => setFieldB b x.1 x.2.1 x.2.2) (zerosB 64)
/-- Stream 0 of die 0 is enabled and has fetched entries. -/
def strm (es : List Bytes) : State :=
  ((up.pf F.SEQ_STREAM_CTRL_enable 0 1).pf F.SEQ_STREAM_CTRL_ring_log2 0 6).setStrm 0 0 (fun x => { x with fetched := es.zipIdx.map (fun p => (p.2, p.1)) })
/-- The entry as the complex takes it up. -/
def taken (e : Bytes) : Ent := { die := 0, stream := 0, pos := 0, entry := e }
theorem starts_wit {s : State} {ty : Nat} {e : Ent} {P : State → Bool} (h : seqPick s 0 0 = some 0) (h1 : entType e.entry = ty)
    (h2 : (match s.takeEntry 0 0 0 with | some (e', t) => decide (e' = e) && P t | none => false) = true) :
    ∃ s1, s.starts 0 0 ty 0 e s1 ∧ P s1 = true := by
  split at h2
  · rename_i e' t heq
    simp only [Bool.and_eq_true, decide_eq_true_eq] at h2
    exact ⟨t, ⟨h, h1, by rw [heq, h2.1]⟩, h2.2⟩
  · cases h2
theorem wit_stream : up.mayWriteStream .host 0 0 0 = true ∧ strmOn up 0 0 = false ∧ (strm []).mayWriteStream .host 0 0 (strmCtx (strm []) 0 0) = true ∧
    strmOn (strm []) 0 0 = true ∧ strmHalted ((strm []).pf F.SEQ_STREAM_STATUS_halted (sk 0 0) 1) 0 0 = true ∧ ((strm []).strm 0 0).stuck = false := by decide
theorem wit_fetch : let s := (page (.seq 0) (strm [])).setStrm 0 0 (fun x => { x with limit := 1 })
    (seqUp s 0 = true ∧ strmHalted s 0 0 = false ∧ (s.strm 0 0).head < (s.strm 0 0).limit ∧ (s.strm 0 0).fetched.length < 16) ∧
    ∃ b t, s.vread (.seq 0) (strmCtx s 0 0) ((s.strm 0 0).ring + (s.strm 0 0).head % strmSlots s 0 0 * 64) 64 0 = (.ok b, t) :=
  ⟨by decide, ok_pair (by decide)⟩
theorem wit_nop_entry : ∃ s1, (strm [rec64 []]).starts 0 0 0 0 (taken (rec64 [])) s1 ∧ true = true := starts_wit (P := fun _ => true) (by decide) (by decide) (by decide)
def jobEntry : Bytes := rec64 [(0, 1, 1), (2, 1, 1), (7, 1, 1), (24, 4, 1)]
def jobS : State := (strm [jobEntry]).pf F.TRANS_ROOT_enable 0 1
theorem wit_job : ∃ s1, jobS.starts 0 0 1 0 (taken jobEntry) s1 ∧
    (!jobBad s1 jobEntry && (tset 0 jobEntry).any (usable s1) && !pinAbsent s1 0 jobEntry &&
      (match (s1.reconvTable 0 jobEntry).1 with | .ok _ => true | .error _ => false)) = true := starts_wit (by decide) (by decide) (by decide)
def mbEntry : Bytes := rec64 [(0, 1, 2), (8, 4, 10), (12, 4, 4), (16, 2, 8), (18, 1, 1)]
theorem wit_group : ∃ s1, (strm [mbEntry, jobEntry]).starts 0 0 2 0 (taken mbEntry) s1 ∧
    (!((s1.strm 0 0).fetched.take 1).any (fun p => entType p.2 ≠ 1) && !cmplBad mbEntry && fieldB mbEntry 24 8 == 0 && fieldB mbEntry 18 1 == 1 && fieldB mbEntry 16 2 == 8 && fieldB mbEntry 12 4 == 4 &&
      decide (0 < ceilDiv (fieldB mbEntry 8 4) 4 + (s1.strm 0 0).report.length)) = true :=
  starts_wit (by decide) (by decide) (by decide)
theorem wit_round : let g : MbGroup := { pos := 0, entry := mbEntry, jobs := [(1, jobEntry)], rounds := 3, maxRounds := 8, sched := [0, 1, 2] }
    let s := ({ strm [] with seq := { (strm []).seq with ents := [taken mbEntry] } } : State).setStrm 0 0 (fun x => { x with group := some g })
    s.seq.ents.find? (fun e => e.die = 0 && entType e.entry = 2 && e.slot = 0) = some (taken mbEntry) ∧ (s.strm 0 0).group = some g ∧
    g.running = false ∧ g.sched = 0 :: [1, 2] ∧ seqUp s 0 = true ∧ seqHeld s 0 = false := by decide
def waitEnt : Bytes := rec64 [(0, 1, 5), (28, 4, 1)]
theorem wit_wait : ∃ s1, (page (.seq 0) (strm [waitEnt])).starts 0 0 5 0 (taken waitEnt) s1 ∧
    (match s1.watchTarget (.seq 0) 0 0 0 with
      | (.ok (pa, key), s2) =>
        let s3 := s2.onSeq (fun q => { q with ents := q.ents.map (fun x => if x.die = 0 && x.stream = 0 && x.pos = 0 then { x with line := lineOf pa } else x) })
        !s2.lineBad (lineOf pa) && (s3.shareNow (agentSeq 0) (lineOf pa) key true).1 && waitMet waitEnt ((s3.shareNow (agentSeq 0) (lineOf pa) key true).2.cohRead key pa 8)
      | (.error _, _) => false) = true := starts_wit (by decide) (by decide) (by decide)
theorem wit_wait_unmet : waitMet (rec64 [(0, 1, 5), (16, 8, 1)]) (zerosB 8) = false ∧ fieldB waitEnt 28 4 ≠ 0 := by decide

def jobX : Job := { stream := 0, pos := 0, entry := jobEntry, tiles := [0] }
def jobs (x : Job) : State :=
  ({ up with seq := { up.seq with jobs := ⟨[(0, x)]⟩, ents := [taken jobEntry] } } : State).pf F.TILE_UNIT_EPOCH_epoch 0 1
theorem wit_lap_dispatch : tileCurrent (jobs jobX) 0 = true ∧ ((jobs jobX).tile 0).queued = none ∧
    (jobsOf (jobs jobX) (tileDie 0)).findSome? (fun p => (lapFor (tileDie 0) p.2 0).map (fun l => (p.1, p.2, l.1, l.2))) = some (0, jobX, 0, false) ∧
    seqUp (jobs jobX) 0 = true ∧ seqHeld (jobs jobX) 0 = false ∧ lapBefore (jobs jobX) 0 jobX 0 = false := by decide
theorem wit_lap_start : let s := (jobs jobX).setTile 0 (fun tl => { tl with queued := some { groups := 2 } })
    (s.tile 0).queued = some { groups := 2 } ∧ (s.tile 0).lap = none ∧ s.tileIn 0 = true ∧ tileCurrent s 0 = true ∧ stackFree s { groups := 2 } = true ∧
    seqUp s 0 = true ∧ seqHeld s 0 = false := by decide
theorem wit_lap_end : let s := (lap.setGroup 0 0 (fun x => { x with wait := .ended })).setGroup 0 1 (fun x => { x with wait := .ended })
    (s.tile 0).lap = some { groups := 2 } ∧ lapOver s 0 = true := by decide
theorem wit_job_end : let x : Job := { jobX with ended := 1 }
    (jobs x).job? 0 0 = some x ∧ x.laps ≤ x.ended ∧ x.hands = [] ∧ (jobs x).jobQuiet 0 0 = true ∧ (jobs x).tableOn ((jobs x).domainOf 0) = false ∧
    x.recompute = false ∧ x.produced.any ((jobs x).entLocked 0) = false ∧ x.produced.filter (fun tid => (jobs x).triggers 0 x [] tid) = [] ∧
    ((jobs x).pf F.NUM_TABLE_BASE_enable 0 1).tableOn 0 = true := by decide
def rc : Bytes := rec64 [(0, 3, 7)]
theorem wit_reconversion : let x : Job := { jobX with phase := 2, todo := [rc], drows := [(7, 0, 1)] }
    let s := page (.seq 0) ((jobs x).pf F.NUM_TABLE_BASE_enable 0 1)
    s.tableOn (s.domainOf 0) = true ∧ x.todo = [rc] ∧ x.drows.filter (fun p => p.1 = fieldB rc 0 3) = [(7, 0, 1)] ∧
    ∃ cs t, s.reconvRun 0 x rc (useScale (s.entRead (s.domainOf 0) (fieldB rc 0 3))) 0 1 = (.ok cs, t) :=
  ⟨by decide, by decide, by decide, ok_pair (by decide)⟩
theorem wit_job_complete : let s := jobs { jobX with phase := 3 }
    s.jobQuiet 0 0 = true ∧ s.seq.ents.find? (fun e => e.die = 0 && e.stream = 0 && e.pos = 0) = some (taken jobEntry) := by decide
def stepEnt : Bytes := rec64 [(0, 1, 6)]
theorem wit_step_end : ∃ s1, (strm [stepEnt]).starts 0 0 6 0 (taken stepEnt) s1 ∧ true = true := starts_wit (P := fun _ => true) (by decide) (by decide) (by decide)

/-! ### Witnesses: scaling and the Pannier -/

theorem wit_scaling : let s := (lapT (fun tl => { tl with slots := ⟨[(0, { tid := 5 })]⟩ })).pf F.NUM_TABLE_BASE_enable 0 1
    (s.slot 0 0).complete = false ∧ (s.tile 0).lap.isSome = true ∧ s.tableOn (s.domainOf 0) = true ∧ lap.tableOn 0 = false ∧
    (s.num.foldDue.atD (s.domainOf 0) []).any (·.stack = hbmStack s.hbmMode (s.entPa 0 5)) = false ∧ s.pageLocked (s.entPa 0 5) = false ∧
    s.region (s.entPa 0 5) = .hbm ∧ s.physBad (s.entPa 0 5) 256 = none ∧ s.mayWriteDom .host 15 = true ∧ s.tableOn 15 = false ∧ tableFits s 15 = true ∧
    (let f : FoldDue := ⟨1, false, true⟩
     (({ s with num := { s.num with foldDue := ⟨[(0, [f])]⟩ } } : State).num.foldDue.atD 0 []).find? (fun f => f.stack = 1) = some f) ∧
    s.blkState (stackDie 1) (8 + 1 % 2) = 0 ∧ s.nme.locked = [] := by decide
def op (push : Bool) : PanOp := { push := push, addr := 0, len := 64, tag := 0 }
def panS (q : List PanOp) : State := page (.pannier 0) ((lapT (fun tl => { tl with panQ := q })).pf F.PAN_SIZES_ring_mib 0 8)
theorem wit_push : let s := panS [op true]
    (s.tile 0).lap = some { groups := 2 } ∧ ({ groups := 2 } : Lap).rerun = false ∧ (op true).behind = 0 ∧ panNextPush (s.tile 0).panQ 0 = some (0, op true, 0) ∧ panBlocked s 0 0 = none ∧ panEnd s 0 0 ≤ panTop s 0 0 ∧
    panEnd s 0 0 + frameSize 64 ≤ panCap s 0 ∧ panEnd s 0 0 + frameSize 64 - panLow s 0 0 ≤ panRing s 0 := by decide
set_option maxRecDepth 4096 in
theorem wit_push_done : let s := panS [{ op true with started := true }]
    panUp s 0 = true ∧ s.rangeBad (tstoreBase 0 + 0) 64 = none ∧
    ∃ u t, s.panWrite 0 0 (panEnd s 0 0) (panRecord 64 0 (panFrames s 0 0) 0 (s.stepOf (s.domainOf 0)) ++ s.sramRead (tstoreBase 0 + 0) 64 ++
      panRecord 64 0 (panFrames s 0 0) 0 (s.stepOf (s.domainOf 0))) (panBottom s 0 0 ≤ panEnd s 0 0) = (.ok u, t) :=
  ⟨by decide, by decide, ok_pair (by decide)⟩
/-- One resident frame of 64 bytes. -/
def panF : State := panSet (lay 128 (panRecord 64 0 0 0 0) (lay 0 (panRecord 64 0 0 0 0) (panS [op false]))) 0 0 192 192 0 1
theorem wit_pop : panBlocked panF 0 0 = none ∧ panF.job? 0 0 = none ∧ (match panF.panFrame 0 0 (panTop panF 0 0) (op false) false with
    | (.ok a, s1) => decide (a = 0) && decide (panBottom s1 0 0 ≤ 0) && (match (s1.panRead 0 0 64 64 true).1 with | .ok _ => true | .error _ => false)
    | (.error _, _) => false) = true := by decide
/-- A stack with a Seedbank, above its watermark or wholly below. -/
def panM (bottom : Nat) (q : List PanOp) : State :=
  (panSet (lay 128 (panRecord 64 0 0 0 0) (lay 0 (panRecord 64 0 0 0 0) (panS q))) 0 0 192 192 bottom 1).pf F.PAN_SIZES_seed_mib 0 8 |>.pf F.PAN_SIZES_wmark_mib 0 0
theorem wit_spill : panTurn (panM 0 []) 0 0 (panDemandable (panM 0 []) 0) = none ∧ panTurn (panM 0 []) 0 1 (panPrefetchable (panM 0 []) 0) = none ∧
    panTurn (panM 0 []) 0 2 (panSpillable (panM 0 []) 0) = some 0 ∧
    (match (panM 0 []).panLenAt 0 0 (panBottom (panM 0 []) 0 0) true with | (.ok l, _) => l == 64 | _ => false) = true := by decide
theorem wit_prefetch : let s := (panM 192 []).pf F.PAN_SIZES_prefetch_mib 0 1
    panTurn s 0 0 (panDemandable s 0) = none ∧ panTurn s 0 1 (panPrefetchable s 0) = some 0 ∧
    (match s.panLenAt 0 0 (panBottom s 0 0 - 64) false with | (.ok l, t) => decide (frameSize l ≤ panBottom t 0 0) | _ => false) = true := by decide
theorem wit_demand : let s := panM 192 [{ op false with waited := true }]
    panTurn s 0 0 (panDemandable s 0) = some 0 ∧
    (match s.panLenAt 0 0 (panBottom s 0 0 - 64) false with | (.ok l, t) => decide (frameSize l ≤ panBottom t 0 0) | _ => false) = true := by decide
set_option maxRecDepth 4096 in
theorem wit_move : let s := (panM 0 []).panSetMove 0 0 (some { spill := true, off := 0, size := 192 })
    s.panMove? 0 0 = some { spill := true, off := 0, size := 192 } ∧
    (match s.panRead 0 0 0 192 true with
      | (.ok bs, t) => (match (t.panWrite 0 0 0 bs false).1 with | .ok _ => true | .error _ => false)
      | (.error _, _) => false) = true := by decide
theorem wit_pan_regs : up.mmioRole .host = true ∧ panHeld up 7 143 = false ∧ up.gb F.PAN_CTRL_enable 7 = false ∧
    bitsN (143 + 512) 7 0 = 143 ∧ bitN (143 + 512) 8 = false ∧ bitN (143 + 512) 9 = true := by decide

/-! ### Witnesses: near-memory engines -/

/-- A descriptor of one participant, NME 0, at 0x1000: list at 0x2000 with one empty shard, result record at 0x3000, matrix-rule job at 0x4000. -/
def dsc (flags : Nat) : Bytes := setFieldB (setFieldB (setFieldB (setFieldB (setFieldB (setFieldB (zerosB 256) 0 2 1) 3 1 flags) 4 4 0xFFFFFFFF) 24 8 0x4000) 32 8 0x3000) 128 8 0x2000
/-- A sweep of it is fetched as stream 0's entry; the header and the record are of another step. -/
def swp (flags : Nat) : State :=
  (lay 0x2000 (setFieldB (setFieldB (zerosB 128) 0 4 1) 16 8 9) (lay 0x3008 (leBytes 8 9) (lay 0x1000 (dsc flags) (page (.nme 0) (page (.seq 0)
    (strm [rec64 [(0, 1, 3), (8, 8, 0x1000)]])))))).wr .NME_PROG_ENTRIES_0 0 1 |>.pf F.NME_UNIT_EPOCH_epoch 0 1

set_option maxRecDepth 65536 in
theorem wit_sweep_entry : (match (swp 0).takeEntry 0 0 0 with
    | some (e', s1) =>
      decide (seqPick (swp 0) 0 0 = some 0) && decide (entType e'.entry = 3) && !cmplBad e'.entry &&
      okWith (s1.vread (.seq e'.die) (fieldB e'.entry 16 1 % 64) (fieldB e'.entry 8 8) 256 e'.die) (fun b s2 =>
        decide (fieldB b 32 8 % 64 = 0) && decide (sweepParts b = [0]) &&
        okWith (s2.vread (.seq e'.die) (fieldB e'.entry 16 1 % 64) (fieldB b 32 8) 64 e'.die) (fun r s3 =>
          decide (fieldB r 8 8 ≠ s3.stepOf (s3.domainOf e'.die)) && s3.nme.sweeps.isEmpty && (s3.nmeU 0).sweep.isNone))
    | none => false) = true := by decide
/-- The sweep is on. -/
def sw (flags : Nat) : State := after (.sweep 0 0) (swp flags)
def swX (s : State) : NmeSweep := ((s.nmeU 0).sweep).getD {}

set_option maxRecDepth 65536 in
theorem wit_phase_n : let s := sw 0
    let x := swX s
    (s.nmeU 0).sweep = some x ∧ (topOf s x).isSome = true ∧ x.phase = 1 ∧ x.ended = false ∧ nmeRuns s 0 = true ∧ nmeCurrent s 0 = true ∧
    okWith (Tx.phaseN 0 x s) (fun p s1 => okWith (Tx.nread 0 x x.res 64 s1) (fun _ s2 =>
      decide (fieldB p.2 5 1 = 0) && decide (fieldB p.2 16 8 ≠ x.step) &&
      okWith (Tx.verdictOf 0 p.1 ((topOf s x).getD ⟨0, 0, 0, 0, [], 0, 0, 0⟩) s2) (fun v s3 => match v with
        | some (c, _, u, false) =>
          okWith (Tx.nwrite 0 p.1 (p.1.list 0 + 5) ([1, 0, 0] ++ zerosB 8 ++ leBytes 8 p.1.step) s3) (fun _ s4 =>
            okWith (Tx.enter 0 p.1 3 (s4.onSweep 0 (fun _ => { p.1 with c := c, used := u }))) (fun _ _ => true))
        | _ => false))) = true := by decide

/-- A later phase of a sweep of one shard. -/
def swAt (ph : Nat) (shard : Bytes := []) (flag : Bool := false) : State :=
  let s := page (.nme 0) up
  ({ s with nme := { s.nme with sweeps := [⟨0, 0, 0, 0, [0], 0, 0, 0⟩] } } : State).setNme 0 (fun u => { u with
    sweep := some { phase := ph, shards := [shard], done := flag, bytes := [1] } })
def sw3 : State := swAt 3

set_option maxRecDepth 65536 in
theorem wit_mr_done : let s := swAt 2
    let x := swX s
    (s.nmeU 0).sweep = some x ∧ x.phase = 2 ∧ x.ended = false ∧ nmeRuns s 0 = true ∧
    okWith (Tx.nread 0 x (fieldB x.bytes 24 8) 16 (lay 15 [1] s)) (fun r s1 => decide (fieldB r 15 1 = 1) &&
      okWith (Tx.nwrite 0 x (x.list 0 + 5) (leBytes 1 3) s1) (fun _ _ => true)) = true := by decide
set_option maxRecDepth 65536 in
theorem wit_update : let x := swX sw3
    (sw3.nmeU 0).sweep = some x ∧ x.phase = 3 ∧ x.ended = false ∧ x.done = false ∧ nmeRuns sw3 0 = true ∧ (sw3.nmeU 0).held.contains x.curU = false ∧
    okWith (Tx.update 0 x x.curU sw3) (fun _ s1 => okWith (Tx.nwrite 0 x (x.list 0 + 8) (leBytes 4 (x.curU + 1)) s1) (fun _ _ => true)) = true := by decide
def sw3d : State := swAt 3 [] true

set_option maxRecDepth 65536 in
theorem wit_barrier : (sw3d.nme.sweeps.filter (fun t => t.dom = 0)).map (·.parts) = [[0]] ∧ (sw3d.nmeU 0).sweep = some (swX sw3d) ∧
    (swX sw3d).phase = 3 ∧ (swX sw3d).done = true ∧ (swX sw3d).ended = false ∧
    okWith (Tx.nwrite 0 (swX sw3d) ((swX sw3d).list 0 + 5) (leBytes 1 4) sw3d) (fun _ _ => true) = true := by decide
def sw4 : State := swAt 4

set_option maxRecDepth 65536 in
theorem wit_prefold : (sw4.nme.sweeps.find? (fun t => t.parts.any (fun k => match (sw4.nmeU k).sweep with | some y => y.phase = 4 && !y.ended | none => false))).isSome = true ∧
    nmeRuns sw4 0 = true ∧
    (let s := up.setNme 0 (fun u => { u with prefNet := [(5, 1)] })
     (s.nmeU 0).prefNet.any (·.1 = 5) = true ∧ nmeIn s 0 = true ∧ (s.nmeU 0).pref.any (·.1 = 5) = false ∧ (s.nmeU 0).pref.length < 4096) := by decide
def sw5 : State := swAt 5

set_option maxRecDepth 65536 in
theorem wit_derive : let x := swX sw5
    (sw5.nmeU 0).sweep = some x ∧ x.phase = 5 ∧ x.ended = false ∧ x.done = false ∧ nmeRuns sw5 0 = true ∧ (sw5.nmeU 0).held.contains x.curD = false ∧
    (sw5.nmeU 0).redo ≠ some x.curD ∧
    okWith (Tx.derive 0 x x.curD (1 - x.live) (sw5.setNme 0 (fun u => { u with redo := none }))) (fun _ s1 =>
      okWith (Tx.nwrite 0 x (x.list 0 + 12) (leBytes 4 (x.curD + 1)) s1) (fun _ _ => true)) = true := by decide
def sw7 : State := swAt 7

set_option maxRecDepth 65536 in
theorem wit_commit : let x := swX sw7
    (sw7.nmeU 0).sweep = some x ∧ x.phase = 7 ∧ x.ended = false ∧ x.digest = false ∧ nmeRuns sw7 0 = true ∧
    okWith (Tx.nwrite 0 x (x.list 0 + 4) [BitVec.ofNat 8 (1 - x.live), 0, 0] sw7) (fun _ s1 => okWith (Tx.resOp 0 x 24 0 1 0 s1) (fun _ s2 =>
      decide ((s2.nmeU 0).waiting.filter (fun p => p.2.1 = x.step % 2 ^ 32) = []))) = true := by decide
/-- Phase X of a digest sweep: delivery entry of collective 0 at 0x8000, reference at 0x9000, own digests at 0xA000. -/
def sw6x : State :=
  ({ swAt 6 with nme := { (swAt 6).nme with digests := ⟨[(0, ⟨0, 0x9000, 64, 2, 0xFFFF, 1⟩)]⟩ } } : State).onSweep 0
    (fun x => { x with digest := true, dtab := 0xA000 }) |>.pf F.DRL_DELIV_BASE_pa 0 0x8000
set_option maxRecDepth 65536 in
theorem wit_phase_x : let x := swX sw6x
    (sw6x.nmeU 0).sweep = some x ∧ x.phase = 6 ∧ x.ended = false ∧ x.done = false ∧ nmeRuns sw6x 0 = true ∧
    (match delivery sw6x (deliveryDie sw6x x.dom 0) x.dcoll x.step with
      | some e => decide (fieldB e 8 1 = 0) && !bitN (fieldB e 10 1) 2
      | none => false) = true ∧
    sw6x.nme.digests.at? (deliveryDie sw6x x.dom 0 * 65536 + x.dcoll) = some ⟨0, 0x9000, 64, 2, 0xFFFF, 1⟩ ∧
    x.gear ≠ gearFixed ∧ okWith (Tx.nread 0 x x.dtab (16 * x.count) sw6x) (fun _ s1 =>
      okWith (Tx.read (.nme 0) 0 (0x9000 + 0 % 2 * (64 / 2)) (min (64 / 2) (16 * x.count)) (stackDie 0) s1) (fun _ _ => true)) = true := by decide

/-- A block of one element is loaded. -/
def swL : State := (swAt 3 (setFieldB (zerosB 64) 40 4 1)).setNme 0 (fun u => { u with
  loaded := true, lanes := List.replicate 2 (List.replicate 16 0) })
set_option maxRecDepth 65536 in
theorem wit_program : nmeIn swL 0 = true ∧ (swL.nmeU 0).loaded = true ∧ 15 < 16 ∧ 31 < 32 ∧ (swL.nmeU 0).sweep = some (swX swL) ∧ (swX swL).ended = false ∧
    (swL.nmeU 0).restart = false ∧
    okWith (Tx.shardRanges 0 (swX swL) ((swX swL).shard (swX swL).curU) swL) (fun _ s0 => okWith (Tx.shardOut 0 (swX swL) ((swX swL).shard (swX swL).curU) (512 * (swL.nmeU 0).blk)
      ((swL.nmeU 0).lanes.take (min 512 (shElems ((swX swL).shard (swX swL).curU) - 512 * (swL.nmeU 0).blk))) s0) (fun _ _ => true)) = true ∧
    swL.mayWriteNme .host 15 = true ∧ swL.gf F.NME_PROG_CTRL_active 15 ≠ 1 % 2 ∧ swL.gb F.NME_PROG_CTRL_commit 15 = false ∧
    swL.gf F.NME_PROG_CTRL_active 15 = 2 % 2 := by decide

/-! ### Witnesses: repairs and re-encryption -/

/-- NME 0 has committed a sweep of step 3 with one shard of one element, which it holds. -/
def rp : State := (page (.nme 0) up).setNme 0 (fun u => { u with
  last := some { ctx := 0, step := 3, shards := [setFieldB (zerosB 64) 40 4 1] }, held := [0], repairs := [{ shard := 0, step := 3, conn := 0xFFFF, die := 1 }] })
def rpX : NmeSweep := { ctx := 0, step := 3, shards := [setFieldB (zerosB 64) 40 4 1] }
set_option maxRecDepth 65536 in
theorem wit_repair : nmeIn rp 0 = true ∧
    (let s := rp.setNme 0 (fun u => { u with held := [] })
     (s.nmeU 0).sweep = none ∧ (s.nmeU 0).last = some rpX ∧ (s.nmeU 0).held.contains 0 = false ∧ 0 < rpX.count ∧
     okWith (Tx.image 0 rpX (rpX.shard 0) rpX.live s) (fun _ _ => true) = true) ∧
    repairOf rp 0 0 3 = some rpX ∧ okWith (Tx.imageWrite 0 rpX (rpX.shard 0) 0 [1, 2, 3, 4] rp) (fun _ _ => true) = true ∧
    okWith (Tx.image 0 rpX (rpX.shard 0) rpX.live rp) (fun _ s1 => okWith (Tx.derive 0 rpX 0 rpX.live s1) (fun _ _ => true)) = true ∧
    (rp.nmeU 0).held.contains 0 = true ∧ (rp.nmeU 0).repairs.any (fun r => r.shard = 0 && r.step % 2 ^ 32 = 3 && r.phase = 0) = true ∧
    ((rp.setNme 0 (fun u => { u with repairs := [{ shard := 0, step := 3, conn := 0xFFFF, die := 1, phase := 1 }] })).nmeU 0).repairs.find?
      (fun r => r.shard = 0 && r.phase = 1) = some { shard := 0, step := 3, conn := 0xFFFF, die := 1, phase := 1 } := by decide

/-- A page of 4 KiB at 1 GiB under re-encryption, and one whose only chunk is done. -/
def rk (chunk : Nat) : Rekey := { ctx := 0, desc := 0x1000, part := 0, oldG := 0, newG := 1, count := 1, list := 0x2000, journal := 0x4000, chunk := chunk,
                                     leaves := [0x6000], pa := 0x40000000, size := 4096 }
def rkS (chunk : Nat) : State := (page (.nme 0) up).setRk 0 (rk chunk)
set_option maxRecDepth 65536 in
theorem wit_rekey_go : up.mayWriteNme .host 15 = true ∧ up.rk? 15 = none ∧ up.mmioRole .host = true ∧ up.rk? 17 = none ∧ 1 < 2 := by decide
set_option maxRecDepth 65536 in
theorem wit_rekey_chunk : let s := rkS 0
    let r := rk 0
    s.rk? (rkUnit false 0) = some r ∧ r.leaves ≠ [] ∧ rkUp s 0 = true ∧ 4096 * r.chunk < r.size ∧ s.rangeBad (r.pa + 4096 * r.chunk) 4096 = none ∧
    okWith (Tx.write (rkX 0) r.ctx r.journal (s.cohRead (s.keyOf r.part r.oldG) r.pa 4096) (rkNode 0) s) (fun _ s1 =>
      okWith (Tx.rkSave 0 { r with chunk := 1 } false
        (((s1.each (List.range 64) (fun i s => s.invalidateAll (lineOf r.pa + i))).rkPut r (s.cohRead (s.keyOf r.part r.oldG) r.pa 4096)).setRk 0 { r with chunk := 1 }))
        (fun _ _ => true)) = true := by decide
set_option maxRecDepth 65536 in
theorem wit_rekey_page : let s := rkS 1
    let r := rk 1
    s.rk? (rkUnit false 0) = some r ∧ r.leaves ≠ [] ∧ rkUp s 0 = true ∧ r.size ≤ 4096 * r.chunk ∧
    okWith (Tx.rkSave 0 { r with page := 1, chunk := 0, leaves := [] } false ((((((s.onLeaves r.leaves (fun e =>
      setBitsN (setBitsN e 53 52 r.newG) 4 4 0)).dropPage r.pa r.size).moveUnits r.part r.oldG r.newG (r.size / 4096)).bump64 .NME_REKEY_PAGES 0 (r.size / 4096)).setRk 0
        { r with page := 1, chunk := 0, leaves := [] }))) (fun _ s2 =>
      okWith (Tx.rkSeek 0 (r.count - 1 + 1) { r with page := 1, chunk := 0, leaves := [] } s2) (fun _ _ => true)) = true := by decide

/-! ### Witnesses: Ethernet and Aedian Transport -/

/-- Link 0 of port 0 is up and secure. -/
def eth : State := ((up.pf F.PORT_STATUS_link_up 0 1).pf F.PORT_STATUS_secure 0 1).setLink 0 (fun x => { x with rx := [(0, 0)], tx := some (0, 1) })
def frm : Frame := { bytes := List.replicate 60 0 }
/-- A frame of MKA. -/
def eap : Frame := { bytes := List.replicate 12 0 ++ [0x88, 0x8E] ++ List.replicate 46 0 }
/-- A PFC frame, which names class 0. -/
def pfcF : Frame := { bytes := List.replicate 12 0 ++ [0x88, 0x08, 1, 1, 0, 1] ++ List.replicate 42 0 }
theorem wit_links : linkThere eth 0 0 = true ∧ linkUp eth 0 0 = true ∧ portIn eth 0 = true ∧
    (eth.pf F.PORT_STATUS_retraining 0 1).gb F.PORT_STATUS_retraining 0 = true ∧ eth.mmioRole .host = true ∧ eth.gf F.PORT_CTRL_mode 0 ≠ 3 % 4 := by decide
theorem wit_frames : ({ frm with fcsOk := false } : Frame).fcsOk = false ∧ frm.fcsOk = true ∧ macLen frm ≤ macMax ∧ isPfcFrame frm = false ∧ isEapol eap = true ∧
    isPfcFrame eap = false ∧ isPfcFrame pfcF = true ∧ macLen eap ≤ macMax ∧ macLen pfcF ≤ macMax ∧ isEapol frm = false ∧ isPtp frm = false ∧ frm.isIp = false ∧
    macsecOk ((eth.fecCount 0 0 0).bump64 .LINK_RX_FRAMES 0) 0 frm = true ∧
    occupancy eth 0 (classOf frm) + 60 ≤ 1024 * (eth.gf F.PORT_CLASS_xoff_kib (classOf frm) + eth.gf F.PORT_CLASS_headroom_kib (classOf frm)) ∧
    portOccupancy eth 0 + 60 ≤ 12 * 2 ^ 20 ∧ isPtpEvent eap = false ∧ eth.gb F.PORT_STATUS_retraining 0 = false ∧
    (eth.link 0).paused.contains (15 % 8) = false ∧ (eth.link 0).txQ = [] ∧ ((eth.setLink 0 (fun x => { x with lost := true })).link 0).lost = true := by decide
def pfcS : State := (eth.pf F.PORT_CLASS_xon_kib 7 0).setLink 0 (fun x => { x with xoff := [7], paused := [7], buf := [(7, frm)] })
theorem wit_pfc : linkThere pfcS 0 0 = true ∧ (pfcS.link 0).xoff.contains 7 = true ∧ 1024 * pfcS.gf F.PORT_CLASS_xon_kib 7 < occupancy pfcS 0 7 ∧
    portIn pfcS 0 = true ∧ linkUp pfcS 0 0 = true ∧ bitN 128 7 = true ∧ (pfcS.link 0).deaf.contains 7 = false ∧ (pfcS.link 0).paused.contains 7 = true ∧
    (pfcS.pf F.PORT_PFC_WD_wd_ms 0 1).gf F.PORT_PFC_WD_wd_ms 0 ≠ 0 := by decide
theorem wit_sak : linkThere eth 0 0 = true ∧ (eth.link 0).rx.any (·.1 = 3) = false ∧ (eth.link 0).rx ≠ [] ∧ eth.gb F.ROT_STATUS_error = false := by decide
theorem wit_vnf_enable : privRole .rot = true ∧ (up.vnf 255).on = false ∧
    (List.range 256).any (fun w => w ≠ 255 && (up.vnf w).on && vnfLink up w = vnfLink up 255 && vnfMac up w = vnfMac up 255) = false :=
  ⟨by decide, by decide, by rw [List.any_eq_false]; intro w _; show ¬ (decide (w ≠ 255) && false && _ && _) = true; simp⟩
/-- VNF 0 is on, and its rings are empty; a translation covers its transmit control line wherever that lies. -/
def vnfS : State :=
  let s := up.setVnf 0 (fun x => { x with on := true })
  { s with xl := { s.xl with tlb := [⟨.vnf 0, vnfCtx up 0, vnfCtl up 0 8, 6, 14⟩] } }
theorem vnf_check (c a : Nat) (hc : c < 64) (ha : a % 64 = 0) : vnfS.xlCheck c a accLoad 8 14 6 = (.ok 0 14 0 0, vnfS) := by
  have h0 : pePpn 14 / 2 ^ 6 * 2 ^ 6 + a % 2 ^ 6 = 0 := by
    have : pePpn 14 = 0 := by decide
    rw [this]; simpa using ha
  have hp : vnfS.gf F.TRANS_ATTR_part_id c = 0 := (by decide : ∀ c < 64, vnfS.gf F.TRANS_ATTR_part_id c = 0) c hc
  have ho : vnfS.gf F.TRANS_ATTR_open_access c = 0 := (by decide : ∀ c < 64, vnfS.gf F.TRANS_ATTR_open_access c = 0) c hc
  unfold State.xlCheck
  rw [h0, hp, ho]
  rfl
theorem vnf_xlate : vnfS.xlate (.vnf 0) (vnfCtx up 0) (vnfCtl up 0 8) accLoad 8 = (.ok 0 14 0 0, vnfS) := by
  have hf : vnfS.xl.tlb.find? (fun e => e.covers (.vnf 0) (vnfCtx up 0) (vnfCtl up 0 8)) = some ⟨.vnf 0, vnfCtx up 0, vnfCtl up 0 8, 6, 14⟩ := by
    simp [vnfS, TlbEnt.covers]
  unfold State.xlate
  rw [hf]
  exact vnf_check _ _ (Nat.mod_lt _ (by decide)) (Nat.mul_mod_left _ _)
theorem vnf_read : vnfS.vread (vnfX 0) (vnfCtx vnfS 0) (vnfCtl vnfS 0 8) 8 (vnfNode 0) = (.ok (zerosB 8), vnfS) := by
  have hr : vnfS.xlRange (.vnf 0) (vnfCtx up 0) (vnfCtl up 0 8) 8 accLoad 8 = (.ok [(0, 8, 0, 0)], vnfS) := by
    have hl : min 8 (4096 - vnfCtl up 0 8 % 4096) = 8 := by
      have : vnfCtl up 0 8 % 64 = 0 := Nat.mul_mod_left _ _
      omega
    show State.xlRangeN 2 vnfS (.vnf 0) (vnfCtx up 0) (vnfCtl up 0 8) 8 accLoad 8 [] = _
    simp only [State.xlRangeN, hl, vnf_xlate]
    rfl
  show vnfS.vread (.vnf 0) (vnfCtx up 0) (vnfCtl up 0 8) 8 8 = _
  unfold State.vread
  rw [hr]
  rfl
theorem wit_vnf_poll : ∃ b s1 h s2, vnfUp vnfS 0 = true ∧ vnfS.vread (vnfX 0) (vnfCtx vnfS 0) (vnfCtl vnfS 0 8) 8 (vnfNode 0) = (.ok b, s1) ∧
    (s1.vnf 0).txHead ≤ fieldB b 0 8 ∧ fieldB b 0 8 - (s1.vnf 0).txHead ≤ max 1 (vnfCfg s1 0 5) ∧
    vnfSend (fieldB b 0 8 - (s1.vnf 0).txHead) s1 0 (s1.vnf 0).txHead (fieldB b 0 8) = (.ok h, s2) ∧
    ∀ p < 24, vnfS.gb F.PORT_STATUS_retraining p = false :=
  ⟨_, _, 0, vnfS, rfl, vnf_read, by decide, Nat.zero_le _, rfl, by decide⟩
theorem wit_vnf_itr : (up.vnf 0).due = false ∧ ((up.setVnf 0 (fun x => { x with due := true })).vnf 0).due = true := by decide

/-- Engine 0 is enabled with a connection table of 4 entries at 64 KiB; entry 0 has one path over link 0 and every permission. -/
def atS : State := lay 0x10000 (rec64 [(3, 1, 15), (10, 1, 1)]) (page (.at 0) (((up.pf F.AT_CTRL_enable 0 1).pf F.AT_CONN_COUNT_count 0 4).pf F.AT_CONN_BASE_pa 0 0x10000))
/-- Connection 0 in a state. -/
def conn (st : Nat) (perms : Nat := 15) : State := atS.setConn 0 0 (fun x => { x with state := st, entry := rec64 [(3, 1, perms), (10, 1, 1)] })
theorem wit_at_enable : up.mmioRole .host = true ∧ up.gb F.AT_CTRL_enable 7 = false := by decide
theorem wit_conn_open : let s1 := (atS.pf F.AT_CONN_CMD_conn 0 0).pf F.AT_CONN_CMD_op 0 1
    let e := s1.physRead (s1.gf F.AT_CONN_BASE_pa 0) 64
    atS.mmioRole .host = true ∧ atS.gb F.AT_CONN_CMD_busy 0 = false ∧ atOn atS 0 = true ∧ 0 < s1.gf F.AT_CONN_COUNT_count 0 ∧ (atS.conn 0 0).state = 0 ∧
    s1.gf F.TRANS_ATTR_part_id (fieldB e 2 1 % 64) = 0 ∧ 0 < fieldB e 10 1 ∧ fieldB e 10 1 ≤ 4 ∧
    (List.range (min (fieldB e 10 1) 4)).any (fun i => fieldB e (32 + 8 * i) 1 ≥ 24) = false := by decide
theorem wit_conn_end : (match connCmd (conn 2) .host 0 0 2, connCmd (conn 2) .host 0 0 3 with
    | some s1, some s2 => decide (0 < s1.gf F.AT_CONN_COUNT_count 0) && decide ((s1.conn 0 0).state ≠ 0) && decide ((s1.conn 0 0).unacked = []) &&
      decide (0 < s2.gf F.AT_CONN_COUNT_count 0) && decide ((s2.conn 0 0).state ≠ 0)
    | _, _ => false) = true := by decide
theorem wit_hello : let s1 := (conn 1 7).atTake 0
    atOn s1 0 = true ∧ ({} : HelloBody).senderPkg = (s1.conn 0 0).remotePkg ∧ (s1.conn 0 0).refused = false ∧ (s1.conn 0 0).queue = [] ∧
    (agree (s1.conn 0 0) {}).isSome = true ∧ (s1.conn 0 0).state = 1 ∧ (s1.conn 0 0).perm 3 = false ∧
    atOn (conn 1) 0 = true ∧ ((conn 1).conn 0 0).perm 3 = true ∧ ((conn 1).conn 0 0).refused = false := by decide
set_option maxRecDepth 65536 in
theorem wit_at_packet : let s := conn 2
    let s0 := (s.atTake 0).atAcked 0 0 0
    atKnown (s.atTake 0) 0 {} = true ∧ dist32 0 (s0.conn 0 0).rxNext = 0 ∧
    (match s0.atPerform 0 0 (s0.conn 0 0).rxNext (.write 0x2000 [1, 2, 3]) with
      | some s1 => decide ((s1.conn 0 0).rxNext = (s0.conn 0 0).rxNext) && decide ((s1.conn 0 0).held = []) && s1.at'.cached.contains (ck 0 0) && decide ((s1.conn 0 0).owed < 15)
      | none => false) = true ∧
    atOn s 0 = true ∧ (s.conn 0 0).state = 2 ∧ (s.conn 0 0).closing = false ∧
    (((s.setConn 0 0 (fun x => { x with ver := 2 })).atTake 0).atAcked 0 0 0 |>.conn 0 0).ver ≠ 3 ∧
    atKnown ((s.setConn 0 0 (fun x => { x with ver := 2 })).atTake 0) 0 { version := 2 } = true := by decide
theorem wit_at_timers : let s := (conn 2).setConn 0 0 (fun x => { x with owed := 1, unacked := [{ psn := 0, type := 1 }] })
    0 < (s.conn 0 0).owed ∧ (s.conn 0 0).unacked ≠ [] ∧ atStopped s 0 (s.conn 0 0) = false ∧ (s.conn 0 0).timeouts + 1 < (s.conn 0 0).retryMax := by decide
set_option maxRecDepth 65536 in
theorem wit_at_operations : let s := conn 2
    let x := s.conn 0 0
    x.perm 0 = true ∧ x.perm 1 = true ∧ x.perm 2 = true ∧ ((conn 2 0).conn 0 0).perm 0 = false ∧ ((conn 2 0).conn 0 0).perm 1 = false ∧
    ((conn 2 0).conn 0 0).perm 2 = false ∧ okWith (s.vwrite (.at 0) x.ctx 0x2000 [1] 0) (fun _ _ => true) = true ∧
    0 < 65536 ∧ 65536 ≤ 2 ^ 16 ∧ okWith (s.vread (.at 0) x.ctx 0x2000 8 0) (fun _ _ => true) = true ∧
    (match s.xlate (.at 0) x.ctx 0x2000 accStore 0 with
      | (.ok pa _ _ _, s1) => decide (s1.region pa ≠ .mmio) && decide (s1.region pa ≠ .bar) && !s1.lineBad (lineOf pa)
      | _ => false) = true ∧ 0x2000 % 4 = 0 := by decide

/-! ### Witnesses: collectives -/

/-- A COLL entry whose descriptor, at 0x1000, names an operation on no bytes in the group of one at 0x2000. -/
def cdesc (op : Nat) : Bytes := rec64 [(0, 1, op), (4, 2, 3), (8, 8, 0x2000), (24, 8, 0x3000), (48, 8, 0x4000)]
def collS (op : Nat) : State :=
  (lay 0x4000 (rec64 [(4, 1, 1), (8, 4, 64)]) (lay 0x2010 [255, 255, 0, 0] (lay 0x2000 [1, 0, 0, 0] (lay 0x1000 (cdesc op) (page (.drl 0) (page (.seq 0) (strm [rec64 [(0, 1, 4), (8, 8, 0x1000)]]))))))).pf
    F.DRL_CTRL_enable 0 1 |>.pf F.DRL_UNIT_EPOCH_epoch 0 1
set_option maxRecDepth 65536 in
theorem wit_coll_entry : (match (collS 0).takeEntry 0 0 0 with
    | some (e, s1) =>
      decide (seqPick (collS 0) 0 0 = some 0) && decide (entType e.entry = 4) && !cmplBad e.entry && s1.blkIn 0 4 && drlCurrent s1 0 && drlOn s1 0 &&
      okWith ((s1.wake (.drl 0)).vread (.drl 0) (fieldB e.entry 16 1 % 64) (fieldB e.entry 8 8) 64 0) (fun d s2 =>
        decide (fieldB d 0 1 = 0) && decide (fieldB d 4 2 = 3) && decide (s2.inst? 0 3 = none) && decide (s2.drl.ended.at? (ik 0 3) ≠ some (s2.stepOf (s2.domainOf 0))) &&
        decide ((instsOf s2 0).length < 16) &&
        (let x : Inst := { stream := 0, pos := e.pos, desc := d, step := s2.stepOf (s2.domainOf 0), gear := s2.gearOf 0
                           bank := s2.gf F.DRL_RT_CTRL_active 0, members := [(0xFFFF, 0)] }
         okWith (Tx.instSetup 0 x ((s2.onDrl (fun g => { g with insts := g.insts.put (ik 0 3) x })).drlCount 0)) (fun _ _ => true)))
    | none => false) = true := by decide
/-- Instance 3 of die 0. -/
def inst (op stage : Nat) (begun : Bool) : Inst := { desc := cdesc op, stage := stage, begun := begun, members := [(0xFFFF, 0)] }
def instS (op stage : Nat) (begun : Bool) : State :=
  ({ up with drl := { up.drl with insts := ⟨[(3, inst op stage begun)]⟩ } } : State).pf F.DRL_CTRL_enable 0 1
theorem wit_coll_start : (instS 0 0 false).inst? 0 3 = some (inst 0 0 false) ∧ drlIn (instS 0 0 false) 0 = true ∧ stageFits (instS 0 0 false) 0 (inst 0 0 false) = true ∧
    (inst 0 0 false).stage = 0 ∧ (inst 0 0 false).start ≤ (instS 0 0 false).dieTime 0 ∧ (instS 0 1 false).inst? 0 3 = some (inst 0 1 false) ∧
    stageFits (instS 0 1 false) 0 (inst 0 1 false) = true ∧
    (let x : Inst := { inst 0 0 false with count := 4096 }
     stageFits (instS 0 0 false) 0 x = false ∧ x.start ≤ (instS 0 0 false).dieTime 0) := by decide
set_option maxRecDepth 65536 in
theorem wit_drl_messages : let m : DrlMsg := { collId := 3 }
    drlOn (instS 4 2 true) 0 = true ∧ (instS 4 2 true).blkIn 0 4 = true ∧ msgRuns ((instS 4 2 true).wake (.drl 0)) 0 m = some true ∧
    (((instS 4 2 true).wake (.drl 0)).takeMsg 0 7 m).isSome = true ∧ msgRuns ((instS 4 0 false).wake (.drl 0)) 0 m = none ∧
    ((instS 4 0 false).drl.early.filter (fun r => r.1 = 0 && r.2.2.collId = m.collId && r.2.2.step = m.step && r.2.2.senderPos = m.senderPos)).length < 2 ∧
    msgRuns (((instS 4 0 false).onDrl (fun d => { d with insts := {}, ended := ⟨[(3, 0)]⟩ })).wake (.drl 0)) 0 m = some false ∧
    (instS 4 2 true).inst? 0 3 = some (inst 4 2 true) ∧ (inst 4 2 true).stage = 2 := by decide
theorem wit_message_kinds : (instS 4 2 true).inst? 0 3 = some (inst 4 2 true) ∧ 0 < (inst 4 2 true).count ∧ fits (inst 4 2 true) 6 0 = true ∧
    headerBad (inst 4 2 true) (some { gsig := 1 }) = true ∧ (inst 4 2 true).count ≤ 1 := by decide
def term : VTerm := ⟨0, 0, 3, 0, 0, false, false⟩
theorem wit_verdict : let s := (instS 8 2 true).onDrl (fun d => { d with termNet := [term], resNet := [⟨0, 3, 0, false, false, 0, 0, 0⟩] })
    s.drl.termNet.find? (fun t => t.to' = 0 && t.from' = 0) = some term ∧ s.blkIn 0 4 = true ∧ msgRuns s 0 { collId := term.coll, step := term.step } = some true ∧
    s.drl.resNet.find? (fun r => r.to' = 0) = some ⟨0, 3, 0, false, false, 0, 0, 0⟩ ∧ s.inst? 0 3 = some (inst 8 2 true) ∧ (inst 8 2 true).step = 0 ∧
    (inst 8 2 true).op = 8 := by decide
theorem wit_routes : up.mayWriteDom .host (up.domainOf 7) = true ∧ drlAreasOk up 7 = true ∧ 16383 < 16384 ∧ 24 % 8 = 0 ∧ 24 + 8 ≤ 32 ∧
    up.gb F.DRL_RT_CTRL_commit 7 = false ∧ (up.pf F.DRL_RT_CTRL_commit 7 1).gb F.DRL_RT_CTRL_commit 7 = true ∧ 7 ∉ up.drl.saved ∧ up.blkIn 7 4 = true := by decide

/-! ### Witnesses: PCIe -/

def pcieS : State := (page (.iommu 0) (({ up with pcie := { up.pcie with dtCache := ⟨[(5, 1)]⟩ } } : State).pf F.IOMMU_DT_BASE_enable 0 1))
theorem wit_msi : msiFile (msiBase 0 + 0x9FF000) = some (0, 575, 0) ∧ 0 < (2047 : Word32).toNat ∧ (2047 : Word32).toNat ≤ 2047 ∧ up.pcie.hcr.phase = 0 ∧ up.dieIn 8 = true := by decide
set_option maxRecDepth 65536 in
theorem wit_peer : (match pcieS.devEntry 0 5 with
    | (.ok (some e), s1) => decide (s1.gf F.TRANS_ATTR_part_id (bitsN e 6 1) = 0) &&
      okWith (s1.xlRange (.iommu 0) (bitsN e 6 1) 64 4 accLoad 8) (fun ps s2 =>
        match s2.peerRead 0 ps with
        | (.ok _, s3) => decide (s3.flt.due = []) && !peerGone s3 0 5
        | (.error _, _) => false)
    | _ => false) = true ∧
    (match pcieS.devEntry 0 6 with | (.ok none, s1) => !s1.gb F.IOMMU_FAULT_first_fault 0 | _ => false) = true ∧ pcieS.dieIn 8 = true ∧ pcieS.pcie.wait = [] := by decide
theorem wit_dt_inval : up.mmioRole .host = true ∧ up.gb F.IOMMU_DT_INVAL_go 1 = false ∧ (up.pf F.IOMMU_DT_INVAL_go 1 1).gb F.IOMMU_DT_INVAL_go 1 = true ∧
    ((up.pf F.IOMMU_DT_INVAL_go 1 1).pf F.IOMMU_DT_INVAL_all 1 1).gb F.IOMMU_DT_INVAL_all 1 = true := by decide
theorem wit_pcie_link : pcieThere up 7 0 = true ∧ (up.pf F.PCIE_LINK_up (linkIdx 7 0) 1).gb F.PCIE_LINK_up (linkIdx 7 0) = true ∧
    (up.pf F.PCIE_LINK_up (linkIdx 7 0) 1).gb F.PCIE_LINK_recovery (linkIdx 7 0) = false ∧
    (up.pf F.PCIE_LINK_recovery (linkIdx 7 0) 1).gb F.PCIE_LINK_recovery (linkIdx 7 0) = true ∧ up.gb F.PCIE_LINK_up (linkIdx 7 0) = false ∧
    16 ≤ 16 / pcieLinks up 7 ∧ up.dieIn 9 = true := by decide

/-! ### Witnesses: the Root of Trust -/

/-- The RoT is ready. Partition 1 exists. -/
def rot : State := up.pf F.ROT_STATUS_ready 0 1
def part1 : State := rot.setPart 1 (fun x => { x with mask := 1, ctxMask := 1, live := [0] })
theorem wit_attest : rot.mboxOpen 1 = true ∧ part1.mboxOpen 0 = true ∧ (part1.pf F.MBOX_CTRL_go 0 1).sec.parts.has 1 = true ∧
    (part1.pf F.MBOX_CTRL_go 0 1).gb F.ROT_STATUS_att_exhausted = false := by decide
set_option maxRecDepth 65536 in
theorem wit_create : let q := rot.pf F.MBOX_CTRL_go 0 1
    q.partBusy 15 = false ∧ q.sec.parts.has 15 = false ∧ 0 < [(0x200000, 0x200000)].length ∧ (∀ r ∈ [(0x200000, 0x200000)], rangeOk q 15 r.1 r.2 = true) ∧
    (maskList (1#64).toNat 64).any (fun c => q.gb F.TRANS_ROOT_enable c && q.gf F.TRANS_ATTR_part_id c ≠ 15) = false ∧
    (maskList 128 8).any (fun n => q.domainOf n ≠ 0 || q.dieState n ≠ 0 || (List.range 64).any (fun st => strmOn q n st)) = false ∧ q.epochRoom (maskList 128 8).length = true := by decide
set_option maxRecDepth 65536 in
theorem wit_part : let q := part1.pf F.MBOX_CTRL_go 0 1
    q.partBusy 1 = false ∧ q.sealedPart 1 = true ∧ rangeOk q 1 0x200000 0x200000 = true ∧ (q.part 1).state ≠ 1 ∧ (q.part 1).state ≠ 2 ∧ q.epochRoom (maskList (q.part 1).mask 8).length = true ∧
    (q.part 1).live.length < 3 := by decide
set_option maxRecDepth 65536 in
theorem wit_bind : let q := (page (.core 0) part1).pf F.MBOX_CTRL_go 0 1
    ((page (.core 0) part1).rangeHeld (.core 0) 0 0x2000 64 accLoad 8).1 = false ∧
    ((maskList (1#64).toNat 64).map (fun h => 64 * 0 + h)).any (fun h => q.gf F.CORE_PART_part h ≠ 0 && q.gf F.CORE_PART_part h ≠ 1) = false ∧
    (maskList (q.part 1).ctxMask 64).head? = some 0 ∧
    okWith (q.xlRange (.core 0) 0 0x2000 64 accLoad 8) (fun ps s1 => ps.findSome? (fun r => s1.pieceBad r.1 r.2.1 2) = none) = true := by decide
set_option maxRecDepth 65536 in
theorem wit_rekey_start : let q := (page (.nme 15) rot).pf F.MBOX_CTRL_go 0 1
    ((page (.nme 15) rot).rangeHeld (rkX (rkUnit false 15)) 0 0x1000 64 accLoad (rkNode (rkUnit false 15))).1 = false ∧
    q.partBusy 0 = false ∧ q.gf F.TRANS_ATTR_part_id 0 = 0 ∧
    okWith (q.vread (rkX (rkUnit false 15)) 0 0x1000 64 (rkNode (rkUnit false 15))) (fun b s1 =>
      decide (fieldB b 0 1 % 16 = 0) && decide (fieldB b 2 1 % 4 = (s1.part 0).gen) && decide (s1.rk? (rkUnit false 15) = none) && rkUp s1 (rkUnit false 15)) = true := by decide
/-- A fresh report covers partition 1, slot 7 holds a Husk's key, and devices wait. -/
def secS : State := part1.onSec (fun x => { x with
  reports := [(leBytes 32 9, [1], 0)], husk := ⟨[(15, [1])]⟩, secrets := ⟨[(secretKey 2 (65536 + 5), [])]⟩, admitted := ⟨[(65536 + 5, 1)]⟩ })
theorem wit_key_release : let q := secS.pf F.MBOX_CTRL_go 0 1
    secS.mboxOpen 0 = true ∧ q.partBusy 1 = false ∧ q.sealedPart 1 = true ∧
    ((q.sec.reports.filter (fun r => r.2.1.contains 1)).take 16).find? (fun r => r.1 = leBytes 32 9) = some (leBytes 32 9, [1], 0) ∧
    q.now ≤ 0 + q.odN 0x6010 1 * 10 ^ 9 := by decide
theorem wit_husk : let q := (secS.pf F.TRANS_ATTR_part_id 63 1).pf F.MBOX_CTRL_go 2 1
    let h := rec64 [(0, 2, 1), (16, 4, 64 * 2 ^ 20)]
    isTen 2 1 = true ∧ q.partBusy 1 = false ∧ q.sealedPart 1 = true ∧ q.gf F.TRANS_ATTR_part_id 63 = 1 ∧ q.sec.husk.has (1 * 8 + 7) = true ∧ fieldB h 0 2 = 1 ∧
    0 < fieldB h 16 4 ∧ fieldB h 16 4 % 4096 = 0 ∧ fieldB h 16 4 ≤ 64 * 2 ^ 20 ∧ (secS.chunksHeld (fieldB h 16 4) 63 []).1 = false := by decide
theorem wit_tdisp : let q := secS.pf F.MBOX_CTRL_go 2 1
    q.sec.secrets.has (secretKey 2 (7 / 4 * 65536 + 5)) = true ∧ [0, 1].find? (fun m => q.sec.admitted.at? (m * 65536 + 5 % 65536) = some 1) = some 1 ∧
    ((sealsOf 1).find? (fun j => !q.gb F.IOMMU_SEAL_valid j)).isSome = true := by decide
theorem wit_firmware : let q := rot.pf F.MBOX_CTRL_go 1 1
    fieldB (leBytes 4 3) 0 4 = 3 ∧ clsDies 3 512 ≠ [] ∧ (clsDies 3 512).any (fun n => q.dieState n = 1) = false ∧
    (let q := (rot.onSec (fun x => { x with dies := ⟨[(9, { staged := some (1, 1) })]⟩ })).pf F.MBOX_CTRL_go 1 1
     (q.sec.dies.atD 9 {}).staged.isSome = true ∧ (q.sec.dies.atD 9 {}).started = false ∧ (q.sec.dies.atD 9 {}).reset = false ∧ q.dieIn 9 = true ∧
     q.epochFull = false) := by decide
theorem wit_mailbox : (rot.onSec (fun x => { x with resp := ⟨[(16, ⟨14, 0, 255, [], 0⟩)]⟩ })).sec.resp.has 16 = true ∧
    (rot.onSec (fun x => { x with resp := ⟨[(16, ⟨14, 0, 255, [], 0⟩)]⟩ })).sec.resp.at? 16 = some ⟨14, 0, 255, [], 0⟩ ∧ rot.flt.sag = false ∧
    ((rot.pf F.ROT_STATUS_error 0 1).pf F.MBOX_CTRL_go 16 1).gb F.ROT_STATUS_error = true ∧ (rot.pf F.ROT_STATUS_error 0 1).gb F.ROT_STATUS_ready = true ∧
    rot.pwr.inReset = false ∧ rot.sec.resp.has 16 = false ∧ rot.sec.waits.has 16 = false := by decide
theorem wit_chainring : rot.gb F.ROT_STATUS_error = false ∧ crThere 9 3 = true ∧
    (let s := (rot.pf F.CR_LINK_STATUS_keyed (crIdx 9 3) 1).wr .CR_TX_CTR (crIdx 9 3) (2 ^ 63)
     s.gb F.CR_LINK_STATUS_keyed (crIdx 9 3) = true ∧ crPeer s (crIdx 9 3) 3 = none ∧ 2 ^ 63 ≤ s.rdN .CR_TX_CTR (crIdx 9 3) ∧ s.gb F.ROT_STATUS_error = false) := by decide

/-! ### Witnesses: faults -/

theorem wit_fault : up.flt.due = [] ∧ up.blkState 7 159 = 0 ∧ autoOk up 7 159 = true ∧ blkThere 7 159 = true := by decide
/-- Block (7, 159) in a fault state. -/
def flt (st : Nat) : State := (up.pf F.FLT_STATUS_state (fltIdx 7 159) st)
theorem wit_flt_cmd : fltRefusal (flt 2) 7 159 = none ∧ fltRefusal (flt 1) 7 159 = none ∧ fltRefusal (flt 0) 7 159 = none ∧ (flt 1).blkState 7 159 = 1 ∧
    (flt 0).blkState 7 159 = 0 ∧ (flt 0).flt.due = [] ∧ (flt 2).blkState 7 159 = 2 ∧ (flt 2).epochFull = false := by decide
theorem wit_quiet : let s := ({ flt 1 with flt := { (flt 1).flt with quiet := ⟨[(fltIdx 7 159, 5)]⟩ } } : State)
    s.blkState 7 159 = 1 ∧ s.flt.quiet.has (fltIdx 7 159) = true ∧ s.dieIn 7 = true ∧ s.epochFull = false ∧ s.gf F.FLT_RECOVERY_failed_tests (fltIdx 7 159) < 2 ∧
    (s.pf F.FLT_RECOVERY_failed_tests (fltIdx 7 159) 2).gf F.FLT_RECOVERY_failed_tests (fltIdx 7 159) = 2 ∧
    (s.pf F.FLT_RECOVERY_recent (fltIdx 7 159) 1).gf F.FLT_RECOVERY_recent (fltIdx 7 159) = 1 ∧ s.gf F.FLT_RECOVERY_count (fltIdx 7 159) < 65535 := by decide

theorem wit_flt_refusal : 3 < 8 ∧ fltRefusal (up.pf F.FLT_STATUS_state (fltIdx 7 0) 3) 7 159 = some 3 := by decide
theorem wit_scrub : (ctlOf (.hbm 15)).isSome = true ∧ (ctlOf (.ddr 15)).isSome = true ∧ up.region 0 = .hbm ∧ up.mmioRole .host = true ∧
    up.gb F.HBM_PPR_CMD_go 15 = false ∧ bitN (0x40000000#64).toNat 30 = true ∧ (up.pf F.HBM_PPR_CMD_go 15 1).gb F.HBM_PPR_CMD_go 15 = true ∧
    up.region (tstoreBase 1151 + 0x1FFFF8) = .tstore ∧ windowTile (tstoreBase 1151 + 0x1FFFF8) = 1151 ∧ up.enabled 1151 = true := by decide
theorem wit_row_done : (match ctlOf (.hbm 15) with
    | some k =>
      let s : State := { up with flt := { up.flt with ppr := ⟨[(k.key, 5)]⟩ } }
      decide (s.flt.ppr.at? k.key = some 5) && decide (spareKey k (5 % 64) (bitsN 5 10 6) ∉ s.flt.soft) &&
      decide (spareKey k (5 % 64) (bitsN 5 10 6) ∈ [spareKey k (5 % 64) (bitsN 5 10 6)])
    | none => false) = true := by decide

/-! ### Witnesses: power -/

def pwrS : State := { up with pwr := { up.pwr with aux := true, main := true, steps := [1, 2, 3] } }
def sagS : State := { pwrS with
  flt := { pwrS.flt with sag := true, save := some {} }
  pwr := { pwrS.pwr with resetHeld := true } }
theorem wit_sag : pwrS.flt.sag = false ∧ 1 ∈ pwrS.pwr.steps ∧ pwrS.pwr.inReset = false ∧ saving sagS = true ∧ sagS.flt.sag = true ∧ sagS.pwr.inReset = false ∧
    sagS.pwr.resetHeld = true ∧ saving pwrS = false := by decide
theorem wit_supply : pwrS.pwr.main = true ∧ pwrS.pwr.aux = true ∧ 3 ∈ pwrS.pwr.steps ∧ pwrS.pwr.off = false ∧ pwrS.pwr.inReset = false ∧
    ∃ c : Int, (tempLimits 52).2 ≤ c + effCal pwrS 0x20 (52 + 1) (-1000) 1000 :=
  ⟨by decide, by decide, by decide, by decide, by decide, (tempLimits 52).2 - effCal pwrS 0x20 (52 + 1) (-1000) 1000, by omega⟩
theorem wit_reset : saving pwrS = false ∧ pwrS.pwr.aux = true ∧ saving sagS = true ∧ ({ pwrS.pwr with aux := false } : PwrSt).aux = false ∧
    (let p : PwrSt := { pwrS.pwr with main := false, lost := true }
     p.main = false ∧ p.aux = true ∧ p.lost = true ∧ ({ p with lost := false } : PwrSt).lost = false) := by decide
theorem wit_startup : stepReady { pwrS.pwr with steps := [1, 2, 3, 4] } 5 = true ∧ pwrS.gb F.PWR_START_fail = false ∧ pwrS.gb F.ROT_STATUS_error = false ∧
    stepWaits pwrS 5 = false ∧ [0].headD 0 % 256 ≠ 255 ∧ stepReady { pwrS.pwr with steps := [] } 1 = true := by decide
theorem wit_measure : pwrS.pwr.up = true ∧ ∃ c : Int, c + effCal pwrS 0x20 (31 + 1) (-1000) 1000 < (tempLimits 31).2 ∧
    (tempLimits 31).1 < c + effCal pwrS 0x20 (31 + 1) (-1000) 1000 :=
  ⟨by decide, 10500 - effCal pwrS 0x20 (31 + 1) (-1000) 1000, by rw [Int.sub_add_cancel]; decide, by rw [Int.sub_add_cancel]; decide⟩
theorem wit_sleep : up.enabled 0 = true ∧ up.tileIn 0 = true ∧ up.tileState 0 = 1 ∧ (up.tile 0).lap = none ∧ (up.tile 0).queued = none ∧ unitIn up (.nme 15) = true ∧
    UnitId.nme 15 ∉ up.asleep ∧ (up.nmeU 15).sweep = none ∧ up.rk? 15 = none ∧ up.blkIn 7 4 = true ∧ UnitId.drl 7 ∉ up.asleep ∧ instsOf up 7 = [] := by decide

/-! ### Witnesses: management -/

/-- The management controller is ready, and DTLS session 3 is open. -/
def mg : State := { up.pf F.MGMT_STATUS_ready 0 1 with bmp := { up.bmp with sess := ⟨[(3, { opened := true })]⟩ } }
def hdr : BmpHdr := { door := .dtls 3, seq := 0, odMajor := 2 }
theorem wit_session : mg.mgmtUp = true ∧ (mg.sess 3).opened = true ∧ hdr.odMajor = 2 ∧ mg.flt.due = [] ∧ seenBefore mg hdr = (0, []) ∧ mg.bmp.commit = none := by decide
/-- Entries: 4F00.02 that the operator may read and write, and which is saved; 4000.03 without its right to read; 2001.02 that acts at once. -/
theorem wit_entries : (match mg.odFind hdr 0x4F00 2, mg.odFind hdr 0x4000 3, mg.odFind hdr 0x2001 2 with
    | .ok d, .ok e, .ok f =>
      mg.odGrant .operator 0x4F00 2 d.rd && decide (d.size - 1 < d.size) && mg.odGrant .operator 0x4F00 2 (Nat.lor d.rd d.wr) && mg.odGrant .operator 0x4F00 2 d.wr &&
      decide (d.size = 4) && decide (d.ty ≠ OdT.str) && decide (odLimit d (zerosB 3 ++ [1]) ≠ none) && decide ((mg.sess 3).stage = none) &&
      (match odLimit d (zerosB 3 ++ [1]) with
        | some (v, st) => ((mg.setSess 3 (fun x => { x with stage := none })).odWriteNow .operator 0x4F00 2 d v st).isNone
        | none => false) && !mg.gb F.ROT_STATUS_error && !mg.flt.sag && !mg.odGrant .operator 0x4000 3 e.rd &&
      (match odLimit f (zerosB f.size) with
        | some (v, st) => ((mg.setSess 3 (fun x => { x with stage := none })).odWriteNow .operator 0x2001 2 f v st).isSome
        | none => false)
    | _, _, _ => false) = true := by decide
theorem wit_commit_waits : let s := mg.onBmp (fun b => { b with commit := some (3, hdr, odKey 0x4F00 2, zerosB 4, 0) })
    s.bmp.commit = some (3, hdr, odKey 0x4F00 2, zerosB 4, 0) ∧ s.bmp.commit.isSome = true ∧ hdr.door = .dtls 3 ∧ s.bmp.behind = [] ∧ s.flt.due = [] ∧
    seenBefore s { hdr with seq := 1 } = (0, []) := by decide
theorem wit_rot_mailbox : 3104 + 992 ≤ 4096 ∧ mg.gb F.MBOX_CTRL_go 1 = false ∧
    (let s := (mg.pf F.MBOX_STATUS_done 1 1).pf F.MBOX_STATUS_resp_len 1 16
     s.gb F.MBOX_STATUS_done 1 = true ∧ 15 < s.gf F.MBOX_STATUS_resp_len 1) := by decide
theorem wit_handshake : (List.range 4).find? (fun k => !(mg.sess k).opened) = some 0 ∧
    (mg.onSec (fun x => { x with secrets := ⟨[(secretKey 1 7, [1])]⟩ })).sec.secrets.at? (secretKey 1 7) = some [1] := by decide
set_option maxRecDepth 65536 in
theorem wit_channel : let s := lay (odcBuf 7 + 0x1002) [16, 0] mg
    s.gf F.CORE_PART_part 127 = 0 ∧ s.gb F.ODC_CTRL_go 7 = false ∧ beVal (sliceB (s.mem.getBytes (odcBuf 7 + 0x1000) 4096) 2 2) = 4096 ∧
    (s.pf F.FLT_STATUS_state (fltIdx 10 5) 1).blkState 10 5 ≠ 0 ∧ s.flt.due = [] ∧ autoOk s 10 5 = true := by decide
theorem wit_reg_write : up.region 0x0F0000000000 = .mmio ∧ up.region 0x3FFFFFFFFFF8 = .hole ∧ up.region 0 ≠ .mmio ∧ up.region 0 ≠ .hole ∧
    rot.mboxOpen 1 = true := by decide
set_option maxRecDepth 65536 in
theorem wit_config_write : regOfPart (part1.pf F.MBOX_CTRL_go 0 1) 1 0xF0000020000 4 0 = true ∧
    regOfPart (part1.pf F.MBOX_CTRL_go 0 1) 1 0xF0001020000 4 0 = false := by decide
/-- The I3C target is on, with an address and a response, or without. -/
def i3c (a : Option Nat) (r : Option Bytes) : State := mg.onI3c (fun i => { i with on := true, addr := a, resp := r })
theorem wit_i3c : (i3c none none).i3cOn = true ∧ (i3c none none).bmp.i3c.addr = none ∧ (i3c (some 9) (some [1])).i3cOn = true ∧
    (i3c (some 9) (some [1])).bmp.i3c.addr.isSome = true ∧ i3cBusy (i3c (some 9) none) = false ∧ (i3c (some 9) (some [1])).bmp.i3c.resp = some [1] ∧
    ((i3c (some 9) none).sess 4).queue = [] ∧ (i3c (some 9) none).bmp.i3c.resp = none ∧ crc32 [] = (0#32).toNat ∧ crc32 [] ≠ (1#32).toNat := by decide

/-! ### The contact map: the worked example of R507, and the boundaries of a field -/

theorem test_contact_eth : contactAt 21 96 = .eth 13 0 false true ∧ contactAt 22 96 = .eth 13 0 false false ∧
    contactAt 21 95 = .gnd ∧ contactAt 22 95 = .gnd := by decide
set_option maxRecDepth 65536 in
theorem test_contact_ddr : contactAt 52 20 = .ddr 4 0 "DQ0" ∧ contactAt 52 19 = .gnd := by decide
theorem test_contact_corner : contactAt 10 10 = .absent ∧ contactAt 11 10 = .gnd ∧ contactAt 121 50 = .absent := by decide

end Sys2Proof.Tests
end

/-! PROOF. The write of TB_INCR: what the clamp answers, and the register and frame after the command (R34). -/

namespace Sys2Proof.Machine

/-- The clamp of R34 in units of 2⁻³² ns. No multiple of the unit is 39.98 ns or 40.02 ns, so the limits are the multiples next to them
within the range. -/
def tbIncrClamp (v : Nat) : Nat := max 171712792495 (min 171884591185 v)

theorem exec_tbIncrWrite (v : Word64) (s : State) :
    exec (.tbIncrWrite v) s = .next (s.pf F.TB_INCR_incr 0 (tbIncrClamp v.toNat)) := rfl

theorem tbIncrClamp_ge (v : Nat) : 3998 * 2 ^ 32 ≤ 100 * tbIncrClamp v := by
  have : 171712792495 ≤ tbIncrClamp v := Nat.le_max_left _ _
  omega

theorem tbIncrClamp_le (v : Nat) : 100 * tbIncrClamp v ≤ 4002 * 2 ^ 32 := by
  have : tbIncrClamp v ≤ 171884591185 := Nat.max_le.mpr ⟨by omega, Nat.min_le_left _ _⟩
  omega

theorem tbIncrClamp_of_within {v : Nat} (hlo : 3998 * 2 ^ 32 ≤ 100 * v) (hhi : 100 * v ≤ 4002 * 2 ^ 32) :
    tbIncrClamp v = v := by
  rw [tbIncrClamp, Nat.min_eq_right (by omega), Nat.max_eq_right (by omega)]

theorem tbIncrClamp_of_below {v : Nat} (h : 100 * v < 3998 * 2 ^ 32) : tbIncrClamp v = 171712792495 := by
  rw [tbIncrClamp, Nat.min_eq_right (by omega), Nat.max_eq_left (by omega)]

theorem tbIncrClamp_of_above {v : Nat} (h : 4002 * 2 ^ 32 < 100 * v) : tbIncrClamp v = 171884591185 := by
  rw [tbIncrClamp, Nat.min_eq_left (by omega), Nat.max_eq_right (by omega)]

/-- The clamped value fits the register, which therefore reads it back whole. -/
theorem State.gf_pf_tbIncrClamp (s : State) (v : Nat) :
    (s.pf F.TB_INCR_incr 0 (tbIncrClamp v)).gf F.TB_INCR_incr = tbIncrClamp v := by
  have hfit : tbIncrClamp v < 2 ^ 64 := by have := tbIncrClamp_le v; omega
  rw [State.gf_pf_same s F.TB_INCR_incr 0 _ (by decide) (by decide)]
  exact Nat.mod_eq_of_lt hfit

/-- Settles O23: the command puts the clamped value into TB_INCR, and each clause is a case of the clamp. -/
theorem tbIncrIsClamped : Obligations.TbIncrIsClamped := by
  intro s v
  refine ⟨_, exec_tbIncrWrite v s, ?_⟩
  rw [State.gf_pf_tbIncrClamp]
  refine ⟨tbIncrClamp_ge _, tbIncrClamp_le _, tbIncrClamp_of_within, fun below => ?_, fun above => ?_,
    State.pf_mem .., State.pf_tiles .., State.pf_time ..⟩
  · rw [tbIncrClamp_of_below below]; decide
  · rw [tbIncrClamp_of_above above]; decide

end Sys2Proof.Machine

/-! PROOF. The reconvergence stack: a divergent branch splits the top entry, pushes one, or finds the stack full (R157). -/

namespace Sys2Proof.Machine

/-! ### What a branch does to the stack -/

/-- Reconvergence only drops paths and entries. -/
theorem Group.settle_stack_length_le (fuel : Nat) (x : Group) : (Group.settle fuel x).stack.length ≤ x.stack.length := by
  induction fuel generalizing x with
  | zero => exact Nat.le_refl _
  | succ fuel ih =>
    unfold Group.settle
    split
    · split <;> exact Nat.le_refl _
    · next e rest hstack =>
      split
      · exact Nat.le_refl _
      · split
        · exact (ih _).trans (by simp [hstack])
        · split <;> exact (ih _).trans (by simp [hstack])

theorem Group.next_stack_length_le (x : Group) : x.next.stack.length ≤ x.stack.length :=
  Group.settle_stack_length_le _ _

/-- The top entry takes the paths of a branch that reconverges at rpc (R157). -/
def Group.topShares (x : Group) (rpc : Option Nat) : Prop :=
  ∃ e rest, x.stack = e :: rest ∧ e.rpc = rpc ∧ rpc.isSome = true

theorem Group.topShares_cons {x : Group} {rpc : Option Nat} {e : StackEnt} {rest : List StackEnt} (hstack : x.stack = e :: rest) :
    x.topShares rpc ↔ e.rpc = rpc ∧ rpc.isSome = true := by
  simp [Group.topShares, hstack]

theorem Group.not_topShares_of_head {x : Group} {rpc : Option Nat} (h : ∀ e ∈ x.stack.head?, e.rpc ≠ rpc ∨ rpc = none) :
    ¬ x.topShares rpc := by
  rintro ⟨e, rest, hstack, hrpc, hsome⟩
  rcases h e (by simp [hstack]) with hne | hnone
  · exact hne hrpc
  · simp [hnone] at hsome

section Divergent

variable {x : Group} {taken : Nat} {rpc : Option Nat} (htaken : taken ≠ 0) (hrest : maskSub x.active taken ≠ 0)
include htaken hrest

theorem Group.branch_of_shared {e : StackEnt} {rest : List StackEnt} (hstack : x.stack = e :: rest) (hrpc : e.rpc = rpc)
    (hsome : rpc.isSome = true) (target : Nat) :
    x.branch taken rpc target = some ({ x with
      active := maskSub x.active taken
      stack := { e with paths := e.paths ++ [⟨target % 2 ^ 64, taken⟩] } :: rest } : Group).next := by
  simp [Group.branch, htaken, hrest, hstack, hrpc, hsome]

theorem Group.branch_of_push (hnew : ¬ x.topShares rpc) (hroom : x.stack.length < 16) (target : Nat) :
    x.branch taken rpc target = some ({ x with
      active := maskSub x.active taken
      stack := ⟨rpc, x.active, [⟨target % 2 ^ 64, taken⟩]⟩ :: x.stack } : Group).next := by
  cases hstack : x.stack with
  | nil => simp [Group.branch, htaken, hrest, hstack]
  | cons e rest =>
    rw [Group.topShares_cons hstack] at hnew
    have hlen : rest.length < 15 := by simp only [hstack, List.length_cons] at hroom; omega
    simp [Group.branch, htaken, hrest, hstack, hnew, hlen]

theorem Group.branch_of_overflow (hnew : ¬ x.topShares rpc) (hfull : 16 ≤ x.stack.length) (target : Nat) :
    x.branch taken rpc target = none := by
  cases hstack : x.stack with
  | nil => simp [hstack] at hfull
  | cons e rest =>
    rw [Group.topShares_cons hstack] at hnew
    have hlen : 16 ≤ rest.length + 1 := by simpa [hstack] using hfull
    simp [Group.branch, htaken, hrest, hstack, hnew, hlen]

theorem Group.branch_stack_length_le {target : Nat} {y : Group} (hlen : x.stack.length ≤ 16)
    (hy : x.branch taken rpc target = some y) : y.stack.length ≤ 16 := by
  by_cases hshared : x.topShares rpc
  · obtain ⟨e, rest, hstack, hrpc, hsome⟩ := hshared
    rw [Group.branch_of_shared htaken hrest hstack hrpc hsome] at hy
    obtain rfl := Option.some.inj hy
    exact (Group.next_stack_length_le _).trans (by simpa [hstack] using hlen)
  · by_cases hroom : x.stack.length < 16
    · rw [Group.branch_of_push htaken hrest hshared hroom] at hy
      obtain rfl := Option.some.inj hy
      exact (Group.next_stack_length_le _).trans hroom
    · rw [Group.branch_of_overflow htaken hrest hshared (by omega)] at hy
      cases hy

end Divergent

/-! ### The first status of a lap -/

/-- A write to a field leaves the fields of every other register. -/
theorem State.gf_pf_otherReg (f f' : Fld) (h : f'.reg.ctorIdx ≠ f.reg.ctorIdx) (s : State) (i v : Nat) :
    (s.pf f i v).gf f' i = s.gf f' i :=
  State.gf_pf_reg s (by unfold Reg.key; omega) v

/-- A write to another field of TILE_ERR_INFO leaves the status. -/
theorem State.gf_status_pf_errInfo (f : Fld) (hreg : f.reg = .TILE_ERR_INFO) (hfld : 7 < f.lo ∧ f.lo ≤ f.hi ∧ f.hi < 64)
    (s : State) (t v : Nat) : (s.pf f t v).gf F.TILE_ERR_INFO_status t = s.gf F.TILE_ERR_INFO_status t :=
  State.gf_pf_field s v hreg.symm hfld.2.2 hfld.2.1 (Nat.zero_le 7) (.inl hfld.1)

theorem State.lapStop_mem (s : State) (t status g th unit pc addr : Nat) : (s.lapStop t status g th unit pc addr).mem = s.mem := by
  unfold State.lapStop; split <;> rfl

section FirstStatus

variable {s : State} {t : Nat} (hgoing : (s.tile t).stopped = false) (hlap : (s.tile t).lap.isSome = true)
include hgoing hlap

/-- The first status is recorded: the tile stops and the record's fields are written one after the other (R184, R186). -/
theorem State.lapStop_first (status g th unit pc addr : Nat) : ∃ f : Tile → Tile, (∀ tl, (f tl).stopped = true) ∧
    s.lapStop t status g th unit pc addr =
      ((((((s.setTile t f).pf F.TILE_ERR_PC_pc t pc).pf F.TILE_ERR_INFO_status t status).pf F.TILE_ERR_INFO_group t g).pf
        F.TILE_ERR_INFO_thread t th).pf F.TILE_ERR_INFO_unit t unit).pf F.TILE_ERR_ADDR_addr t addr := by
  have hfirst : ¬ ((s.tile t).stopped || (s.tile t).lap.isNone) = true := by simp [hgoing, ← Option.not_isSome, hlap]
  exact ⟨_, fun _ => rfl, if_neg hfirst⟩

theorem State.lapStop_stopped (status g th unit pc addr : Nat) : ((s.lapStop t status g th unit pc addr).tile t).stopped = true := by
  obtain ⟨f, hstopped, heq⟩ := State.lapStop_first hgoing hlap status g th unit pc addr
  simp [heq, hstopped]

theorem State.lapStop_gf_status (status g th unit pc addr : Nat) :
    (s.lapStop t status g th unit pc addr).gf F.TILE_ERR_INFO_status t = status % 2 ^ 8 := by
  obtain ⟨f, -, heq⟩ := State.lapStop_first hgoing hlap status g th unit pc addr
  rw [heq, State.gf_pf_otherReg F.TILE_ERR_ADDR_addr F.TILE_ERR_INFO_status (by decide),
    State.gf_status_pf_errInfo F.TILE_ERR_INFO_unit rfl (by decide), State.gf_status_pf_errInfo F.TILE_ERR_INFO_thread rfl (by decide),
    State.gf_status_pf_errInfo F.TILE_ERR_INFO_group rfl (by decide)]
  exact State.gf_pf_same _ F.TILE_ERR_INFO_status t status (by decide) (by decide)

theorem State.lapStop_gf_pc (status g th unit pc addr : Nat) :
    (s.lapStop t status g th unit pc addr).gf F.TILE_ERR_PC_pc t = pc % 2 ^ 64 := by
  obtain ⟨f, -, heq⟩ := State.lapStop_first hgoing hlap status g th unit pc addr
  have hinfo := fun fld (hreg : fld.reg = Reg.TILE_ERR_INFO) => State.gf_pf_otherReg fld F.TILE_ERR_PC_pc (by rw [hreg]; decide)
  rw [heq, State.gf_pf_otherReg F.TILE_ERR_ADDR_addr F.TILE_ERR_PC_pc (by decide), hinfo F.TILE_ERR_INFO_unit rfl,
    hinfo F.TILE_ERR_INFO_thread rfl, hinfo F.TILE_ERR_INFO_group rfl, hinfo F.TILE_ERR_INFO_status rfl]
  exact State.gf_pf_same _ F.TILE_ERR_PC_pc t pc (by decide) (by decide)

end FirstStatus

/-- A tile a group of which issues has had no status. -/
theorem State.not_stopped_of_runs {s : State} {t g : Nat} (h : s.runs t g = true) : (s.tile t).stopped = false := by
  have hissue : s.canIssue t g = true := by simp_all [State.runs]
  unfold State.canIssue at hissue
  split at hissue <;> simp_all

/-! ### The branch instruction -/

/-- Where a branch's threads reconverge (R156): an offset of 0 names no address. -/
def braRpc (x : Group) (b : FmtB) : Option Nat := if b.rpcOff = 0 then none else some (uN 64 ((x.pc : Int) + 8 * b.rpcOff))

theorem exec_bra_of_branch_none {s : State} {t g : Nat} {b : FmtB} (hruns : s.runs t g = true)
    (hbranch : (s.group t g).branch ((s.group t g).execMask b.pred b.pneg) (braRpc (s.group t g) b)
      (uN 64 (((s.group t g).pc : Int) + 8 * b.tgtOff)) = none) :
    exec (.bra t g b) s = .next (s.lapStop t St.divergeDepth g ((leaderOf (s.group t g).active).getD 0) uThread
      (s.group t g).pc (s.group t g).pc) := by
  unfold braRpc at hbranch
  show execBra t g b s = _
  simp only [execBra, State.issue_runs s hruns, hbranch]

/-- Settles O14: a divergent branch splits the top entry, pushes an entry where there is room, or answers none, which stops the lap. -/
theorem reconvergenceStackHolds16 : Obligations.ReconvergenceStackHolds16 := by
  refine ⟨fun x taken target rpc htaken hrest => ⟨fun e rest hstack hrpc hsome => ?_, fun y hlen hy => ?_⟩, ?_⟩
  · exact ⟨_, List.perm_append_singleton _ _, Group.branch_of_shared htaken hrest hstack hrpc hsome target⟩
  · exact Group.branch_stack_length_le htaken hrest hlen hy
  · intro s t g b hruns hlap x taken rpc htaken hrest hfull hnew
    have hgoing := State.not_stopped_of_runs hruns
    have hover : ∀ target, x.branch taken rpc target = none :=
      Group.branch_of_overflow htaken hrest (Group.not_topShares_of_head hnew) hfull.ge
    exact ⟨_, exec_bra_of_branch_none hruns (hover _), State.lapStop_stopped hgoing hlap .., State.lapStop_gf_status hgoing hlap ..,
      State.lapStop_gf_pc hgoing hlap .., State.lapStop_mem ..⟩

end Sys2Proof.Machine

/-! PROOF. WAITQ: what the instruction does by the count of its group on a unit, and when a waiting group goes on (R182). -/

namespace Sys2Proof.Machine

/-! ### The count of a group on a unit -/

/-- Operations of other groups on every unit leave the group nothing to wait for. -/
theorem Tile.outstanding_eq_zero {tl : Tile} {g : Nat} (harr : ∀ o ∈ tl.arrQ, o.group ≠ g) (hpan : ∀ o ∈ tl.panQ, o.group ≠ g)
    (hdma : ∀ ch, ∀ o ∈ tl.dmaQ.atD ch [], o.group ≠ g) (u : Nat) : tl.outstanding g u = 0 := by
  unfold Tile.outstanding
  split
  · simpa using harr
  · split
    · simpa using hpan
    · simpa using hdma (u - 1)

theorem Tile.outstanding_append_arr {a : List ArrOp} {g : Nat} (h : ∀ o ∈ a, o.group ≠ g) (tl : Tile) :
    ({ tl with arrQ := tl.arrQ ++ a } : Tile).outstanding g 0 = tl.outstanding g 0 := by
  have hnone : a.filter (·.group == g) = [] := by simpa using h
  simp [Tile.outstanding, hnone]

theorem Tile.outstanding_append_pan {p : List PanOp} {g : Nat} (h : ∀ o ∈ p, o.group ≠ g) (tl : Tile) :
    ({ tl with panQ := tl.panQ ++ p } : Tile).outstanding g 5 = tl.outstanding g 5 := by
  have hnone : p.filter (·.group == g) = [] := by simpa using h
  simp [Tile.outstanding, hnone]

/-! ### A group that waits on a queue -/

section Waiting

variable {tl : Tile} {g u lim : Nat} {x : Group} (hx : tl.groups.at? g = some x) (hwait : x.wait = .queue u lim)
include hx hwait

theorem Tile.settleQueues_of_lt (h : lim < tl.outstanding g u) : tl.settleQueues.groups.at? g = some x := by
  simp [Tile.settleQueues, Tab.at_mapVals, hx, hwait, Nat.not_le.mpr h]

theorem Tile.settleQueues_of_le (h : tl.outstanding g u ≤ lim) :
    tl.settleQueues.groups.at? g = some ({ x with wait := .ready } : Group).next := by
  simp [Tile.settleQueues, Tab.at_mapVals, hx, hwait, h]

end Waiting

/-! ### The instruction -/

/-- The group goes on if it has at most lim incomplete instructions on the unit, and waits for that otherwise. -/
def State.waitOn (s : State) (t g u lim : Nat) : State :=
  if (s.tile t).outstanding g u ≤ lim then s.advance t g else s.setGroup t g (fun x => { x with wait := .queue u lim })

theorem State.waitOn_of_le {s : State} {t g u lim : Nat} (h : (s.tile t).outstanding g u ≤ lim) :
    s.waitOn t g u lim = s.setGroup t g Group.next := if_pos h

theorem State.waitOn_of_lt {s : State} {t g u lim : Nat} (h : lim < (s.tile t).outstanding g u) :
    s.waitOn t g u lim = s.setGroup t g (fun x => { x with wait := .queue u lim }) := if_neg (Nat.not_le.mpr h)

theorem State.waitOn_mem (s : State) (t g u lim : Nat) : (s.waitOn t g u lim).mem = s.mem := by
  unfold State.waitOn; split <;> rfl

theorem State.waitOn_gb (s : State) (t g u lim : Nat) (f : Fld) (i : Nat) : (s.waitOn t g u lim).gb f i = s.gb f i := by
  unfold State.waitOn; split <;> rfl

section Executes

variable {s : State} {t g : Nat} {w : FmtI} (hruns : s.runs t g = true) (hmask : (s.group t g).execMask w.pred w.pneg ≠ 0)
include hruns hmask

theorem exec_waitq_of_unit (hunit : w.imm % 8 ≤ 5) :
    exec (.waitq t g w) s = .next (s.waitOn t g (w.imm % 8) (bitsN w.imm 15 8)) := by
  have hvalid : ¬ w.imm % 8 > 5 := Nat.not_lt.mpr hunit
  show execWaitq t g w s = _
  simp [execWaitq, State.issue_runs s hruns, hmask, hvalid, State.tileRes, State.when, State.waitOn]

/-- Unit values 6 and 7 are noted and stand for unit 0 (R153, R182). -/
theorem exec_waitq_of_reserved (hunit : 6 ≤ w.imm % 8) :
    exec (.waitq t g w) s = .next ((s.tileRes t true).waitOn t g 0 (bitsN w.imm 15 8)) := by
  have hres : w.imm % 8 > 5 := hunit
  show execWaitq t g w s = _
  simp [execWaitq, State.issue_runs s hruns, hmask, hres, State.waitOn]

end Executes

theorem State.tileRes_notes_reserved (s : State) (t : Nat) : (s.tileRes t true).gb F.TILE_STATUS_reserved_encoding t = true :=
  State.gb_pf_one s _ t (by decide) (by decide)

/-- Settles O20: the instruction is a case split on the unit and the group's count, and the count filters the queues by group. -/
theorem waitqCountsItsOwnGroup : Obligations.WaitqCountsItsOwnGroup := by
  refine ⟨fun s t g w hruns hmask => ⟨fun hunit hle => ?_, fun hunit hlt => ?_, fun hres => ?_⟩,
    fun tl g u lim x hx hwait => ⟨Tile.settleQueues_of_lt hx hwait, Tile.settleQueues_of_le hx hwait⟩,
    fun tl g a p d harr hpan hdma => ⟨fun u _ => Tile.outstanding_eq_zero harr hpan hdma u,
      Tile.outstanding_append_arr harr tl, Tile.outstanding_append_pan hpan tl⟩⟩
  · rw [exec_waitq_of_unit hruns hmask hunit, State.waitOn_of_le hle]
  · rw [exec_waitq_of_unit hruns hmask hunit, State.waitOn_of_lt hlt]
  · refine ⟨_, exec_waitq_of_reserved hruns hmask hres, ?_, ?_⟩
    · rw [State.waitOn_gb, State.tileRes_notes_reserved]
    · rw [State.waitOn_mem, State.tileRes_mem]

end Sys2Proof.Machine

/-! PROOF. Words of tile and update-program instructions: packed fields read back, so each word decodes to its instruction (R150, R264). -/

namespace Sys2Proof

open Machine

/-! ### Packed fields -/

/-- Fields above the first of a packed word are the fields of the rest. -/
theorem bitsN_packW_rest {m hi lo : Nat} (hm : m ≤ lo) (h : lo ≤ hi) (v : Nat) (r : List (Nat × Nat)) :
    bitsN (packW ((m, v) :: r)) hi lo = bitsN (packW r) (hi - m) (lo - m) := by
  obtain ⟨d, rfl⟩ := Nat.exists_eq_add_of_le hm
  have hlt : v % 2 ^ m < 2 ^ m := Nat.mod_lt _ (Nat.two_pow_pos m)
  simp only [bitsN, packW, Nat.pow_add, ← Nat.div_div_eq_div_mul, Nat.add_mul_div_left _ _ (Nat.two_pow_pos m),
    Nat.div_eq_of_lt hlt, Nat.zero_add, Nat.add_sub_cancel_left]
  congr 2
  omega

theorem bitsN_packW_first {n hi : Nat} (hn : n = hi + 1) (v : Nat) (r : List (Nat × Nat)) :
    bitsN (packW ((n, v) :: r)) hi 0 = v % 2 ^ n := by
  subst hn
  simp [bitsN, packW]

theorem bitN_eq_bitsN (v i : Nat) : bitN v i = (bitsN v i i == 1) := by
  simp [bitN, bitsN]

theorem bN_mod_eq_one (b : Bool) : (bN b % 2 ^ 1 == 1) = b := by cases b <;> rfl

/-- Total width of a packed word's fields. -/
def widthW (l : List (Nat × Nat)) : Nat := (l.map Prod.fst).sum

theorem packW_lt (l : List (Nat × Nat)) : packW l < 2 ^ widthW l := by
  induction l with
  | nil => exact Nat.one_pos
  | cons f r ih =>
    obtain ⟨n, v⟩ := f
    have hlt : v % 2 ^ n < 2 ^ n := Nat.mod_lt _ (Nat.two_pow_pos n)
    have hw : 2 ^ widthW ((n, v) :: r) = 2 ^ n * 2 ^ widthW r := by simp [widthW, Nat.pow_add]
    rw [packW, hw]
    calc v % 2 ^ n + 2 ^ n * packW r < 2 ^ n + 2 ^ n * packW r := by omega
      _ = 2 ^ n * (packW r + 1) := by rw [Nat.mul_add, Nat.mul_one, Nat.add_comm]
      _ ≤ 2 ^ n * 2 ^ widthW r := Nat.mul_le_mul_left _ ih

theorem packW_mod_first (n v : Nat) (r : List (Nat × Nat)) : packW ((n, v) :: r) % 2 ^ n = v % 2 ^ n := by
  simp [packW]

theorem sgnN_uN_20 {v : Int} (h : -524288 ≤ v) (h' : v < 524288) : sgnN 20 (uN 20 v % 2 ^ 20) = v := by
  simp only [sgnN, uN]
  omega

theorem sgnN_uN_32 {v : Int} (h : -2147483648 ≤ v) (h' : v < 2147483648) : sgnN 32 (uN 32 v % 2 ^ 32) = v := by
  simp only [sgnN, uN]
  omega

/-! ### The formats -/

/-- A word of 64 bits with an opcode whose fields are w. -/
def IsWordOf {α : Type} (dec : Nat → α) (op : Nat) (w : α) (word : Nat) : Prop :=
  word < 2 ^ 64 ∧ word % 256 = op ∧ dec word = w

section Formats

variable {op : Nat} (hop : op < 256)
include hop

theorem packW_op (r : List (Nat × Nat)) : packW ((8, op) :: r) % 256 = op :=
  (packW_mod_first 8 ..).trans (Nat.mod_eq_of_lt hop)

omit hop in
theorem packW_lt_64 {l : List (Nat × Nat)} (h : widthW l ≤ 64) : packW l < 2 ^ 64 :=
  (packW_lt l).trans_le (Nat.pow_le_pow_right Nat.two_pos h)

theorem encFmtV_isWordOf {w : FmtV} (h : w.wf = true) : IsWordOf decFmtV op w (encFmtV op w) := by
  refine ⟨packW_lt_64 (by simp [widthW]), packW_op hop _, ?_⟩
  cases w
  simp only [FmtV.wf, Bool.and_eq_true, decide_eq_true_eq] at h
  simp only [decFmtV, encFmtV, bitN_eq_bitsN]
  simp (discharger := decide) only [bitsN_packW_rest, bitsN_packW_first, Nat.reduceSub, bN_mod_eq_one]
  simp only [FmtV.mk.injEq, and_true, true_and]
  omega

theorem encFmtI_isWordOf {w : FmtI} (h : w.wf = true) : IsWordOf decFmtI op w (encFmtI op w) := by
  refine ⟨packW_lt_64 (by simp [widthW]), packW_op hop _, ?_⟩
  cases w
  simp only [FmtI.wf, Bool.and_eq_true, decide_eq_true_eq] at h
  simp only [decFmtI, encFmtI, bitN_eq_bitsN]
  simp (discharger := decide) only [bitsN_packW_rest, bitsN_packW_first, Nat.reduceSub, bN_mod_eq_one]
  simp only [FmtI.mk.injEq, true_and]
  omega

theorem encFmtB_isWordOf {w : FmtB} (h : w.wf = true) : IsWordOf decFmtB op w (encFmtB op w) := by
  refine ⟨packW_lt_64 (by simp [widthW]), packW_op hop _, ?_⟩
  cases w
  simp only [FmtB.wf, Bool.and_eq_true, decide_eq_true_eq] at h
  obtain ⟨⟨⟨⟨hpred, hrlo⟩, hrhi⟩, htlo⟩, hthi⟩ := h
  simp only [decFmtB, encFmtB, bitN_eq_bitsN]
  simp (discharger := decide) only [bitsN_packW_rest, bitsN_packW_first, Nat.reduceSub, bN_mod_eq_one]
  rw [sgnN_uN_20 hrlo hrhi, sgnN_uN_32 htlo hthi]
  simp only [FmtB.mk.injEq, and_true]
  omega

theorem encFmtM_isWordOf {w : FmtM} (h : w.wf = true) : IsWordOf decFmtM op w (encFmtM op w) := by
  refine ⟨packW_lt_64 (by simp [widthW]), packW_op hop _, ?_⟩
  cases w
  simp only [FmtM.wf, Bool.and_eq_true, decide_eq_true_eq] at h
  obtain ⟨⟨h, holo⟩, hohi⟩ := h
  simp only [decFmtM, encFmtM, bitN_eq_bitsN]
  simp (discharger := decide) only [bitsN_packW_rest, bitsN_packW_first, Nat.reduceSub, bN_mod_eq_one]
  rw [sgnN_uN_20 holo hohi]
  simp only [FmtM.mk.injEq, and_true, true_and]
  omega

theorem encFmtT_isWordOf {w : FmtT} (h : w.wf = true) : IsWordOf decFmtT op w (encFmtT op w) := by
  refine ⟨packW_lt_64 (by simp [widthW]), packW_op hop _, ?_⟩
  cases w
  simp only [FmtT.wf, Bool.and_eq_true, decide_eq_true_eq] at h
  simp only [decFmtT, encFmtT, bitN_eq_bitsN]
  simp (discharger := decide) only [bitsN_packW_rest, bitsN_packW_first, Nat.reduceSub, bN_mod_eq_one]
  simp only [FmtT.mk.injEq, and_true, true_and]
  omega

end Formats

theorem encNme_isWordOf {op : Nat} (hop : op < 64) {a : NmeArgs} (h : a.wf = true) :
    encNme op a < 2 ^ 25 ∧ encNme op a % 64 = op ∧ (nmeArgs (encNme op a)).2 = a := by
  refine ⟨(packW_lt _).trans_le (Nat.pow_le_pow_right Nat.two_pos (by simp [widthW])),
    (packW_mod_first 6 ..).trans (Nat.mod_eq_of_lt hop), ?_⟩
  cases a
  simp only [NmeArgs.wf, Bool.and_eq_true, decide_eq_true_eq] at h
  simp only [nmeArgs, encNme]
  simp (discharger := decide) only [bitsN_packW_rest, bitsN_packW_first, Nat.reduceSub]
  simp only [NmeArgs.mk.injEq]
  omega

/-! ### Opcodes -/

theorem reservedOp_lt {op : Nat} (h : reservedOp op = true) : op < 256 := by
  simp only [reservedOp, Bool.and_eq_true, decide_eq_true_eq] at h
  exact h.1

/-- An opcode that the table does not list decodes to the reserved instruction (R153). -/
theorem decodeTile_of_reserved (t g : Nat) {w : Nat} (h : reservedOp (w % 256) = true) :
    decodeTile t g w = .reservedOpcode t g (w % 256) (decFmtI w) := by
  unfold decodeTile
  split
  case h_63 => rfl
  all_goals
    next hop =>
      rw [hop] at h
      exact absurd h (by decide)

theorem decodeTile_of_isWordOf {α : Type} {dec : Nat → α} {mk : α → Instr} {op t g word : Nat} {w : α}
    (hword : IsWordOf dec op w word) (harm : ∀ v, v % 256 = op → decodeTile t g v = mk (dec v)) :
    word < 2 ^ 64 ∧ decodeTile t g word = mk w := by
  obtain ⟨hlt, hop, rfl⟩ := hword
  exact ⟨hlt, harm _ hop⟩

theorem decodeTile_encodeTile (i : Instr) (t g w : Nat) (hwf : i.wf = true) (henc : encodeTile i = some (t, g, w)) :
    w < 2 ^ 64 ∧ decodeTile t g w = i := by
  cases i
  all_goals cases henc
  all_goals simp only [Instr.wf, Bool.and_eq_true] at hwf
  case reservedOpcode op w =>
    obtain ⟨⟨-, hres⟩, hw⟩ := hwf
    obtain ⟨hlt, hop, hdec⟩ := encFmtI_isWordOf (reservedOp_lt hres) hw
    refine ⟨hlt, ?_⟩
    rw [decodeTile_of_reserved t g (hop.symm ▸ hres), hop, hdec]
  case vote | fadd | fsub | fmul | ffma | fmin | fmax | fcmp | fdiv | fsqrt | frcp | frsq | fexp2 | flog2 | ftanh
    | iadd | isub | imul | imad | and | or | xor | shl | shr | sar | imin | imax | icmp | sel | shfl | cvt | cvts
    | xlut | xszp | sbind | sget | amax | bscale | rand | srctx =>
    exact decodeTile_of_isWordOf (encFmtV_isWordOf (by decide) hwf.2) (fun v hop => by rw [decodeTile, hop]; rfl)
  case nop | exit | s2r | flgclr | movi | bar | waitq | wwait =>
    exact decodeTile_of_isWordOf (encFmtI_isWordOf (by decide) hwf.2) (fun v hop => by rw [decodeTile, hop]; rfl)
  case bra =>
    exact decodeTile_of_isWordOf (encFmtB_isWordOf (by decide) hwf.2) (fun v hop => by rw [decodeTile, hop]; rfl)
  case ld | st | atom | watch | fence =>
    exact decodeTile_of_isWordOf (encFmtM_isWordOf (by decide) hwf.2) (fun v hop => by rw [decodeTile, hop]; rfl)
  case dma | mload | mswap | mstream | mdrain | mzero | ppush | ppop =>
    exact decodeTile_of_isWordOf (encFmtT_isWordOf (by decide) hwf.2) (fun v hop => by rw [decodeTile, hop]; rfl)

theorem decodeNme_of_word {word op : Nat} {a : NmeArgs} {mk : NmeArgs → Instr} {n : Nat}
    (hword : word < 2 ^ 25 ∧ word % 64 = op ∧ (nmeArgs word).2 = a) (harm : ∀ v, v % 64 = op → decodeNme n v = mk (nmeArgs v).2) :
    word < 2 ^ 25 ∧ decodeNme n word = mk a := by
  obtain ⟨hlt, hop, rfl⟩ := hword
  exact ⟨hlt, harm _ hop⟩

theorem decodeNme_of_unlisted {n w : Nat} (h : w % 64 = 0 ∨ 0x14 ≤ w % 64) : decodeNme n w = .nmeNop n (w % 64) := by
  unfold decodeNme
  split
  case h_20 => rfl
  all_goals omega

theorem decodeNme_encodeNme (i : Instr) (n w : Nat) (hwf : i.wf = true) (henc : encodeNme i = some (n, w)) :
    w < 2 ^ 25 ∧ decodeNme n w = i := by
  cases i
  all_goals cases henc
  all_goals simp only [Instr.wf, Bool.and_eq_true] at hwf
  case nmeNop op =>
    simp only [decide_eq_true_eq, Bool.or_eq_true, Bool.and_eq_true, beq_iff_eq] at hwf
    obtain ⟨hlt, hop, -⟩ := encNme_isWordOf (op := op) (by omega) (a := {}) rfl
    refine ⟨hlt, ?_⟩
    rw [decodeNme_of_unlisted (by omega), hop]
  case nmeEnd =>
    exact decodeNme_of_word (mk := fun _ => .nmeEnd n) (encNme_isWordOf (by decide) rfl) (fun v hop => by rw [decodeNme, hop]; rfl)
  case nmeMov | nmeAdd | nmeSub | nmeMul | nmeFma | nmeFnma | nmeDiv | nmeSqrt | nmeRsq | nmeExp2 | nmeLog2 | nmeMin
    | nmeMax | nmeAbs | nmeNeg | nmeSign | nmeClamp | nmeSelge =>
    exact decodeNme_of_word (encNme_isWordOf (by decide) hwf.2) (fun v hop => by rw [decodeNme, hop]; rfl)

/-- Settles O4: each format's fields read back from the packed word, and each opcode selects its instruction. -/
theorem wordsDecodeBack : Obligations.WordsDecodeBack :=
  ⟨decodeTile_encodeTile, decodeNme_encodeNme⟩

end Sys2Proof

/-! PROOF. Thread instructions: how a group moves, and what the fold over the executing threads leaves in its registers (R149, R154, R156). -/

namespace Sys2Proof.Machine

/-! ### How a group moves -/

/-- What decides where a group goes: its address, masks and stack (R156). -/
def Group.flow (x : Group) : Nat × Nat × Nat × List StackEnt := (x.pc, x.active, x.exited, x.stack)

/-- Reconvergence changes the address, the active mask, the stack and the wait only. -/
theorem Group.settle_keeps {α : Type} (π : Group → α)
    (h : ∀ (x : Group) pc active stack wait, π { x with pc := pc, active := active, stack := stack, wait := wait } = π x)
    (n : Nat) (x : Group) : π (Group.settle n x) = π x := by
  induction n generalizing x with
  | zero => rfl
  | succ n ih =>
    unfold Group.settle
    split
    · split
      · exact h x x.pc x.active x.stack .ended
      · rfl
    · split
      · rfl
      · split
        · rw [ih]; exact h x _ _ _ x.wait
        · split
          · rw [ih]; exact h x _ _ _ x.wait
          · rw [ih]; exact h x x.pc _ _ x.wait

theorem Group.next_keeps {α : Type} (π : Group → α)
    (h : ∀ (x : Group) pc active stack wait, π { x with pc := pc, active := active, stack := stack, wait := wait } = π x)
    (x : Group) : π x.next = π x :=
  (Group.settle_keeps π h _ _).trans (h x _ x.active x.stack x.wait)

@[simp] theorem Group.next_v (x : Group) : x.next.v = x.v := Group.next_keeps _ (fun _ _ _ _ _ => rfl) x
@[simp] theorem Group.next_p (x : Group) : x.next.p = x.p := Group.next_keeps _ (fun _ _ _ _ _ => rfl) x
@[simp] theorem Group.next_flags (x : Group) : x.next.flags = x.flags := Group.next_keeps _ (fun _ _ _ _ _ => rfl) x
@[simp] theorem Group.next_exited (x : Group) : x.next.exited = x.exited := Group.next_keeps _ (fun _ _ _ _ _ => rfl) x
@[simp] theorem Group.next_srTid (x : Group) : x.next.srTid = x.srTid := Group.next_keeps _ (fun _ _ _ _ _ => rfl) x
@[simp] theorem Group.next_woken (x : Group) : x.next.woken = x.woken := Group.next_keeps _ (fun _ _ _ _ _ => rfl) x
@[simp] theorem Group.next_reg (x : Group) (th r : Nat) : x.next.reg th r = x.reg th r := by simp [Group.reg]
@[simp] theorem Group.next_predMask (x : Group) (p : Nat) : x.next.predMask p = x.predMask p := by simp [Group.predMask]

theorem Group.settle_flow (n : Nat) {x y : Group} (h : x.flow = y.flow) : (Group.settle n x).flow = (Group.settle n y).flow := by
  induction n generalizing x y with
  | zero => exact h
  | succ n ih =>
    have hall := h
    simp only [Group.flow, Prod.mk.injEq] at h
    obtain ⟨hpc, hact, hex, hst⟩ := h
    unfold Group.settle
    rw [hst]
    split
    · rw [hact]
      split <;> simp [Group.flow, hpc, hact, hex, hst]
    · rw [hact, hpc]
      split
      · exact hall
      · split
        · exact ih (by simp [Group.flow, hex])
        · split
          · exact ih (by simp [Group.flow, hex])
          · exact ih (by simp [Group.flow, hex])

theorem Group.next_flow {x y : Group} (h : x.flow = y.flow) : x.next.flow = y.next.flow := by
  have hall := h
  simp only [Group.flow, Prod.mk.injEq] at h
  obtain ⟨hpc, hact, hex, hst⟩ := h
  unfold Group.next Group.jump Group.fuel
  simp only [hpc, hst]
  exact Group.settle_flow _ (by simp [Group.flow, hact, hex])

/-- A group goes on to the same address whatever its registers hold. -/
theorem Group.next_pc_of_flow {x y : Group} (h : x.flow = y.flow) : x.next.pc = y.next.pc :=
  congrArg Prod.fst (Group.next_flow h)

/-! ### Registers and predicates -/

theorem Group.reg_setReg (x : Group) (th r v th' r' : Nat) :
    (x.setReg th r v).reg th' r' = if th' = th ∧ r' % 64 = r % 64 then v % 2 ^ 32 else x.reg th' r' := by
  unfold Group.reg Group.setReg
  by_cases h : th' = th ∧ r' % 64 = r % 64
  · obtain ⟨rfl, hr⟩ := h
    simp [hr]
  · have hkey : th' * 64 + r' % 64 ≠ th * 64 + r % 64 := by omega
    simp only [Tab.atD_put_ne _ hkey, if_neg h]

theorem Group.reg_lt (x : Group) (th r : Nat) : x.reg th r < 2 ^ 32 := BitVec.isLt _

@[simp] theorem Group.setPred_reg (x : Group) (th p : Nat) (b : Bool) (th' r : Nat) : (x.setPred th p b).reg th' r = x.reg th' r := by
  unfold Group.setPred; split <;> rfl

@[simp] theorem Group.setPred_flow (x : Group) (th p : Nat) (b : Bool) : (x.setPred th p b).flow = x.flow := by
  unfold Group.setPred; split <;> rfl

@[simp] theorem Group.predMask_zero (x : Group) : x.predMask 0 = allMask := rfl

theorem bitN_setBitsN_same (v i : Nat) (b : Bool) : bitN (setBitsN v i i (bN b)) i = b := by
  rw [bitN_eq_bitsN, bitsN_setBitsN]
  cases b <;> simp [bN]

theorem Group.predMask_setPred (x : Group) (th p : Nat) (b : Bool) (h : p % 8 ≠ 0) : bitN ((x.setPred th p b).predMask p) th = b := by
  simp only [Group.setPred, h, if_false]
  rw [Group.predMask, if_neg h, Tab.atD_put_same, bitN_setBitsN_same]

/-! ### The fold over the executing threads -/

/-- The group and its new flags after f has acted in each thread of a list (R149). -/
def vecFold (f : Group → Nat → Group × Nat) (l : List Nat) (acc : Group × Nat) : Group × Nat :=
  l.foldl (fun acc th => let x := f acc.1 th; (x.1, flOr acc.2 x.2)) acc

theorem State.vec_group (s : State) (t g pred : Nat) (pneg : Bool) (f : Group → Nat → Group × Nat) :
    let r := vecFold f (threadsOf ((s.group t g).execMask pred pneg)) (s.group t g, 0)
    (s.vec t g pred pneg f).group t g = ({ r.1 with flags := flOr r.1.flags r.2 } : Group).next :=
  State.group_setGroup ..

theorem vecFold_keeps {α : Type} {f : Group → Nat → Group × Nat} (π : Group → α) (h : ∀ x th, π (f x th).1 = π x)
    (l : List Nat) (acc : Group × Nat) : π (vecFold f l acc).1 = π acc.1 := by
  induction l generalizing acc with
  | nil => rfl
  | cons th l ih => exact (ih _).trans (h acc.1 th)

theorem vecFold_noFlags {f : Group → Nat → Group × Nat} (h : ∀ x th, (f x th).2 = 0) (l : List Nat) (acc : Group × Nat) :
    (vecFold f l acc).2 = acc.2 := by
  induction l generalizing acc with
  | nil => rfl
  | cons th l ih => exact (ih _).trans (by simp [h, flOr])

/-- Thread th has the same registers, held half, predicates and flags in both groups. -/
def Group.threadSame (x y : Group) (th : Nat) : Prop :=
  (∀ r, x.reg th r = y.reg th r) ∧ x.held.atD th 0 = y.held.atD th 0 ∧ x.p = y.p ∧ x.flags = y.flags

theorem Group.threadSame.trans {x y z : Group} {th : Nat} (h : x.threadSame y th) (h' : y.threadSame z th) : x.threadSame z th :=
  ⟨fun r => (h.1 r).trans (h'.1 r), h.2.1.trans h'.2.1, h.2.2.1.trans h'.2.2.1, h.2.2.2.trans h'.2.2.2⟩

theorem Group.setReg_threadSame (x : Group) {th th' : Nat} (h : th' ≠ th) (r v : Nat) : (x.setReg th r v).threadSame x th' :=
  ⟨fun r' => by rw [Group.reg_setReg, if_neg (fun e => h e.1)], rfl, rfl, rfl⟩

/-- Each thread of the list gets its own value in register d, computed from what the group held before the instruction. -/
theorem vecFold_reg {f : Group → Nat → Group × Nat} {d : Nat} {val : Nat → Nat} (x0 : Group)
    (hsame : ∀ x th, x.threadSame x0 th → ∀ r, (f x th).1.reg th r = if r % 64 = d % 64 then val th % 2 ^ 32 else x0.reg th r)
    (hother : ∀ x th th', th' ≠ th → (f x th).1.threadSame x th') :
    ∀ (l : List Nat) (acc : Group × Nat), l.Nodup → (∀ th, acc.1.threadSame x0 th ∨ th ∉ l) → ∀ th r,
      (vecFold f l acc).1.reg th r = if th ∈ l then (if r % 64 = d % 64 then val th % 2 ^ 32 else x0.reg th r) else acc.1.reg th r
  | [], acc, _, _, th, r => by simp [vecFold]
  | a :: l, acc, hnd, hacc, th, r => by
    obtain ⟨ha, hnd⟩ := List.nodup_cons.mp hnd
    have hnext : ∀ th, (f acc.1 a).1.threadSame x0 th ∨ th ∉ l := fun th => by
      by_cases h : th = a
      · exact .inr (h ▸ ha)
      · rcases hacc th with h' | h'
        · exact .inl ((hother _ _ _ h).trans h')
        · exact .inr (fun hm => h' (List.mem_cons_of_mem _ hm))
    have ih := vecFold_reg x0 hsame hother l ((f acc.1 a).1, flOr acc.2 (f acc.1 a).2) hnd hnext th r
    refine Eq.trans ih ?_
    by_cases h : th = a
    · subst h
      have hth : acc.1.threadSame x0 th := (hacc th).resolve_right (fun hn => hn (List.mem_cons_self ..))
      simp [ha, hsame _ _ hth]
    · simp [h, (hother acc.1 a th h).1 r]

theorem threadsOf_nodup (m : Nat) : (threadsOf m).Nodup := List.Nodup.filter _ List.nodup_range

/-! ### A thread instruction -/

section Vec

variable (s : State) (t g pred : Nat) (pneg : Bool) {f : Group → Nat → Group × Nat}

theorem State.vec_reg {d : Nat} {val : Nat → Nat}
    (hsame : ∀ x th, x.threadSame (s.group t g) th →
      ∀ r, (f x th).1.reg th r = if r % 64 = d % 64 then val th % 2 ^ 32 else (s.group t g).reg th r)
    (hother : ∀ x th th', th' ≠ th → (f x th).1.threadSame x th') (th r : Nat) :
    ((s.vec t g pred pneg f).group t g).reg th r =
      if s.executes t g pred pneg th ∧ r % 64 = d % 64 then val th % 2 ^ 32 else (s.group t g).reg th r := by
  have h := vecFold_reg (s.group t g) hsame hother (threadsOf ((s.group t g).execMask pred pneg)) (s.group t g, 0) (threadsOf_nodup _)
    (fun th => .inl ⟨fun _ => rfl, rfl, rfl, rfl⟩) th r
  rw [State.vec_group, Group.next_reg]
  refine Eq.trans h ?_
  simp only [State.executes, List.contains_eq_mem, decide_eq_true_eq]
  split <;> split <;> simp_all

/-- The group goes on, whatever the instruction does to its registers. -/
theorem State.vec_pc (hflow : ∀ x th, (f x th).1.flow = x.flow) :
    ((s.vec t g pred pneg f).group t g).pc = (s.group t g).next.pc := by
  rw [State.vec_group]
  refine Group.next_pc_of_flow ?_
  exact vecFold_keeps Group.flow hflow _ (s.group t g, 0)

theorem State.vec_mem : (s.vec t g pred pneg f).mem = s.mem := rfl
theorem State.vec_regs : (s.vec t g pred pneg f).regs = s.regs := rfl

end Vec

/-- A group that runs executes a format V instruction with the note of R152. -/
theorem State.vecV_runs {s : State} {t g : Nat} (h : s.runs t g = true) (w : FmtV) (f : Group → Nat → Group × Nat) :
    s.vecV t g w f = (s.rmRes t g w).vec t g w.pred w.pneg f := State.issue_runs s h _

/-- Settles O8: each arm is the vector form of its operation, and a group that runs issues. -/
theorem vectorArithmeticCompletes : Obligations.VectorArithmeticCompletes := by
  intro s t g w hruns
  have hgo : ∀ f, (.next (s.vecV t g w f) : Res) = .next ((s.rmRes t g w).vec t g w.pred w.pneg f) := fun f =>
    congrArg Host.Outcome.next (State.vecV_runs hruns w f)
  refine ⟨?_, ?_, ?_, ?_, ?_, ?_, ?_, ?_, ?_, ?_, ?_, ?_, ?_, ?_, ?_, ?_, ?_, ?_, ?_, ?_, ?_, ?_, ?_, ?_, ?_⟩
  all_goals exact hgo _

end Sys2Proof.Machine

/-! PROOF. Integer results, the frame of the thread instructions, compares, reserved opcodes and the first status (R148 to R154, R184). -/

namespace Sys2Proof.Machine

/-! ### Reserved opcodes (R153) -/

theorem State.group_advance (s : State) (t g : Nat) : (s.advance t g).group t g = (s.group t g).next := State.group_setGroup ..

/-- Settles O6: a reserved opcode decodes to the reserved instruction, which notes the encoding and goes on. -/
theorem reservedOpcodesActAsNop : Obligations.ReservedOpcodesActAsNop := by
  refine ⟨fun t g w => decodeTile_of_reserved t g, fun s t g op w hruns => ⟨(s.tileRes t true).advance t g, ?_, ?_, ?_, ?_⟩⟩
  · exact congrArg Host.Outcome.next (State.issue_runs s hruns _)
  · exact State.tileRes_notes_reserved s t
  · rw [State.group_advance, State.tileRes_group]
  · exact State.tileRes_mem s t true

/-! ### Integer instructions (R150, R154) -/

theorem intNeg_lt (v : Nat) : intNeg v < 2 ^ 32 := Nat.mod_lt _ (by decide)

theorem intA_lt (w : FmtV) {v : Nat} (h : v < 2 ^ 32) : intA w v < 2 ^ 32 := by
  unfold intA
  dsimp only
  split <;> split <;> first | exact intNeg_lt _ | exact h

theorem intB_lt (w : FmtV) {v : Nat} (h : v < 2 ^ 32) : intB w v < 2 ^ 32 := by
  unfold intB
  split
  · exact intNeg_lt _
  · exact h

/-- What an instruction of two integer sources leaves in its group (R154). -/
theorem State.vec_int2 (s : State) (t g : Nat) (w : FmtV) (hvd : w.vd < 64) (f : Nat → Nat → Nat) :
    let x := s.group t g
    let s' := s.vec t g w.pred w.pneg (int2 w f)
    (∀ th r, th < 32 → r < 64 → (s'.group t g).reg th r =
      if s.executes t g w.pred w.pneg th ∧ r = w.vd then f (intA w (x.reg th w.va)) (intB w (x.reg th w.vb)) % 2 ^ 32 else x.reg th r) ∧
    (s'.group t g).flags = x.flags ∧ (s'.group t g).p = x.p := by
  have hsame : ∀ (y : Group) th, y.threadSame (s.group t g) th → ∀ r, (int2 w f y th).1.reg th r =
      if r % 64 = w.vd % 64 then f (intA w ((s.group t g).reg th w.va)) (intB w ((s.group t g).reg th w.vb)) % 2 ^ 32
      else (s.group t g).reg th r := fun y th hy r => by
    simp [int2, v2, Group.reg_setReg, hy.1]
  refine ⟨fun th r _ hr => ?_, ?_, ?_⟩
  · rw [State.vec_reg s t g w.pred w.pneg hsame (fun y th th' h => Group.setReg_threadSame y h ..) th r,
      Nat.mod_eq_of_lt hr, Nat.mod_eq_of_lt hvd]
  · rw [State.vec_group, Group.next_flags]
    have hkeep := vecFold_keeps (f := int2 w f) (·.flags) (fun _ _ => rfl)
    have hnone := vecFold_noFlags (f := int2 w f) (fun _ _ => rfl)
    simp [hkeep, hnone, flOr]
  · rw [State.vec_group, Group.next_p]
    exact vecFold_keeps (f := int2 w f) (·.p) (fun _ _ => rfl) _ (s.group t g, 0)

/-- Settles O9: the instruction writes its function of the sources, reduced to 32 bits, into vd of the executing threads. -/
theorem integerResults : Obligations.IntegerResults := by
  intro s t g w hruns hvd x gives
  have hgives : ∀ (i : Instr) (f h : Nat → Nat → Nat), exec i s = .next (s.vecV t g w (int2 w f)) →
      (∀ a b, a < 2 ^ 32 → b < 2 ^ 32 → f a b % 2 ^ 32 = h a b) → gives i h := by
    intro i f h hexec hval
    have hint := State.vec_int2 (s.rmRes t g w) t g w hvd f
    have hgroup : (s.rmRes t g w).group t g = x := State.vecRes_group ..
    have hexecutes : ∀ th, (s.rmRes t g w).executes t g w.pred w.pneg th = s.executes t g w.pred w.pneg th := fun th => by
      rw [State.executes, State.executes, hgroup]
    simp only [hgroup, hexecutes] at hint
    obtain ⟨hregs, hflags, hp⟩ := hint
    refine ⟨_, hexec.trans (congrArg _ (State.vecV_runs hruns w _)), fun th r hth hr => ?_, hflags, hp, State.vecRes_mem ..⟩
    rw [hregs th r hth hr, hval _ _ (intA_lt w (x.reg_lt ..)) (intB_lt w (x.reg_lt ..))]
  refine ⟨?_, ?_, ?_, ?_, ?_, ?_, ?_, ?_⟩
  · exact hgives (.iadd t g w) iAdd _ rfl fun a b _ _ => Nat.mod_mod ..
  · have hsub : ∀ a b, a < 2 ^ 32 → b < 2 ^ 32 → iSub a b % 2 ^ 32 = (a + (2 ^ 32 - b)) % 2 ^ 32 := fun a b _ hb => by
      simp only [iSub]
      omega
    exact hgives (.isub t g w) iSub _ rfl hsub
  · exact hgives (.imul t g w) iMul _ rfl fun a b _ _ => Nat.mod_mod ..
  · exact hgives (.and t g w) Nat.land _ rfl fun a b ha _ => Nat.mod_eq_of_lt (Nat.and_le_left.trans_lt ha)
  · exact hgives (.or t g w) Nat.lor _ rfl fun a b ha hb => Nat.mod_eq_of_lt (Nat.or_lt_two_pow ha hb)
  · exact hgives (.xor t g w) Nat.xor _ rfl fun a b ha hb => Nat.mod_eq_of_lt (Nat.xor_lt_two_pow ha hb)
  · exact hgives (.shl t g w) iShl _ rfl fun a b _ _ => Nat.mod_mod ..
  · exact hgives (.shr t g w) iShr _ rfl fun a b ha _ => Nat.mod_eq_of_lt ((Nat.div_le_self ..).trans_lt ha)

/-! ### The frame of classes 1 and 2 -/

/-- In each thread f writes register d of that thread, or a predicate. -/
def WritesOnly (d : Nat) (f : Group → Nat → Group × Nat) : Prop :=
  ∀ x th, (∃ v, (f x th).1 = x.setReg th d v) ∨ ∃ p b, (f x th).1 = x.setPred th p b

theorem WritesOnly.reg {d : Nat} {f : Group → Nat → Group × Nat} (h : WritesOnly d f) (x : Group) (a th r : Nat)
    (hne : th ≠ a ∨ r % 64 ≠ d % 64) : (f x a).1.reg th r = x.reg th r := by
  rcases h x a with ⟨v, hv⟩ | ⟨p, b, hp⟩
  · rw [hv, Group.reg_setReg, if_neg (fun e => hne.elim (fun hn => hn e.1) (fun hn => hn e.2))]
  · rw [hp, Group.setPred_reg]

theorem WritesOnly.fold_reg {d : Nat} {f : Group → Nat → Group × Nat} (h : WritesOnly d f) (th r : Nat) :
    ∀ (l : List Nat) (acc : Group × Nat), (th ∉ l ∨ r % 64 ≠ d % 64) → (vecFold f l acc).1.reg th r = acc.1.reg th r
  | [], _, _ => rfl
  | a :: l, acc, hne => by
    have hl : th ∉ l ∨ r % 64 ≠ d % 64 := hne.imp_left (fun hm hn => hm (List.mem_cons_of_mem _ hn))
    have ha : th ≠ a ∨ r % 64 ≠ d % 64 := hne.imp_left (fun hm hn => hm (hn ▸ List.mem_cons_self ..))
    exact (h.fold_reg th r l _ hl).trans (h.reg acc.1 a th r ha)

theorem State.sameRegsBut_tileRes (s : State) (t : Nat) (c : Bool) : sameRegsBut .TILE_STATUS t s (s.tileRes t c) := by
  intro r' j h
  cases c with
  | false => rfl
  | true => exact State.rd_wr_ne s h _

/-- The frame of a thread instruction whose reserved fields are noted: its own group's vd in executing threads, and TILE_STATUS. -/
theorem State.vec_frame (s : State) (t g pred : Nat) (pneg c : Bool) {d : Nat} {f : Group → Nat → Group × Nat} (h : WritesOnly d f) :
    let s' := (s.tileRes t c).vec t g pred pneg f
    sameBeyondTileRegs s s' ∧ sameRegsBut .TILE_STATUS t s s' ∧
    (∀ t' g', (t' ≠ t ∨ g' ≠ g) → s'.group t' g' = s.group t' g') ∧
    (∀ th r, th < 32 → r < 64 → ¬ s.executes t g pred pneg th → (s'.group t g).reg th r = (s.group t g).reg th r) ∧
    (∀ th r, th < 32 → r < 64 → r ≠ d % 64 → (s'.group t g).reg th r = (s.group t g).reg th r) := by
  have hgroup : (s.tileRes t c).group t g = s.group t g := State.tileRes_group ..
  have hreg : ∀ th r, (th ∉ threadsOf ((s.group t g).execMask pred pneg) ∨ r % 64 ≠ d % 64) →
      (((s.tileRes t c).vec t g pred pneg f).group t g).reg th r = (s.group t g).reg th r := fun th r hne => by
    rw [State.vec_group, Group.next_reg, hgroup]
    exact h.fold_reg th r _ (s.group t g, 0) hne
  refine ⟨?_, State.sameRegsBut_tileRes s t c, fun t' g' hne => ?_, fun th r _ _ hno => hreg th r (.inl ?_),
    fun th r _ hr hne => hreg th r (.inr ?_)⟩
  · cases c <;> rfl
  · rw [State.vec_other _ _ _ _ _ _ hne, State.tileRes_group]
  · simpa [State.executes] using hno
  · rwa [Nat.mod_eq_of_lt hr]

section Forms

variable (w : FmtV)

theorem writesOnly_v1 (f : Nat → Nat × Nat) : WritesOnly w.vd (v1 w f) := fun _ _ => .inl ⟨_, rfl⟩
theorem writesOnly_v2 (f : Nat → Nat → Nat × Nat) : WritesOnly w.vd (v2 w f) := fun _ _ => .inl ⟨_, rfl⟩
theorem writesOnly_v3 (f : Nat → Nat → Nat → Nat × Nat) : WritesOnly w.vd (v3 w f) := fun _ _ => .inl ⟨_, rfl⟩
theorem writesOnly_vp (f : Nat → Nat → Bool × Nat) : WritesOnly w.vd (vp w f) := fun _ _ => .inr ⟨_, _, rfl⟩

end Forms

/-- What a thread instruction of classes 1 and 2 leaves unchanged. -/
def InstrFrame (s : State) (t g : Nat) (w : FmtV) (i : Instr) : Prop :=
  ∃ s', exec i s = .next s' ∧ sameBeyondTileRegs s s' ∧ sameRegsBut .TILE_STATUS t s s' ∧
    (∀ t' g', (t' ≠ t ∨ g' ≠ g) → s'.group t' g' = s.group t' g') ∧
    (∀ th r, th < 32 → r < 64 → ¬ s.executes t g w.pred w.pneg th → (s'.group t g).reg th r = (s.group t g).reg th r) ∧
    (∀ th r, th < 32 → r < 64 → r ≠ w.vd % 64 → (s'.group t g).reg th r = (s.group t g).reg th r)

section Frame

variable {s : State} {t g : Nat} {w : FmtV} {i : Instr} (hruns : s.runs t g = true)
include hruns

theorem instrFrame_of_vecV {f : Group → Nat → Group × Nat} (hf : WritesOnly w.vd f) (hexec : exec i s = .next (s.vecV t g w f)) :
    InstrFrame s t g w i :=
  ⟨_, hexec.trans (congrArg _ (State.vecV_runs hruns w f)), State.vec_frame s t g w.pred w.pneg _ hf⟩

theorem instrFrame_of_compare {f : State → Nat → Nat → Bool × Nat}
    (hexec : exec i s = .next (s.issue t g fun s => (s.vecRes t g w.pred w.pneg (typeRes w)).vec t g w.pred w.pneg (vp w (f s)))) :
    InstrFrame s t g w i :=
  ⟨_, hexec.trans (congrArg _ (State.issue_runs s hruns _)), State.vec_frame s t g w.pred w.pneg _ (writesOnly_vp w (f s))⟩

end Frame

/-- Settles O10: every instruction of classes 1 and 2 notes its reserved fields and acts through one of the operand forms. -/
theorem vectorFrame : Obligations.VectorFrame := by
  intro s t g w i hruns hi
  change InstrFrame s t g w i
  have h1 : ∀ {i} (f), exec i s = .next (s.vecV t g w (v1 w f)) → InstrFrame s t g w i := fun f => instrFrame_of_vecV hruns (writesOnly_v1 w f)
  have h2 : ∀ {i} (f), exec i s = .next (s.vecV t g w (v2 w f)) → InstrFrame s t g w i := fun f => instrFrame_of_vecV hruns (writesOnly_v2 w f)
  have h3 : ∀ {i} (f), exec i s = .next (s.vecV t g w (v3 w f)) → InstrFrame s t g w i := fun f => instrFrame_of_vecV hruns (writesOnly_v3 w f)
  have hreg : ∀ {i} (val : Group → Nat → Nat), exec i s = .next (s.vecV t g w fun x th => (x.setReg th w.vd (val x th), 0)) →
      InstrFrame s t g w i := fun val => instrFrame_of_vecV hruns fun x th => .inl ⟨val x th, rfl⟩
  simp only [List.mem_cons, List.not_mem_nil, or_false] at hi
  rcases hi with rfl | rfl | rfl | rfl | rfl | rfl | rfl | rfl | rfl | rfl | rfl | rfl | rfl | rfl | rfl | rfl | rfl | rfl | rfl | rfl |
    rfl | rfl | rfl | rfl | rfl | rfl | rfl | rfl | rfl | rfl
  exacts [h2 _ rfl, h2 _ rfl, h2 _ rfl, h3 _ rfl, h2 _ rfl, h2 _ rfl,
    instrFrame_of_compare hruns (f := fun s => fpCmp w (s.vecDaz t)) rfl, h2 _ rfl, h1 _ rfl, h1 _ rfl, h1 _ rfl, h1 _ rfl,
    h1 _ rfl, h1 _ rfl, h2 _ rfl, h2 _ rfl, h2 _ rfl, h3 _ rfl, h2 _ rfl, h2 _ rfl, h2 _ rfl, h2 _ rfl, h2 _ rfl, h2 _ rfl,
    h2 _ rfl, h2 _ rfl, instrFrame_of_compare hruns (f := fun _ a b => (icmpCond w.rm (intA w a) (intB w b), 0)) rfl,
    hreg _ rfl, hreg _ rfl, hreg _ rfl]

/-! ### Compares (R148, R154) -/

theorem State.vec_vp (s : State) (t g : Nat) (w : FmtV) (f : Nat → Nat → Bool × Nat) (th r : Nat) :
    ((s.vec t g w.pred w.pneg (vp w f)).group t g).reg th r = (s.group t g).reg th r := by
  rw [State.vec_group, Group.next_reg]
  exact vecFold_keeps (fun x => x.reg th r) (fun x a => Group.setPred_reg x a w.pd _ th r) _ (s.group t g, 0)

theorem fcmp_nan {x y : FV} (h : x = .nan ∨ y = .nan) :
    fcmp 0 x y = false ∧ fcmp 1 x y = true ∧ fcmp 2 x y = false ∧ fcmp 3 x y = false ∧ fcmp 4 x y = false ∧ fcmp 5 x y = false ∧
      fcmp 6 x y = false ∧ fcmp 7 x y = true := by
  rcases h with rfl | rfl
  · cases y <;> simp [fcmp, eqFV, ltFV, FV.isNan]
  · cases x <;> simp [fcmp, eqFV, ltFV, FV.isNan]

/-- Settles O11: a compare writes predicates only, no comparison but NE and unordered holds of a NaN, and p0 is no register. -/
theorem comparesAndPredicateZero : Obligations.ComparesAndPredicateZero := by
  refine ⟨fun s t g w hruns => ?_, fun x y => fcmp_nan, fun x th p b => ⟨rfl, fun hp => if_pos hp, fun _ hp => x.predMask_setPred th p b hp⟩⟩
  have hicmp : exec (.icmp t g w) s = .next ((s.vecRes t g w.pred w.pneg (typeRes w)).vec t g w.pred w.pneg
      (vp w (fun a b => (icmpCond w.rm (intA w a) (intB w b), 0)))) := congrArg _ (State.issue_runs s hruns _)
  have hfcmp : exec (.fcmp t g w) s = .next ((s.vecRes t g w.pred w.pneg (typeRes w)).vec t g w.pred w.pneg (vp w (fpCmp w (s.vecDaz t)))) :=
    congrArg _ (State.issue_runs s hruns _)
  have hregs : ∀ f th r, (((s.vecRes t g w.pred w.pneg (typeRes w)).vec t g w.pred w.pneg (vp w f)).group t g).reg th r =
      (s.group t g).reg th r := fun f th r => by rw [State.vec_vp, State.vecRes_group]
  refine ⟨hicmp, hfcmp, fun i hi => ?_⟩
  simp only [List.mem_cons, List.not_mem_nil, or_false] at hi
  rcases hi with rfl | rfl
  · exact ⟨_, hicmp, hregs _, rfl⟩
  · exact ⟨_, hfcmp, hregs _, rfl⟩

/-! ### Control flow (R156, R158) -/

theorem Group.jump_keeps {α : Type} (π : Group → α)
    (h : ∀ (x : Group) pc active stack wait, π { x with pc := pc, active := active, stack := stack, wait := wait } = π x)
    (x : Group) (pc : Nat) : π (x.jump pc) = π x :=
  (Group.settle_keeps π h _ _).trans (h x _ x.active x.stack x.wait)

theorem Group.branch_of_none_taken (x : Group) (rpc : Option Nat) (target : Nat) : x.branch 0 rpc target = some x.next := by
  simp [Group.branch]

theorem Group.branch_of_all_taken {x : Group} {taken : Nat} (htaken : taken ≠ 0) (hrest : maskSub x.active taken = 0)
    (rpc : Option Nat) (target : Nat) : x.branch taken rpc target = some (x.jump target) := by
  simp [Group.branch, htaken, hrest]

theorem State.exec_bra_of_branch {s : State} {t g : Nat} {b : FmtB} {y : Group} (hruns : s.runs t g = true)
    (hbranch : (s.group t g).branch ((s.group t g).execMask b.pred b.pneg) (braRpc (s.group t g) b)
      (uN 64 (((s.group t g).pc : Int) + 8 * b.tgtOff)) = some y) :
    exec (.bra t g b) s = .next (s.setGroup t g (fun _ => y)) := by
  unfold braRpc at hbranch
  change execBra t g b s = _
  simp only [execBra, State.issue_runs s hruns, hbranch]

theorem State.lapStop_group (s : State) (t status g th unit pc addr t' g' : Nat) :
    (s.lapStop t status g th unit pc addr).group t' g' = s.group t' g' := by
  unfold State.lapStop
  split
  · rfl
  · by_cases h : t' = t
    · subst h
      simp [State.group]
    · simp [State.group, State.tile_setTile_ne s h]

theorem State.barCheck_group (s : State) (t t' g' : Nat) : (s.barCheck t).group t' g' = s.group t' g' := by
  unfold State.barCheck
  dsimp only
  split
  · rfl
  · split
    · exact State.lapStop_group ..
    · rfl

/-- Settles O13: each instruction is its group's move, and a branch that no or every thread takes splits nothing. -/
theorem controlFlowCompletes : Obligations.ControlFlowCompletes := by
  refine ⟨fun s t g w b hruns => ?_, fun x taken target rpc h => ?_⟩
  · refine ⟨congrArg _ (State.issue_runs s hruns _), ⟨_, congrArg Host.Outcome.next (State.issue_runs s hruns _), ?_, fun hmask => ?_⟩, fun hnone => ?_,
      fun hsome hall => ?_, ⟨_, congrArg Host.Outcome.next (State.issue_runs s hruns _), ?_⟩⟩
    · rw [State.group_advance, State.group_setGroup]
      refine Group.next_pc_of_flow ?_
      split <;> rfl
    · rw [State.group_advance, State.group_setGroup, if_neg hmask, Group.next_flags]
    · exact State.exec_bra_of_branch hruns (hnone ▸ Group.branch_of_none_taken ..)
    · exact State.exec_bra_of_branch hruns (Group.branch_of_all_taken hsome hall ..)
    · rw [State.barCheck_group, State.countLive, State.group_pf, State.group_setGroup, Group.next_exited]
      rfl
  · by_cases htaken : taken = 0
    · subst htaken
      exact ⟨_, Group.branch_of_none_taken .., x.next_stack_length_le, x.next_v, x.next_exited⟩
    · exact ⟨_, Group.branch_of_all_taken htaken (h.resolve_left htaken) .., Group.settle_stack_length_le _ _,
        x.jump_keeps (·.v) (fun _ _ _ _ _ => rfl) target, x.jump_keeps (·.exited) (fun _ _ _ _ _ => rfl) target⟩

/-! ### The first status (R184, R186) -/

/-- A write to another field of TILE_ERR_INFO leaves a field that it does not overlap. -/
theorem State.gf_errInfo_pf (f f' : Fld) (hreg : f.reg = .TILE_ERR_INFO ∧ f'.reg = .TILE_ERR_INFO)
    (hf : f.lo ≤ f.hi ∧ f.hi < 64 ∧ f'.lo ≤ f'.hi) (hd : f'.hi < f.lo ∨ f.hi < f'.lo) (s : State) (t v : Nat) :
    (s.pf f t v).gf f' t = s.gf f' t :=
  State.gf_pf_field s v (hreg.2.trans hreg.1.symm) hf.2.1 hf.1 hf.2.2 hd

theorem State.gf_pf_of_lt (s : State) (f : Fld) (i : Nat) {v : Nat} (h : f.hi < 64 ∧ f.lo ≤ f.hi) (hv : v < 2 ^ (f.hi + 1 - f.lo)) :
    (s.pf f i v).gf f i = v := by
  rw [State.gf_pf_same s f i v h.1 h.2, Nat.mod_eq_of_lt hv]

theorem State.not_canIssue_of_stopped {s : State} {t : Nat} (h : (s.tile t).stopped = true) (g : Nat) : s.canIssue t g = false := by
  unfold State.canIssue
  split
  · simp [h]
  · rfl

/-- Settles O17: the record's fields are written once, one after the other, and the tile is stopped then. -/
theorem firstStatusIsRecorded : Obligations.FirstStatusIsRecorded := by
  intro s t status g th unit pc addr hgoing hlap hstatus hg hth hunit hpc haddr s'
  have hstopped : (s'.tile t).stopped = true := State.lapStop_stopped hgoing hlap ..
  have hinfo := State.gf_errInfo_pf
  obtain ⟨f, -, heq⟩ := State.lapStop_first hgoing hlap status g th unit pc addr
  refine ⟨(State.lapStop_gf_status hgoing hlap ..).trans (Nat.mod_eq_of_lt hstatus), ?_, ?_, ?_,
    (State.lapStop_gf_pc hgoing hlap ..).trans (Nat.mod_eq_of_lt hpc), ?_, State.lapStop_mem .., hstopped,
    State.not_canIssue_of_stopped hstopped, fun _ _ _ _ _ _ => State.lapStop_again _ hstopped ..⟩
  · rw [show s' = _ from heq, State.gf_pf_otherReg F.TILE_ERR_ADDR_addr F.TILE_ERR_INFO_group (by decide),
      State.gf_errInfo_pf F.TILE_ERR_INFO_unit F.TILE_ERR_INFO_group ⟨rfl, rfl⟩ (by decide) (by decide),
      State.gf_errInfo_pf F.TILE_ERR_INFO_thread F.TILE_ERR_INFO_group ⟨rfl, rfl⟩ (by decide) (by decide)]
    exact State.gf_pf_of_lt _ F.TILE_ERR_INFO_group t (by decide) hg
  · rw [show s' = _ from heq, State.gf_pf_otherReg F.TILE_ERR_ADDR_addr F.TILE_ERR_INFO_thread (by decide),
      State.gf_errInfo_pf F.TILE_ERR_INFO_unit F.TILE_ERR_INFO_thread ⟨rfl, rfl⟩ (by decide) (by decide)]
    exact State.gf_pf_of_lt _ F.TILE_ERR_INFO_thread t (by decide) hth
  · rw [show s' = _ from heq, State.gf_pf_otherReg F.TILE_ERR_ADDR_addr F.TILE_ERR_INFO_unit (by decide)]
    exact State.gf_pf_of_lt _ F.TILE_ERR_INFO_unit t (by decide) hunit
  · rw [show s' = _ from heq]
    exact State.gf_pf_of_lt _ F.TILE_ERR_ADDR_addr t (by decide) haddr

end Sys2Proof.Machine

/-! PROOF. What the report of an event can change (R438): registers, the outbox, the sessions' event queues, and the quiet periods and
records of the fault state. Everything that does not read these is as before. -/

namespace Sys2Proof.Machine

/-- A reading of the state that no report of an event can change. -/
def ReportIndep {α : Type} (π : State → α) : Prop :=
  ∀ (s : State) regs outbox bmp quiet quietAt records,
    π { s with regs := regs, outbox := outbox, bmp := bmp, flt := { s.flt with quiet := quiet, quietAt := quietAt, records := records } } = π s

section Keeps

variable {α : Type} {π : State → α} (h : ReportIndep π) (s : State)
include h

theorem State.wr_keeps (r : Reg) (i v : Nat) : π (s.wr r i v) = π s := h s _ s.outbox s.bmp s.flt.quiet s.flt.quietAt s.flt.records
theorem State.pf_keeps (f : Fld) (i v : Nat) : π (s.pf f i v) = π s := State.wr_keeps h s ..
theorem State.emit_keeps (o : Out) : π (s.emit o) = π s := h s s.regs _ s.bmp s.flt.quiet s.flt.quietAt s.flt.records

omit h in
theorem State.when_keeps {f : State → State} (hf : ∀ s, π (f s) = π s) (c : Bool) : π (s.when c f) = π s := by
  unfold State.when
  split
  · exact hf s
  · rfl

omit h in
theorem State.each_keeps {β : Type} {f : β → State → State} (hf : ∀ x s, π (f x s) = π s) (l : List β) : π (s.each l f) = π s := by
  unfold State.each
  induction l generalizing s with
  | nil => rfl
  | cons x l ih => exact (ih (f x s)).trans (hf x s)

theorem State.bump_keeps (r : Reg) (i k : Nat) : π (s.bump r i k) = π s := by
  unfold State.bump
  dsimp only
  split <;> exact State.wr_keeps h s ..

theorem State.bmpEvent_keeps (kind : Nat) (record : Bytes) : π (s.bmpEvent kind record) = π s := by
  have hbmp : ∀ (s : State) bmp, π { s with bmp := bmp } = π s := fun s bmp =>
    h s s.regs s.outbox bmp s.flt.quiet s.flt.quietAt s.flt.records
  unfold State.bmpEvent
  split
  · rfl
  · refine State.each_keeps s (fun r s => ?_) _
    dsimp only
    split
    · exact hbmp s _
    · split
      · exact (State.emit_keeps h _ _).trans (hbmp s _)
      · exact (State.when_keeps _ (fun s => State.emit_keeps h s _) _).trans (hbmp s _)

theorem State.setQuiet_keeps (node b : Nat) (ms : Option Nat) : π (s.setQuiet node b ms) = π s :=
  (State.pf_keeps h _ ..).trans (h s s.regs s.outbox s.bmp _ _ s.flt.records)

theorem State.fltMsi_keeps (i : Nat) : π (s.fltMsi i) = π s := State.emit_keeps h s _

theorem State.fltReport_keeps (node b src : Nat) : π (s.fltReport node b src) = π s := by
  unfold State.fltReport
  dsimp only
  rw [State.when_keeps _ (fun s => State.setQuiet_keeps h s ..), State.when_keeps _ (fun s => State.pf_keeps h s ..),
    State.when_keeps _ (fun s => State.fltMsi_keeps h s _), State.when_keeps _ (fun s => State.bmpEvent_keeps h s ..),
    State.bump_keeps h, State.pf_keeps h, State.pf_keeps h]

theorem State.notice_keeps (node b src : Nat) : π (s.notice node b src) = π s := State.fltReport_keeps h s ..

theorem State.fltState_keeps (node b st : Nat) : π (s.fltState node b st) = π s := by
  unfold State.fltState
  dsimp only
  split
  · rfl
  · exact (State.when_keeps _ (fun s => State.fltMsi_keeps h s _) _).trans (State.pf_keeps h s ..)

theorem State.fltRecord_keeps (node b src cls event : Nat) (forced : Bool) (detail : Nat) :
    π (s.fltRecord node b src cls event forced detail) = π s :=
  (State.bmpEvent_keeps h _ ..).trans (h s s.regs s.outbox s.bmp s.flt.quiet s.flt.quietAt _)

theorem State.hole_keeps (pa node : Nat) : π (s.hole pa node) = π s := by
  unfold State.hole
  rw [State.notice_keeps h, State.bump_keeps h, State.pf_keeps h, State.pf_keeps h]

end Keeps

end Sys2Proof.Machine

/-! PROOF. Moves, conversions and the instructions that name scaling slots (R154, R159, R165 to R170). -/

namespace Sys2Proof.Machine

/-! ### Register reads after a write in each executing thread -/

theorem Group.setReg_flow (x : Group) (th r v : Nat) : (x.setReg th r v).flow = x.flow := rfl

/-- The value each executing thread receives, where it depends on the group before the instruction only. -/
theorem State.vec_setReg (s : State) (t g pred : Nat) (pneg : Bool) (d : Nat) (val : Group → Nat → Nat) (fl : Group → Nat → Nat)
    (hval : ∀ x th, x.threadSame (s.group t g) th → val x th = val (s.group t g) th) {th : Nat}
    (hth : s.executes t g pred pneg th = true) :
    ((s.vec t g pred pneg fun x th => (x.setReg th d (val x th), fl x th)).group t g).reg th d = val (s.group t g) th % 2 ^ 32 := by
  refine (State.vec_reg s t g pred pneg (d := d) (val := val (s.group t g)) (fun x th hx r => ?_)
    (fun x th th' hne => Group.setReg_threadSame x hne ..) th d).trans (if_pos ⟨hth, rfl⟩)
  rw [Group.reg_setReg, hval x th hx, hx.1 r]
  simp

theorem State.vecRes_executes (s : State) (t g pred : Nat) (pneg c : Bool) (p : Nat) (b : Bool) (th : Nat) :
    (s.vecRes t g pred pneg c).executes t g p b th = s.executes t g p b th := by
  rw [State.executes, State.vecRes_group, State.executes]

/-! ### Special values (S2R) -/

theorem s2rVal_of_threadSame (s : State) (t g : Nat) {x y : Group} {th : Nat} (h : x.threadSame y th) (imm : Nat) :
    s2rVal s t g x th imm = s2rVal s t g y th imm := by
  obtain ⟨-, hheld, -, hflags⟩ := h
  unfold s2rVal
  dsimp only
  split <;> first | rfl | exact hheld | exact hflags

/-- S2R in one thread: vd, and for imm 6 the upper half that imm 7 reads later (R154). -/
def s2rBody (s : State) (t g : Nat) (w : FmtI) (x : Group) (th : Nat) : Group × Nat :=
  let y := x.setReg th w.vd (s2rVal s t g x th w.imm)
  (if w.imm = 6 then { y with held := y.held.put th (s.dieTime (tileDie t) / 2 ^ 32 % 2 ^ 32) } else y, 0)

theorem s2rBody_reg (s : State) (t g : Nat) (w : FmtI) (x : Group) (th th' r : Nat) :
    (s2rBody s t g w x th).1.reg th' r = (x.setReg th w.vd (s2rVal s t g x th w.imm)).reg th' r := by
  unfold s2rBody
  dsimp only
  split <;> rfl

theorem s2rBody_threadSame (s : State) (t g : Nat) (w : FmtI) (x : Group) {th th' : Nat} (h : th' ≠ th) :
    (s2rBody s t g w x th).1.threadSame x th' := by
  refine ⟨fun r => ?_, ?_, ?_, ?_⟩
  · rw [s2rBody_reg, Group.reg_setReg, if_neg (fun e => h e.1)]
  all_goals unfold s2rBody; dsimp only
  · split
    · exact Tab.atD_put_ne _ h ..
    · rfl
  all_goals split <;> rfl

theorem State.s2r_reg (s s0 : State) (t g : Nat) (w : FmtI) {th : Nat} (hth : s.executes t g w.pred w.pneg th = true) :
    ((s.vec t g w.pred w.pneg (s2rBody s0 t g w)).group t g).reg th w.vd = s2rVal s0 t g (s.group t g) th w.imm % 2 ^ 32 := by
  refine (State.vec_reg s t g w.pred w.pneg (d := w.vd) (val := fun th => s2rVal s0 t g (s.group t g) th w.imm) (fun x th hx r => ?_)
    (fun x th th' hne => s2rBody_threadSame s0 t g w x hne) th w.vd).trans (if_pos ⟨hth, rfl⟩)
  rw [s2rBody_reg, Group.reg_setReg, s2rVal_of_threadSame s0 t g hx, hx.1 r]
  simp

/-! ### Draws of the lane generators leave the groups -/

theorem State.laneWord_group (s : State) (t lane : Nat) (fixed : Bool) (ctr word t' g : Nat) :
    ((s.laneWord t lane fixed ctr word).2).group t' g = s.group t' g := by
  unfold State.laneWord
  dsimp only
  split
  · rfl
  · by_cases h : t' = t
    · subst h; simp [State.group]
    · simp [State.group, State.tile_setTile_ne s h]

theorem State.drawAll_group {f : State → Nat → Nat × State} (hf : ∀ s th t g, ((f s th).2).group t g = s.group t g)
    (s : State) (ths : List Nat) (t g : Nat) : (s.drawAll ths f).2.group t g = s.group t g := by
  suffices ∀ (acc : Tab Nat × State), (ths.foldl (fun acc th => let r := f acc.2 th; (acc.1.put th r.1, r.2)) acc).2.group t g =
      acc.2.group t g from this ({}, s)
  induction ths with
  | nil => exact fun _ => rfl
  | cons th l ih => exact fun acc => (ih _).trans (hf acc.2 th t g)

theorem State.cvtRandom_group (s : State) (t g th : Nat) (w : FmtV) (t' g' : Nat) :
    ((s.cvtRandom t g th w).2).group t' g' = s.group t' g' := by
  unfold State.cvtRandom
  dsimp only
  split
  · exact State.laneWord_group ..
  · rfl

theorem State.cvtRun_pc {s : State} {t g : Nat} (hruns : s.runs t g = true) (w : FmtV) (scaled : Bool) :
    ((s.cvtRun t g w scaled).group t g).pc = (s.group t g).next.pc := by
  unfold State.cvtRun
  rw [State.issue_runs s hruns]
  refine (State.vec_pc _ t g w.pred w.pneg fun _ _ => rfl).trans (congrArg (fun y : Group => y.next.pc) ?_)
  exact (State.drawAll_group (fun s th => State.cvtRandom_group s t g th w) ..).trans (State.vecRes_group ..)

/-! ### Slots -/

theorem State.setSlot_group (s : State) (t k : Nat) (f : Slot → Slot) (t' g : Nat) : (s.setSlot t k f).group t' g = s.group t' g := by
  by_cases h : t' = t
  · subst h; simp [State.group, State.setSlot]
  · simp [State.group, State.setSlot, State.tile_setTile_ne s h]

theorem State.slot_setSlot (s : State) (t k : Nat) (f : Slot → Slot) : (s.setSlot t k f).slot t k = f (s.slot t k) := by
  simp [State.slot, State.setSlot]

theorem State.slot_setGroup (s : State) (t g : Nat) (f : Group → Group) (t' k : Nat) : (s.setGroup t g f).slot t' k = s.slot t' k := by
  by_cases h : t' = t
  · subst h; simp [State.slot, State.setGroup]
  · simp [State.slot, State.setGroup, State.tile_setTile_ne s h]

theorem State.vec_slot (s : State) (t g pred : Nat) (pneg : Bool) (f : Group → Nat → Group × Nat) (t' k : Nat) :
    (s.vec t g pred pneg f).slot t' k = s.slot t' k := State.slot_setGroup ..

theorem State.tileRes_slot (s : State) (t : Nat) (c : Bool) (t' k : Nat) : (s.tileRes t c).slot t' k = s.slot t' k := by
  cases c <;> rfl

theorem State.nfOrigin_keeps {α : Type} {π : State → α} (h : ReportIndep π) (s : State) (d tid tile : Nat) :
    π (s.nfOrigin d tid tile) = π s := by
  unfold State.nfOrigin
  split
  · rfl
  · simp only [State.pf_keeps h]

theorem State.localNf_keeps {α : Type} {π : State → α} (h : ReportIndep π) (s : State) (d tid tile : Nat) :
    π (s.localNf d tid tile) = π s := by
  unfold State.localNf
  split
  · rfl
  · exact (State.when_keeps _ (fun s => State.notice_keeps h s ..) _).trans ((State.nfOrigin_keeps h _ ..).trans (State.pf_keeps h s ..))

theorem State.onJob_group (s : State) (n j : Nat) (f : Job → Job) (t g : Nat) : (s.onJob n j f).group t g = s.group t g := by
  unfold State.onJob
  split <;> rfl

theorem State.handover_group (s : State) (t k t' g : Nat) : (s.handover t k).group t' g = s.group t' g := by
  unfold State.handover
  dsimp only
  split
  · rfl
  · split
    · exact State.when_keeps (π := fun s => s.group t' g) _
        (fun s => State.localNf_keeps (π := fun s => s.group t' g) (fun _ _ _ _ _ _ _ => rfl) s ..) _
    · exact State.onJob_group ..

/-- AMAX before its results are written: the slot takes the maximum and the mark (R169, R217). -/
def State.amaxSlot (s : State) (t k m : Nat) (ths : List Nat) (bad : Bool) : State :=
  let s := if ths = [] then s else s.slotMax t k m
  s.when bad (fun s => s.slotMark t k Mk.nonfinite)

theorem State.amaxSlot_group (s : State) (t k m : Nat) (ths : List Nat) (bad : Bool) (t' g : Nat) :
    (s.amaxSlot t k m ths bad).group t' g = s.group t' g := by
  refine (State.when_keeps (π := fun s => s.group t' g) _ (fun s => State.setSlot_group s ..) _).trans ?_
  split
  · rfl
  · exact State.setSlot_group s ..

theorem State.le_amaxSlot_max (s : State) (t k m : Nat) (ths : List Nat) (bad : Bool) :
    (s.slot t k).max ≤ ((s.amaxSlot t k m ths bad).slot t k).max := by
  have hmark : ∀ s : State, ((s.when bad (fun s => s.slotMark t k Mk.nonfinite)).slot t k).max = (s.slot t k).max := fun s => by
    cases bad
    · rfl
    · change ((s.slotMark t k Mk.nonfinite).slot t k).max = _
      rw [State.slotMark, State.slot_setSlot]
  rw [State.amaxSlot, hmark]
  split
  · exact Nat.le_refl _
  · rw [State.slotMax, State.slot_setSlot]
    exact Nat.le_max_left _ m

/-! ### SBIND and SRCTX -/

theorem exec_sbind_pc {s : State} {t g : Nat} (hruns : s.runs t g = true) {w : FmtV} (hready : s.slotReady t (w.slot % 16) = true) :
    ∃ s', exec (.sbind t g w) s = .next s' ∧ (s'.group t g).pc = (s.group t g).next.pc := by
  have hexec : exec (.sbind t g w) s = .next (s.issue t g _) := if_neg (by simp [hready])
  refine ⟨_, hexec, ?_⟩
  rw [State.issue_runs s hruns]
  dsimp only
  split
  · rw [State.group_advance, State.rmRes, State.vecRes_group]
  · rw [State.group_advance]
    refine congrArg (fun y : Group => y.next.pc) ?_
    refine Eq.trans ?_ (State.vecRes_group s t g w.pred w.pneg (w.rm > 3 || typeRes w) t g)
    split
    · rw [State.setSlot_group, State.handover_group]; rfl
    · split
      · rw [State.group_pf, State.setSlot_group, State.handover_group]; rfl
      · rw [State.setSlot_group, State.handover_group]; rfl

theorem exec_srctx {s : State} {t g : Nat} (hruns : s.runs t g = true) (w : FmtV) :
    ∃ s', exec (.srctx t g w) s = .next s' ∧ (s'.group t g).pc = (s.group t g).next.pc ∧
      ∀ th, s.leader t g w.pred w.pneg = some th → (s'.group t g).srTid = intA w ((s.group t g).reg th w.va) % 2 ^ 24 := by
  have hgroup : (s.rmRes t g w).group t g = s.group t g := State.vecRes_group ..
  refine ⟨_, congrArg Host.Outcome.next (State.issue_runs s hruns _), ?_⟩
  have hleader : (s.rmRes t g w).leader t g w.pred w.pneg = s.leader t g w.pred w.pneg := by rw [State.leader, hgroup, State.leader]
  dsimp only
  rw [hleader]
  split
  · next th h =>
    rw [State.group_advance, State.group_setGroup, hgroup]
    refine ⟨Group.next_pc_of_flow rfl, fun th' h' => ?_⟩
    rw [Group.next_srTid]
    rw [h] at h'
    obtain rfl := Option.some.inj h'
    rfl
  · next h =>
    rw [State.group_advance, hgroup]
    exact ⟨rfl, fun th' h' => by simp [h] at h'⟩

theorem exec_rand_pc {s : State} {t g : Nat} (hruns : s.runs t g = true) (w : FmtV) :
    ∃ s', exec (.rand t g w) s = .next s' ∧ (s'.group t g).pc = (s.group t g).next.pc := by
  refine ⟨_, congrArg Host.Outcome.next (State.issue_runs s hruns _), ?_⟩
  dsimp only
  rw [State.vec_pc]
  · rw [State.drawAll_group fun s th t' g' => State.laneWord_group s .., State.rmRes, State.vecRes_group]
  · exact fun _ _ => rfl

/-! ### The statement -/

/-- Settles O12: each instruction is its function of the registers before it, in every executing thread. -/
theorem movesAndSlotsComplete : Obligations.MovesAndSlotsComplete := by
  refine ⟨fun s t g w w' hruns => ?_, fun s t g w hruns hready => ?_⟩
  · have hissue := fun body => congrArg (Host.Outcome.next (φ := Fault) (ρ := Refusal)) (State.issue_runs s hruns body)
    refine ⟨hissue _, hissue _, hissue _, hissue _, rfl, rfl, State.cvtRun_pc hruns w, hissue _, _, hissue _, fun th _ hth => ?_⟩
    refine (congrArg (· % 2 ^ 32) (State.s2r_reg (s.vecRes t g w'.pred w'.pneg (decide (w'.imm > 11))) s t g w' (th := th) ?_)).trans ?_
    · rwa [State.vecRes_executes]
    · rw [State.vecRes_group, Nat.mod_mod]
  · have hissue := fun body => congrArg (Host.Outcome.next (φ := Fault) (ρ := Refusal)) (State.issue_runs s hruns body)
    have hpc : ∀ (s0 : State) f, s0.group t g = s.group t g → (∀ x th, ((f : Group → Nat → Group × Nat) x th).1.flow = x.flow) →
        ((s0.vec t g w.pred w.pneg f).group t g).pc = (s.group t g).next.pc := fun s0 f h0 hf => by
      rw [State.vec_pc s0 t g w.pred w.pneg hf, h0]
    have hres : ∀ c, ((s.rmRes t g w).vecRes t g w.pred w.pneg c).group t g = s.group t g := fun c =>
      (State.vecRes_group ..).trans (State.vecRes_group ..)
    have hexecutes : ∀ c th, ((s.rmRes t g w).vecRes t g w.pred w.pneg c).executes t g w.pred w.pneg th = s.executes t g w.pred w.pneg th :=
      fun c th => (State.vecRes_executes ..).trans (State.vecRes_executes ..)
    refine ⟨?_, ?_, ?_, ?_, exec_sbind_pc hruns (hready _), ?_, exec_srctx hruns w⟩
    · have hexec : exec (.xlut t g w) s = .next (s.issue t g _) := if_neg (by simp [hready])
      refine ⟨_, hexec.trans (hissue _), hpc _ _ (hres _) fun _ _ => rfl, fun th _ hth => ?_⟩
      refine (State.vec_setReg _ t g w.pred w.pneg w.vd
        (fun x th => (xlutVal (s.slot t (intB w (x.reg th w.vb) % 16)) (codeA w (slotGet (x.reg th w.va) (slotNo w.slot 4) 4)) (s.vecFtz t)).1)
        (fun x th => (xlutVal (s.slot t (intB w (x.reg th w.vb) % 16)) (codeA w (slotGet (x.reg th w.va) (slotNo w.slot 4) 4)) (s.vecFtz t)).2)
        (fun x th hx => by simp only [hx.1]) ((hexecutes _ th).trans hth)).trans ?_
      rw [hres]
    · have hexec : exec (.sget t g w) s = .next (s.issue t g _) := if_neg (by simp [hready])
      refine ⟨_, hexec.trans (hissue _), hpc _ _ (hres _) fun x th => ?_, fun htd th _ hth => ?_⟩
      · split <;> rfl
      · simp only [if_neg htd]
        exact State.vec_setReg _ t g w.pred w.pneg w.vd
          (fun _ _ => if (s.slot t (w.slot % 16)).bound then (s.slot t (w.slot % 16)).scale else 0x3F800000) (fun _ _ => 0)
          (fun _ _ _ => rfl) ((hexecutes _ th).trans hth)
    · have hexec : exec (.amax t g w) s = .next (s.issue t g _) := if_neg (by simp [hready])
      refine ⟨_, hexec.trans (hissue _), ?_, ?_⟩
      · exact hpc _ _ ((State.amaxSlot_group (s.rmRes t g w) t (w.slot % 16) _ _ _ t g).trans (State.vecRes_group ..)) fun _ _ => rfl
      · have hslot : (s.rmRes t g w).slot t (w.slot % 16) = s.slot t (w.slot % 16) := State.tileRes_slot ..
        rw [State.vec_slot, ← hslot]
        exact State.le_amaxSlot_max ..
    · exact ⟨_, hissue _, hpc _ _ (hres _) fun _ _ => rfl⟩
    · exact exec_rand_pc hruns w

end Sys2Proof.Machine

/-! PROOF. One step and one word, and what the bus leaves of memory: the front command, the words written out, and the canonical form of
the memory list under every write (R58, R69, R91). -/

namespace Sys2Proof.Machine

/-- Settles O1: the step takes the front command off the queue. -/
theorem stepRunsTheFrontCommand : Obligations.StepRunsTheFrontCommand := by
  intro s c rest h
  rw [step, h]

/-- Settles O5: each word is a number, and the decoder computes. -/
theorem writtenOutWordsDecode : Obligations.WrittenOutWordsDecode := by
  unfold Obligations.WrittenOutWordsDecode
  decide

/-! ### What the bus touches besides memory -/

/-- A reading of the state that neither a report nor the bus's own bookkeeping can change: wakes, counts of absent tiles, queued TLPs,
free values and the home's records. -/
def BusIndep {α : Type} (π : State → α) : Prop :=
  ∀ (s : State) regs outbox bmp quiet quietAt records freeCtr asleep absent pcie coh,
    π { s with
      regs := regs, outbox := outbox, bmp := bmp, flt := { s.flt with quiet := quiet, quietAt := quietAt, records := records },
      freeCtr := freeCtr, asleep := asleep, absent := absent, pcie := pcie, coh := coh } = π s

/-- A reading of the state that neither a report nor a transaction at its home can change: the copies, the directory, the open
transactions and the messages are no part of it, but what waits at the home is. -/
def TxnIndep {α : Type} (π : State → α) : Prop :=
  ∀ (s : State) regs outbox bmp quiet quietAt records copies wbBuf dir dirSeq txns net presCount presBits,
    π { s with
      regs := regs, outbox := outbox, bmp := bmp, flt := { s.flt with quiet := quiet, quietAt := quietAt, records := records },
      coh := { s.coh with
        copies := copies, wbBuf := wbBuf, dir := dir, dirSeq := dirSeq, txns := txns, net := net, presCount := presCount
        presBits := presBits } } = π s

/-- The queues at the home stay. -/
def CohSt.sameQueues (c c' : CohSt) : Prop :=
  c'.conflictQ = c.conflictQ ∧ c'.retryQ = c.retryQ ∧ c'.waitQ = c.waitQ ∧ c'.admitted = c.admitted ∧ c'.rewatch = c.rewatch

/-- A reading of the state that no tile's state is part of. -/
def TilesIndep {α : Type} (π : State → α) : Prop := ∀ (s : State) tiles, π { s with tiles := tiles } = π s

section Transactions

variable {α : Type} {π : State → α} (h : TxnIndep π) (s : State)
include h

theorem TxnIndep.report : ReportIndep π := fun s regs outbox bmp quiet quietAt records =>
  h s regs outbox bmp quiet quietAt records s.coh.copies s.coh.wbBuf s.coh.dir s.coh.dirSeq s.coh.txns s.coh.net s.coh.presCount s.coh.presBits

theorem TxnIndep.onCoh {f : CohSt → CohSt} (hf : ∀ c : CohSt, c.sameQueues (f c)) : π (s.onCoh f) = π s := by
  obtain ⟨hconflict, hretry, hwait, hadmitted, hrewatch⟩ := hf s.coh
  rw [State.onCoh]
  generalize f s.coh = c at hconflict hretry hwait hadmitted hrewatch
  cases c
  dsimp only at hconflict hretry hwait hadmitted hrewatch
  subst hconflict hretry hwait hadmitted hrewatch
  exact h s s.regs s.outbox s.bmp s.flt.quiet s.flt.quietAt s.flt.records ..

theorem State.presUp_keeps (line : Nat) : π (s.presUp line).1 = π s := by
  unfold State.presUp
  split
  · dsimp only
    exact TxnIndep.onCoh h s fun _ => ⟨rfl, rfl, rfl, rfl, rfl⟩
  · rfl

theorem State.presDown_keeps (line : Nat) : π (s.presDown line) = π s := by
  unfold State.presDown
  split
  · refine TxnIndep.onCoh h s fun _ => ?_
    split <;> exact ⟨rfl, rfl, rfl, rfl, rfl⟩
  · rfl

theorem State.freeDir_keeps (line : Nat) : π (s.freeDir line) = π s := by
  unfold State.freeDir
  split
  · exact (State.presDown_keeps h _ _).trans (TxnIndep.onCoh h s fun _ => ⟨rfl, rfl, rfl, rfl, rfl⟩)
  · rfl

theorem State.newDir_keeps (line : Nat) (e : DirEnt) : π (s.newDir line e).1 = π s :=
  (State.presUp_keeps h _ _).trans (TxnIndep.onCoh h s fun _ => ⟨rfl, rfl, rfl, rfl, rfl⟩)

theorem State.setDir_keeps (line : Nat) (e : DirEnt) : π (s.setDir line e) = π s :=
  TxnIndep.onCoh h s fun _ => ⟨rfl, rfl, rfl, rfl, rfl⟩

end Transactions

section Bus

variable {α : Type} {π : State → α} (h : BusIndep π) (s : State)
include h

theorem BusIndep.report : ReportIndep π := fun s regs outbox bmp quiet quietAt records =>
  h s regs outbox bmp quiet quietAt records s.freeCtr s.asleep s.absent s.pcie s.coh

theorem BusIndep.txn : TxnIndep π := fun s regs outbox bmp quiet quietAt records _ _ _ _ _ _ _ _ =>
  h s regs outbox bmp quiet quietAt records s.freeCtr s.asleep s.absent s.pcie _

theorem State.free_keeps : π s.free.2 = π s :=
  h s s.regs s.outbox s.bmp s.flt.quiet s.flt.quietAt s.flt.records _ s.asleep s.absent s.pcie s.coh

theorem State.withCoh_keeps (coh : CohSt) : π { s with coh := coh } = π s :=
  h s s.regs s.outbox s.bmp s.flt.quiet s.flt.quietAt s.flt.records s.freeCtr s.asleep s.absent s.pcie coh

theorem State.onCoh_keeps (f : CohSt → CohSt) : π (s.onCoh f) = π s := State.withCoh_keeps h s _

theorem State.absentAcc_keeps (t : Nat) : π (s.absentAcc t) = π s :=
  (State.notice_keeps h.report _ ..).trans
    (h s s.regs s.outbox s.bmp s.flt.quiet s.flt.quietAt s.flt.records s.freeCtr s.asleep _ s.pcie s.coh)

theorem State.wakeUnit_keeps (u : UnitId) : π (s.wakeUnit u) = π s := by
  have hwake : ∀ u, π (s.wake u) = π s := fun u =>
    h s s.regs s.outbox s.bmp s.flt.quiet s.flt.quietAt s.flt.records s.freeCtr _ s.absent s.pcie s.coh
  cases u with
  | tile t => exact State.when_keeps s (fun s => State.pf_keeps h.report s ..) _
  | nme st => exact hwake _
  | drl n => exact hwake _

theorem State.ioTouch_keeps (pa : Nat) : π (s.ioTouch pa) = π s := by
  unfold State.ioTouch
  split
  · rfl
  · split
    · split
      · split
        · exact State.wakeUnit_keeps h s _
        · exact State.absentAcc_keeps h s _
      · split
        · exact State.wakeUnit_keeps h s _
        · exact State.absentAcc_keeps h s _
    · exact State.wakeUnit_keeps h s _
    · rfl

theorem State.podErr_keeps (pa : Nat) (write scrub window : Bool) (requester : Nat) :
    π (s.podErr pa write scrub window requester) = π s := by
  have hpf := fun s f i v => State.pf_keeps h.report s f i v
  unfold State.podErr
  refine (State.notice_keeps h.report _ ..).trans ((State.when_keeps _ (fun s => ?_) _).trans (State.bump_keeps h.report s ..))
  simp only [State.pb, hpf]

theorem State.memErrAt_keeps (pa : Nat) (write scrub : Bool) (place : Option (Nat × Nat × Nat)) :
    π (s.memErrAt pa write scrub place) = π s := by
  have hpf := fun s f i v => State.pf_keeps h.report s f i v
  have hplaced : ∀ (s : State) pl, π (s.memErrAt pa write scrub (some pl)) = π s := fun s pl => by
    unfold State.memErrAt
    dsimp only
    split
    · refine (State.notice_keeps h.report _ ..).trans ((State.when_keeps _ (fun s => ?_) _).trans (State.bump_keeps h.report s ..))
      simp only [State.pb, hpf]
    · refine (State.notice_keeps h.report _ ..).trans ((State.when_keeps _ (fun s => ?_) _).trans (State.bump_keeps h.report s ..))
      simp only [State.pb, hpf]
    · rfl
  cases place with
  | some pl => exact hplaced s pl
  | none => exact (hplaced s.free.2 (s.free.1.toNat % 64, s.free.1.toNat / 64 % 32, s.free.1.toNat / 2048 % 2 ^ 18)).trans (State.free_keeps h s)

theorem State.pcieSend_keeps (k : Nat) (t : Tlp) : π (s.pcieSend k t).2 = π s := by
  have hpcie : ∀ pcie, π { s with pcie := pcie } = π s := fun pcie =>
    h s s.regs s.outbox s.bmp s.flt.quiet s.flt.quietAt s.flt.records s.freeCtr s.asleep s.absent pcie s.coh
  unfold State.pcieSend
  dsimp only
  split
  · exact State.bump_keeps h.report s ..
  · split
    · split
      · exact hpcie _
      · rfl
    · exact hpcie _

theorem barWriteN_keeps (o : Option (Nat × Nat)) (k : Nat) : ∀ (fuel pa : Nat) (bs : Bytes) (s : State), π (barWriteN fuel o k pa bs s) = π s
  | 0, _, _, _ => rfl
  | fuel + 1, pa, bs, s => by
    have hpcie : ∀ (s : State) pcie, π { s with pcie := pcie } = π s := fun s pcie =>
      h s s.regs s.outbox s.bmp s.flt.quiet s.flt.quietAt s.flt.records s.freeCtr s.asleep s.absent pcie s.coh
    unfold barWriteN
    split
    · rfl
    · refine (barWriteN_keeps o k fuel ..).trans ?_
      have hsend := State.pcieSend_keeps h s k { owner := o, addr := pa, data := bs.take (min (512 - pa % 512) bs.length) }
      dsimp only
      split
      · next heq => rwa [heq] at hsend
      · next heq => rw [heq] at hsend; exact (hpcie _ _).trans hsend

theorem State.barWrite_keeps (o : Option (Nat × Nat)) (pa : Nat) (bs : Bytes) : π (s.barWrite o pa bs) = π s := by
  unfold State.barWrite
  split
  · exact barWriteN_keeps h ..
  · rfl

theorem State.enqueue_keeps (r : Req) : π (s.enqueue r) = π s := by
  unfold State.enqueue
  split <;> exact State.onCoh_keeps h s _

variable (ht : TilesIndep π)
include ht

theorem State.wakeAgent_keeps (a line : Nat) : π (s.wakeAgent a line) = π s := by
  unfold State.wakeAgent
  split
  · split
    · exact ht s _
    · rfl
  · split
    · dsimp only
      have heach := State.each_keeps s (fun r s => State.pf_keeps h.report s F.SEQ_STREAM_STATUS_armed r.1 0)
        (s.seq.streams.rows.filter (fun r => r.1 / 64 = a - agentSeq 0 && r.2.watch == some line))
      split
      · exact heach
      · exact (State.onCoh_keeps h _ _).trans heach
    · rfl

theorem State.invalidateAll_keeps (line : Nat) : π (s.invalidateAll line) = π s :=
  (State.each_keeps _ (fun a s => State.wakeAgent_keeps h s ht a line) _).trans
    ((State.freeDir_keeps h.txn _ _).trans (State.onCoh_keeps h s _))

end Bus

theorem memIndep : BusIndep State.mem := fun _ _ _ _ _ _ _ _ _ _ _ _ => rfl

/-! ### The canonical form under writes -/

theorem State.each_wf {β : Type} {f : β → State → State} (hf : ∀ x s, Mem.wf s.mem = true → Mem.wf (f x s).mem = true) :
    ∀ (l : List β) (s : State), Mem.wf s.mem = true → Mem.wf (s.each l f).mem = true
  | [], _, hs => hs
  | x :: l, s, hs => State.each_wf hf l (f x s) (hf x s hs)

theorem State.memLine_wf {s : State} (hs : Mem.wf s.mem = true) (key line : Nat) (data : Bytes) : Mem.wf (s.memLine key line data).mem = true := by
  unfold State.memLine
  split
  · rwa [State.bump_keeps memIndep.report]
  · exact Mem.wf_putBytes _ _ _ hs

theorem State.cohWriteLine_wf {s : State} (hs : Mem.wf s.mem = true) (key line off : Nat) (bs : Bytes) :
    Mem.wf (s.cohWriteLine key line off bs).mem = true := by
  unfold State.cohWriteLine
  split
  · rwa [State.enqueue_keeps memIndep]
  · split
    · rwa [State.memErrAt_keeps memIndep]
    · exact State.memLine_wf (by rwa [State.invalidateAll_keeps memIndep s fun _ _ => rfl]) ..

theorem cohWriteN_wf (key : Nat) : ∀ (fuel : Nat) (s : State) (pa : Nat) (bs : Bytes), Mem.wf s.mem = true → Mem.wf (cohWriteN fuel s key pa bs).mem = true
  | 0, _, _, _, hs => hs
  | fuel + 1, s, pa, bs, hs => by
    unfold cohWriteN
    split
    · exact hs
    · exact cohWriteN_wf key fuel _ _ _ (State.cohWriteLine_wf hs ..)

theorem State.cohWrite_wf {s : State} (hs : Mem.wf s.mem = true) (key pa : Nat) (bs : Bytes) : Mem.wf (s.cohWrite key pa bs).mem = true :=
  cohWriteN_wf key _ s pa bs hs

theorem State.sramWrite_wf {s : State} (hs : Mem.wf s.mem = true) (pa : Nat) (bs : Bytes) : Mem.wf (s.sramWrite pa bs).mem = true := by
  unfold State.sramWrite
  dsimp only
  split
  · exact Mem.wf_putBytes _ _ _ hs
  · rw [State.each_keeps (π := State.mem)]
    · exact Mem.wf_putBytes _ _ _ hs
    · intro w s
      split
      · exact State.podErr_keeps memIndep ..
      · rfl

theorem State.writeAt_wf {s : State} (hs : Mem.wf s.mem = true) (key pa : Nat) (bs : Bytes) : Mem.wf (s.writeAt key pa bs).mem = true := by
  have htouch : Mem.wf (s.ioTouch pa).mem = true := by rwa [State.ioTouch_keeps memIndep]
  unfold State.writeAt
  split
  · exact State.cohWrite_wf hs ..
  · exact State.cohWrite_wf hs ..
  · exact State.cohWrite_wf hs ..
  · exact State.sramWrite_wf hs ..
  · split
    · exact State.sramWrite_wf htouch ..
    · exact htouch
  · exact hs
  · rwa [State.barWrite_keeps memIndep]
  · exact hs

/-- Settles O7: a write puts bytes into the memory list one by one, and everything else it does leaves the list. -/
theorem memoryStaysCanonical : Obligations.MemoryStaysCanonical :=
  ⟨fun _ key pa line bs hs => ⟨State.writeAt_wf hs key pa bs, State.sramWrite_wf hs pa bs, State.cohWrite_wf hs key pa bs,
    State.memLine_wf hs key line bs⟩, rfl, rfl, fun _ => rfl⟩

end Sys2Proof.Machine

/-! PROOF. Which fields a write of a field leaves, and the time base (R31 to R37): what each of its commands leaves in its registers. -/

namespace Sys2Proof.Machine

variable (s : State)

/-! ### Fields apart -/

/-- f and f' lie in different registers, or in different bits of one. -/
def Fld.apart (f f' : Fld) : Bool :=
  f'.reg.ctorIdx ≠ f.reg.ctorIdx ||
    f'.reg = f.reg && f.hi < 64 && f.lo ≤ f.hi && f'.lo ≤ f'.hi && (f'.hi < f.lo || f.hi < f'.lo)

/-- A write of a field leaves every field apart from it, here at one index. -/
theorem State.gf_pf_apart {f f' : Fld} (h : Fld.apart f f' = true) (i v : Nat) : (s.pf f i v).gf f' i = s.gf f' i := by
  simp only [Fld.apart, Bool.or_eq_true, Bool.and_eq_true, decide_eq_true_eq] at h
  rcases h with h | ⟨⟨⟨⟨hreg, hhi⟩, hlo⟩, hlo'⟩, hd⟩
  · exact State.gf_pf_otherReg _ _ h ..
  · exact State.gf_pf_field _ _ hreg hhi hlo hlo' hd

theorem State.gb_pf_apart {f f' : Fld} (h : Fld.apart f f' = true) (i v : Nat) : (s.pf f i v).gb f' i = s.gb f' i := by
  rw [State.gb, State.gf_pf_apart s h, State.gb]

/-- A write to a field of one register leaves every field of another, at any place of the register map. -/
theorem State.gf_pf_distinct (f f' : Fld) (h : f'.reg.ctorIdx ≠ f.reg.ctorIdx) {i j : Nat} (hi : i < 65536) (hj : j < 65536) (v : Nat) :
    (s.pf f i v).gf f' j = s.gf f' j :=
  State.gf_pf_reg s (by unfold Reg.key; omega) v

/-! ### The master's time -/

theorem State.now_pf {f : Fld} (h : Fld.apart f F.TB_TIME_time = true) (v : Nat) : (s.pf f 0 v).now = s.now := State.gf_pf_apart s h ..

theorem State.setMaster_now (t : Nat) : (s.setMaster t).now = t % 2 ^ 64 := by
  have h : (s.pf F.TB_TIME_time 0 t).now = t % 2 ^ 64 := State.gf_pf_same s F.TB_TIME_time 0 t (by decide) (by decide)
  unfold State.setMaster State.when
  dsimp only
  split <;> exact h

/-- A forward correction is applied at once and noted as a step. -/
theorem State.adjust_forward {d : Int} (hd : 0 < d) :
    (s.adjust d).now = (s.now + d.toNat) % 2 ^ 64 ∧ (s.adjust d).gb F.TB_STATUS_stepped = true := by
  rw [State.adjust, if_pos hd]
  constructor
  · rw [State.now_pf _ (by decide), State.now_pf _ (by decide), State.setMaster_now, Nat.mod_mod]
  · rw [State.gb_pf_apart _ (by decide)]
    exact State.gb_pf_one _ _ _ (by decide) (by decide)

/-- A backward correction is slewed. -/
theorem State.adjust_backward {d : Int} (hd : d < 0) :
    (s.adjust d).now = s.now ∧ (s.adjust d).gb F.TB_STATUS_slewing = true ∧ (s.adjust d).time.slewRem = (-d).toNat * nsUnit := by
  rw [State.adjust, if_neg (by omega), if_pos hd]
  exact ⟨State.now_pf _ (by decide) _, State.gb_pf_one _ _ _ (by decide) (by decide), rfl⟩

theorem State.setMaster_gf {f : Fld} (htime : Fld.apart F.TB_TIME_time f = true) (t : Nat) : (s.setMaster t).gf f = s.gf f := by
  have h : (s.pf F.TB_TIME_time 0 t).gf f = s.gf f := State.gf_pf_apart s htime 0 t
  unfold State.setMaster State.when
  dsimp only
  split <;> exact h

theorem State.adjust_gf {f : Fld} (htime : Fld.apart F.TB_TIME_time f = true) (hstep : Fld.apart F.TB_STATUS_stepped f = true)
    (hslew : Fld.apart F.TB_STATUS_slewing f = true) (d : Int) : (s.adjust d).gf f = s.gf f := by
  unfold State.adjust
  split
  · rw [State.gf_pf_apart _ hslew, State.gf_pf_apart _ hstep, State.setMaster_gf _ htime]
    rfl
  · rw [State.gf_pf_apart _ hslew]
    rfl

theorem State.tracked_gf {f : Fld} (hold : Fld.apart F.TB_STATUS_holdover f = true) (lock : Fld.apart F.TB_STATUS_locked f = true) (d : Int) :
    (s.tracked d).gf f = s.gf f := by
  rw [State.tracked, State.gf_pf_apart _ lock, State.gf_pf_apart _ hold]

theorem State.tracked_gb {f : Fld} (hold : Fld.apart F.TB_STATUS_holdover f = true) (lock : Fld.apart F.TB_STATUS_locked f = true) (d : Int) :
    (s.tracked d).gb f = s.gb f := by
  rw [State.gb, State.tracked_gf s hold lock, State.gb]

theorem State.tracked_holdover (d : Int) : (s.tracked d).gb F.TB_STATUS_holdover = false := by
  rw [State.tracked, State.gb_pf_apart _ (by decide)]
  exact State.gb_pf_zero _ _ _ (by decide) (by decide)

/-! ### The commands -/

theorem exec_tbAdj_forward {v : Word64} (hv : 0 < v.toInt) :
    ∃ s', exec (.tbAdj v) s = .next s' ∧ s'.now = (s.now + v.toNat) % 2 ^ 64 ∧ s'.gb F.TB_STATUS_stepped = true := by
  have hnat : v.toInt.toNat = v.toNat := by
    have hlt := v.isLt
    have hcond := BitVec.toInt_eq_toNat_cond v
    split at hcond <;> omega
  refine ⟨_, rfl, ?_⟩
  obtain ⟨hnow, hstep⟩ := State.adjust_forward s hv
  rw [hnat] at hnow
  unfold State.when
  split
  · exact ⟨(State.tracked_gf _ (by decide) (by decide) _).trans hnow, (State.tracked_gb _ (by decide) (by decide) _).trans hstep⟩
  · exact ⟨hnow, hstep⟩

theorem exec_tbAdj_backward {v : Word64} (hv : v.toInt < 0) :
    ∃ s', exec (.tbAdj v) s = .next s' ∧ s'.now = s.now ∧ s'.gb F.TB_STATUS_slewing = true ∧ s'.time.slewRem = (-v.toInt).toNat * nsUnit := by
  refine ⟨_, rfl, ?_⟩
  obtain ⟨hnow, hslew, hrem⟩ := State.adjust_backward s hv
  unfold State.when
  split
  · exact ⟨(State.tracked_gf _ (by decide) (by decide) _).trans hnow, (State.tracked_gb _ (by decide) (by decide) _).trans hslew, hrem⟩
  · exact ⟨hnow, hslew, hrem⟩

/-- A replica 5 to 10 ns off realigns to within 4 ns of the master, and no run of good or bad realignments goes on (R33). -/
theorem exec_replicaRealign {node ns : Nat} (hnode : node < 10) (hlo : 5 ≤ ns) (hhi : ns ≤ 10) :
    ∃ s' k, exec (.replicaRealign node ns) s = .next s' ∧ k ≤ 8 ∧ s'.dieTime node = (s.now + 2 ^ 64 + k - 4) % 2 ^ 64 ∧
      s'.time.bad.at? node = some 0 ∧ s'.time.good.at? node = some 0 := by
  have hexec : exec (.replicaRealign node ns) s = execReplicaRealign node ns s := rfl
  rw [hexec, execReplicaRealign, if_neg (by omega)]
  simp only [if_neg (show ¬ ns > 10 by omega), if_neg (show ¬ ns ≤ 4 by omega)]
  refine ⟨_, s.free.1.toNat % 9, rfl, by omega, ?_, Tab.at_put_same .., Tab.at_put_same ..⟩
  exact (State.gf_pf_same s.free.2 F.DIE_TIME_time node _ (by decide) (by decide)).trans (Nat.mod_mod _ _)

/-- Following the PPS by a correction keeps the captured time and ends holdover. -/
theorem State.follow_pps (e : Int) :
    let s' := if e = 0 then s.tracked e else (s.tracked e).adjust e
    s'.gf F.TB_PPS_CAPTURE_capture = s.gf F.TB_PPS_CAPTURE_capture ∧ s'.gb F.TB_STATUS_holdover = false := by
  have htracked : (s.tracked e).gf F.TB_PPS_CAPTURE_capture = s.gf F.TB_PPS_CAPTURE_capture := State.tracked_gf s (by decide) (by decide) e
  have hhold := State.tracked_holdover s e
  intro s'
  by_cases he : e = 0
  · simp only [s', if_pos he]
    exact ⟨htracked, hhold⟩
  · simp only [s', if_neg he]
    refine ⟨(State.adjust_gf _ (by decide) (by decide) (by decide) _).trans htracked, ?_⟩
    rw [State.gb, State.adjust_gf _ (by decide) (by decide) (by decide)]
    exact hhold

/-- The pulse's time is captured, and with the PPS as the source the time base tracks it (R36). -/
theorem exec_ppsInEdge {rising : Bool} (hrising : rising ≠ s.gb F.TB_CTRL_pps_in_edge) :
    ∃ s', exec (.ppsInEdge rising) s = .next s' ∧ s'.gf F.TB_PPS_CAPTURE_capture = s.now ∧
      (s.gf F.TB_CTRL_source = 2 → s'.gb F.TB_STATUS_holdover = false) := by
  have hexec : exec (.ppsInEdge rising) s = execPpsInEdge rising s := rfl
  have hnow : s.now < 2 ^ 64 := bitsN_lt (s.rdN .TB_TIME 0) 63 0
  have hcapture : (s.pf F.TB_PPS_CAPTURE_capture 0 s.now).gf F.TB_PPS_CAPTURE_capture = s.now :=
    State.gf_pf_of_lt s F.TB_PPS_CAPTURE_capture 0 (by decide) hnow
  have hsource : tbSource (s.pf F.TB_PPS_CAPTURE_capture 0 s.now) = tbSource s := by
    rw [tbSource, State.gf_pf_apart s (by decide), tbSource]
  rw [hexec, execPpsInEdge, if_neg (by simpa using hrising)]
  dsimp only
  rw [hsource]
  split
  · next hne => exact ⟨_, rfl, hcapture, fun h => absurd (show tbSource s = 2 by unfold tbSource; simp [h]) hne⟩
  · obtain ⟨hkept, hhold⟩ := State.follow_pps (s.pf F.TB_PPS_CAPTURE_capture 0 s.now)
      (if (s.pf F.TB_PPS_CAPTURE_capture 0 s.now).now % second < second / 2 then
          -((s.pf F.TB_PPS_CAPTURE_capture 0 s.now).now % second : Nat)
        else (second : Int) - ((s.pf F.TB_PPS_CAPTURE_capture 0 s.now).now % second : Nat))
    exact ⟨_, rfl, hkept.trans hcapture, fun _ => hhold⟩

theorem exec_tbSourceLost (h : s.gf F.TB_CTRL_source = 1 ∨ s.gf F.TB_CTRL_source = 2) :
    ∃ s', exec .tbSourceLost s = .next s' ∧ s'.gb F.TB_STATUS_holdover = true ∧ s'.gb F.TB_STATUS_locked = false := by
  have hsource : tbSource s ≠ 0 := by unfold tbSource; rcases h with h | h <;> simp [h]
  refine ⟨_, rfl, ?_⟩
  rw [State.holdover, if_neg hsource]
  refine ⟨?_, State.gb_pf_zero _ _ _ (by decide) (by decide)⟩
  rw [State.gb_pf_apart _ (by decide)]
  exact State.gb_pf_one _ _ _ (by decide) (by decide)

/-- Settles O22: each command writes its fields last, and the fields it is asked for lie apart from the others it writes. -/
theorem timeBaseCompletes : Obligations.TimeBaseCompletes := by
  refine fun s => ⟨fun _ => exec_tbAdj_forward s, fun _ => exec_tbAdj_backward s, fun hslewing hrem => ?_, fun v _ _ => ?_,
    fun _ _ => exec_replicaRealign s, fun _ => exec_ppsInEdge s, fun hsource => ?_, fun hsecond hout => ?_, fun hhigh => ?_,
    exec_tbSourceLost s⟩
  · have hexec : exec .slewDone s = .next (s.pf F.TB_STATUS_slewing 0 0) := congrArg Host.Outcome.next (if_pos (by simp [hslewing, hrem]))
    exact ⟨_, hexec, State.gb_pf_zero _ _ _ (by decide) (by decide)⟩
  · refine ⟨_, exec_tbIncrWrite v s, ?_⟩
    rw [State.gf_pf_tbIncrClamp, tbIncrClamp_of_within (by omega) (by omega)]
    exact (Nat.mod_eq_of_lt v.isLt).symm
  · have hsource : tbSource s = 2 := by unfold tbSource; simp [hsource]
    have hexec : exec .ppsMissing s = execPpsMissing s := rfl
    have hmissing : tbSource (s.pf F.TB_STATUS_pps_missing 0 1) = 2 := by
      rw [tbSource, State.gf_pf_apart s (by decide)]
      exact hsource
    rw [hexec, execPpsMissing, if_neg (by simp [hsource]), State.holdover, if_neg (by simp [hmissing])]
  · have hexec : exec .ppsOutPulse s = execPpsOutPulse s := rfl
    rw [hexec, execPpsOutPulse, if_neg (by simp [hsecond])]
    exact ⟨_, congrArg Host.Outcome.next (if_pos hout), rfl, rfl⟩
  · have hexec : exec .ppsOutEnd s = execPpsOutEnd s := rfl
    rw [hexec, execPpsOutEnd, if_neg (by simp [hhigh])]
    exact ⟨_, rfl, rfl, rfl⟩

end Sys2Proof.Machine

/-! PROOF. Translation registers and invalidation (R60 to R68), tandem writes, wakes and re-initialisation (R29, R43 to R49), and the
core-reset domain (R79, R381, R382). -/

namespace Sys2Proof.Machine

variable (s : State)

/-! ### Waking units -/

theorem State.each_eq_foldl {α : Type} (l : List α) (f : α → State → State) : s.each l f = l.foldl (fun a x => f x a) s := rfl

theorem State.wakeUnit_unitExists (u v : UnitId) : unitExists (s.wakeUnit u) v = unitExists s v := by
  have hfused : (s.wakeUnit u).fused = s.fused := State.wakeUnit_keeps (π := State.fused) (fun _ _ _ _ _ _ _ _ _ _ _ _ => rfl) s u
  cases v <;> simp only [unitExists, State.enabled, State.fusedMap, hfused]

theorem fltIdx_lt {node b : Nat} (hn : node < 10) (hb : b < 256) : fltIdx node b < 65536 := by
  unfold fltIdx
  split
  · omega
  · omega

/-- A write of another register leaves the state of every block. -/
theorem State.blkState_pf {f : Fld} (hf : Reg.FLT_STATUS.ctorIdx ≠ f.reg.ctorIdx) {i node b : Nat} (hi : i < 65536) (hn : node < 10)
    (hb : b < 256) (v : Nat) : (s.pf f i v).blkState node b = s.blkState node b := by
  have hgf : (s.pf f i v).gf F.FLT_STATUS_state (fltIdx node b) = s.gf F.FLT_STATUS_state (fltIdx node b) :=
    State.gf_pf_distinct s f F.FLT_STATUS_state hf hi (fltIdx_lt hn hb) v
  rw [State.blkState, hgf, State.pf_pwr, State.blkState]

theorem State.blkIn_pf {f : Fld} (hf : Reg.FLT_STATUS.ctorIdx ≠ f.reg.ctorIdx) {i node b : Nat} (hi : i < 65536) (hn : node < 10)
    (hb : b < 256) (v : Nat) : (s.pf f i v).blkIn node b = s.blkIn node b := by
  rw [State.blkIn, State.dieIn, State.blkState_pf s hf hi hn hb, State.blkState_pf s hf hi hn (by omega), State.blkIn, State.dieIn]

theorem unitIn_pf {f : Fld} (hf : Reg.FLT_STATUS.ctorIdx ≠ f.reg.ctorIdx) {i : Nat} (hi : i < 65536) (v : Nat) {u : UnitId}
    (hu : unitExists s u = true) : unitIn (s.pf f i v) u = unitIn s u := by
  cases u with
  | tile t =>
    have ht : t < 1152 := by simp only [unitExists, State.enabled, Bool.and_eq_true, decide_eq_true_eq] at hu; exact hu.1
    simp only [unitIn, State.tileIn]
    rw [State.blkIn_pf s hf hi (by unfold tileDie; omega) (by unfold tileBlk tileNo; omega)]
    rfl
  | nme st =>
    have hst : st < 16 := by simpa [unitExists] using hu
    simp only [unitIn]
    rw [State.blkState_pf s hf hi (by unfold stackDie; omega) (by unfold nmeBlk; omega)]
  | drl n =>
    have hn : n < 8 := by simpa [unitExists] using hu
    simp only [unitIn]
    rw [State.blkIn_pf s hf hi (by omega) (by omega)]

/-- A wake takes no unit out of service, and puts none to sleep. -/
theorem State.wakeUnit_unitAway {u v : UnitId} (hu : unitExists s u = true) (hv : unitAway s v = false) : unitAway (s.wakeUnit u) v = false := by
  have hexists := State.wakeUnit_unitExists s u v
  by_cases hvex : unitExists s v = true
  · simp only [unitAway, hvex, Bool.true_and, Bool.or_eq_false_iff, Bool.not_eq_false'] at hv
    obtain ⟨hin, hawake⟩ := hv
    suffices h : unitIn (s.wakeUnit u) v = true ∧ unitAsleep (s.wakeUnit u) v = false by simp [unitAway, h.1, h.2]
    cases u with
    | tile t =>
      have ht : t < 65536 := by simp only [unitExists, State.enabled, Bool.and_eq_true, decide_eq_true_eq] at hu; omega
      unfold State.wakeUnit State.when
      dsimp only
      split
      · refine ⟨(unitIn_pf s (by decide) ht 1 hvex).trans hin, ?_⟩
        cases v with
        | tile t' =>
          by_cases he : t' = t
          · subst he
            simp only [unitAsleep, State.tileState, State.gf_pf_same s F.TILE_STATUS_state t' 1 (by decide) (by decide)]
            decide
          · have hother : (s.pf F.TILE_STATUS_state t 1).gf F.TILE_STATUS_state t' = s.gf F.TILE_STATUS_state t' :=
              State.gf_pf_reg s (by unfold Reg.key; omega) 1
            exact (congrArg (fun n => decide (n = 3)) hother).trans hawake
        | nme st => exact hawake
        | drl n => exact hawake
      · exact ⟨hin, hawake⟩
    | nme st =>
      refine ⟨hin, ?_⟩
      cases v with
      | tile t' => exact hawake
      | nme st' => simp_all [unitAsleep, State.wakeUnit, State.wake]
      | drl n => simp_all [unitAsleep, State.wakeUnit, State.wake]
    | drl n =>
      refine ⟨hin, ?_⟩
      cases v with
      | tile t' => exact hawake
      | nme st' => simp_all [unitAsleep, State.wakeUnit, State.wake]
      | drl n => simp_all [unitAsleep, State.wakeUnit, State.wake]
  · simp [unitAway, hexists, hvex]

/-- Waking a list of units takes none away. -/
theorem State.wakeAll_unitAway {v : UnitId} : ∀ (l : List UnitId) (s : State), (∀ u ∈ l, unitExists s u = true) → unitAway s v = false →
    unitAway (s.each l (fun u s => s.wakeUnit u)) v = false
  | [], _, _, hv => hv
  | u :: l, s, hl, hv =>
    State.wakeAll_unitAway l (s.wakeUnit u)
      (fun x hx => (State.wakeUnit_unitExists s u x).trans (hl x (List.mem_cons_of_mem _ hx)))
      (State.wakeUnit_unitAway s (hl u List.mem_cons_self) hv)

/-! ### Invalidation -/

/-- What a completed invalidation leaves of the translation caches (R65), before the epoch tells the units that missed it. -/
def State.invalCaches (s : State) (w : Nat) : State :=
  let s := s.when s.epochFull (fun s => s.each (allUnits.filter (fun u => unitExists s u && unitIn s u && unitAsleep s u)) (fun u s => s.wakeUnit u))
  let away := fun (u : XUnit) => match xunitUnit u with | some i => unitAway s i | none => false
  ({ s with xl := { s.xl with inval := none, tlb := s.xl.tlb.filter (fun e => !invalHits w e || away e.unit) } } : State).dropCores (bitN w 8)

/-- Only an entry of a unit that was away still hits. -/
theorem State.invalCaches_tlb {w : Nat} {e : TlbEnt} (he : e ∈ (s.invalCaches w).xl.tlb)
    (hnear : ∀ u, xunitUnit e.unit = some u → unitAway s u = false) : invalHits w e = false := by
  have hnear' : ∀ u, xunitUnit e.unit = some u → unitAway (s.when s.epochFull (fun s =>
      s.each (allUnits.filter (fun u => unitExists s u && unitIn s u && unitAsleep s u)) (fun u s => s.wakeUnit u))) u = false := fun u hu => by
    unfold State.when
    split
    · refine State.wakeAll_unitAway _ s (fun x hx => ?_) (hnear u hu)
      simp only [List.mem_filter, Bool.and_eq_true] at hx
      exact hx.2.1.1
    · exact hnear u hu
  simp only [State.invalCaches, State.dropCores, List.mem_filter, Bool.or_eq_true, Bool.not_eq_true'] at he
  obtain ⟨⟨-, hkept⟩, -⟩ := he
  rcases hkept with hkept | hkept
  · exact hkept
  · split at hkept
    · next u hu => exact absurd hkept (by simp [hnear' u hu])
    · exact absurd hkept (by simp)

theorem State.recordLive_keeps {α : Type} {π : State → α} (h : ReportIndep π) (old : Nat) (skip : UnitId → Bool) : π (s.recordLive old skip) = π s := by
  refine State.each_keeps s (fun u s => ?_) _
  split
  · exact State.pf_keeps h s ..
  · rfl

theorem State.epochUpBut_keeps {α : Type} {π : State → α} (h : ReportIndep π) (skip : UnitId → Bool) : π (s.epochUpBut skip) = π s := by
  unfold State.epochUpBut
  dsimp only
  rw [State.recordLive_keeps _ h]
  split
  · exact (State.pf_keeps h _ ..).trans (State.pf_keeps h s ..)
  · exact State.pf_keeps h s ..

theorem State.epochUp_keeps {α : Type} {π : State → α} (h : ReportIndep π) : π s.epochUp = π s := State.epochUpBut_keeps s h _

theorem execTransInvalDone_some {w : Nat} (hw : s.xl.inval = some w) :
    ∃ c, execTransInvalDone s = .next (((s.invalCaches w).when c State.epochUp).pf F.TRANS_INVAL_busy 0 0) := by
  rw [execTransInvalDone, hw]
  exact ⟨_, rfl⟩

theorem exec_transInvalDone {w : Nat} (hw : s.xl.inval = some w) :
    ∃ s', exec .transInvalDone s = .next s' ∧ s'.gb F.TRANS_INVAL_busy = false ∧ s'.xl = (s.invalCaches w).xl := by
  have hexec : exec .transInvalDone s = execTransInvalDone s := rfl
  obtain ⟨c, hdone⟩ := execTransInvalDone_some s hw
  rw [hexec, hdone]
  refine ⟨_, rfl, State.gb_pf_zero _ _ _ (by decide) (by decide), ?_⟩
  rw [State.pf_xl]
  exact State.when_keeps (π := State.xl) _ (fun s => State.epochUp_keeps s fun _ _ _ _ _ _ _ => rfl) _

/-! ### Registers of translation -/

theorem exec_transCtxWrite_attr {role : Role} (hrole : s.mmioRole role = true) {c : Nat} (hc : c < 64) (hpart : s.gf F.TRANS_ATTR_part_id c = 0)
    {v : Word64} (hv : v.toNat % 16 = 0) :
    ∃ s', exec (.transCtxWrite role true c v) s = .next s' ∧ s'.gf F.TRANS_ATTR_open_access c = bitsN v.toNat 5 4 ∧
      s'.gf F.TRANS_ATTR_part_id c = 0 ∧ s'.mem = s.mem := by
  have hexec : exec (.transCtxWrite role true c v) s = execTransCtxWrite role true c v s := rfl
  have hopen : ∀ s : State, (s.pf F.TRANS_ATTR_open_access c (bitsN v.toNat 5 4)).gf F.TRANS_ATTR_open_access c = bitsN v.toNat 5 4 := fun s =>
    State.gf_pf_of_lt s _ _ (by decide) (bitsN_lt ..)
  have hzero : ((s.pf F.TRANS_ATTR_part_id c v.toNat).pf F.TRANS_ATTR_open_access c (bitsN v.toNat 5 4)).gf F.TRANS_ATTR_part_id c = 0 := by
    rw [State.gf_pf_apart _ (by decide)]
    exact (State.gf_pf_same _ _ _ _ (by decide) (by decide)).trans hv
  have hstatus : ∀ (s : State) (f : Fld), f.reg = .TRANS_ATTR →
      (s.when (bitsN v.toNat 5 4 = 3) (fun s => s.pf F.TRANS_STATUS_reserved_encoding 0 1)).gf f c = s.gf f c := fun s f hf =>
    State.when_keeps (π := fun s => s.gf f c) s
      (fun s => State.gf_pf_distinct s _ f (by rw [hf]; decide) (by omega) (by omega) 1) _
  rw [hexec, execTransCtxWrite, if_neg (by simp [hrole, hpart, hc, hv])]
  refine ⟨_, rfl, (hstatus _ _ rfl).trans (hopen _), (hstatus _ _ rfl).trans hzero, ?_⟩
  exact State.when_keeps (π := State.mem) _ (fun s => State.pf_mem s ..) _

theorem exec_catRootWrite {role : Role} (hrole : s.mmioRole role = true) (hen : s.gb F.CAT_ROOT_enable = false) (v : Word64) :
    ∃ s', exec (.catRootWrite role v) s = .next s' ∧ s'.gf F.CAT_ROOT_enable = v.toNat % 2 ∧
      s'.gf F.CAT_ROOT_key_gen = bitsN v.toNat 5 4 ∧ s'.gf F.CAT_ROOT_root = bitsN v.toNat 51 16 := by
  have hexec : exec (.catRootWrite role v) s = execCatRootWrite role v s := rfl
  rw [hexec, execCatRootWrite, if_neg (by simp [hrole, hen])]
  refine ⟨_, rfl, ?_, ?_, State.gf_pf_of_lt _ _ _ (by decide) (bitsN_lt ..)⟩
  · rw [State.gf_pf_apart _ (by decide), State.gf_pf_apart _ (by decide)]
    exact State.gf_pf_same _ _ _ _ (by decide) (by decide)
  · rw [State.gf_pf_apart _ (by decide)]
    exact State.gf_pf_of_lt _ _ _ (by decide) (bitsN_lt ..)

/-- An access of a tile whose page is no longer locked leaves the list of those that wait (R64). -/
theorem exec_lockedAccessRetry {i t pa e ty key : Nat} {w : LockWait} {s1 : State} (hw : s.xl.lockWait[i]? = some w) (hunit : w.unit = .tile t)
    (hx : s.xlate w.unit w.ctx w.va w.acc (unitNode w.unit) = (.ok pa e ty key, s1)) :
    ∃ s', exec (.lockedAccessRetry i) s = .next s' ∧ w ∉ s'.xl.lockWait ∧ s'.mem = s.mem := by
  have hexec : exec (.lockedAccessRetry i) s = execLockedAccessRetry i s := rfl
  have hheld : lockHeld s w = false := by
    unfold lockHeld
    rw [hunit] at hx ⊢
    simp only [hx]
  rw [hexec, execLockedAccessRetry, hw]
  dsimp only
  rw [if_neg (by simp [hheld]), hunit]
  exact ⟨_, rfl, by simp [State.unitGo], rfl⟩

/-- Settles O26: each write puts the bits it carries into the fields it names; an invalidation that is done has dropped what it names. -/
theorem translationCommandsComplete : Obligations.TranslationCommandsComplete := by
  intro s role v hrole
  have hinval : exec (.transInval role v) s = execTransInval role v s := rfl
  refine ⟨fun c hc hpart => ?_, fun _ hc hpart hv => exec_transCtxWrite_attr s hrole hc hpart hv, fun hbusy hfull => ?_, fun hbusy => ?_, fun w hw => ?_,
    fun hen => exec_catRootWrite s hrole hen v, fun _ _ _ _ _ _ _ _ => exec_lockedAccessRetry s⟩
  · have hexec : exec (.transCtxWrite role false c v) s = execTransCtxWrite role false c v s := rfl
    rw [hexec, execTransCtxWrite, if_neg (by simp [hrole, hpart, hc])]
    refine ⟨_, rfl, ?_, State.gf_pf_of_lt _ _ _ (by decide) (bitsN_lt ..), rfl⟩
    rw [State.gf_pf_apart _ (by decide)]
    exact State.gf_pf_same _ _ _ _ (by decide) (by decide)
  · rw [hinval, execTransInval, if_neg (by simp [hrole]), if_neg (by simp [hbusy])]
    exact ⟨_, rfl, State.gb_pf_one _ _ _ (by decide) (by decide), rfl⟩
  · rw [hinval, execTransInval, if_neg (by simp [hrole]), if_pos hbusy]
    exact ⟨_, rfl, State.gb_pf_one _ _ _ (by decide) (by decide), rfl⟩
  · obtain ⟨s', hexec, hbusy, hxl⟩ := exec_transInvalDone s hw
    refine ⟨s', hexec, hbusy, by rw [hxl]; rfl, fun e he => ?_⟩
    rw [hxl] at he
    exact State.invalCaches_tlb s he

/-! ### The core-reset domain -/

/-- Settles O28: the phase of the domain selects the case of the request. -/
theorem coreResetCompletes : Obligations.CoreResetCompletes := by
  intro s
  refine ⟨fun h => ?_, fun h => ?_, fun h => ?_, fun h => ?_, fun h hpending => ?_, fun d h => ?_, fun h hheld => ?_⟩
  · exact congrArg Host.Outcome.next ((if_pos rfl).trans (by rw [State.coreRequest, h]; rfl))
  · exact congrArg Host.Outcome.next ((if_pos rfl).trans (by rw [State.coreRequest, h]; rfl))
  · exact congrArg Host.Outcome.next ((if_pos rfl).trans (by rw [State.coreRequest, h]; rfl))
  · have hreq : s.coreRequest true = s.onHcr (fun h => { h with held := some (true || h.held.getD false) }) := by
      unfold State.coreRequest
      split
      · omega
      · omega
      · rfl
    exact ⟨_, congrArg Host.Outcome.next ((if_pos rfl).trans hreq), rfl⟩
  · have hexec : exec .coreFlushDone s = execCoreFlushDone s := rfl
    rw [hexec, execCoreFlushDone, if_neg (by simp [h, hpending])]
  · exact ⟨_, congrArg Host.Outcome.next (if_pos h), rfl⟩
  · have hexec : exec .coreBootDone s = execCoreBootDone s := rfl
    rw [hexec, execCoreBootDone, if_neg (by simp [h]), hheld]
    refine ⟨_, rfl, rfl, ?_, State.gf_pf_same _ _ _ _ (by decide) (by decide)⟩
    refine (State.gf_pf_reg _ (by decide) 0).trans ?_
    exact State.gf_pf_same _ _ _ _ (by decide) (by decide)

end Sys2Proof.Machine

/-! PROOF. Writes of TANDEM_CTRL, wakes, and the re-initialisation of a tile (R29, R43, R45, R48). -/

namespace Sys2Proof.Machine

variable (s : State)

/-! ### TANDEM_CTRL -/

/-- The bits of a number below 2 ^ n add up to it. -/
theorem sum_bits (m : Nat) : ∀ n, ((List.range n).map (fun k => if bitN m k then 2 ^ k else 0)).sum = m % 2 ^ n
  | 0 => by simp [Nat.mod_one]
  | n + 1 => by
    rw [List.range_succ, List.map_append, List.sum_append, sum_bits m n, Nat.pow_succ, Nat.mod_mul]
    have hbit : m / 2 ^ n % 2 = 0 ∨ m / 2 ^ n % 2 = 1 := by omega
    rcases hbit with h | h <;> simp [bitN, h]

/-- A group within one domain keeps all its members. -/
theorem exec_tandemCtrlWrite {role : Role} (hrole : s.mmioRole role = true) (v : Word32)
    (hdom : ∀ i j, i < 8 → j < 8 → bitN v.toNat i = true → bitN v.toNat j = true → s.domainOf i = s.domainOf j) :
    exec (.tandemCtrlWrite role v) s =
      .next { s with time := { s.time with tandemPend := some (v.toNat % 256 + bitsN v.toNat 8 8 * 256) } } := by
  have hbit : ∀ k, k < 8 → bitN (v.toNat % 256) k = bitN v.toNat k := fun k hk => by
    have hdiv : v.toNat % 2 ^ 8 / 2 ^ k % 2 = v.toNat / 2 ^ k % 2 := by interval_cases k <;> omega
    exact congrArg (· == 1) hdiv
  have hsum : ((List.range 8).map (fun k => if bitN (v.toNat % 256) k then 2 ^ k else 0)).sum = v.toNat % 256 := by
    rw [sum_bits]
    exact Nat.mod_mod _ _
  have hexec : exec (.tandemCtrlWrite role v) s = execTandemCtrlWrite role v s := rfl
  rw [hexec, execTandemCtrlWrite, if_neg (by simp [hrole])]
  refine congrArg Host.Outcome.next ?_
  dsimp only
  cases hlow : (List.range 8).find? (fun n => bitN (v.toNat % 256) n) with
  | none =>
    have hzero : v.toNat % 256 = 0 := by
      rw [← hsum, List.sum_eq_zero]
      intro x hx
      obtain ⟨k, hk, rfl⟩ := List.mem_map.mp hx
      exact if_neg (List.find?_eq_none.mp hlow k hk)
    simp [hzero, State.when]
  | some n =>
    have hn : bitN (v.toNat % 256) n = true := List.find?_some hlow
    have hn8 : n < 8 := List.mem_range.mp (List.mem_of_find?_eq_some hlow)
    have hkept : ((List.range 8).map (fun k => if bitN (v.toNat % 256) k && s.domainOf k == s.domainOf n then 2 ^ k else 0)).sum =
        v.toNat % 256 := by
      refine Eq.trans (congrArg List.sum (List.map_congr_left fun k hk => ?_)) hsum
      have hk8 := List.mem_range.mp hk
      by_cases hb : bitN (v.toNat % 256) k = true
      · have hdomk := hdom k n hk8 hn8 (by rwa [← hbit k hk8]) (by rwa [← hbit n hn8])
        simp [hb, hdomk]
      · simp [hb]
    simp only [hkept]
    simp [State.when]

/-! ### Re-initialisation -/

/-- A reading that the random counter is no part of. -/
def RandomIndep {α : Type} (π : State → α) : Prop := ∀ (s : State) n, π { s with rndCtr := n } = π s

theorem State.freshKeys_keeps {α : Type} {π : State → α} (h : RandomIndep π) (n lanes : Nat) : π (s.freshKeys n lanes).2 = π s := by
  unfold State.freshKeys
  dsimp only
  split
  · rfl
  · suffices ∀ (l : List Nat) (acc : List (Nat × Nat) × State), π (l.foldl (fun acc i =>
        let (w, s) := acc.2.random
        (acc.1 ++ [(i, w.toNat)], s)) acc).2 = π acc.2 from this _ ([], s)
    intro l
    induction l with
    | nil => exact fun _ => rfl
    | cons x l ih => exact fun acc => (ih _).trans (h acc.2 _)

theorem State.fwSettle_keeps {α : Type} {π : State → α} (h : ∀ (s : State) sec, π { s with sec := sec } = π s) (node : Nat) :
    π (s.fwSettle node) = π s := by
  have hreset : ∀ c : Bool, π (if c = true then s else { s with sec := { s.sec with dies := s.sec.dies.put node { s.sec.dies.atD node {} with reset := false } } }) = π s := fun c => by
    split
    · rfl
    · exact h s _
  unfold State.fwSettle
  dsimp only
  split
  · split
    · exact hreset _
    · exact (h _ _).trans (hreset _)
  · exact hreset _

/-- New keys for a tile's lanes change its generators only. -/
theorem State.rekeyUnit_tile (t : Nat) : ((s.rekeyUnit (.tile t)).tile t).slots = (s.tile t).slots ∧ (s.rekeyUnit (.tile t)).mem = s.mem := by
  have htile : (s.freshKeys (tileDie t) 64).2.tile t = s.tile t := State.freshKeys_keeps (π := fun s => s.tile t) s (fun _ _ => rfl) ..
  have hmem : (s.freshKeys (tileDie t) 64).2.mem = s.mem := State.freshKeys_keeps (π := State.mem) s (fun _ _ => rfl) ..
  unfold State.rekeyUnit
  refine ⟨?_, hmem⟩
  rw [State.tile_pf, State.tile_pf, State.tile_setTile, htile]

/-- A unit's caches and its place among those that waited, and what its die shows, are no part of its tile and of memory. -/
theorem State.reinit_tail {α : Type} {π : State → α} (hreg : ∀ (s : State) v, π (s.pf F.TANDEM_STATUS_locked 0 v) = π s)
    (hsec : ∀ (s : State) sec, π { s with sec := sec } = π s) (hredo : ∀ (s : State) redo, π { s with redo := redo } = π s)
    (htime : ∀ (s : State) time, π { s with time := time } = π s) (redo : List UnitId) (node : Nat) :
    π ((({ s with redo := redo } : State).tandemSync).fwSettle node) = π s :=
  (State.fwSettle_keeps _ hsec _).trans ((hreg _ _).trans ((htime _ _).trans (hredo s _)))

theorem State.pkgEpoch_lt : s.pkgEpoch < 2 ^ 32 := bitsN_lt (s.rdN .PKG_EPOCH 0) 31 0

/-- A tile that re-initialises has the package's epoch, and no slot is bound. -/
theorem State.reinit_tile {t : Nat} (ht : t < 1152) (ok : Bool) :
    (s.reinit (.tile t) ok).unitEpoch (.tile t) = s.pkgEpoch ∧ ((s.reinit (.tile t) ok).tile t).slots = {} ∧ (s.reinit (.tile t) ok).mem = s.mem := by
  have hwake : ∀ (s : State), (s.pf F.TILE_STATUS_state t 1).pkgEpoch = s.pkgEpoch := fun s =>
    State.gf_pf_distinct s F.TILE_STATUS_state F.PKG_EPOCH_epoch (by decide) (by omega) (by omega) 1
  have hwoken : (s.wakeUnit (.tile t)).pkgEpoch = s.pkgEpoch :=
    State.when_keeps (π := State.pkgEpoch) (f := fun s => s.pf F.TILE_STATUS_state t 1) s hwake (s.tileState t = 3)
  have hdrop : ((s.wakeUnit (.tile t)).each (unitX (.tile t)) (fun x s => s.dropTlb x)).pkgEpoch = s.pkgEpoch := by
    rw [State.each_keeps (π := State.pkgEpoch)]
    · exact hwoken
    · exact fun _ _ => rfl
  have hmem : ((s.wakeUnit (.tile t)).each (unitX (.tile t)) (fun x s => s.dropTlb x)).mem = s.mem := by
    rw [State.each_keeps (π := State.mem)]
    · exact State.wakeUnit_keeps memIndep s _
    · exact fun _ _ => rfl
  unfold State.reinit
  dsimp only
  generalize (s.wakeUnit (.tile t)).each (unitX (.tile t)) (fun x s => s.dropTlb x) = s1 at hdrop hmem
  have hrekey := State.rekeyUnit_tile ((s1.setTile t (fun tl => { tl with slots := {} })).pf F.TILE_STATUS_state t 1) t
  obtain ⟨hslots, hmem'⟩ := hrekey
  refine ⟨?_, ?_, ?_⟩
  · refine (State.reinit_tail (π := fun s => s.gf F.TILE_UNIT_EPOCH_epoch t) _ (fun s v => ?_) (fun _ _ => rfl) (fun _ _ => rfl)
      (fun _ _ => rfl) _ _).trans ?_
    · exact State.gf_pf_distinct s F.TANDEM_STATUS_locked F.TILE_UNIT_EPOCH_epoch (by decide) (by omega) (by omega) v
    · refine (State.gf_pf_of_lt _ F.TILE_UNIT_EPOCH_epoch t (by decide) (State.pkgEpoch_lt _)).trans ?_
      rw [hwake]
      exact hdrop
  · refine (State.reinit_tail (π := fun s => (s.tile t).slots) _ (fun _ _ => rfl) (fun _ _ => rfl) (fun _ _ => rfl) (fun _ _ => rfl) _ _).trans ?_
    rw [State.setUnitEpoch, State.tile_pf, hslots, State.tile_pf, State.tile_setTile]
  · refine (State.reinit_tail (π := State.mem) _ (fun _ _ => rfl) (fun _ _ => rfl) (fun _ _ => rfl) (fun _ _ => rfl) _ _).trans ?_
    exact hmem'.trans hmem

theorem exec_unitReinit_tile {t : Nat} {ok : Bool} (hin : s.tileIn t = true) (hidle : (s.tile t).lap = none) (hseq : seqUp s (tileDie t) = true)
    (hstale : s.unitEpoch (.tile t) < s.pkgEpoch) :
    ∃ s', exec (.unitReinit (.tile t) ok) s = .next s' ∧ s'.unitEpoch (.tile t) = s.pkgEpoch ∧ (s'.tile t).slots = {} ∧ s'.mem = s.mem := by
  have hexec : exec (.unitReinit (.tile t) ok) s = execUnitReinit (.tile t) ok s := rfl
  have hexists : unitExists s (.tile t) = true := by
    simp only [State.tileIn, Bool.and_eq_true] at hin
    exact hin.1
  have hgo : execUnitReinit (.tile t) ok s = .next (s.reinit (.tile t) ok) :=
    congrArg Host.Outcome.next (if_pos (by simp [hexists, unitIn, hin, unitStale, hstale, unitBusy, hidle, unitDie, hseq]))
  have ht : t < 1152 := by
    simp only [unitExists, State.enabled, Bool.and_eq_true, decide_eq_true_eq] at hexists
    exact hexists.1
  obtain ⟨hepoch, hslots, hmem⟩ := State.reinit_tile s ht ok
  exact ⟨_, hexec.trans hgo, hepoch, hslots, hmem⟩

/-- Settles O25: what each command is held back by is given, and the rest is what it writes. -/
theorem tandemWritesWakesAndReinitialisation : Obligations.TandemWritesWakesAndReinitialisation := by
  intro s
  refine ⟨fun _ v hrole hdom => exec_tandemCtrlWrite s hrole v hdom, fun t hen hsleep => ?_, fun st hst => ?_, fun n hn => ?_,
    fun _ _ hin hidle hseq hstale => exec_unitReinit_tile s hin hidle hseq hstale, fun st ok hst hin hidle hstale => ?_, fun n ok hn hin hidle hseq hstale => ?_⟩
  · exact congrArg Host.Outcome.next ((if_pos hen).trans (if_pos (by simp [hsleep])))
  · exact congrArg Host.Outcome.next (if_pos (by simp [unitExists, hst]))
  · exact congrArg Host.Outcome.next (if_pos (by simp [unitExists, hn]))
  · exact congrArg Host.Outcome.next (if_pos (by simp [unitExists, hst, hin, unitStale, hstale, unitBusy, hidle]))
  · exact congrArg Host.Outcome.next (if_pos (by simp [unitExists, hn, unitIn, hin, unitStale, hstale, unitBusy, hidle, unitDie, hseq]))

end Sys2Proof.Machine

/-! PROOF. The message protocol of coherence (R89 to R103) as the rest of the machine sees it: a request, a snoop or an answer changes the
home's records, registers and what leaves, and wakes watchers; memory is written where a transaction's write is acknowledged, and for a
core's write of a page whose vis_floor is SYSTEM. -/

namespace Sys2Proof.Machine

section Protocol

variable {α : Type} {π : State → α} (h : TxnIndep π) (s : State)
include h

/-! ### Messages and transactions at the home -/

theorem State.sendC_keeps (m : CMsg) : π (s.sendC m) = π s := h.onCoh s fun _ => ⟨rfl, rfl, rfl, rfl, rfl⟩
theorem State.setTxn_keeps (line : Nat) (t : Txn) : π (s.setTxn line t) = π s := h.onCoh s fun _ => ⟨rfl, rfl, rfl, rfl, rfl⟩
theorem State.delTxn_keeps (line : Nat) : π (s.delTxn line) = π s := h.onCoh s fun _ => ⟨rfl, rfl, rfl, rfl, rfl⟩
theorem State.setCopy_keeps (a line : Nat) (c : Copy) : π (s.setCopy a line c) = π s := h.onCoh s fun _ => ⟨rfl, rfl, rfl, rfl, rfl⟩
theorem State.dropCopy_keeps (a line : Nat) : π (s.dropCopy a line) = π s := h.onCoh s fun _ => ⟨rfl, rfl, rfl, rfl, rfl⟩
theorem State.presSet_keeps (k : Nat) : π (s.presSet k) = π s := h.onCoh s fun _ => by
  split <;> exact ⟨rfl, rfl, rfl, rfl, rfl⟩

omit h in
theorem State.recvC_some {p : CMsg → Bool} {m : CMsg} {s' : State} (hr : s.recvC p = some (m, s')) :
    ∃ rest, takeFirst p s.coh.net = some (m, rest) ∧ s' = s.onCoh fun h => { h with net := rest } := by
  obtain ⟨⟨m', rest⟩, ht, he⟩ := Option.map_eq_some_iff.mp hr
  obtain ⟨rfl, rfl⟩ := Prod.mk.inj he
  exact ⟨rest, ht, rfl⟩

theorem State.recvC_keeps {p : CMsg → Bool} {m : CMsg} {s' : State} (hr : s.recvC p = some (m, s')) : π s' = π s := by
  obtain ⟨rest, -, rfl⟩ := State.recvC_some s hr
  exact h.onCoh s fun _ => ⟨rfl, rfl, rfl, rfl, rfl⟩

theorem State.sendAll_keeps (l : List Nat) (m : Nat → CMsg) : π (s.each l (fun a s => s.sendC (m a))) = π s :=
  State.each_keeps s (fun a s => State.sendC_keeps h s (m a)) l

theorem State.openDir_keeps (line : Nat) (e : DirEnt) : π (s.openDir line e).1 = π s := by
  unfold State.openDir
  dsimp only
  split
  · exact (State.presSet_keeps h _ _).trans (State.newDir_keeps h s line e)
  · exact State.newDir_keeps h s line e

theorem State.startReq_keeps (r : Req) : π (s.startReq r) = π s := by
  have hsnoop : ∀ (s : State) (l : List Nat), π (s.each l (fun a s => s.sendC (.snpInv a r.line))) = π s := fun s l =>
    State.sendAll_keeps h s l _
  unfold State.startReq
  dsimp only
  split
  all_goals try split
  all_goals try split
  all_goals simp only [State.sendC_keeps h, State.setTxn_keeps h, State.setDir_keeps h, State.openDir_keeps h, hsnoop]

theorem State.atomDone_keeps (r : Req) (off size old : Nat) : π (s.atomDone r off size old) = π s := by
  unfold State.atomDone
  split <;> exact State.emit_keeps h.report s _

theorem State.txnSend_keeps (t : Txn) : π (s.txnSend t) = π s := by
  unfold State.txnSend
  dsimp only
  split
  all_goals try split
  all_goals try split
  all_goals simp only [State.sendC_keeps h, State.setTxn_keeps h, State.atomDone_keeps h]

theorem State.wbAt_keeps (a line : Nat) (d : Bytes) (key : Nat) : π (s.wbAt a line d key) = π s := by
  unfold State.wbAt
  split
  · split
    · exact State.startReq_keeps h s _
    · exact State.sendC_keeps h s _
  · exact State.sendC_keeps h s _

theorem State.unpin_keeps (t : Txn) : π (s.unpin t) = π s := by
  refine (State.each_keeps (s.delTxn t.req.line) (fun w s => ?_) t.wbs).trans (State.delTxn_keeps h s _)
  split
  · exact State.setTxn_keeps h s _ _
  · exact State.wbAt_keeps h s ..

theorem State.txnClose_keeps (t : Txn) : π (s.txnClose t) = π s := by
  have hunpin : ∀ s : State, π (s.unpin t) = π s := fun s => State.unpin_keeps h s t
  have hstart : ∀ (s : State) line (r : Req), π ((s.delTxn line).startReq r) = π s := fun s line r =>
    (State.startReq_keeps h _ r).trans (State.delTxn_keeps h s line)
  unfold State.txnClose
  cases hkind : t.req.kind
  case backInval =>
    dsimp only
    split
    · exact (hstart _ _ _).trans ((hunpin _).trans (State.freeDir_keeps h s _))
    · exact (hunpin _).trans (State.freeDir_keeps h s _)
  case writeBack d =>
    refine (hunpin _).trans ?_
    dsimp only
    split
    · split
      · exact (State.setDir_keeps h _ ..).trans (State.sendC_keeps h s _)
      · split
        · exact (State.freeDir_keeps h _ _).trans (State.sendC_keeps h s _)
        · exact State.sendC_keeps h s _
    · exact State.sendC_keeps h s _
  case clean => exact (hunpin _).trans (State.emit_keeps h.report s _)
  all_goals
    refine (hunpin _).trans ?_
    simp only [State.freeDir_keeps h]

theorem State.txnStep_keeps (line : Nat) : π (s.txnStep line) = π s := by
  unfold State.txnStep
  split
  · rfl
  · next t _ =>
    split
    · rfl
    · have hsent : π (if t.sent || t.memW.isSome then s else s.txnSend t) = π s := by
        split
        · rfl
        · exact State.txnSend_keeps h s t
      dsimp only
      split
      · exact hsent
      · split
        · exact (State.txnClose_keeps h _ _).trans hsent
        · exact hsent

/-! ### Acceptance at the home -/

theorem State.waited_keeps (node : Nat) (r : Req) : π (s.waited node r) = π s := by
  unfold State.waited
  split
  · rfl
  · exact State.pf_keeps h.report s ..

/-- Accepting any request but the rebuild of a directory entry. -/
theorem State.openReq_keeps (node : Nat) {r : Req} (hr : r.kind ≠ .rebuild) : π (s.openReq node r) = π s := by
  have hwaited := State.waited_keeps h s node r
  unfold State.openReq
  dsimp only
  rw [if_neg (by simpa using hr)]
  split
  · split
    · exact (State.txnStep_keeps h _ _).trans ((State.startReq_keeps h _ _).trans ((State.setTxn_keeps h _ _ _).trans hwaited))
    · exact hwaited
  · exact (State.txnStep_keeps h _ _).trans ((State.startReq_keeps h _ _).trans hwaited)

end Protocol

/-! ### The queues at the home -/

section Queues

variable {α : Type} {π : State → α} (h : BusIndep π) (s : State)

theorem State.asOwn_kind {r : Req} (hr : r.kind ≠ .rebuild) : (s.asOwn r).kind ≠ .rebuild := by
  unfold State.asOwn
  split
  · simp
  · exact hr

include h

theorem State.hold'_keeps (r : Req) : π (s.hold' r) = π s := State.onCoh_keeps h s _

theorem State.acceptReq_keeps (node : Nat) {r : Req} (hr : r.kind ≠ .rebuild) : π (s.acceptReq node r) = π s := by
  unfold State.acceptReq
  dsimp only
  split
  · exact State.openReq_keeps h.txn s node (State.asOwn_kind s hr)
  · split
    · exact State.hold'_keeps h s _
    · exact (State.bump_keeps h.report _ ..).trans (State.onCoh_keeps h s _)

theorem State.homeReq_keeps {r : Req} (hr : r.kind ≠ .rebuild) : π (s.homeReq r) = π s := by
  unfold State.homeReq
  split
  · split
    · exact (State.emit_keeps h.report _ _).trans (State.hole_keeps h.report s _ _)
    · rfl
  · dsimp only
    split
    · exact State.hold'_keeps h s _
    · split
      · exact State.enqueue_keeps h s _
      · exact State.acceptReq_keeps h s _ hr

end Queues

/-- Every request a station holds is one that leaves memory: none rebuilds an entry (R100). -/
def heldPlain (s : State) : Prop := ∀ r ∈ s.coh.waitQ, r.kind ≠ .rebuild

theorem heldPlain.acceptReq {s : State} (hs : heldPlain s) (node : Nat) {r : Req} (hr : r.kind ≠ .rebuild) : heldPlain (s.acceptReq node r) := by
  have hkind := State.asOwn_kind s hr
  unfold State.acceptReq
  dsimp only
  split
  · rwa [State.openReq_keeps (π := heldPlain) (fun _ _ _ _ _ _ _ _ _ _ _ _ _ _ _ => rfl) s node hkind]
  · split
    · intro q hq
      rcases List.mem_append.mp hq with hq | hq
      · exact hs q hq
      · rw [List.mem_singleton.mp hq]
        exact hkind
    · rwa [State.bump_keeps (π := heldPlain) fun _ _ _ _ _ _ _ => rfl]

theorem takeFirst_mem {β : Type} {p : β → Bool} {x : β} : ∀ {l rest : List β}, takeFirst p l = some (x, rest) →
    x ∈ l ∧ ∀ y ∈ rest, y ∈ l
  | [], _, h => by simp [takeFirst] at h
  | z :: l, rest, h => by
    unfold takeFirst at h
    split at h
    · obtain ⟨rfl, rfl⟩ := Prod.mk.inj (Option.some.inj h)
      exact ⟨List.mem_cons_self, fun y hy => List.mem_cons_of_mem _ hy⟩
    · obtain ⟨⟨x', rest'⟩, ht, he⟩ := Option.map_eq_some_iff.mp h
      obtain ⟨rfl, rfl⟩ := Prod.mk.inj he
      obtain ⟨hx, hrest⟩ := takeFirst_mem ht
      refine ⟨List.mem_cons_of_mem _ hx, fun y hy => ?_⟩
      rcases List.mem_cons.mp hy with rfl | hy
      · exact List.mem_cons_self
      · exact List.mem_cons_of_mem _ (hrest y hy)

theorem State.nextHeld_mem {s : State} {line : Nat} {r : Req} (h : s.nextHeld line = some r) : r ∈ s.coh.waitQ := by
  unfold State.nextHeld at h
  obtain ⟨i, -, hi⟩ := List.exists_of_findSome?_eq_some h
  exact (List.mem_filter.mp (List.mem_of_find?_eq_some hi)).1

/-- Admitting the stations' requests leaves everything but the home's records. -/
theorem admitN_keeps {α : Type} {π : State → α} (h : BusIndep π) (line : Nat) : ∀ (fuel : Nat) (s : State), heldPlain s → π (admitN fuel s line) = π s
  | 0, _, _ => rfl
  | fuel + 1, s, hs => by
    unfold admitN
    split
    · next r node hnext _ =>
      have hr : r.kind ≠ .rebuild := hs r (State.nextHeld_mem hnext)
      split
      · rfl
      · extract_lets s1
        have hs1 : heldPlain s1 := fun q hq => by
          refine hs q ?_
          cases htake : takeFirst (· == r) s.coh.waitQ with
          | none => simpa [s1, State.onCoh, htake] using hq
          | some p =>
            obtain ⟨x, rest⟩ := p
            exact (takeFirst_mem htake).2 q (by simpa [s1, State.onCoh, htake] using hq)
        have hπ : π s1 = π s := State.onCoh_keeps h s _
        split
        · refine (admitN_keeps h line fuel _ ?_).trans ((State.onCoh_keeps h s1 _).trans hπ)
          exact hs1
        · exact (admitN_keeps h line fuel _ (hs1.acceptReq node hr)).trans ((State.acceptReq_keeps h s1 node hr).trans hπ)
    · rfl

theorem State.letIn_keeps {α : Type} {π : State → α} (h : BusIndep π) {s : State} (hs : heldPlain s) (line : Nat) : π (s.letIn line) = π s :=
  admitN_keeps h line _ s hs

/-! ### At the agents -/

section Agents

variable {α : Type} {π : State → α} (h : BusIndep π) (ht : TilesIndep π) (s : State)
include h

theorem State.agentWake_keeps (a : Nat) : π (s.agentWake a) = π s := by
  unfold State.agentWake
  split
  · exact State.wakeUnit_keeps h s _
  · rfl

theorem State.rewatchOpen_keeps (a line : Nat) : π (s.rewatchOpen a line) = π s := by
  unfold State.rewatchOpen
  split
  · exact (State.homeReq_keeps h _ (by simp)).trans (State.onCoh_keeps h s _)
  · rfl

theorem State.onSnpShared_keeps (a line : Nat) : π (s.onSnpShared a line) = π s := by
  unfold State.onSnpShared
  split
  · rfl
  · next hrecv =>
    rw [← State.recvC_keeps h.txn s hrecv]
    dsimp only
    split
    · exact State.sendC_keeps h.txn ..
    · simp only [State.sendC_keeps h.txn]
    · split
      · exact State.sendC_keeps h.txn ..
      · simp only [State.sendC_keeps h.txn]
      · simp only [State.sendC_keeps h.txn, State.setCopy_keeps h.txn]
      · split <;> simp only [State.sendC_keeps h.txn, State.setCopy_keeps h.txn]

theorem State.onSnpOnce_keeps (a line : Nat) : π (s.onSnpOnce a line) = π s := by
  unfold State.onSnpOnce
  split
  · rfl
  · next hrecv =>
    rw [← State.recvC_keeps h.txn s hrecv]
    dsimp only
    split
    · simp only [apply_ite π, State.sendC_keeps h.txn, State.setCopy_keeps h.txn, ite_self]
    · exact State.sendC_keeps h.txn ..

theorem State.onSnpAck_keeps (a line : Nat) : π (s.onSnpAck a line) = π s := by
  unfold State.onSnpAck
  split
  · next hrecv =>
    rw [← State.recvC_keeps h.txn s hrecv]
    split
    · rfl
    · dsimp only
      refine (State.txnStep_keeps h.txn _ _).trans ((State.setTxn_keeps h.txn ..).trans ?_)
      split
      all_goals try split
      all_goals simp only [apply_ite π, apply_ite Prod.fst, State.setDir_keeps h.txn, ite_self]
  · rfl

theorem State.onSnpData_keeps (a line : Nat) : π (s.onSnpData a line) = π s := by
  unfold State.onSnpData
  split
  · next hrecv =>
    rw [← State.recvC_keeps h.txn s hrecv]
    split
    · exact (State.txnStep_keeps h.txn _ _).trans (State.setTxn_keeps h.txn ..)
    · rfl
  · rfl

theorem State.onPresence_keeps (stack region : Nat) : π (s.onPresence stack region) = π s := by
  unfold State.onPresence
  split
  · exact (State.txnStep_keeps h.txn _ _).trans (State.setTxn_keeps h.txn ..)
  · rfl

theorem State.evict_keeps (a line : Nat) : π (s.evict a line) = π s := by
  unfold State.evict
  split
  · rfl
  · dsimp only
    split
    · exact State.dropCopy_keeps h.txn ..
    · exact (State.sendC_keeps h.txn ..).trans (State.dropCopy_keeps h.txn ..)
    · exact (State.sendC_keeps h.txn ..).trans ((State.onCoh_keeps h _ _).trans (State.dropCopy_keeps h.txn ..))

theorem State.onComplete_keeps (a line : Nat) : π (s.onComplete a line) = π s := by
  unfold State.onComplete
  split
  · next hrecv =>
    rw [← State.recvC_keeps h.txn s hrecv]
    split
    · split
      · exact (State.txnStep_keeps h.txn _ _).trans (State.setTxn_keeps h.txn ..)
      · rfl
    · rfl
  · rfl

theorem State.onWb_keeps (a line : Nat) : π (s.onWb a line) = π s := by
  unfold State.onWb
  split
  · next hrecv =>
    rw [← State.recvC_keeps h.txn s hrecv]
    split
    · exact State.setTxn_keeps h.txn ..
    · exact State.wbAt_keeps h.txn ..
  · rfl

theorem State.onEvictClean_keeps (a line : Nat) : π (s.onEvictClean a line) = π s := by
  unfold State.onEvictClean
  split
  · next hrecv =>
    rw [← State.recvC_keeps h.txn s hrecv]
    split
    · split
      · exact State.freeDir_keeps h.txn ..
      · rfl
    · rfl
  · rfl

theorem State.onWbAck_keeps (a line : Nat) : π (s.onWbAck a line) = π s := by
  unfold State.onWbAck
  split
  · next hrecv =>
    rw [← State.recvC_keeps h.txn s hrecv]
    exact State.onCoh_keeps h _ _
  · rfl

/-- A write of a core whose page's vis_floor is not SYSTEM stays in the cache. -/
theorem State.coreWrite_keeps (a line : Nat) (wr : CoreWr) {floor : Bool} (hfloor : floor = false) :
    π (s.coreWrite a line wr floor) = π s := by
  subst hfloor
  unfold State.coreWrite
  split
  · rfl
  · dsimp only
    split
    · rfl
    · exact State.setCopy_keeps h.txn ..
    · exact (State.emit_keeps h.report ..).trans (State.setCopy_keeps h.txn ..)

theorem State.onGrant_keeps (a line : Nat) (hfloor : ∀ t, s.txn? line = some t → t.req.floor = false) : π (s.onGrant a line) = π s := by
  unfold State.onGrant
  split
  · next s' hrecv =>
    have hreq : (match s'.txn? line with | some t => t.req | none => ({ kind := .upgrade, agent := a, line := line } : Req)).floor = false := by
      obtain ⟨rest, -, rfl⟩ := State.recvC_some s hrecv
      split
      · next t ht => exact hfloor t ht
      · rfl
    rw [← State.recvC_keeps h.txn s hrecv]
    dsimp only
    refine (State.sendC_keeps h.txn ..).trans ?_
    split
    · refine (State.coreWrite_keeps h _ _ _ _ ?_).trans (State.setCopy_keeps h.txn ..)
      exact hreq
    · rfl
  · rfl

include ht

theorem State.onSnpInv_keeps (a line : Nat) : π (s.onSnpInv a line) = π s := by
  unfold State.onSnpInv
  split
  · rfl
  · next hrecv =>
    rw [← State.recvC_keeps h.txn s hrecv]
    have hgone : ∀ s : State, π (((s.dropCopy a line).onCoh fun h => { h with wbBuf := h.wbBuf.del (copyKey a line) }).wakeAgent a line
        |>.rewatchOpen a line) = π s := fun s =>
      (State.rewatchOpen_keeps h ..).trans ((State.wakeAgent_keeps h _ ht ..).trans ((State.onCoh_keeps h _ _).trans (State.dropCopy_keeps h.txn ..)))
    dsimp only
    split
    · split
      all_goals try split
      all_goals simp only [State.sendC_keeps h.txn, hgone]
    · simp only [State.sendC_keeps h.txn, hgone]

end Agents

/-! ### Requests, and what waits at the home -/

theorem coreHart_agentIsH {a : Nat} {tag : ReqTag} (h : coreHart a tag = none) : agentIsH a = false := by
  unfold coreHart at h
  split at h
  · simp at h
  · next hH => simpa using hH

/-- A request of no core goes on under the key of its tags. -/
theorem State.tagged_of_noCore {s : State} {r : Req} {tag : ReqTag} (h : coreHart r.agent tag = none) (f : State → Req → State) :
    s.tagged r tag f = f s { r with key := s.keyOf tag.part tag.gen } := by
  rw [State.tagged, h]

/-- A request of no core goes to its line's home. -/
theorem State.reqGo_of_noCore {s : State} {r : Req} {tag : ReqTag} (h : coreHart r.agent tag = none) : s.reqGo tag r = s.request r := by
  have hhit : s.coreHit r = none := by
    unfold State.coreHit
    split
    · simp [coreHart_agentIsH h]
    · rfl
  unfold State.reqGo
  simp only [h, hhit]
  split <;> rfl

/-- A request of an agent other than a core arrives at its line's home under the key of its tags. -/
theorem State.reqTag_of_noCore {s : State} {a : Nat} {tag : ReqTag} (hin : agentIn s a = true) (h : coreHart a tag = none) (line : Nat)
    (k : ReqKind) (wr : CoreWr) :
    s.reqTag a line tag k wr = s.homeReq { kind := k, agent := a, line := line, wr := wr, key := s.keyOf tag.part tag.gen } := by
  rw [State.reqTag, if_pos hin, State.tagged_of_noCore h, State.reqGo_of_noCore h, State.request, if_pos hin]

section Requests

variable {α : Type} {π : State → α} (h : BusIndep π) (s : State)
include h

theorem State.reqTag_keeps {a : Nat} {tag : ReqTag} (hcore : coreHart a tag = none) (line : Nat) {k : ReqKind} (hk : k ≠ .rebuild) (wr : CoreWr) :
    π (s.reqTag a line tag k wr) = π s := by
  by_cases hin : agentIn s a = true
  · rw [State.reqTag_of_noCore hin hcore]
    exact State.homeReq_keeps h s hk
  · rw [State.reqTag, if_neg hin]

theorem State.conflictAccept_keeps (hq : ∀ r ∈ s.coh.conflictQ ++ s.coh.waitQ, r.kind ≠ .rebuild) (line : Nat) : π (s.conflictAccept line) = π s := by
  unfold State.conflictAccept
  split
  · rfl
  · split
    · next r rest node htake _ =>
      have hr : r.kind ≠ .rebuild := hq r (List.mem_append_left _ (takeFirst_mem htake).1)
      have hplain : heldPlain (s.onCoh fun h => { h with conflictQ := rest }) := fun q hw => hq q (List.mem_append_right _ hw)
      exact (State.letIn_keeps h (hplain.acceptReq node hr) line).trans ((State.acceptReq_keeps h _ node hr).trans (State.onCoh_keeps h s _))
    · rfl

omit h in
theorem heldPlain.enqueue {s : State} (hs : heldPlain s) {r : Req} (hr : r.kind ≠ .rebuild) : heldPlain (s.enqueue r) := by
  unfold State.enqueue
  split
  · exact hs
  · intro q hq
    rcases List.mem_append.mp hq with hq | hq
    · exact hs q hq
    · rw [List.mem_singleton.mp hq]
      exact hr

theorem State.retryGrant_keeps (hq : ∀ r ∈ s.coh.waitQ ++ s.coh.retryQ, r.kind ≠ .rebuild) (line : Nat) : π (s.retryGrant line) = π s := by
  unfold State.retryGrant
  split
  · next r rest node htake _ =>
    have hr : r.kind ≠ .rebuild := hq r (List.mem_append_right _ (takeFirst_mem htake).1)
    have hplain : heldPlain (s.onCoh fun h => { h with retryQ := rest }) := fun q hw => hq q (List.mem_append_left _ hw)
    dsimp only
    split
    · rfl
    · split
      · exact (State.letIn_keeps h (hplain.enqueue hr) line).trans ((State.enqueue_keeps h _ r).trans (State.onCoh_keeps h s _))
      · refine (State.letIn_keeps h ?_ line).trans ((State.openReq_keeps h.txn _ node hr).trans (State.onCoh_keeps h s _))
        rwa [State.openReq_keeps (π := heldPlain) (fun _ _ _ _ _ _ _ _ _ _ _ _ _ _ _ => rfl) _ node hr]
  · rfl

/-- WATCH of an agent. -/
theorem execWatchReq_keeps {a : Nat} {tag : ReqTag} (hcore : coreHart a tag = none) (line : Nat) :
    ∃ s', execWatchReq a line s tag = .next s' ∧ π s' = π s := by
  unfold execWatchReq
  split
  · exact ⟨s, rfl, rfl⟩
  · split
    · exact ⟨_, rfl, State.emit_keeps h.report s _⟩
    · split
      · exact ⟨_, rfl, State.emit_keeps h.report s _⟩
      · exact ⟨_, rfl, (State.reqTag_keeps h _ hcore line (by simp) _).trans (State.withCoh_keeps h s _)⟩

end Requests

/-- A snoop at an agent, held back or answered. -/
theorem State.snoop_keeps {α : Type} {π : State → α} (h : BusIndep π) {f : State → State} (hf : ∀ s, π (f s) = π s) (s : State) (a line : Nat) :
    π (if snoopWaits s a line then s else f (s.agentWake a)) = π s := by
  split
  · rfl
  · exact (hf _).trans (State.agentWake_keeps h s a)

/-- Settles O33: each message's arrival is one of the protocol's operations, none of which writes memory. -/
theorem coherenceMessagesLeaveMemory : Obligations.CoherenceMessagesLeaveMemory := by
  intro s s' a line tag clean data mask wr i hcore hfloor hqueues hi hexec
  have hreq : ∀ {k : ReqKind} (w : CoreWr), k ≠ .rebuild → (s.reqTag a line tag k w).mem = s.mem := fun w hk =>
    State.reqTag_keeps memIndep s hcore line hk w
  have hdone : ∀ {t : State}, exec i s = .next t → t.mem = s.mem → s'.mem = s.mem := fun ht hmem => by
    obtain rfl := Host.Outcome.next.inj (hexec.symm.trans ht)
    exact hmem
  simp only [List.mem_cons, List.mem_nil_iff, or_false] at hi
  rcases hi with rfl | rfl | rfl | rfl | rfl | rfl | rfl | rfl | rfl | rfl | rfl | rfl | rfl | rfl | rfl | rfl | rfl | rfl | rfl | rfl
  · refine hdone rfl ?_
    split
    · rfl
    · split
      · exact hreq _ (by simp)
      · rfl
  · refine hdone rfl ?_
    split
    · exact hreq _ (by simp)
    · rfl
  · refine hdone rfl ?_
    split
    · exact hreq _ (by simp)
    · rfl
  · refine hdone rfl (hreq _ ?_)
    split <;> simp
  · exact hdone rfl (hreq _ (by simp))
  · exact hdone rfl (hreq _ (by simp))
  · obtain ⟨t, ht, hmem⟩ := execWatchReq_keeps memIndep s hcore line
    exact hdone ht hmem
  · exact hdone rfl (State.snoop_keeps memIndep (fun s => State.onSnpShared_keeps memIndep s a line) s a line)
  · exact hdone rfl (State.snoop_keeps memIndep (fun s => State.onSnpInv_keeps memIndep (fun _ _ => rfl) s a line) s a line)
  · exact hdone rfl (State.snoop_keeps memIndep (fun s => State.onSnpOnce_keeps memIndep s a line) s a line)
  · exact hdone rfl (State.onSnpAck_keeps memIndep s a line)
  · exact hdone rfl (State.onSnpData_keeps memIndep s a line)
  · exact hdone rfl (State.onGrant_keeps memIndep s a line (hfloor line))
  · exact hdone rfl (State.onComplete_keeps memIndep s a line)
  · exact hdone rfl (State.conflictAccept_keeps memIndep s (fun r hr => hqueues r (List.mem_append_left _ hr)) line)
  · refine hdone rfl (State.retryGrant_keeps memIndep s (fun r hr => hqueues r ?_) line)
    rcases List.mem_append.mp hr with hr | hr
    · exact List.mem_append_left _ (List.mem_append_right _ hr)
    · exact List.mem_append_right _ hr
  · exact hdone rfl (State.evict_keeps memIndep s a line)
  · exact hdone rfl (State.onWb_keeps memIndep s a line)
  · exact hdone rfl (State.onEvictClean_keeps memIndep s a line)
  · exact hdone rfl (State.onWbAck_keeps memIndep s a line)

end Sys2Proof.Machine

/-! PROOF. Evictions, write-backs and memory's answers (R75, R86, R90, R92, R94): what a copy, a transaction and a directory entry read
after each operation on them, and the arrivals that O32 speaks of. -/

namespace Sys2Proof.Machine

variable (s : State)

/-! ### What the home and the agents read -/

@[simp] theorem State.txn?_setTxn (line : Nat) (t : Txn) : (s.setTxn line t).txn? line = some t := Tab.at_put_same ..
@[simp] theorem State.txn?_delTxn (line : Nat) : (s.delTxn line).txn? line = none := Tab.at_del_same ..
@[simp] theorem State.txn?_sendC (m : CMsg) (line : Nat) : (s.sendC m).txn? line = s.txn? line := rfl
@[simp] theorem State.copy?_sendC (m : CMsg) (a line : Nat) : (s.sendC m).copy? a line = s.copy? a line := rfl
@[simp] theorem State.copy?_setTxn (l : Nat) (t : Txn) (a line : Nat) : (s.setTxn l t).copy? a line = s.copy? a line := rfl
@[simp] theorem State.copy?_setCopy (a line : Nat) (c : Copy) : (s.setCopy a line c).copy? a line = some c := Tab.at_put_same ..
@[simp] theorem State.copy?_dropCopy (a line : Nat) : (s.dropCopy a line).copy? a line = none := Tab.at_del_same ..
@[simp] theorem State.dirEnt?_setDir (line : Nat) (e : DirEnt) : (s.setDir line e).dirEnt? line = some e := Tab.at_put_same ..
@[simp] theorem State.dirEnt?_setTxn (l : Nat) (t : Txn) (line : Nat) : (s.setTxn l t).dirEnt? line = s.dirEnt? line := rfl
@[simp] theorem State.dirEnt?_sendC (m : CMsg) (line : Nat) : (s.sendC m).dirEnt? line = s.dirEnt? line := rfl
@[simp] theorem State.net_sendC (m : CMsg) : (s.sendC m).coh.net = s.coh.net ++ [m] := rfl
@[simp] theorem State.net_setTxn (line : Nat) (t : Txn) : (s.setTxn line t).coh.net = s.coh.net := rfl

theorem State.pinned_iff (line : Nat) : s.pinned line = (s.txn? line).isSome := rfl

/-- Messages that p picks out are received oldest first. -/
theorem takeFirst_of_find {β : Type} {p : β → Bool} {x : β} : ∀ {l : List β}, l.find? p = some x → ∃ rest, takeFirst p l = some (x, rest)
  | [], h => by simp at h
  | z :: l, h => by
    by_cases hz : p z = true
    · rw [List.find?_cons_of_pos hz] at h
      exact ⟨l, by rw [takeFirst, if_pos hz, Option.some.inj h]⟩
    · rw [List.find?_cons_of_neg hz] at h
      obtain ⟨rest, hrest⟩ := takeFirst_of_find h
      exact ⟨z :: rest, by rw [takeFirst, if_neg hz, hrest]; rfl⟩

theorem find_of_mem_beq {β : Type} [BEq β] [LawfulBEq β] {x : β} {l : List β} (h : x ∈ l) : l.find? (fun y => y == x) = some x := by
  induction l with
  | nil => simp at h
  | cons z l ih =>
    by_cases hz : z = x
    · simp [hz]
    · rw [List.find?_cons_of_neg (by simpa using hz)]
      exact ih ((List.mem_cons.mp h).resolve_left fun e => hz e.symm)

/-- A message in the network is received, and nothing else of the state changes. -/
theorem State.recvC_of_find {p : CMsg → Bool} {m : CMsg} (h : s.coh.net.find? p = some m) :
    ∃ rest, s.recvC p = some (m, s.onCoh fun h => { h with net := rest }) := by
  obtain ⟨rest, hrest⟩ := takeFirst_of_find h
  exact ⟨rest, by rw [State.recvC, hrest]; rfl⟩

theorem State.recvC_of_mem {m : CMsg} (h : m ∈ s.coh.net) : ∃ rest, s.recvC (fun x => x == m) = some (m, s.onCoh fun h => { h with net := rest }) :=
  State.recvC_of_find s (find_of_mem_beq h)

/-! ### Freeing an entry -/

/-- An entry that is freed is gone, and only the directory and the presence map change. -/
theorem State.freeDir_eq (line : Nat) : ∃ dir count bits, dir.at? line = none ∧
    s.freeDir line = s.onCoh fun h => { h with dir := dir, presCount := count, presBits := bits } := by
  unfold State.freeDir
  split
  · have hdel : ∃ count bits, (s.onCoh fun h => { h with dir := h.dir.del line }).presDown line =
        s.onCoh fun h => { h with dir := s.coh.dir.del line, presCount := count, presBits := bits } := by
      unfold State.presDown
      split
      · next k _ =>
        by_cases hc : (s.onCoh fun h => { h with dir := h.dir.del line }).coh.presCount.atD k 0 ≤ 1
        · simp only [if_pos hc]
          exact ⟨_, _, rfl⟩
        · simp only [if_neg hc]
          exact ⟨_, s.coh.presBits, rfl⟩
      · exact ⟨s.coh.presCount, s.coh.presBits, rfl⟩
    obtain ⟨count, bits, heq⟩ := hdel
    exact ⟨_, count, bits, Tab.at_del_same .., heq⟩
  · next h =>
    refine ⟨s.coh.dir, s.coh.presCount, s.coh.presBits, ?_, rfl⟩
    simpa [Tab.has] using h

theorem State.dirEnt?_freeDir (line : Nat) : (s.freeDir line).dirEnt? line = none := by
  obtain ⟨dir, count, bits, hdir, heq⟩ := State.freeDir_eq s line
  rw [heq]
  exact hdir

theorem State.txn?_freeDir (line l : Nat) : (s.freeDir line).txn? l = s.txn? l := by
  obtain ⟨dir, count, bits, -, heq⟩ := State.freeDir_eq s line
  rw [heq]
  rfl

theorem State.freeDir_mem (line : Nat) : (s.freeDir line).mem = s.mem := State.freeDir_keeps memIndep.txn s line
theorem State.txnStep_mem (line : Nat) : (s.txnStep line).mem = s.mem := State.txnStep_keeps memIndep.txn s line

/-! ### A transaction that has nothing due -/

/-- The end of a line's transaction: it closes once its answer is sent and done and its write is performed. -/
def State.txnEnd (s : State) (line : Nat) : State :=
  match s.txn? line with
  | none => s
  | some t => if t.done && t.sent && t.memW.isNone && !t.memDue then s.txnClose t else s

/-- Nothing holds the transaction's answer back. -/
def Txn.ready (t : Txn) : Prop := t.acks = [] ∧ t.dataDue = false ∧ t.memDue = false ∧ t.presDue = none ∧ t.victim = none

/-- A transaction that waits for nothing advances. -/
theorem State.txnStep_ready {line : Nat} {t : Txn} (h : s.txn? line = some t) (hdue : t.ready) :
    s.txnStep line = (if t.sent || t.memW.isSome then s else s.txnSend t).txnEnd line := by
  obtain ⟨hacks, hdata, hmem, hpres, hvictim⟩ := hdue
  rw [State.txnStep, h]
  dsimp only
  rw [if_neg (by simp [hacks, hdata, hmem, hpres, hvictim])]
  rfl

/-- One that has sent its answer and is done closes. -/
theorem State.txnStep_closes {line : Nat} {t : Txn} (h : s.txn? line = some t) (hdue : t.ready)
    (hend : t.done = true ∧ t.sent = true ∧ t.memW = none) : s.txnStep line = s.txnClose t := by
  obtain ⟨hdone, hsent, hw⟩ := hend
  rw [State.txnStep_ready s h hdue, if_pos (by simp [hsent]), State.txnEnd, h]
  obtain ⟨-, -, hmem, -, -⟩ := hdue
  simp [hdone, hsent, hw, hmem]

/-- One that is not done, or whose write is outstanding, stays as it is. -/
theorem State.txnEnd_open {line : Nat} {t : Txn} (h : s.txn? line = some t) (hopen : t.done = false ∨ t.memW.isSome = true) : s.txnEnd line = s := by
  rw [State.txnEnd, h]
  rcases hopen with hopen | hopen
  · simp [hopen]
  · simp [Option.isNone_iff_eq_none, Option.isSome_iff_ne_none.mp hopen]

theorem State.unpin_alone {t : Txn} (h : t.wbs = []) : s.unpin t = s.delTxn t.req.line := by
  rw [State.unpin, h]
  rfl

/-! ### The arrivals -/

theorem exec_cacheEvict {a line : Nat} {c : Copy} (hc : s.copy? a line = some c) :
    ∃ s', exec (.cacheEvict a line) s = .next s' ∧ s'.copy? a line = none ∧ s'.mem = s.mem ∧
      (c.st = .S → s'.coh.net = s.coh.net) ∧ (c.st = .E → s'.coh.net = s.coh.net ++ [.evictClean a line]) ∧
      (c.st = .M ∨ c.st = .O → s'.coh.net = s.coh.net ++ [.wb a line c.data c.key] ∧ s'.wbBuf? a line = some c) := by
  refine ⟨s.evict a line, rfl, ?_⟩
  have hgone : (s.dropCopy a line).copy? a line = none := State.copy?_dropCopy s a line
  unfold State.evict
  rw [hc]
  dsimp only
  split
  · next hst => exact ⟨hgone, rfl, fun _ => rfl, by simp [hst], by simp [hst]⟩
  · next hst => exact ⟨hgone, rfl, by simp [hst], fun _ => rfl, by simp [hst]⟩
  · next hS hE => exact ⟨hgone, rfl, fun h => absurd h hS, fun h => absurd h hE, fun _ => ⟨rfl, Tab.at_put_same ..⟩⟩

theorem exec_evictClean {a line : Nat} {e : DirEnt} (hmsg : .evictClean a line ∈ s.coh.net) (he : s.dirEnt? line = some e)
    (hpinned : s.pinned line = false) (hcond : e.cond = 1) (howner : e.owner = a) :
    ∃ s', exec (.evictClean a line) s = .next s' ∧ s'.dirEnt? line = none ∧ s'.mem = s.mem := by
  obtain ⟨rest, hrecv⟩ := State.recvC_of_mem s hmsg
  refine ⟨(s.onCoh fun h => { h with net := rest }).freeDir line, ?_, State.dirEnt?_freeDir .., State.freeDir_mem ..⟩
  refine congrArg Host.Outcome.next ?_
  have he' : (s.onCoh fun h => { h with net := rest }).dirEnt? line = some e := he
  have hp' : (s.onCoh fun h => { h with net := rest }).pinned line = false := hpinned
  unfold State.onEvictClean
  rw [hrecv]
  dsimp only
  rw [he']
  dsimp only
  rw [hp', if_pos (by simp [hcond, howner])]

theorem State.wbAt_owner {a line key : Nat} {d : Bytes} {e : DirEnt} (he : s.dirEnt? line = some e) (hcond : e.cond ≠ 0) (howner : e.owner = a)
    (hbuf : (s.wbBuf? a line).isSome = true) : ∃ t, (s.wbAt a line d key).txn? line = some t ∧ t.memW = some (d, key) := by
  rw [State.wbAt, he]
  dsimp only
  rw [if_pos (by simp [hcond, howner, hbuf]), State.startReq]
  exact ⟨_, State.txn?_setTxn .., rfl⟩

/-- The oldest write-back of an agent's line arrives. -/
theorem State.onWb_of_find {a line k : Nat} {d : Bytes}
    (hmsg : s.coh.net.find? (fun m => match m with | .wb x l _ _ => x == a && l == line | _ => false) = some (.wb a line d k)) :
    ∃ rest, ∀ s1, s1 = (s.onCoh fun h => { h with net := rest }) →
      s.onWb a line = match s.txn? line with
        | some t => s1.setTxn line { t with wbs := t.wbs ++ [(a, d, k)] }
        | none => s1.wbAt a line d k := by
  obtain ⟨rest, hrecv⟩ := State.recvC_of_find s hmsg
  refine ⟨rest, fun s1 hs1 => ?_⟩
  subst hs1
  unfold State.onWb
  split
  · next heq =>
    obtain ⟨hm, rfl⟩ := Prod.mk.inj (Option.some.inj (heq.symm.trans hrecv))
    obtain ⟨-, -, rfl, rfl⟩ := CMsg.wb.inj hm
    rfl
  · next hne => exact absurd hrecv (hne _ _ _ _ _)

theorem exec_wb_idle {a line k : Nat} {d : Bytes} {e : DirEnt}
    (hmsg : s.coh.net.find? (fun m => match m with | .wb x l _ _ => x == a && l == line | _ => false) = some (.wb a line d k))
    (hidle : s.txn? line = none) (he : s.dirEnt? line = some e) (hcond : e.cond ≠ 0) (howner : e.owner = a)
    (hbuf : (s.wbBuf? a line).isSome = true) :
    ∃ s' t, exec (.wb a line) s = .next s' ∧ s'.txn? line = some t ∧ t.memW = some (d, k) := by
  obtain ⟨rest, hon⟩ := State.onWb_of_find s hmsg
  have h := hon _ rfl
  rw [hidle] at h
  obtain ⟨t, ht, hw⟩ := State.wbAt_owner (s.onCoh fun h => { h with net := rest }) (d := d) (key := k) he hcond howner hbuf
  exact ⟨_, t, congrArg Host.Outcome.next h, ht, hw⟩

theorem exec_wb_open {a line k : Nat} {d : Bytes} {t : Txn}
    (hmsg : s.coh.net.find? (fun m => match m with | .wb x l _ _ => x == a && l == line | _ => false) = some (.wb a line d k))
    (ht : s.txn? line = some t) :
    ∃ s', exec (.wb a line) s = .next s' ∧ s'.txn? line = some { t with wbs := t.wbs ++ [(a, d, k)] } ∧ s'.mem = s.mem := by
  obtain ⟨rest, hon⟩ := State.onWb_of_find s hmsg
  have h := hon _ rfl
  rw [ht] at h
  exact ⟨_, congrArg Host.Outcome.next h, State.txn?_setTxn .., rfl⟩

theorem exec_wbAck {a line : Nat} (hmsg : .wbAck a line ∈ s.coh.net) :
    ∃ s', exec (.wbAck a line) s = .next s' ∧ s'.wbBuf? a line = none ∧ s'.mem = s.mem := by
  obtain ⟨rest, hrecv⟩ := State.recvC_of_mem s hmsg
  refine ⟨_, rfl, ?_⟩
  unfold State.onWbAck
  rw [hrecv]
  exact ⟨Tab.at_del_same .., rfl⟩

/-- The answer to a shared read of data that memory supplied. -/
theorem State.txnSend_rdShared {t : Txn} {b : Bytes} (hkind : t.req.kind = .rdShared) (howner : t.byOwner = false) (hdirty : t.dirty = none)
    (hdata : t.memData = some b) :
    s.txnSend t = (s.setTxn t.req.line { t with sent := true, memW := none, dirty := none }).sendC
      (.data t.req.agent t.req.line (some t.give) b t.req.key) := by
  unfold State.txnSend
  simp [hkind, howner, hdirty, hdata]

/-- A shared read whose data memory supplied has sent it, and waits for COMPLETE. -/
theorem State.txnStep_rdShared {line : Nat} {t : Txn} {b : Bytes} (ht : s.txn? line = some t) (hline : t.req.line = line) (hready : t.ready)
    (hkind : t.req.kind = .rdShared) (hsent : t.sent = false) (hdone : t.done = false) (hw : t.memW = none) (howner : t.byOwner = false)
    (hdirty : t.dirty = none) (hdata : t.memData = some b) :
    s.txnStep line = (s.setTxn line { t with sent := true, memW := none, dirty := none }).sendC (.data t.req.agent line (some t.give) b t.req.key) := by
  rw [State.txnStep_ready s ht hready, if_neg (by simp [hsent, hw]), State.txnSend_rdShared s hkind howner hdirty hdata, hline]
  exact State.txnEnd_open _ (State.txn?_setTxn ..) (.inl hdone)

/-- A good line's data reaches the transaction that reads it. -/
theorem State.onMemRead_good {line : Nat} {t : Txn} (ht : s.txn? line = some t) (hdue : t.memDue = true) (hgood : s.memBad line = false) :
    s.onMemRead line .clean =
      (s.setTxn line { t with memDue := false, memData := some (s.memBytes t.req.key (line * 64) 64) }).txnStep line := by
  rw [State.onMemRead, ht]
  dsimp only
  rw [if_neg (by simp [hdue]), if_neg (by simp [hgood]), if_neg (by simp)]

/-- Data of a shared read leaves for the requester. -/
theorem exec_memReadDone {line : Nat} {t : Txn} (ht : s.txn? line = some t) (hline : t.req.line = line) (hdue : t.memDue = true)
    (hgood : s.memBad line = false) (hkind : t.req.kind = .rdShared) (hready : { t with memDue := false }.ready) (hsent : t.sent = false)
    (hdone : t.done = false) (hw : t.memW = none) (howner : t.byOwner = false) (hdirty : t.dirty = none) :
    ∃ s', exec (.memReadDone line .clean) s = .next s' ∧ s'.mem = s.mem ∧
      s'.coh.net = s.coh.net ++ [.data t.req.agent line (some t.give) (s.memBytes t.req.key (line * 64) 64) t.req.key] := by
  have hexec : exec (.memReadDone line .clean) s = .next (s.onMemRead line .clean) := by
    refine congrArg Host.Outcome.next ((if_neg ?_).trans rfl)
    rw [ht]
    simp [hkind]
  have hsend := (State.onMemRead_good s ht hdue hgood).trans
    (State.txnStep_rdShared _ (State.txn?_setTxn ..) hline hready hkind hsent hdone hw howner hdirty rfl)
  exact ⟨_, hexec.trans (congrArg Host.Outcome.next hsend), rfl, rfl⟩

/-- A write whose acknowledgement comes last closes its transaction. -/
theorem exec_memWriteAck {line k : Nat} {t : Txn} {d : Bytes} (ht : s.txn? line = some t) (hw : t.memW = some (d, k)) (hready : t.ready)
    (hsent : t.sent = true) (hdone : t.done = true) (hkind : ∀ b, t.req.kind ≠ .writeBack b) :
    exec (.memWriteAck line) s = .next (((s.memLine k line d).setTxn line { t with memW := none }).txnClose { t with memW := none }) := by
  refine congrArg Host.Outcome.next ?_
  unfold State.onMemWriteAck
  rw [ht]
  dsimp only
  rw [hw]
  dsimp only
  split
  · next b hb => exact absurd hb (hkind b)
  · exact State.txnStep_closes _ (State.txn?_setTxn ..) hready ⟨hdone, hsent, rfl⟩

theorem State.pinned_delTxn (line : Nat) : (s.delTxn line).pinned line = false := by
  rw [State.pinned_iff, State.txn?_delTxn]
  rfl

/-- Settles O32: each arrival finds its message or its transaction, and does what R90 to R94 say of it. -/
theorem evictionsAndMemoryComplete : Obligations.EvictionsAndMemoryComplete := by
  intro s a line
  refine ⟨fun c hc => exec_cacheEvict s hc, fun e hmsg he hpinned hcond howner => exec_evictClean s hmsg he hpinned hcond howner,
    fun d k hmsg => ⟨fun e => exec_wb_idle s hmsg, fun t ht => exec_wb_open s hmsg ht⟩, fun hmsg => exec_wbAck s hmsg,
    fun t ht hline hdue hgood hkind hacks hdata hpres hvictim hsent hdone hw howner hdirty =>
      exec_memReadDone s ht hline hdue hgood hkind ⟨hacks, hdata, rfl, hpres, hvictim⟩ hsent hdone hw howner hdirty,
    fun t d k ht hline hw hacks hdata hdue hpres hvictim hsent hdone hwbs => ⟨fun b hkind => ?_, fun hkind => ?_⟩⟩
  all_goals
    have hexec := exec_memWriteAck s ht hw ⟨hacks, hdata, hdue, hpres, hvictim⟩ hsent hdone (by simp [hkind])
    rw [State.txnClose] at hexec
    simp only [hkind, State.unpin_alone _ (t := { t with memW := none }) hwbs, hline] at hexec
    refine ⟨_, hexec, State.pinned_delTxn .., ?_⟩
  · exact ⟨State.dirEnt?_freeDir .., State.freeDir_mem ..⟩
  · exact ⟨rfl, rfl⟩

end Sys2Proof.Machine

/-! PROOF. Requests at a line's home, and requests of cores (R66, R75, R86, R91, R93, R105). -/

namespace Sys2Proof.Machine

variable (s : State)

/-! ### A request that is accepted at once -/

/-- A request for a line of which nothing is open is accepted where its station holds nothing. -/
theorem State.homeReq_closed {r : Req} {node : Nat} (hhome : s.homeOf (r.line * 64) = some node) (hheld : s.stationHeld r = false)
    (hopen : s.lineOpen r.line = false) : s.homeReq r = s.acceptReq node { r with since := s.now } := by
  have hheld' : s.stationHeld { r with since := s.now } = false := hheld
  rw [State.homeReq, hhome]
  dsimp only
  rw [hheld', hopen]
  rfl

/-- A request for a line others use waits in the slice's conflict queue, or at its station (R93). -/
theorem State.homeReq_open {r : Req} {node : Nat} (hhome : s.homeOf (r.line * 64) = some node) (hheld : s.stationHeld r = false)
    (hopen : s.lineOpen r.line = true) : s.homeReq r = s.enqueue { r with since := s.now } := by
  have hheld' : s.stationHeld { r with since := s.now } = false := hheld
  rw [State.homeReq, hhome]
  dsimp only
  rw [hheld', hopen]
  rfl

/-- An accepted request that needs no way, or has one, starts. -/
theorem State.acceptReq_start {r : Req} (node : Nat) (hown : s.asOwn r = r) (hheld : r.held = false) (hkind : r.kind ≠ .rebuild)
    (hroom : needsEntry r.kind = true → s.dirEnt? r.line = none →
      (s.setEntries r.line).length < 16 ∧ s.coh.retryQ.any (fun q => sameSet s q.line r.line) = false) :
    s.acceptReq node r = (s.startReq r).txnStep r.line := by
  have hway : s.wayless r = false := by
    by_cases hneed : needsEntry r.kind = true
    · cases hdir : s.dirEnt? r.line with
      | none =>
        obtain ⟨hlen, hretry⟩ := hroom hneed hdir
        simp [State.wayless, hretry, Nat.not_le.mpr hlen]
      | some e => simp [State.wayless, hdir]
    · simp [State.wayless, hneed]
  have hfit : ¬ ((needsEntry r.kind && (s.dirEnt? r.line).isNone && decide ((s.setEntries r.line).length ≥ 16)) = true) := by
    simp only [Bool.and_eq_true, Option.isNone_iff_eq_none, decide_eq_true_eq]
    rintro ⟨⟨hneed, hdir⟩, hlen⟩
    have := (hroom hneed hdir).1
    omega
  rw [State.acceptReq, hown, hway]
  simp only [Bool.not_false, if_true, State.openReq, State.waited, hheld]
  rw [if_neg (by simpa using hkind)]
  exact if_neg hfit

theorem State.asOwn_of_ne {r : Req} (h : r.kind ≠ .upgrade) : s.asOwn r = r := by
  simp [State.asOwn, h]

/-- The request that arrives for an agent's line, under the key of its tags. -/
def State.arriving (s : State) (a line : Nat) (tag : ReqTag) (k : ReqKind) : Req :=
  { kind := k, agent := a, line := line, key := s.keyOf tag.part tag.gen, since := s.now }

/-- A request of no core for a line that nobody uses starts with the key of its tags. -/
theorem State.reqTag_starts {a line node : Nat} {tag : ReqTag} (hin : agentIn s a = true) (hcore : coreHart a tag = none)
    (hhome : s.homeOf (line * 64) = some node) (hopen : s.lineOpen line = false) (k : ReqKind)
    (hheld : s.stationHeld { kind := .rdShared, agent := a, line := line } = false) (hk : k ≠ .rebuild)
    (hown : s.asOwn (s.arriving a line tag k) = s.arriving a line tag k)
    (hroom : needsEntry k = true → s.dirEnt? line = none →
      (s.setEntries line).length < 16 ∧ s.coh.retryQ.any (fun q => sameSet s q.line line) = false) :
    s.reqTag a line tag k = (s.startReq (s.arriving a line tag k)).txnStep line := by
  have hheld' : s.stationHeld { kind := k, agent := a, line := line, key := s.keyOf tag.part tag.gen } = false := hheld
  have hclosed := State.homeReq_closed s (r := { kind := k, agent := a, line := line, key := s.keyOf tag.part tag.gen }) hhome hheld' hopen
  have hstart := State.acceptReq_start s (r := s.arriving a line tag k) node hown rfl hk hroom
  exact (State.reqTag_of_noCore hin hcore line k .none).trans (hclosed.trans hstart)

/-- A transaction whose memory read is due stays as it is. -/
theorem State.txnStep_memDue {line : Nat} {t : Txn} (ht : s.txn? line = some t) (hdue : t.memDue = true) : s.txnStep line = s := by
  rw [State.txnStep, ht]
  simp [hdue]

theorem State.dirEnt?_openDir (line : Nat) (e : DirEnt) :
    ∃ e', (s.openDir line e).1.dirEnt? line = some e' ∧ e' = { e with seq := s.coh.dirSeq } := by
  refine ⟨_, ?_, rfl⟩
  have hnew : (s.newDir line e).1.dirEnt? line = some { e with seq := s.coh.dirSeq } := by
    unfold State.newDir State.presUp
    dsimp only
    split <;> exact Tab.at_put_same ..
  unfold State.openDir
  dsimp only
  split
  · refine Eq.trans ?_ hnew
    unfold State.presSet State.onCoh State.dirEnt?
    dsimp only
    split <;> rfl
  · exact hnew

/-- A request that needs an entry of a line without one allocates it and starts the memory read (R91). -/
theorem State.startReq_allocates {r : Req} (hneed : needsEntry r.kind = true) (hdir : s.dirEnt? r.line = none) :
    s.startReq r = (s.openDir r.line (aloneEnt {} r.agent (giveAlone r))).1.setTxn r.line
      { req := r, memDue := true, give := giveAlone r, presDue := (s.openDir r.line (aloneEnt {} r.agent (giveAlone r))).2 } := by
  have hkind : r.kind = .rdShared ∨ r.kind = .rdOwn ∨ r.kind = .watch := by
    cases hk : r.kind <;> simp [hk, needsEntry] at hneed ⊢
  unfold State.startReq
  dsimp only
  rw [hdir]
  rcases hkind with hk | hk | hk <;> simp only [hk, needsEntry, if_true]

/-- What an allocation leaves: the transaction waits for memory, and the entry names the requester. -/
theorem State.allocates {s s' : State} {r : Req} (hneed : needsEntry r.kind = true) (hdir : s.dirEnt? r.line = none)
    (hs' : s' = (s.startReq r).txnStep r.line) :
    ∃ t e, s'.txn? r.line = some t ∧ t.req = r ∧ t.memDue = true ∧ t.give = giveAlone r ∧ s'.dirEnt? r.line = some e ∧
      e = { aloneEnt {} r.agent (giveAlone r) with seq := s.coh.dirSeq } := by
  obtain ⟨e, he, heq⟩ := State.dirEnt?_openDir s r.line (aloneEnt {} r.agent (giveAlone r))
  rw [hs', State.startReq_allocates s hneed hdir, State.txnStep_memDue _ (State.txn?_setTxn ..) rfl]
  exact ⟨_, e, State.txn?_setTxn .., rfl, rfl, rfl, he, heq⟩

theorem exec_rdOwn {a line : Nat} {tag : ReqTag} (hcache : agentIsTile a = true) (hcore : coreHart a tag = none) (wr : CoreWr) :
    exec (.rdOwn a line tag wr) s = .next (s.reqTag a line tag .rdOwn) := by
  refine congrArg Host.Outcome.next ((if_pos (by simp [hcache])).trans ?_)
  rw [coreHart_agentIsH hcore]
  rfl

theorem exec_upgrade {a line : Nat} {tag : ReqTag} (hcache : agentIsTile a = true) (hcore : coreHart a tag = none) (wr : CoreWr) :
    exec (.upgrade a line tag wr) s = .next (s.reqTag a line tag .upgrade) := by
  refine congrArg Host.Outcome.next ((if_pos (by simp [hcache])).trans ?_)
  rw [coreHart_agentIsH hcore]
  rfl

theorem exec_rdShared {a line : Nat} {tag : ReqTag} (hcache : agentIsTile a = true) :
    exec (.rdShared a line tag) s = .next (s.reqTag a line tag .rdShared) := by
  have hseq : agentIsSeq a = false := by
    simp only [agentIsTile, decide_eq_true_eq] at hcache
    simp [agentIsSeq]
    omega
  exact congrArg Host.Outcome.next ((if_neg (by simp [hseq])).trans (if_pos (by simp [agentCaches, hcache])))

/-- RD_ONCE, WR_PARTIAL and WR_FULL take no entry. -/
theorem State.startReq_entryless {r : Req} (hdir : s.dirEnt? r.line = none) :
    ((r.kind = .rdOnce ∨ ∃ m d, r.kind = .wrPartial m d) → s.startReq r = s.setTxn r.line { req := r, memDue := true }) ∧
    ((∃ d, r.kind = .wrFull d) → s.startReq r = s.setTxn r.line { req := r }) := by
  unfold State.startReq
  dsimp only
  rw [hdir]
  refine ⟨fun hk => ?_, fun hk => ?_⟩
  · rcases hk with hk | ⟨m, d, hk⟩ <;> simp [hk, needsEntry]
  · obtain ⟨d, hk⟩ := hk
    simp [hk, needsEntry]

/-- A write of a whole line that no one holds goes to memory. -/
theorem State.txnStep_wrFull {line : Nat} {t : Txn} {d : Bytes} (ht : s.txn? line = some t) (hline : t.req.line = line) (hready : t.ready)
    (hkind : t.req.kind = .wrFull d) (hsent : t.sent = false) (hw : t.memW = none) :
    s.txnStep line = s.setTxn line { t with memW := some (sliceB d 0 64, t.req.key), sent := true, done := true } := by
  have hsend : s.txnSend t = s.setTxn line { t with memW := some (sliceB d 0 64, t.req.key), sent := true, done := true } := by
    unfold State.txnSend
    simp only [hkind, hline]
  rw [State.txnStep_ready s ht hready, if_neg (by simp [hsent, hw]), hsend]
  exact State.txnEnd_open _ (State.txn?_setTxn ..) (.inr rfl)

/-- The only sharer's upgrade is granted at once. -/
theorem State.upgrade_alone {r : Req} {e : DirEnt} (hkind : r.kind = .upgrade) (he : s.dirEnt? r.line = some e) (hcond : e.cond = 0)
    (hsharers : e.sharers = [r.agent]) (hcoarse : e.coarse = false) :
    (s.startReq r).txnStep r.line =
      ((((s.setDir r.line (aloneEnt e r.agent .M)).setTxn r.line { req := r, give := .M }).setTxn r.line { req := r, give := .M, sent := true }).sendC
        (.grant r.agent r.line)) := by
  have hsnoops : (s.snoopList e).filter (· != r.agent) = [] := by
    simp [State.snoopList, hcond, hsharers, hcoarse]
  have hstart : s.startReq r = (s.setDir r.line (aloneEnt e r.agent .M)).setTxn r.line { req := r, give := .M } := by
    unfold State.startReq
    dsimp only
    rw [he]
    simp only [hkind, hsnoops]
    rfl
  have hsend : (s.startReq r).txnSend { req := r, give := .M } =
      ((s.startReq r).setTxn r.line { req := r, give := .M, sent := true }).sendC (.grant r.agent r.line) := by
    unfold State.txnSend
    simp only [hkind]
  rw [State.txnStep_ready (t := { req := r, give := .M }) _ (by rw [hstart, State.txn?_setTxn]) ⟨rfl, rfl, rfl, rfl, rfl⟩, if_neg (by simp), hsend, hstart]
  exact State.txnEnd_open _ (State.txn?_setTxn ..) (.inl rfl)

/-- The complex no longer owes the line a WATCH. -/
def State.unowed (s : State) (a line : Nat) : State := s.onCoh fun h => { h with rewatch := h.rewatch.filter (· != (a, line)) }

/-- WATCH of an agent whose watch store has room. -/
theorem exec_watchReq_allocates {a line node : Nat} {tag : ReqTag} (hin : agentIn s a = true) (hcore : coreHart a tag = none)
    (hhome : s.homeOf (line * 64) = some node) (hopen : s.lineOpen line = false)
    (hheld : s.stationHeld { kind := .rdShared, agent := a, line := line } = false) (hdir : s.dirEnt? line = none)
    (hroom : needsEntry .watch = true → s.dirEnt? line = none →
      (s.setEntries line).length < 16 ∧ s.coh.retryQ.any (fun q => sameSet s q.line line) = false)
    (hwatch : agentIsTile a = true ∨ agentIsSeq a = true) (hcap : (s.watched a).length < watchCap a) :
    ∃ s' t e, exec (.watchReq a line tag) s = .next s' ∧ s'.txn? line = some t ∧ t.memDue = true ∧ t.give = .S ∧
      s'.dirEnt? line = some e ∧ e.cond = 0 ∧ e.sharers = [a] := by
  have hexec : exec (.watchReq a line tag) s = .next ((s.unowed a line).reqTag a line tag .watch) := by
    have h : exec (.watchReq a line tag) s = execWatchReq a line s tag := rfl
    have hagent : ¬ (!(agentIsTile a || agentIsSeq a) || !agentIn s a) = true := by
      rcases hwatch with h | h <;> simp [h, hin]
    rw [h, execWatchReq, if_neg hagent, hhome]
    dsimp only
    rw [if_neg (by simp [Nat.not_le.mpr hcap])]
    rfl
  have hstart := State.reqTag_starts (s.unowed a line) (tag := tag) hin hcore hhome hopen .watch hheld (by simp)
    (State.asOwn_of_ne _ (by simp [State.arriving])) hroom
  obtain ⟨t, e, ht, -, hdue, hgive, he, heq⟩ :=
    State.allocates (s := s.unowed a line) (r := (s.unowed a line).arriving a line tag .watch) rfl hdir hstart
  refine ⟨_, t, e, hexec, ht, hdue, hgive, he, ?_, ?_⟩ <;> rw [heq] <;> rfl

/-! ### The statement -/

/-- Requests of tiles and of the other agents but cores. -/
theorem requestsOpenTransactions (s : State) {a line node : Nat} {tag : ReqTag} (hin : agentIn s a = true)
    (hcore : coreHart a tag = none) (hhome : s.homeOf (line * 64) = some node) (hopen : s.lineOpen line = false)
    (hheld : s.stationHeld { kind := .rdShared, agent := a, line := line } = false) :
    (s.dirEnt? line = none → (s.setEntries line).length < 16 → s.coh.retryQ.any (fun q => sameSet s q.line line) = false →
      (agentIsTile a = true →
        (∃ s' t e, exec (.rdShared a line tag) s = .next s' ∧ s'.txn? line = some t ∧ t.req.agent = a ∧
          t.req.key = s.keyOf tag.part tag.gen ∧ t.memDue = true ∧ t.give = .E ∧ s'.dirEnt? line = some e ∧ e.cond = 1 ∧ e.owner = a) ∧
        (∀ wr, ∃ s' t e, exec (.rdOwn a line tag wr) s = .next s' ∧ s'.txn? line = some t ∧ t.req.agent = a ∧
          t.req.key = s.keyOf tag.part tag.gen ∧ t.memDue = true ∧ t.give = .M ∧ s'.dirEnt? line = some e ∧ e.cond = 1 ∧ e.owner = a)) ∧
      (agentIsTile a = true ∨ agentIsSeq a = true → (s.watched a).length < watchCap a →
        ∃ s' t e, exec (.watchReq a line tag) s = .next s' ∧ s'.txn? line = some t ∧ t.memDue = true ∧ t.give = .S ∧
          s'.dirEnt? line = some e ∧ e.cond = 0 ∧ e.sharers = [a])) := by
  intro hdir hlen hretry
  have hroom : ∀ k, needsEntry k = true → s.dirEnt? line = none →
      (s.setEntries line).length < 16 ∧ s.coh.retryQ.any (fun q => sameSet s q.line line) = false := fun _ _ _ => ⟨hlen, hretry⟩
  refine ⟨fun htile => ⟨?_, fun wr => ?_⟩, fun hwatch hcap => ?_⟩
  · have hstart := State.reqTag_starts s hin hcore hhome hopen .rdShared hheld (by simp) (State.asOwn_of_ne s (by simp [State.arriving])) (hroom _)
    obtain ⟨t, e, ht, hreq, hdue, hgive, he, heq⟩ := State.allocates (s := s) (r := s.arriving a line tag .rdShared) rfl hdir hstart
    have hE : giveAlone (s.arriving a line tag .rdShared) = .E := by simp [giveAlone, State.arriving, htile]
    rw [hE] at hgive heq
    refine ⟨_, t, e, exec_rdShared s htile, ht, by rw [hreq]; rfl, by rw [hreq]; rfl, hdue, hgive, he, ?_, ?_⟩ <;> rw [heq] <;> rfl
  · have hstart := State.reqTag_starts s hin hcore hhome hopen .rdOwn hheld (by simp) (State.asOwn_of_ne s (by simp [State.arriving])) (hroom _)
    obtain ⟨t, e, ht, hreq, hdue, hgive, he, heq⟩ := State.allocates (s := s) (r := s.arriving a line tag .rdOwn) rfl hdir hstart
    refine ⟨_, t, e, exec_rdOwn s htile hcore wr, ht, by rw [hreq]; rfl, by rw [hreq]; rfl, hdue, hgive, he, ?_, ?_⟩ <;> rw [heq] <;> rfl
  · exact exec_watchReq_allocates s hin hcore hhome hopen hheld hdir (hroom _) hwatch hcap

/-- Requests that take no entry, and the only sharer's UPGRADE. -/
theorem entrylessRequestsOpen (s : State) {a line node : Nat} {tag : ReqTag} (data : Bytes) (mask : List Bool) (hin : agentIn s a = true)
    (hcore : coreHart a tag = none) (hhome : s.homeOf (line * 64) = some node) (hopen : s.lineOpen line = false)
    (hheld : s.stationHeld { kind := .rdShared, agent := a, line := line } = false) (hdir : s.dirEnt? line = none) :
    (∃ s' t, exec (.rdOnce a line tag false) s = .next s' ∧ s'.txn? line = some t ∧ t.memDue = true ∧ s'.coh.dir = s.coh.dir) ∧
    (∃ s' t, exec (.wrPartial a line mask data tag) s = .next s' ∧ s'.txn? line = some t ∧ t.memDue = true ∧ s'.coh.dir = s.coh.dir) ∧
    (∃ s' t, exec (.wrFull a line data tag) s = .next s' ∧ s'.txn? line = some t ∧
      t.memW = some (sliceB data 0 64, s.keyOf tag.part tag.gen) ∧ s'.coh.dir = s.coh.dir ∧ s'.mem = s.mem) := by
  have hstarts : ∀ k, needsEntry k = false → k ≠ .rebuild → k ≠ .upgrade →
      s.reqTag a line tag k = (s.startReq (s.arriving a line tag k)).txnStep line := fun k hneed hk hup =>
    State.reqTag_starts s hin hcore hhome hopen k hheld hk (State.asOwn_of_ne s hup) (fun h => by simp [hneed] at h)
  have hdue : ∀ k, needsEntry k = false → k ≠ .rebuild → k ≠ .upgrade → (k = .rdOnce ∨ ∃ m d, k = .wrPartial m d) →
      s.reqTag a line tag k = s.setTxn line { req := s.arriving a line tag k, memDue := true } := fun k hneed hk hup hkind => by
    rw [hstarts k hneed hk hup, (State.startReq_entryless s (r := s.arriving a line tag k) hdir).1 hkind]
    exact State.txnStep_memDue _ (State.txn?_setTxn ..) rfl
  refine ⟨⟨_, _, congrArg Host.Outcome.next (hdue .rdOnce rfl (by simp) (by simp) (.inl rfl)), State.txn?_setTxn .., rfl, rfl⟩,
    ⟨_, _, congrArg Host.Outcome.next (hdue (.wrPartial mask data) rfl (by simp) (by simp) (.inr ⟨_, _, rfl⟩)), State.txn?_setTxn .., rfl, rfl⟩, ?_⟩
  have hfull : s.reqTag a line tag (.wrFull data) = (s.setTxn line { req := s.arriving a line tag (.wrFull data) }).setTxn line
      { req := s.arriving a line tag (.wrFull data), memW := some (sliceB data 0 64, s.keyOf tag.part tag.gen), sent := true, done := true } := by
    rw [hstarts _ rfl (by simp) (by simp), (State.startReq_entryless s (r := s.arriving a line tag (.wrFull data)) hdir).2 ⟨_, rfl⟩]
    exact State.txnStep_wrFull _ (State.txn?_setTxn ..) rfl ⟨rfl, rfl, rfl, rfl, rfl⟩ rfl rfl rfl
  exact ⟨_, _, congrArg Host.Outcome.next hfull, State.txn?_setTxn .., rfl, rfl, rfl⟩

theorem exec_upgrade_alone (s : State) {a line node : Nat} {tag : ReqTag} {e : DirEnt} (wr : CoreWr) (hin : agentIn s a = true)
    (hcore : coreHart a tag = none) (hhome : s.homeOf (line * 64) = some node) (hopen : s.lineOpen line = false)
    (hheld : s.stationHeld { kind := .rdShared, agent := a, line := line } = false) (he : s.dirEnt? line = some e) (hcond : e.cond = 0)
    (hsharers : e.sharers = [a]) (hcoarse : e.coarse = false) (htile : agentIsTile a = true) :
    ∃ s' e', exec (.upgrade a line tag wr) s = .next s' ∧ s'.coh.net = s.coh.net ++ [.grant a line] ∧
      s'.dirEnt? line = some e' ∧ e'.cond = 1 ∧ e'.owner = a := by
  have hlists : s.lists (s.arriving a line tag .upgrade) = true := by
    have he' : s.dirEnt? (s.arriving a line tag .upgrade).line = some e := he
    rw [State.lists, he']
    simp [State.arriving, hsharers]
  have hown : s.asOwn (s.arriving a line tag .upgrade) = s.arriving a line tag .upgrade := by
    simp [State.asOwn, hlists]
  have hstart := State.reqTag_starts s hin hcore hhome hopen .upgrade hheld (by simp) hown (fun h => by simp [needsEntry] at h)
  have halone := State.upgrade_alone s (r := s.arriving a line tag .upgrade) rfl he hcond hsharers hcoarse
  refine ⟨_, aloneEnt e a .M, (exec_upgrade s htile hcore wr).trans (congrArg Host.Outcome.next (hstart.trans halone)), rfl, Tab.at_put_same .., rfl, rfl⟩

/-! ### Requests of cores -/

section Cores

variable {m line : Nat} {tag : ReqTag}

theorem agentH_facts (hm : m < 2) : agentIsH (agentH m) = true ∧ agentIsSeq (agentH m) = false ∧ agentIsTile (agentH m) = false := by
  interval_cases m <;> decide

/-- A core's request asks the core attribute table for its page. -/
theorem State.tagged_core (hm : m < 2) (henc : encrypted (line * 64) = true) (k : ReqKind) (wr : CoreWr) (f : State → Req → State) :
    s.tagged { kind := k, agent := agentH m, line := line, wr := wr } tag f =
      match s.coreAccess (64 * m + tag.hart.getD 0 % 64) (line * 64) with
      | (.ok key floor, s) => f s { kind := k, agent := agentH m, line := line, wr := wr, key := key, floor := floor }
      | (.fault, s) => s.emit (.coreFault (64 * m + tag.hart.getD 0 % 64) (line * 64))
      | (.bad pa, s) => (s.memErr pa).emit (.reqFailed (agentH m) (line * 64) St.memUncorrectable)
      | (.locked, s) =>
        let w : CoreWait := ⟨{ kind := k, agent := agentH m, line := line, wr := wr }, tag⟩
        (if s.xl.coreWait.contains w then s else { s with xl := { s.xl with coreWait := s.xl.coreWait ++ [w] } } : State).lockWaitFor
          (.core ((64 * m + tag.hart.getD 0 % 64) / 64)) 64 (line * 64) accLoad := by
  have hhart : coreHart (agentH m) tag = some (64 * m + tag.hart.getD 0 % 64) := by
    rw [coreHart, if_pos (agentH_facts hm).1]
    simp [agentH]
  rw [State.tagged, hhart]
  simp only [henc]
  rfl

theorem agentIn_core {s : State} (hm : m < 2) (hin : holderIn s (agentH m) = true) : agentIn s (agentH m) = true := by
  rw [agentIn, if_pos (by simp [agentCaches, (agentH_facts hm).1])]
  exact hin

/-- The requests of an H-die's caches, each under the key the core attribute table names. -/
theorem exec_core (hm : m < 2) :
    exec (.rdShared (agentH m) line tag) s = .next (s.reqTag (agentH m) line tag .rdShared) ∧
    (∀ wr, exec (.rdOwn (agentH m) line tag wr) s = .next (s.reqTag (agentH m) line tag .rdOwn wr) ∧
      exec (.upgrade (agentH m) line tag wr) s = .next (s.reqTag (agentH m) line tag .upgrade wr)) ∧
    exec (.rdOnce (agentH m) line tag true) s = .next (s.reqTag (agentH m) line tag .clean) := by
  obtain ⟨hH, hseq, -⟩ := agentH_facts hm
  have hcaches : agentCaches (agentH m) = true := by simp [agentCaches, hH]
  refine ⟨congrArg Host.Outcome.next ((if_neg (by simp [hseq])).trans (if_pos hcaches)), fun wr => ⟨?_, ?_⟩, ?_⟩
  · refine congrArg Host.Outcome.next ((if_pos (by simp [hH])).trans ?_)
    rw [if_pos hH]
  · refine congrArg Host.Outcome.next ((if_pos (by simp [hH])).trans ?_)
    rw [if_pos hH]
  · refine congrArg Host.Outcome.next ?_
    rw [hH]
    rfl

/-- A page that the table does not permit is a fault of the core (R66). -/
theorem State.reqTag_coreFault (hm : m < 2) (hin : holderIn s (agentH m) = true) (henc : encrypted (line * 64) = true) {s0 : State}
    (hfault : s.coreAccess (64 * m + tag.hart.getD 0 % 64) (line * 64) = (.fault, s0)) (k : ReqKind) (wr : CoreWr) :
    s.reqTag (agentH m) line tag k wr = s0.emit (.coreFault (64 * m + tag.hart.getD 0 % 64) (line * 64)) := by
  rw [State.reqTag, if_pos (agentIn_core hm hin), State.tagged_core s hm henc, hfault]

theorem State.reqTag_coreOk (hm : m < 2) (hin : holderIn s (agentH m) = true) (henc : encrypted (line * 64) = true) {key : Nat} {floor : Bool}
    (hok : s.coreAccess (64 * m + tag.hart.getD 0 % 64) (line * 64) = (.ok key floor, s)) (k : ReqKind) (wr : CoreWr) :
    s.reqTag (agentH m) line tag k wr = s.reqGo tag { kind := k, agent := agentH m, line := line, wr := wr, key := key, floor := floor } := by
  rw [State.reqTag, if_pos (agentIn_core hm hin), State.tagged_core s hm henc, hok]

/-- A write to a line that the caches hold in M or E is performed there (R86). -/
theorem State.reqGo_coreHit (hm : m < 2) {key : Nat} {c : Copy} (hc : s.copy? (agentH m) line = some c) (hst : c.st = .M ∨ c.st = .E)
    (hpinned : s.pinned line = false) {k : ReqKind} (hk : k = .rdOwn ∨ k = .upgrade) (wr : CoreWr) :
    s.reqGo tag { kind := k, agent := agentH m, line := line, wr := wr, key := key } = s.coreWrite (agentH m) line wr false := by
  have hhit : s.coreHit { kind := k, agent := agentH m, line := line, wr := wr, key := key } = some (s.coreWrite (agentH m) line wr false) := by
    unfold State.coreHit
    dsimp only
    rw [hc]
    dsimp only
    rw [if_pos]
    rcases hst with hst | hst <;> simp [hst, (agentH_facts hm).1, hpinned]
  unfold State.reqGo
  rcases hk with rfl | rfl
  · exact congrArg (Option.getD · _) hhit
  · exact congrArg (Option.getD · _) hhit

/-- A cbo.clean of a line without an entry ends at once (R75). -/
theorem State.homeReq_clean {r : Req} {node : Nat} (hkind : r.kind = .clean) (hheld : r.held = false) (hhome : s.homeOf (r.line * 64) = some node)
    (hopen : s.lineOpen r.line = false) (hstation : s.stationHeld r = false) (hdir : s.dirEnt? r.line = none) :
    s.homeReq r = ((s.setTxn r.line { req := { r with since := s.now }, sent := true, done := true }).emit (.cleanDone r.agent r.line)).delTxn r.line := by
  have hstart := State.acceptReq_start s (r := { r with since := s.now }) node (State.asOwn_of_ne s (by simp [hkind])) hheld (by simp [hkind])
    (fun h => by simp [needsEntry, hkind] at h)
  have hreq : s.startReq { r with since := s.now } = s.setTxn r.line { req := { r with since := s.now }, sent := true, done := true } := by
    unfold State.startReq
    dsimp only
    rw [hdir]
    simp only [hkind]
  rw [State.homeReq_closed s hhome hstation hopen, hstart, hreq,
    State.txnStep_closes _ (State.txn?_setTxn ..) ⟨rfl, rfl, rfl, rfl, rfl⟩ ⟨rfl, rfl, rfl⟩, State.txnClose]
  simp only [hkind, State.unpin_alone]

/-- The AMO of a granted line is performed as GRANT makes the copy M (R105). -/
theorem exec_grantMsg_amo {a : Nat} {tx : Txn} {c : Copy} {off size aop opnd nv : Nat} (htx : s.txn? line = some tx)
    (hwr : tx.req.wr = .amo off size aop opnd nv) (hfloor : tx.req.floor = false) (hmsg : .grant a line ∈ s.coh.net)
    (hc : s.copy? a line = some c) :
    ∃ s', exec (.grantMsg a line) s = .next s' ∧
      s'.copy? a line = some { c with st := .M, data := setFieldB c.data off size (atomicNew aop size (fieldB c.data off size) opnd nv) } ∧
      .complete a line ∈ s'.coh.net ∧ s'.outbox = .atomicOld a (line * 64 + off) (fieldB c.data off size) :: s.outbox := by
  obtain ⟨rest, hrecv⟩ := State.recvC_of_mem s hmsg
  have htx' : (s.onCoh fun h => { h with net := rest }).txn? line = some tx := htx
  have hc' : (s.onCoh fun h => { h with net := rest }).copy? a line = some c := hc
  refine ⟨s.onGrant a line, rfl, ?_⟩
  rw [State.onGrant, hrecv]
  dsimp only
  rw [htx', hc']
  dsimp only
  rw [State.coreWrite, State.copy?_setCopy]
  simp only [hwr, hfloor]
  exact ⟨Tab.at_put_same .., List.mem_append_right _ List.mem_cons_self, rfl⟩

end Cores

/-- The requests of an H-die's cores. -/
theorem coreRequestsComplete (s : State) {m line : Nat} {tag : ReqTag} (hm : m < 2) (hin : holderIn s (agentH m) = true)
    (henc : encrypted (line * 64) = true) :
    let a := agentH m
    let hart := 64 * m + tag.hart.getD 0 % 64
    (∀ key c, s.coreAccess hart (line * 64) = (.ok key false, s) → s.copy? a line = some c → c.st = .M ∨ c.st = .E → s.pinned line = false →
      (∀ off d,
        exec (.rdOwn a line tag (.store off d)) s = .next (s.setCopy a line { c with st := .M, data := sliceB (setSliceB c.data (off % 64) (d.take (64 - off % 64))) 0 64 })) ∧
      (∀ off size aop opnd nv,
        exec (.upgrade a line tag (.amo off size aop opnd nv)) s =
          .next ((s.setCopy a line { c with st := .M, data := setFieldB c.data off size (atomicNew aop size (fieldB c.data off size) opnd nv) }).emit
            (.atomicOld a (line * 64 + off) (fieldB c.data off size))))) ∧
    (∀ key floor node, s.coreAccess hart (line * 64) = (.ok key floor, s) → tag.pbmt = 0 → s.homeOf (line * 64) = some node → s.lineOpen line = false →
      s.stationHeld { kind := .clean, agent := a, line := line } = false → s.dirEnt? line = none →
      ∃ s', exec (.rdOnce a line tag true) s = .next s' ∧ s'.pinned line = false ∧ s'.mem = s.mem ∧ s'.outbox = .cleanDone a line :: s.outbox) := by
  intro a hart
  obtain ⟨-, hwrites, hclean⟩ := exec_core s (line := line) (tag := tag) hm
  refine ⟨fun key c hok hc hst hpinned => ⟨fun off d => ?_, fun off size aop opnd nv => ?_⟩, fun key floor node hok hpbmt hhome hopen hstation hdir => ?_⟩
  · rw [(hwrites _).1, State.reqTag_coreOk s hm hin henc hok, State.reqGo_coreHit s hm hc hst hpinned (.inl rfl), State.coreWrite, hc]
    rfl
  · rw [(hwrites _).2, State.reqTag_coreOk s hm hin henc hok, State.reqGo_coreHit s hm hc hst hpinned (.inr rfl), State.coreWrite, hc]
    rfl
  · have hgo : s.reqTag a line tag .clean = s.homeReq { kind := .clean, agent := a, line := line, key := key, floor := floor } := by
      rw [State.reqTag_coreOk s hm hin henc hok]
      exact if_pos (agentIn_core hm hin)
    have hdone := State.homeReq_clean s (r := { kind := .clean, agent := a, line := line, key := key, floor := floor }) rfl rfl hhome hopen hstation hdir
    refine ⟨_, hclean.trans (congrArg Host.Outcome.next (hgo.trans hdone)), State.pinned_delTxn .., rfl, rfl⟩

/-- A read of an open line waits in the conflict queue, or at its station where that is full. -/
theorem exec_rdOnce_open (s : State) {a line node : Nat} {tag : ReqTag} (hin : agentIn s a = true) (hcore : coreHart a tag = none)
    (hhome : s.homeOf (line * 64) = some node) (hopen : s.lineOpen line = true)
    (hheld : s.stationHeld { kind := .rdOnce, agent := a, line := line } = false) :
    exec (.rdOnce a line tag false) s = .next (s.enqueue (s.arriving a line tag .rdOnce)) := by
  have hwait := State.homeReq_open s (r := { kind := .rdOnce, agent := a, line := line, key := s.keyOf tag.part tag.gen }) hhome hheld hopen
  exact congrArg Host.Outcome.next ((State.reqTag_of_noCore hin hcore line .rdOnce .none).trans hwait)

/-- Settles O29: a request starts, waits, or is performed in its caches, by what its line and its page are. -/
theorem coherenceRequestsOpenTransactions : Obligations.CoherenceRequestsOpenTransactions := by
  refine ⟨fun s a line node tag data mask hin hcore hhome hopen hheld => ?_, fun s m line tag hm hin henc => ?_,
    fun s a line node tag hin hcore hhome hopen hheld => ?_⟩
  · exact ⟨requestsOpenTransactions s hin hcore hhome hopen hheld, entrylessRequestsOpen s data mask hin hcore hhome hopen hheld,
      fun e wr he hcond hsharers hcoarse htile => exec_upgrade_alone s wr hin hcore hhome hopen hheld he hcond hsharers hcoarse htile⟩
  · obtain ⟨hshared, hwrites, -⟩ := exec_core s (line := line) (tag := tag) hm
    obtain ⟨hhits, hclean⟩ := coreRequestsComplete s (tag := tag) hm hin henc
    refine ⟨fun s0 hfault wr => ?_, hhits, fun tx c off size aop opnd nv htx hwr hfloor hmsg hc => exec_grantMsg_amo s htx hwr hfloor hmsg hc, hclean⟩
    rw [hshared, (hwrites wr).1, (hwrites wr).2]
    exact ⟨congrArg _ (State.reqTag_coreFault s hm hin henc hfault ..), congrArg _ (State.reqTag_coreFault s hm hin henc hfault ..),
      congrArg _ (State.reqTag_coreFault s hm hin henc hfault ..)⟩
  · have hwait := exec_rdOnce_open s hin hcore hhome hopen hheld
    refine ⟨fun hroom => hwait.trans (congrArg Host.Outcome.next (if_pos hroom)), fun hfull => hwait.trans (congrArg Host.Outcome.next (if_neg ?_))⟩
    exact Nat.not_lt.mpr hfull

end Sys2Proof.Machine

/-! PROOF. Direct accesses: far atomics, windows, absent tiles and generator keys (R9, R58, R104, R142). -/

namespace Sys2Proof.Machine

variable (s : State)

/-! ### Bytes -/

theorem leBytes_length : ∀ n v, (leBytes n v).length = n
  | 0, _ => rfl
  | n + 1, v => by rw [leBytes, List.length_cons, leBytes_length n]

/-- A number of n bytes reads back from its bytes. -/
theorem leVal_leBytes : ∀ n v, leVal (leBytes n v) = v % 256 ^ n
  | 0, v => by simp [leBytes, leVal, Nat.mod_one]
  | n + 1, v => by
    have hpow : 256 ^ (n + 1) = 256 * 256 ^ n := Nat.pow_succ'
    rw [leBytes, leVal, leVal_leBytes n, BitVec.toNat_ofNat, hpow, Nat.mod_mul]

theorem atomicNew_lt (aop size old opnd nv : Nat) : atomicNew aop size old opnd nv < 256 ^ size := by
  have hpow : (256 : Nat) ^ size = 2 ^ (8 * size) := by rw [Nat.pow_mul]
  rw [hpow]
  exact Nat.mod_lt _ (Nat.two_pow_pos _)

/-! ### Writes of an SRAM window -/

/-- Where no word reads uncorrectable, a write of a window writes its bytes. -/
theorem State.sramWrite_good (h : s.badWords = []) (pa : Nat) (bs : Bytes) : s.sramWrite pa bs = s.sramPut pa bs := by
  rw [State.sramWrite, h]
  rfl

theorem State.sramRead_sramPut {s : State} (hwf : Mem.wf s.mem = true) (pa : Nat) (bs : Bytes) : (s.sramPut pa bs).sramRead pa bs.length = bs :=
  Mem.getBytes_putBytes bs s.mem pa hwf

theorem State.sameMemOutside_sramPut {s : State} (hwf : Mem.wf s.mem = true) (pa : Nat) (bs : Bytes) :
    sameMemOutside pa bs.length s (s.sramPut pa bs) :=
  fun a ha => Mem.get_putBytes_outside bs s.mem pa a hwf ha

/-! ### Pod words -/

theorem ite_ne_of {α : Type} {c : Prop} [Decidable c] {a b r : α} (ha : a ≠ r) (hb : b ≠ r) : (if c then a else b) ≠ r := by
  by_cases h : c
  · rwa [if_pos h]
  · rwa [if_neg h]

/-- The Pods' words lie between the CXL windows and the hole behind them. -/
theorem pod_of_regionOf {top : Nat} {cxl : List (Nat × Nat × Nat)} {apert : Bool} {pa : Nat} (h : regionOf top cxl apert pa = .pod) :
    0x0C0000000000 ≤ pa ∧ pa < 0x0C0200000000 := by
  by_contra hout
  refine absurd h ?_
  unfold regionOf
  by_cases hlo : pa < 0x0C0000000000
  · refine ite_ne_of Region.noConfusion (ite_ne_of Region.noConfusion ?_)
    rw [if_pos hlo]
    repeat' refine ite_ne_of ?_ ?_
    all_goals exact Region.noConfusion
  · have hhi : ¬ pa < 0x0C0200000000 := fun h => hout ⟨Nat.le_of_not_lt hlo, h⟩
    rw [if_neg hlo, if_neg hhi]
    repeat' refine ite_ne_of ?_ ?_
    all_goals exact Region.noConfusion

theorem State.pod_range {s : State} {pa : Nat} (h : s.region pa = .pod) : 0x0C0000000000 ≤ pa ∧ pa < 0x0C0200000000 :=
  pod_of_regionOf h

/-- No unit is behind a Pod's window. -/
theorem State.ioTouch_pod {s : State} {pa : Nat} (h : s.region pa = .pod) : s.ioTouch pa = s := by
  obtain ⟨hlo, hhi⟩ := State.pod_range h
  have hunit : ioUnit s pa = none := by
    have hmmio : tileMmio pa = none := by
      unfold tileMmio
      exact if_pos (by simp only [Bool.or_eq_true, decide_eq_true_eq]; omega)
    rw [ioUnit, if_neg (by simp [h]), hmmio]
    exact if_pos (by simp only [Bool.or_eq_true, decide_eq_true_eq]; omega)
  rw [State.ioTouch, hunit]
  split <;> rfl

theorem exec_atomicReq_pod {a pa size aop : Nat} {tag : ReqTag} (opnd newVal : Nat) (hin : agentIn s a = true) (hcore : coreHart a tag = none)
    (hsize : size = 4 ∨ size = 8) (haop : aop ≤ 9) (halign : pa % size = 0) (hpod : s.region pa = .pod) (hwf : Mem.wf s.mem = true)
    (hgood : s.badWords = []) :
    ∃ s', exec (.atomicReq a pa size aop opnd newVal tag) s = .next s' ∧
      s'.outbox = .atomicOld a pa (leVal (s.sramRead pa size)) :: s.outbox ∧
      leVal (s'.sramRead pa size) = atomicNew aop size (leVal (s.sramRead pa size)) opnd newVal ∧ sameMemOutside pa size s s' := by
  have hexec : exec (.atomicReq a pa size aop opnd newVal tag) s = execAtomicReq a pa size aop opnd newVal s tag := rfl
  have henc : encrypted pa = false := by
    have := (State.pod_range hpod).1
    simp [encrypted]
    omega
  have hword : s.wordBad pa size = none := by
    rw [State.wordBad, hgood]
    split <;> rfl
  have hlen := leBytes_length size (atomicNew aop size (leVal (s.sramRead pa size)) opnd newVal)
  rw [hexec, execAtomicReq, if_neg (by simp [hin]; omega), if_neg (by omega), if_neg (by simp [hcore])]
  simp only [hpod, hword, State.ioTouch_pod hpod, State.atomicMem, henc, Bool.false_eq_true, if_false, State.sramWrite_good s hgood]
  refine ⟨_, rfl, rfl, ?_, ?_⟩
  · have hread := State.sramRead_sramPut hwf pa (leBytes size (atomicNew aop size (leVal (s.sramRead pa size)) opnd newVal))
    rw [hlen] at hread
    refine (congrArg leVal hread).trans ?_
    rw [leVal_leBytes, Nat.mod_eq_of_lt (atomicNew_lt ..)]
  · have hout := State.sameMemOutside_sramPut hwf pa (leBytes size (atomicNew aop size (leVal (s.sramRead pa size)) opnd newVal))
    rwa [hlen] at hout

/-! ### Windows -/

theorem exec_windowRead_pod {pa n : Nat} (a : Nat) (hpod : s.region pa = .pod) (hopen : s.winOpen pa = true) (hn : 0 < n)
    (hend : s.region (pa + n - 1) = .pod) (hgood : s.pieceBad pa n 4 = none) :
    exec (.windowAccess a pa false n []) s = .next (s.emit (.readData a pa (s.sramRead pa n))) := by
  have hexec : exec (.windowAccess a pa false n []) s = execWindowAccess a pa false n [] s := rfl
  rw [hexec]
  unfold execWindowAccess
  simp only [Bool.false_eq_true, if_false]
  rw [if_neg (by simp [hpod]), if_neg (by simp [hpod, hend]; omega), if_neg (by simp [hopen]), hgood, State.ioTouch_pod hpod]

theorem exec_windowWrite_pod {pa : Nat} {data : Bytes} (a n : Nat) (hpod : s.region pa = .pod) (hopen : s.winOpen pa = true) (hdata : data ≠ [])
    (hend : s.region (pa + data.length - 1) = .pod) :
    exec (.windowAccess a pa true n data) s = .next (s.sramWrite pa data) := by
  have hexec : exec (.windowAccess a pa true n data) s = execWindowAccess a pa true n data s := rfl
  have hlen := List.length_pos_iff.mpr hdata
  rw [hexec]
  unfold execWindowAccess
  simp only [if_true]
  rw [if_neg (by simp [hpod]), if_neg (by simp [hpod, hend]; omega), if_neg (by simp [hopen]), State.ioTouch_pod hpod]

/-! ### What a report adds to the outbox -/

theorem State.when_outbox {s : State} {l : List Out} {f : State → State} (hf : ∀ s : State, s.outbox <:+ (f s).outbox) (c : Bool)
    (hl : l <:+ s.outbox) : l <:+ (s.when c f).outbox := by
  unfold State.when
  split
  · exact hl.trans (hf s)
  · exact hl

theorem State.each_outbox {β : Type} {f : β → State → State} (hf : ∀ x (s : State), s.outbox <:+ (f x s).outbox) (l : List β) :
    s.outbox <:+ (s.each l f).outbox := by
  unfold State.each
  induction l generalizing s with
  | nil => exact List.suffix_rfl
  | cons x l ih => exact (hf x s).trans (ih (f x s))

theorem State.emit_outbox (o : Out) : s.outbox <:+ (s.emit o).outbox := List.suffix_cons o s.outbox

theorem State.bump_outbox (r : Reg) (i k : Nat) : (s.bump r i k).outbox = s.outbox := by
  unfold State.bump
  dsimp only
  split <;> rfl

theorem State.bmpEvent_outbox (kind : Nat) (record : Bytes) : s.outbox <:+ (s.bmpEvent kind record).outbox := by
  unfold State.bmpEvent
  split
  · exact List.suffix_rfl
  · refine State.each_outbox s (fun r s => ?_) _
    dsimp only
    split
    · exact List.suffix_rfl
    · split
      · exact State.emit_outbox ..
      · exact State.when_outbox (fun s => State.emit_outbox s _) _ List.suffix_rfl

/-- The report of an event only adds messages to the outbox. -/
theorem State.fltReport_outbox (node b src : Nat) : s.outbox <:+ (s.fltReport node b src).outbox := by
  unfold State.fltReport
  dsimp only
  refine State.when_outbox ?_ _ (State.when_outbox ?_ _ (State.when_outbox ?_ _ (State.when_outbox ?_ _ ?_)))
  · exact fun s => List.suffix_rfl
  · exact fun s => List.suffix_rfl
  · exact fun s => State.emit_outbox s _
  · exact fun s => State.bmpEvent_outbox s ..
  · rw [State.bump_outbox]
    exact List.suffix_rfl

/-! ### Absent tiles and generator keys -/

theorem State.absentAcc_count (t : Nat) :
    (s.absentAcc t).absent.atD (tileDie t) 0 = min (s.absent.atD (tileDie t) 0 + 1) (2 ^ 32 - 1) := by
  have hkeep : (s.absentAcc t).absent = s.absent.put (tileDie t) (min (s.absent.atD (tileDie t) 0 + 1) (2 ^ 32 - 1)) :=
    State.notice_keeps (π := State.absent) (fun _ _ _ _ _ _ _ => rfl) _ ..
  rw [hkeep, Tab.atD_put_same]

theorem State.absentAcc_mem (t : Nat) : (s.absentAcc t).mem = s.mem := State.absentAcc_keeps memIndep s t

theorem State.absentAcc_outbox (t : Nat) : s.outbox <:+ (s.absentAcc t).outbox := by
  have hnotice := State.fltReport_outbox
    { s with absent := s.absent.put (tileDie t) (min (s.absent.atD (tileDie t) 0 + 1) (2 ^ 32 - 1)) } (tileDie t) 0 3
  rw [State.absentAcc, State.notice]
  exact hnotice

theorem exec_absentTileAccess {t : Nat} (off : Nat) (write : Bool) (ht : t < 1152) (hdis : s.enabled t = false) :
    exec (.absentTileAccess t off write) s =
      .next (if write then s.absentAcc t else (s.absentAcc t).emit (.readData agentNone (tstoreBase t + off) (zerosB 8))) := by
  have hexec : exec (.absentTileAccess t off write) s = execAbsentTileAccess t off write s := rfl
  rw [hexec, execAbsentTileAccess, if_neg (by simp [hdis]; omega)]

/-- R142: a key goes to the lane the register names, and the lane goes on, over the end. -/
theorem exec_tileRngKeyWrite {t : Nat} (key : Word64) (ht : t < 1152) (hin : s.tileIn t = true) :
    ∃ s', exec (.tileRngKeyWrite .seq t key) s = .next s' ∧ (s'.tile t).rngKey.at? (s.gf F.TILE_RNG_LANE_lane t) = some key.toNat ∧
      s'.gf F.TILE_RNG_LANE_lane t = (s.gf F.TILE_RNG_LANE_lane t + 1) % 64 := by
  have hen : s.enabled t = true := (Bool.and_eq_true_iff.mp hin).1
  have hexec : exec (.tileRngKeyWrite .seq t key) s = execTileRngKeyWrite .seq t key s := rfl
  rw [hexec, execTileRngKeyWrite, if_neg (by omega), if_neg (by simp [hen]), if_neg (by simp [hin])]
  have hkey : ∀ s : State, ((s.setTile t fun tl => { tl with rngKey := tl.rngKey.put (s.gf F.TILE_RNG_LANE_lane t) key.toNat }).tile t).rngKey.at?
      (s.gf F.TILE_RNG_LANE_lane t) = some key.toNat := fun s => by
    rw [State.tile_setTile, Tab.at_put_same]
  have hlane : ∀ s : State, (s.pf F.TILE_RNG_LANE_lane t ((s.gf F.TILE_RNG_LANE_lane t + 1) % 64)).gf F.TILE_RNG_LANE_lane t =
      (s.gf F.TILE_RNG_LANE_lane t + 1) % 64 := fun s => by
    rw [State.gf_pf_same _ _ _ _ (by decide) (by decide)]
    exact Nat.mod_mod_of_dvd _ (by decide)
  refine ⟨_, rfl, ?_, ?_⟩
  · split
    · have htile := State.tile_setTile ((s.setTile t fun tl => { tl with rngKey := tl.rngKey.put (s.gf F.TILE_RNG_LANE_lane t) key.toNat }).pf
        F.TILE_RNG_LANE_lane t ((s.gf F.TILE_RNG_LANE_lane t + 1) % 64)) t (fun tl => { tl with rngCtr := {} })
      exact (congrArg (fun tl : Tile => tl.rngKey.at? (s.gf F.TILE_RNG_LANE_lane t)) htile).trans (hkey s)
    · exact hkey s
  · split
    · exact (State.gf_pf_otherReg F.TILE_RNG_CTRL_keyed _ (by decide) _ t 1).trans
        (hlane (s.setTile t fun tl => { tl with rngKey := tl.rngKey.put (s.gf F.TILE_RNG_LANE_lane t) key.toNat }))
    · exact hlane (s.setTile t fun tl => { tl with rngKey := tl.rngKey.put (s.gf F.TILE_RNG_LANE_lane t) key.toNat })

/-- Settles O30. -/
theorem directAccessesComplete : Obligations.DirectAccessesComplete := by
  intro s a pa n tag data
  refine ⟨fun size aop opnd newVal hin hcore hsize haop halign hpod hwf hgood =>
      exec_atomicReq_pod s opnd newVal hin hcore hsize haop halign hpod hwf hgood, fun t off ht hdis => ?_, fun hpod hopen hn hend hgood => ?_,
    fun hpod hopen hdata hend hgood hwf => ?_, fun t key ht hin => ?_⟩
  · rw [exec_absentTileAccess s off false ht hdis, exec_absentTileAccess s off true ht hdis]
    obtain ⟨l, hl⟩ := State.absentAcc_outbox s t
    exact ⟨⟨_, l, rfl, congrArg _ hl.symm, State.absentAcc_count s t, State.absentAcc_mem s t⟩,
      _, rfl, State.absentAcc_mem s t, State.absentAcc_count s t⟩
  · exact exec_windowRead_pod s a hpod hopen hn hend hgood
  · rw [exec_windowWrite_pod s a n hpod hopen hdata hend, State.sramWrite_good s hgood]
    exact ⟨_, rfl, State.sramRead_sramPut hwf pa data, State.sameMemOutside_sramPut hwf pa data⟩
  · exact exec_tileRngKeyWrite s key ht hin

end Sys2Proof.Machine

/-! PROOF. The I3C target (R476, R477) and the register writes of the bus and the RoT (R52, R415). -/

namespace Sys2Proof.Machine

variable (s : State)

/-! ### The I3C target -/

theorem State.i3cAddr_bmp (a : Option Nat) : (s.i3cAddr a).bmp.i3c.addr = a := rfl

theorem State.i3cAddr_outbox (a : Option Nat) : (s.i3cAddr a).outbox = s.outbox := rfl

theorem State.i3cAddr_shown (a : Nat) : (s.i3cAddr (some (a % 128))).gf F.MGMT_STATUS_i3c_addr = a % 128 := by
  rw [State.i3cAddr, State.gf_pf_same _ _ _ _ (by decide) (by decide)]
  exact Nat.mod_mod_of_dvd _ (by decide)

theorem State.i3cAddr_addressed (a : Option Nat) : (s.i3cAddr a).gf F.MGMT_STATUS_i3c_addressed = bN a.isSome := by
  rw [State.i3cAddr, State.gf_pf_apart _ (f := F.MGMT_STATUS_i3c_addr) (f' := F.MGMT_STATUS_i3c_addressed) (by decide), State.pb,
    State.gf_pf_same _ _ _ _ (by decide) (by decide)]
  cases a <;> rfl

theorem State.i3cUp_of_on {s : State} (hon : s.i3cOn = true) (haddr : s.bmp.i3c.addr.isSome = true) : s.i3cUp = true :=
  Bool.and_eq_true_iff.mpr ⟨hon, haddr⟩

theorem State.i3cFree_sends (n : Nat) : ∃ w, (s.i3cFree n).outbox = .i3c (leBytes n w) :: s.outbox ∧ (s.i3cFree n).bmp = s.bmp ∧
    (s.i3cFree n).regs = s.regs :=
  ⟨_, rfl, rfl, rfl⟩

theorem exec_entdaa {s : State} (a : Nat) (hon : s.i3cOn = true) (hnone : s.bmp.i3c.addr = none) :
    ∃ w, exec (.entdaa a) s = .next (((s.free.2).emit (.i3c (provisionalId ++ leBytes 2 w))).i3cAddr (some (a % 128))) := by
  refine ⟨s.free.1.toNat, ?_⟩
  have hexec : exec (.entdaa a) s = execEntdaa a s := rfl
  rw [hexec, execEntdaa, if_neg (by simp [hon, hnone])]

theorem exec_setdasa {s : State} (a : Nat) (hon : s.i3cOn = true) (hnone : s.bmp.i3c.addr = none) :
    exec (.setdasa 0x3A a) s = .next (s.i3cAddr (some (a % 128))) :=
  congrArg Host.Outcome.next (if_pos (by simp [hon, hnone]))

/-- With the pending response sent and no event waiting, nothing raises its interrupt. -/
theorem exec_i3cPrivateRead_resp {s : State} {m : Bytes} (hup : s.i3cUp = true) (hresp : s.bmp.i3c.resp = some m) (hq : (s.sess 4).queue = []) :
    exec .i3cPrivateRead s = .next ((s.onI3c fun i => { i with resp := none }).emit (.i3c (withCrc m))) := by
  have hexec : exec .i3cPrivateRead s = execI3cPrivateRead s := rfl
  have hq' : (((s.onI3c fun i => { i with resp := none }).emit (.i3c (withCrc m))).sess 4).queue = [] := hq
  rw [hexec, execI3cPrivateRead, if_neg (by simp [hup]), hresp]
  simp only [State.when, hq', ne_eq, not_true_eq_false, decide_false, Bool.false_eq_true, if_false]

theorem exec_i3cPrivateRead_none {s : State} (hup : s.i3cUp = true) (hresp : s.bmp.i3c.resp = none) (hq : (s.sess 4).queue = []) :
    exec .i3cPrivateRead s = .next (s.emit (.i3c (withCrc (bmpMsg 0 0 2 0 0 [])))) := by
  have hexec : exec .i3cPrivateRead s = execI3cPrivateRead s := rfl
  rw [hexec, execI3cPrivateRead, if_neg (by simp [hup]), hresp]
  simp only [hq]

theorem exec_i3cPrivateWrite {s : State} (bytes : Bytes) (crc : Word32) (hup : s.i3cUp = true) (hbusy : i3cBusy s = false) :
    exec (.i3cPrivateWrite bytes crc) s = .next (if crc32 bytes ≠ crc.toNat then s.notice 10 5 1 else (s.message .i3c bytes).settle) := by
  have hexec : exec (.i3cPrivateWrite bytes crc) s = execI3cPrivateWrite bytes crc s := rfl
  rw [hexec, execI3cPrivateWrite, if_neg (by simp [hup, hbusy])]
  split <;> rfl

/-- Settles O60: each command code of an I3C target that is on. -/
theorem i3cCompletes : Obligations.I3cCompletes := by
  intro s hon
  refine ⟨fun a hnone => ⟨?_, ?_⟩, fun n => ?_, fun haddr => ?_⟩
  · obtain ⟨w, hw⟩ := exec_entdaa a hon hnone
    exact ⟨_, w, hw, rfl, State.i3cAddr_addressed _ _, State.i3cAddr_shown _ a, rfl⟩
  · exact ⟨_, exec_setdasa a hon hnone, rfl, State.i3cAddr_shown s a, rfl⟩
  · exact ⟨⟨_, congrArg Host.Outcome.next (if_pos hon), rfl, rfl⟩, ⟨_, congrArg Host.Outcome.next (if_pos hon), rfl, rfl⟩,
      ⟨_, congrArg Host.Outcome.next (if_pos hon), rfl, rfl⟩, ⟨_, congrArg Host.Outcome.next (if_pos hon), rfl, rfl⟩,
      ⟨_, congrArg Host.Outcome.next (if_pos hon), rfl, rfl⟩⟩
  · have hup := State.i3cUp_of_on hon haddr
    refine ⟨fun a => ⟨_, congrArg Host.Outcome.next (if_pos hup), rfl, State.i3cAddr_shown s a⟩,
      ⟨_, congrArg Host.Outcome.next (if_pos hup), rfl, State.i3cAddr_addressed s none⟩, congrArg Host.Outcome.next (if_pos hup),
      congrArg Host.Outcome.next (if_pos hup), congrArg Host.Outcome.next (if_pos hup), fun p hp => ?_, fun bytes crc hbusy => ?_,
      fun m hresp hq => ⟨_, exec_i3cPrivateRead_resp hup hresp hq, rfl, rfl⟩, fun hresp hq => exec_i3cPrivateRead_none hup hresp hq⟩
    · obtain ⟨w, hsends⟩ := State.i3cFree_sends s p.2
      have hexec : exec p.1 s = .next (s.i3cFree p.2) := by
        simp only [List.mem_cons, List.not_mem_nil, or_false] at hp
        obtain rfl | rfl | rfl := hp <;> exact congrArg Host.Outcome.next (if_pos hup)
      exact ⟨_, w, hexec, hsends⟩
    · rw [exec_i3cPrivateWrite bytes crc hup hbusy]
      exact ⟨fun hcrc => by rw [if_neg (not_not.mpr hcrc)], fun hcrc => by rw [if_pos hcrc]⟩

/-! ### The mailboxes (R413, R414) -/

/-- What an open mailbox leaves: the request's effect, and its answer. -/
def State.mboxDone (s : State) (i seq cmd p : Nat) (f : State → Nat × Bytes × State) : State :=
  let a := f (s.pf F.MBOX_CTRL_go i 1)
  a.2.2.onSec fun x => { x with resp := x.resp.put i ⟨cmd, seq, a.1, a.2.1, p⟩ }

theorem State.mbox_open {s : State} {i : Nat} (hopen : s.mboxOpen i = true) (seq cmd p : Nat) (f : State → Nat × Bytes × State) :
    s.mbox i seq cmd p f = s.mboxDone i seq cmd p f := by
  simp only [State.mboxOpen, Bool.and_eq_true, decide_eq_true_eq, Bool.not_eq_true'] at hopen
  obtain ⟨⟨⟨⟨⟨⟨hi, hready⟩, hsag⟩, hreset⟩, hresp⟩, hwaits⟩, herr⟩ := hopen
  rw [State.mbox, if_neg (by simp [hready, hsag, hreset, hresp, hwaits]; omega)]
  dsimp only
  rw [herr]
  rfl

theorem State.mboxDone_answered (s : State) (i seq cmd p : Nat) (f : State → Nat × Bytes × State) :
    (s.mboxDone i seq cmd p f).answered i cmd seq (f (s.pf F.MBOX_CTRL_go i 1)).1 :=
  ⟨_, Tab.at_put_same _ i _, rfl, rfl, rfl⟩

theorem State.settle_of_done {s : State} (h : s.flt.due = []) : s.settle = s := if_pos h

/-! ### Register writes -/

theorem exec_regWrite (role : Role) (node pa width : Nat) (v : Word64) :
    exec (.regWrite role pa width v node) s =
      if s.region pa = .hole && (width = 4 || width = 8) then .next ((s.hole pa node).emit (.reqFailed agentNone pa St.addrHole))
      else if s.region pa ≠ .mmio || (width ≠ 4 && width ≠ 8) then .next s
      else .next ((s.busStore role pa width (v.toNat % 2 ^ (8 * width))).settle) := rfl

/-- Partition 1 while its creation runs (R425), with the RoT ready. -/
def midCreation : State :=
  (State.reset.pf F.ROT_STATUS_ready 0 1).onSec fun x => { x with parts := x.parts.put 1 { state := 1 } }

theorem midCreation_open : midCreation.mboxOpen 0 = true := by decide

theorem midCreation_busy : (midCreation.pf F.MBOX_CTRL_go 0 1).partBusy 1 = true := by decide

theorem midCreation_reg : regOfPart (midCreation.pf F.MBOX_CTRL_go 0 1) 1 0 4 0 = false := by decide

/-- The RoT's write for a partition whose creation runs is answered BUSY, whatever register it names. -/
theorem exec_configWrite_busy {s : State} {i p : Nat} (seq addr value width : Nat) (hopen : s.mboxOpen i = true) (hi : i = 0 ∨ i = 1)
    (hbusy : (s.pf F.MBOX_CTRL_go i 1).partBusy p = true) :
    exec (.configWrite i seq p addr value width) s =
      .next ((s.mboxDone i seq 15 0 fun s => s.deny Rot.busy).settle) := by
  have hrole : (!(isHost i || isOp i || isTen i p)) = false := by
    obtain rfl | rfl := hi <;> rfl
  have hexec : exec (.configWrite i seq p addr value width) s = execConfigWrite i seq p addr value width s := rfl
  rw [hexec, execConfigWrite, State.mbox_open hopen]
  simp only [State.mboxDone, hrole, hbusy, Bool.false_eq_true, if_false, if_true]

/-- Refutes O59: while the creation of a partition runs, the RoT's write for it is answered BUSY, not DENIED. -/
theorem not_registerWritesComplete : ¬ Obligations.RegisterWritesComplete := by
  unfold Obligations.RegisterWritesComplete
  intro h
  obtain ⟨-, -, -, hcfg⟩ := h midCreation .host 0 0 4 0
  obtain ⟨s', hs', ⟨r, hr, -, -, hres⟩, -⟩ := (hcfg 0 0 1 0 midCreation_open (Or.inl rfl) (Or.inl rfl)).2 midCreation_reg rfl
  rw [exec_configWrite_busy 0 0 0 4 midCreation_open (Or.inl rfl) midCreation_busy, State.settle_of_done rfl] at hs'
  obtain ⟨r', hr', -, -, hres'⟩ := State.mboxDone_answered midCreation 0 0 15 0 fun s => s.deny Rot.busy
  have hsame : r = r' := by
    rw [Host.Outcome.next.inj hs'] at hr'
    exact Option.some.inj (hr.symm.trans hr')
  have hbusy : Rot.busy = Rot.denied := hres'.symm.trans (hsame ▸ hres)
  exact absurd hbusy (by decide)

end Sys2Proof.Machine

/-! PROOF. The registers a report of an event leaves (R438), and scrubbing and row repair (R449 to R452). -/

namespace Sys2Proof.Machine

variable (s : State)

/-! ### Registers a report leaves -/

/-- The registers that the report of an event writes (R438). -/
def reportRegs : List Reg := [.FLT_STATUS, .FLT_COUNT, .TB_STATUS, .FLT_QUIET_LEFT]

theorem State.gf_wr_distinct {f : Fld} {r : Reg} (h : f.reg.ctorIdx ≠ r.ctorIdx) {i j : Nat} (hi : i < 65536) (hj : j < 65536) (v : Nat) :
    (s.wr r i v).gf f j = s.gf f j := by
  unfold State.gf
  rw [State.rdN_wr_ne s (by unfold Reg.key; omega)]

theorem State.gf_bump_distinct {f : Fld} {r : Reg} (h : f.reg.ctorIdx ≠ r.ctorIdx) {i j : Nat} (hi : i < 65536) (hj : j < 65536) (k : Nat) :
    (s.bump r i k).gf f j = s.gf f j := by
  unfold State.bump
  dsimp only
  split <;> exact State.gf_wr_distinct s h hi hj _

theorem State.bmpEvent_regs (kind : Nat) (record : Bytes) : (s.bmpEvent kind record).regs = s.regs := by
  unfold State.bmpEvent
  split
  · rfl
  · refine State.each_keeps (π := State.regs) s (fun r s => ?_) _
    dsimp only
    split
    · rfl
    · split
      · rfl
      · exact State.when_keeps (π := State.regs) (f := fun s => s.emit (.ibi 0xA1)) _ (fun s => rfl) _

theorem State.gf_of_regs {s s' : State} (h : s'.regs = s.regs) (f : Fld) (j : Nat) : s'.gf f j = s.gf f j := by
  rw [State.gf, State.rdN, State.rd, h]
  rfl

/-- f lies in none of the registers that a report writes. -/
def Fld.unreported (f : Fld) : Bool := reportRegs.all fun r => f.reg.ctorIdx ≠ r.ctorIdx

theorem Fld.unreported_apart {f : Fld} (h : f.unreported = true) : f.reg.ctorIdx ≠ Reg.FLT_STATUS.ctorIdx ∧
    f.reg.ctorIdx ≠ Reg.FLT_COUNT.ctorIdx ∧ f.reg.ctorIdx ≠ Reg.TB_STATUS.ctorIdx ∧ f.reg.ctorIdx ≠ Reg.FLT_QUIET_LEFT.ctorIdx := by
  simpa [Fld.unreported, reportRegs] using h

/-- A report leaves every field of every other register. -/
theorem State.fltReport_gf {f : Fld} (hf : f.unreported = true) {node b j : Nat} (hi : fltIdx node b < 65536) (hj : j < 65536) (src : Nat) :
    (s.fltReport node b src).gf f j = s.gf f j := by
  obtain ⟨hstatus, hcount, htb, hquiet⟩ := Fld.unreported_apart hf
  have hset : ∀ (s : State) ms, (s.setQuiet node b ms).gf f j = s.gf f j := fun s ms =>
    (State.gf_pf_distinct _ F.FLT_QUIET_LEFT_ms f hquiet hi hj _).trans (State.gf_of_regs rfl f j)
  unfold State.fltReport
  dsimp only
  rw [State.when_keeps (π := fun s => s.gf f j) _ (fun s => hset s _),
    State.when_keeps (π := fun s => s.gf f j) _ (fun s => State.gf_pf_distinct s F.TB_STATUS_replica_fault f htb (by decide) hj _),
    State.when_keeps (π := fun s => s.gf f j) _ (fun s => State.gf_of_regs (s := s) (s' := s.fltMsi (fltIdx node b)) rfl f j),
    State.when_keeps (π := fun s => s.gf f j) _ (fun s => State.gf_of_regs (State.bmpEvent_regs s ..) f j),
    State.gf_bump_distinct _ hcount hi hj, State.gf_pf_distinct _ F.FLT_STATUS_class_max f hstatus hi hj,
    State.gf_pf_distinct _ F.FLT_STATUS_src f hstatus hi hj]

/-! ### Scrubbing (R449, R450) -/

theorem State.mem_markBad (line : Nat) : line ∈ (s.markBad line).badLines := by
  rw [State.markBad]
  split
  next h => exact List.contains_iff_mem.mp h
  next => exact List.mem_cons_self

theorem State.markBad_mem (line : Nat) : (s.markBad line).mem = s.mem := by
  rw [State.markBad]
  split <;> rfl

theorem State.mem_markWord (pa : Nat) : pa / 8 ∈ (s.markWord pa).badWords := by
  rw [State.markWord]
  split
  next h => exact List.contains_iff_mem.mp h
  next => exact List.mem_cons_self

theorem State.markWord_keeps (pa : Nat) : (s.markWord pa).badLines = s.badLines ∧ (s.markWord pa).mem = s.mem := by
  rw [State.markWord]
  split <;> exact ⟨rfl, rfl⟩

theorem exec_patrolScrub_corrected {s : State} {pa : Nat} (pch bank row : Nat) (hdram : s.region pa = .hbm ∨ s.region pa = .ddr) :
    exec (.patrolScrub pa .corrected pch bank row) s = .next (s.memCorrected pa) := by
  have hexec : exec (.patrolScrub pa .corrected pch bank row) s = execPatrolScrub pa .corrected pch bank row s := rfl
  rw [hexec]
  unfold execPatrolScrub
  obtain h | h := hdram <;> rw [h]

theorem exec_patrolScrub_dram {s : State} {pa : Nat} (pch bank row : Nat) (hdram : s.region pa = .hbm ∨ s.region pa = .ddr) :
    exec (.patrolScrub pa .uncorrectable pch bank row) s =
      .next ((s.markBad (lineOf pa)).memErrAt pa false true (some (pch, bank, row))) := by
  have hexec : exec (.patrolScrub pa .uncorrectable pch bank row) s = execPatrolScrub pa .uncorrectable pch bank row s := rfl
  rw [hexec]
  unfold execPatrolScrub
  obtain h | h := hdram <;> rw [h]

theorem exec_patrolScrub_tstore {s : State} {pa : Nat} (pch bank row : Nat) (htstore : s.region pa = .tstore)
    (hen : s.enabled (windowTile pa) = true) : exec (.patrolScrub pa .uncorrectable pch bank row) s = .next (s.markWord pa) := by
  have hexec : exec (.patrolScrub pa .uncorrectable pch bank row) s = execPatrolScrub pa .uncorrectable pch bank row s := rfl
  rw [hexec]
  unfold execPatrolScrub
  rw [htstore, hen]
  rfl

/-! ### Row repair (R451, R515) -/

theorem ctlOf_bounds {c : MemCtl} {k : Ctl} (hk : ctlOf c = some k) :
    k.node < 10 ∧ k.blk < 256 ∧ k.idx < 65536 ∧ (k.cmd = .HBM_PPR_CMD ∨ k.cmd = .MC_PPR_CMD) := by
  cases c with
  | hbm st =>
    by_cases h : st < 16
    · obtain rfl := Option.some.inj ((if_pos h).symm.trans hk)
      exact ⟨by simp [stackDie]; omega, by simp; omega, by simp; omega, Or.inl rfl⟩
    · exact absurd ((if_neg h).symm.trans hk) (Option.some_ne_none k).symm
  | ddr ch =>
    by_cases h : ch < 16
    · obtain rfl := Option.some.inj ((if_pos h).symm.trans hk)
      exact ⟨by simp; omega, by simp; omega, by simp; omega, Or.inr rfl⟩
    · exact absurd ((if_neg h).symm.trans hk) (Option.some_ne_none k).symm

theorem Ctl.result_unreported {c : MemCtl} {k : Ctl} (hk : ctlOf c = some k) : (k.fld F.HBM_PPR_CMD_result).unreported = true := by
  obtain ⟨-, -, -, hcmd⟩ := ctlOf_bounds hk
  unfold Ctl.fld
  obtain h | h := hcmd <;> rw [h] <;> decide

/-! ### Writes of memory -/

/-- A reading of the state that neither reports nor writes of memory lines can change. -/
structure MemIndep {α : Type} (π : State → α) : Prop where
  report : ReportIndep π
  mem : ∀ (s : State) mem lineKey badLines, π { s with mem := mem, lineKey := lineKey, badLines := badLines } = π s

section Mem

variable {α : Type} {π : State → α} (h : MemIndep π) (s : State)
include h

theorem State.memLine_keeps (key line : Nat) (data : Bytes) : π (s.memLine key line data) = π s := by
  unfold State.memLine
  split
  · exact State.bump_keeps h.report s ..
  · exact h.mem ..

theorem State.rowLines_keeps (hfree : ∀ s, π s.free.2 = π s) (k : Ctl) (pch bank row : Nat) : π (s.rowLines k pch bank row) = π s := by
  refine State.each_keeps s (fun l s => ?_) _
  dsimp only
  generalize (_ || bitN s.free.1.toNat 0) = named
  cases named
  · exact hfree s
  · exact (State.memLine_keeps h _ ..).trans (hfree s)

end Mem

/-- A row that is repaired enters the repair list while that has room. -/
def State.listRow (s : State) (k : Ctl) (w : Nat) : State :=
  if s.flt.repairs.contains (k.key, w) then s
  else if s.flt.repairs.length < 256 then { s with flt := { s.flt with repairs := s.flt.repairs ++ [(k.key, w)] } }
  else s.notice k.node k.blk 3

theorem State.listRow_keeps {α : Type} {π : State → α} (hreport : ∀ s : State, ∀ node b src, π (s.notice node b src) = π s)
    (hlist : ∀ (s : State) l, π { s with flt := { s.flt with repairs := l } } = π s) (k : Ctl) (w : Nat) : π (s.listRow k w) = π s := by
  unfold State.listRow
  split
  · rfl
  · split
    · exact hlist s _
    · exact hreport s ..

/-- The row of a bank whose soft spare is free has been repaired. -/
def State.rowRepaired (s : State) (k : Ctl) (w : Nat) : State :=
  (({ s with flt := { s.flt with soft := spareKey k (w % 64) (bitsN w 10 6) :: s.flt.soft } } : State).listRow k w).notice k.node k.blk 2

theorem State.rowRepaired_soft (k : Ctl) (w : Nat) :
    (s.rowRepaired k w).flt.soft = spareKey k (w % 64) (bitsN w 10 6) :: s.flt.soft ∧ (s.rowRepaired k w).flt.ppr = s.flt.ppr := by
  have hindep : ReportIndep (fun s : State => (s.flt.soft, s.flt.ppr)) := fun _ _ _ _ _ _ _ => rfl
  have hkeep := (State.notice_keeps hindep _ k.node k.blk 2).trans
    (State.listRow_keeps (π := fun s : State => (s.flt.soft, s.flt.ppr)) { s with flt := { s.flt with soft := spareKey k (w % 64) (bitsN w 10 6) :: s.flt.soft } }
      (fun s => State.notice_keeps hindep s) (fun _ _ => rfl) k w)
  exact ⟨congrArg Prod.fst hkeep, congrArg Prod.snd hkeep⟩

theorem State.rowRepaired_result {c : MemCtl} {k : Ctl} (hk : ctlOf c = some k) (w : Nat) :
    (s.rowRepaired k w).gf (k.fld F.HBM_PPR_CMD_result) k.idx = s.gf (k.fld F.HBM_PPR_CMD_result) k.idx := by
  obtain ⟨hnode, hblk, hidx, -⟩ := ctlOf_bounds hk
  have hreport := fun (s : State) src => State.fltReport_gf s (Ctl.result_unreported hk) (fltIdx_lt hnode hblk) hidx src
  unfold State.rowRepaired State.listRow
  refine (hreport _ 2).trans ?_
  split
  · rfl
  · split
    · rfl
    · exact hreport _ 3

/-- The state in which a repair has just ended: nothing runs, and go is clear. -/
def State.pprEnded (s : State) (k : Ctl) : State :=
  ({ s with flt := { s.flt with ppr := s.flt.ppr.del k.key } } : State).pf (k.fld F.HBM_PPR_CMD_go) k.idx 0

theorem exec_rowRepairDone {s : State} {c : MemCtl} {k : Ctl} {w : Nat} (hk : ctlOf c = some k) (hw : s.flt.ppr.at? k.key = some w) :
    exec (.rowRepairDone c) s =
      if s.flt.soft.contains (spareKey k (w % 64) (bitsN w 10 6)) then
        .next (((s.pprEnded k).pf (k.fld F.HBM_PPR_CMD_result) k.idx 1).notice k.node k.blk 3)
      else .next ((((s.pprEnded k).rowLines k (w % 64) (bitsN w 10 6) (bitsN w 29 12)).pf (k.fld F.HBM_PPR_CMD_result) k.idx 0).rowRepaired k w) := by
  have hexec : exec (.rowRepairDone c) s = execRowRepairDone c s := rfl
  rw [hexec]
  unfold execRowRepairDone
  rw [hk]
  dsimp only
  rw [hw]
  rfl

theorem exec_rowRepair {s : State} {role : Role} {c : MemCtl} {k : Ctl} (v : Word64) (hk : ctlOf c = some k) (hrole : s.mmioRole role = true) :
    exec (.rowRepair role c v) s =
      if s.gb (k.fld F.HBM_PPR_CMD_go) k.idx then .next (s.pf (k.fld F.HBM_PPR_CMD_result) k.idx 2)
      else
        let t := ((s.pf (k.fld F.HBM_PPR_CMD_pch) k.idx v.toNat).pf (k.fld F.HBM_PPR_CMD_bank) k.idx (bitsN v.toNat 10 6)).pf
          (k.fld F.HBM_PPR_CMD_row) k.idx (bitsN v.toNat 29 12)
        .next (if bitN v.toNat 30 then
          ({ t with flt := { t.flt with ppr := t.flt.ppr.put k.key (v.toNat % 2 ^ 30) } } : State).pf (k.fld F.HBM_PPR_CMD_go) k.idx 1 else t) := by
  have hexec : exec (.rowRepair role c v) s = execRowRepair role c v s := rfl
  rw [hexec]
  unfold execRowRepair
  rw [hk]
  dsimp only
  rw [if_neg (by simp [hrole])]

/-- Settles O53: each scrub report by its region, and a row repair from its command to its end. -/
theorem scrubAndRowRepairComplete : Obligations.ScrubAndRowRepairComplete := by
  intro s pa pch bank row role c k v hk
  refine ⟨?_, fun hdram => ⟨exec_patrolScrub_corrected pch bank row hdram, _, exec_patrolScrub_dram pch bank row hdram, ?_, ?_⟩,
    fun htstore hen => ⟨_, exec_patrolScrub_tstore pch bank row htstore hen, State.mem_markWord s pa, State.markWord_keeps s pa⟩,
    fun hrole hidle hgo => ?_, fun hrole hbusy => ?_, fun w hw => ⟨fun hfree => ?_, fun htaken => ?_⟩⟩
  · have hexec : exec (.patrolScrub pa .clean pch bank row) s = execPatrolScrub pa .clean pch bank row s := rfl
    rw [hexec]
    unfold execPatrolScrub
    cases s.region pa <;> rfl
  · rw [State.memErrAt_keeps (π := State.badLines) (fun _ _ _ _ _ _ _ _ _ _ _ _ => rfl)]
    exact State.mem_markBad s _
  · rw [State.memErrAt_keeps memIndep, State.markBad_mem]
  · rw [exec_rowRepair v hk hrole, if_neg (by simp [hidle]), hgo]
    refine ⟨_, rfl, Tab.at_put_same _ _ _, State.gb_pf_one _ _ _ ?_ ?_, rfl⟩ <;> simp [Ctl.fld]
  · rw [exec_rowRepair v hk hrole, if_pos hbusy]
  · rw [exec_rowRepairDone hk hw, if_neg (fun h => hfree (List.contains_iff_mem.mp h))]
    obtain ⟨hsoft, hppr⟩ := State.rowRepaired_soft
      (((s.pprEnded k).rowLines k (w % 64) (bitsN w 10 6) (bitsN w 29 12)).pf (k.fld F.HBM_PPR_CMD_result) k.idx 0) k w
    have hrows : ((s.pprEnded k).rowLines k (w % 64) (bitsN w 10 6) (bitsN w 29 12)).flt.ppr = s.flt.ppr.del k.key :=
      State.rowLines_keeps (π := fun s => s.flt.ppr) ⟨fun _ _ _ _ _ _ _ => rfl, fun _ _ _ _ => rfl⟩ (s.pprEnded k) (fun _ => rfl) ..
    refine ⟨_, rfl, ?_, ?_, ?_⟩
    · rw [State.rowRepaired_result _ hk, State.gf_pf_same _ _ _ _ (by simp [Ctl.fld]) (by simp [Ctl.fld])]
      exact Nat.zero_mod _
    · rw [hsoft]
      exact List.mem_cons_self
    · rw [hppr]
      exact (congrArg (·.at? k.key) hrows).trans (Tab.at_del_same ..)
  · obtain ⟨hnode, hblk, hidx, -⟩ := ctlOf_bounds hk
    rw [exec_rowRepairDone hk hw, if_pos (List.contains_iff_mem.mpr htaken)]
    refine ⟨_, rfl, ?_, State.notice_keeps memIndep.report _ .., ?_⟩
    · rw [State.notice, State.fltReport_gf _ (Ctl.result_unreported hk) (fltIdx_lt hnode hblk) hidx,
        State.gf_pf_same _ _ _ _ (by simp [Ctl.fld]) (by simp [Ctl.fld])]
      rfl
    · rw [State.notice_keeps (π := fun s => s.flt.ppr.at? k.key) (fun _ _ _ _ _ _ _ => rfl)]
      exact Tab.at_del_same ..

end Sys2Proof.Machine

/-! PROOF. The supply-sag save, and what shuts the main domain down (R456 to R458, R487, R491, R496, R497). -/

namespace Sys2Proof.Machine

variable (s : State)

/-! ### The supply sag (R456 to R458) -/

/-- The answer with which a held request ends. -/
def busyResp (c : MboxCmd) : MboxResp :=
  match c with
  | .bind seq .. => ⟨4, seq, Rot.busy, [], 0⟩
  | .rekey seq .. => ⟨7, seq, Rot.busy, [], 0⟩
  | .husk seq .. => ⟨9, seq, Rot.busy, [], 0⟩

theorem busyResp_result (c : MboxCmd) : (busyResp c).result = Rot.busy := by cases c <;> rfl

/-- Every request's answer reads BUSY. -/
def allBusy (t : Tab MboxResp) : Prop := ∀ i r, t.at? i = some r → r.result = Rot.busy

theorem allBusy_put {t : Tab MboxResp} (h : allBusy t) (k : Nat) {x : MboxResp} (hx : x.result = Rot.busy) : allBusy (t.put k x) := by
  intro i r hr
  by_cases hik : i = k
  · subst hik
    rw [Tab.at_put_same] at hr
    exact Option.some.inj hr ▸ hx
  · rw [Tab.at_put_ne t hik] at hr
    exact h i r hr

theorem allBusy_ended (t : Tab MboxResp) : allBusy (t.mapVals fun _ r => { r with result := Rot.busy, body := [] }) := by
  intro i r hr
  rw [Tab.at_mapVals] at hr
  obtain ⟨r', -, rfl⟩ := Option.map_eq_some_iff.mp hr
  rfl

theorem allBusy_waits (l : List (Nat × MboxCmd)) (t : Tab MboxResp) (h : allBusy t) :
    allBusy (l.foldl (fun t r => t.put r.1 (busyResp r.2)) t) := by
  induction l generalizing t with
  | nil => exact h
  | cons r l ih => exact ih _ (allBusy_put h r.1 (busyResp_result r.2))

/-- Requests in progress end with BUSY. -/
def State.endBusy (s : State) : State :=
  s.onSec fun x => { x with
    resp := x.waits.rows.foldl (fun t r => t.put r.1 (busyResp r.2)) (x.resp.mapVals (fun _ r => { r with result := Rot.busy, body := [] }))
    waits := {} }

/-- The save record of a sag: the leaves, the fault copies and the key generations as they stand. -/
def State.sagRecord (s : State) : SaveRec :=
  { attLeaf := s.gf F.ROT_ATT_LEAF_next, idLeaf := s.gf F.ROT_ID_LEAF_next, resvSeq := s.sec.resvSeq
    counts := (faultCopies s).1, held := (faultCopies s).2.1, ring := (faultCopies s).2.2, gens := genTable s }

theorem exec_powerfailAssert {s : State} (h : s.flt.sag = false) :
    exec .powerfailAssert s = .next { s.endBusy.pf F.PWR_STATUS_powerfail 0 1 with
      flt := { s.flt with sag := true, save := if s.pwr.steps.contains 1 && !s.pwr.inReset then some s.endBusy.sagRecord else s.flt.save } } := by
  have hexec : exec .powerfailAssert s = execPowerfailAssert s := rfl
  rw [hexec, execPowerfailAssert, if_neg (by simp [h])]
  rfl

theorem saving_some {s : State} (h : saving s = true) : ∃ r, s.flt.save = some r := by
  obtain ⟨-, hsave⟩ := Bool.and_eq_true_iff.mp h
  cases hr : s.flt.save with
  | some r => exact ⟨r, rfl⟩
  | none => rw [hr] at hsave; cases hsave

theorem exec_sagSaveDone {s : State} (h : saving s = true) :
    exec .sagSaveDone s = .next (
      let t := { s with flt := { s.flt with save := s.flt.save.map fun (r : SaveRec) => { r with valid := true } } }
      if s.pwr.resetHeld then t.resetNow else t) := by
  have hexec : exec .sagSaveDone s = execSagSaveDone s := rfl
  rw [hexec, execSagSaveDone, if_neg (by simp [h])]

theorem exec_powerfailRelease {s : State} (h : s.flt.sag = true) :
    exec .powerfailRelease s = .next { s.pf F.PWR_STATUS_powerfail 0 0 with
      flt := { s.flt with sag := false, save := if s.pwr.inReset then s.flt.save else none } } := by
  have hexec : exec .powerfailRelease s = execPowerfailRelease s := rfl
  rw [hexec, execPowerfailRelease, if_neg (by simp [h])]
  rfl

/-! ### The main domain off (R487, R491, R497) -/

theorem State.latch_keeps {α : Type} {π : State → α} (h : ∀ (s : State) f i v, π (s.pf f i v) = π s) (l : List Nat) : π (s.latch l) = π s :=
  State.each_keeps s (fun _ s => h s ..) l

/-- The dies are down and wait for a package reset; the cells keep their bytes. -/
structure State.MainDown (s s' : State) : Prop where
  up : s'.pwr.up = false
  off : s'.pwr.off = true
  tiles : s'.tiles = State.reset.tiles
  mem : s'.mem = memCells s.mem
  pending : s'.pending = s.pending

theorem State.mainOff_parts (lost : Bool) : ((s.mainOff lost).tiles, (s.mainOff lost).mem, (s.mainOff lost).pending, (s.mainOff lost).pwr, (s.mainOff lost).outbox) =
    (State.reset.tiles, memCells s.mem, s.pending, { s.pwr with up := false, off := true, lost := s.pwr.lost || lost }, s.outbox) :=
  State.latch_keeps (π := fun s => (s.tiles, s.mem, s.pending, s.pwr, s.outbox)) _ (fun _ _ _ _ => rfl) (latchedDies s)

theorem State.mainOff_pwr (lost : Bool) : (s.mainOff lost).pwr = { s.pwr with up := false, off := true, lost := s.pwr.lost || lost } :=
  congrArg (fun p => p.2.2.2.1) (State.mainOff_parts s lost)

theorem State.mainOff_outbox (lost : Bool) : (s.mainOff lost).outbox = s.outbox := congrArg (fun p => p.2.2.2.2) (State.mainOff_parts s lost)

theorem State.mainOff_down (lost : Bool) : s.MainDown (s.mainOff lost) := by
  have h := State.mainOff_parts s lost
  exact ⟨congrArg PwrSt.up (State.mainOff_pwr s lost), congrArg PwrSt.off (State.mainOff_pwr s lost), congrArg Prod.fst h,
    congrArg (fun p => p.2.1) h, congrArg (fun p => p.2.2.1) h⟩

theorem State.tripOff_down (src : Nat) : s.MainDown (s.tripOff src) := by
  have hindep : ReportIndep (fun s : State => (s.mem, s.pending)) := fun _ _ _ _ _ _ _ => rfl
  have hkeep : ∀ t : State, t = ((s.notice 10 4 src).fltRecord 10 4 src ((fltClass 10 4 src).getD 0) 0 false 0).emit (.pin .thermtripN false) →
      (t.mem, t.pending) = (s.mem, s.pending) := fun t ht => by
    rw [ht]
    exact (State.emit_keeps hindep _ _).trans ((State.fltRecord_keeps hindep _ ..).trans (State.notice_keeps hindep s ..))
  obtain ⟨hup, hoff, htiles, hmem, hpend⟩ := State.mainOff_down
    (((s.notice 10 4 src).fltRecord 10 4 src ((fltClass 10 4 src).getD 0) 0 false 0).emit (.pin .thermtripN false)) false
  have hk := hkeep _ rfl
  exact ⟨hup, hoff, htiles, hmem.trans (congrArg memCells (congrArg Prod.fst hk)), hpend.trans (congrArg Prod.snd hk)⟩

theorem State.tripOff_pin (src : Nat) : Out.pin .thermtripN false ∈ (s.tripOff src).outbox := by
  have hout := State.mainOff_outbox
    (((s.notice 10 4 src).fltRecord 10 4 src ((fltClass 10 4 src).getD 0) 0 false 0).emit (.pin .thermtripN false)) false
  have hmem : Out.pin .thermtripN false ∈
      (((s.notice 10 4 src).fltRecord 10 4 src ((fltClass 10 4 src).getD 0) 0 false 0).emit (.pin .thermtripN false)).outbox :=
    List.mem_cons_self
  rw [← hout] at hmem
  exact hmem

theorem exec_mainInputLoss {s : State} (hmain : s.pwr.main = true) (haux : s.pwr.aux = true) (hup : 3 ∈ s.pwr.steps) (hon : s.pwr.off = false) :
    exec .mainInputLoss s = .next (((s.onPwr fun p => { p with main := false, bothOut := p.bothOut || !p.aux }).pf
      F.PWR_STATUS_main_good 0 0).mainOff true) := by
  have hexec : exec .mainInputLoss s = execMainInputLoss s := rfl
  have hstep : s.pwr.steps.contains 3 = true := List.contains_iff_mem.mpr hup
  rw [hexec, execMainInputLoss, if_neg (by simp [hmain])]
  exact congrArg Host.Outcome.next (if_pos (by simp [State.onPwr, State.pf, State.wr, haux, hup, hon]))

theorem exec_auxInputLoss {s : State} (haux : s.pwr.aux = true) :
    exec .auxInputLoss s = .next ((((s.mainOff false).onPwr fun p => { p with aux := false, bothOut := p.bothOut || !p.main, inReset := true }).pf
      F.PWR_STATUS_aux_good 0 0).pf F.ROT_STATUS_ready 0 0) := by
  have hexec : exec .auxInputLoss s = execAuxInputLoss s := rfl
  rw [hexec, execAuxInputLoss, if_neg (by simp [haux])]

theorem exec_tempSample_trip {s : State} {i : Nat} {c : Int} (hi : i < 53) (haux : s.pwr.aux = true) (hreset : s.pwr.inReset = false)
    (hon : s.pwr.off = false) (hhot : (tempLimits i).2 ≤ c + effCal s 0x20 (i + 1) (-1000) 1000) :
    exec (.tempSample i c) s = .next ((s.pf F.PWR_TEMP_centi_c i (uN 16 (c + effCal s 0x20 (i + 1) (-1000) 1000))).tripOff 7) := by
  have hexec : exec (.tempSample i c) s = execTempSample i c s := rfl
  rw [hexec, execTempSample, if_neg (by simp [haux, hreset]; omega)]
  dsimp only
  rw [if_pos hhot]
  exact congrArg Host.Outcome.next (if_neg (by simp [State.pf, State.wr, hon]))

theorem exec_ivrTrip {s : State} {node : Nat} (hnode : node < 10) (hon : s.pwr.off = false) (hmain : s.pwr.main = true) :
    exec (.ivrTrip node) s = .next (s.tripOff 6) :=
  congrArg Host.Outcome.next (if_pos (by simp [hnode, hon, hmain]))

/-- Settles O54: the sag from its assertion to its release, and each event that shuts the main domain down. -/
theorem supplyEventsComplete : Obligations.SupplyEventsComplete := by
  refine ⟨fun s => ⟨fun hsag => ?_, fun hsave => ?_, fun hsag => ?_, fun hsave hheld => ?_, fun hsave => ?_, fun hsave => ?_⟩,
    fun s => ⟨fun hmain haux hup hon => ?_, fun haux => ?_, fun node hnode hon hmain => ?_, fun i c hi haux hreset hon hhot => ?_, ?_⟩⟩
  · refine ⟨_, exec_powerfailAssert hsag, rfl, State.gf_pf_same s.endBusy F.PWR_STATUS_powerfail 0 1 (by decide) (by decide), rfl,
      allBusy_waits _ _ (allBusy_ended s.sec.resp), fun hstep hreset => ⟨s.endBusy.sagRecord, ?_, rfl, rfl, rfl, rfl⟩⟩
    exact if_pos (by simp [hstep, hreset])
  · obtain ⟨r, hr⟩ := saving_some hsave
    have hsaved : s.flt.save.map (fun (r : SaveRec) => { r with valid := true }) = some { r with valid := true } := congrArg _ hr
    cases hheld : s.pwr.resetHeld with
    | true => exact ⟨_, { r with valid := true }, (exec_sagSaveDone hsave).trans (congrArg Host.Outcome.next (if_pos hheld)), hsaved, rfl, rfl, rfl⟩
    | false =>
      exact ⟨_, { r with valid := true }, (exec_sagSaveDone hsave).trans (congrArg Host.Outcome.next (if_neg (by simp [hheld]))), hsaved, rfl, rfl, rfl⟩
  · exact ⟨_, exec_powerfailRelease hsag, rfl, State.gf_pf_same s F.PWR_STATUS_powerfail 0 0 (by decide) (by decide), rfl,
      fun hreset => if_neg (by simp [hreset])⟩
  · exact congrArg Host.Outcome.next (if_pos (by simp [hsave, hheld]))
  · exact ⟨_, congrArg Host.Outcome.next (if_pos hsave), rfl, rfl, rfl⟩
  · exact ⟨_, congrArg Host.Outcome.next (if_neg (by simp [hsave])), rfl, rfl, rfl⟩
  · obtain ⟨hoff, hpoff, htiles, hmem, hpend⟩ := State.mainOff_down
      ((s.onPwr fun p => { p with main := false, bothOut := p.bothOut || !p.aux }).pf F.PWR_STATUS_main_good 0 0) true
    have hpwr := State.mainOff_pwr ((s.onPwr fun p => { p with main := false, bothOut := p.bothOut || !p.aux }).pf F.PWR_STATUS_main_good 0 0) true
    exact ⟨_, exec_mainInputLoss hmain haux hup hon, ⟨hoff, hpoff, htiles, hmem, hpend⟩, congrArg PwrSt.main hpwr,
      (congrArg PwrSt.lost hpwr).trans (Bool.or_true _)⟩
  · refine ⟨_, exec_auxInputLoss haux, rfl, rfl, congrArg PwrSt.up (State.mainOff_pwr s false), ?_, ?_⟩
    · rw [State.gf_pf_apart _ (f := F.ROT_STATUS_ready) (f' := F.PWR_STATUS_aux_good) (by decide)]
      exact State.gf_pf_same _ _ _ _ (by decide) (by decide)
    · exact State.gf_pf_same _ _ _ _ (by decide) (by decide)
  · obtain ⟨hup, hoff, htiles, hmem, hpend⟩ := State.tripOff_down s 6
    exact ⟨_, exec_ivrTrip hnode hon hmain, ⟨hup, hoff, htiles, hmem, hpend⟩, rfl, State.tripOff_pin s 6⟩
  · obtain ⟨hup, hoff, htiles, hmem, hpend⟩ := State.tripOff_down (s.pf F.PWR_TEMP_centi_c i (uN 16 (c + effCal s 0x20 (i + 1) (-1000) 1000))) 7
    exact ⟨_, exec_tempSample_trip hi haux hreset hon hhot, ⟨hup, hoff, htiles, hmem, hpend⟩, rfl, State.tripOff_pin _ 7⟩
  · have hexec : exec (.refclkLoss .sys) s = .next (((s.tripOff 4).pf F.TB_STATUS_holdover 0 1).pf F.TB_STATUS_locked 0 0) := rfl
    obtain ⟨hup, hoff, htiles, hmem, hpend⟩ := State.tripOff_down s 4
    refine ⟨_, hexec, ⟨hup, hoff, htiles, hmem, hpend⟩, ?_, State.gf_pf_same _ _ _ _ (by decide) (by decide)⟩
    rw [State.gf_pf_apart _ (f := F.TB_STATUS_locked) (f' := F.TB_STATUS_holdover) (by decide)]
    exact State.gf_pf_same _ _ _ _ (by decide) (by decide)

end Sys2Proof.Machine

/-! PROOF. What a write of memory leaves; package resets and start-up (R404, R464, R498, R499). -/

namespace Sys2Proof.Machine

variable (s : State)

/-! ### Writes leave what is not the bus's -/

/-- A reading of the state that no write through the bus can change. -/
structure WriteIndep {α : Type} (π : State → α) : Prop where
  bus : BusIndep π
  tiles : TilesIndep π
  mem : ∀ (s : State) mem lineKey badLines badWords, π { s with mem := mem, lineKey := lineKey, badLines := badLines, badWords := badWords } = π s

section Writes

variable {α : Type} {π : State → α} (h : WriteIndep π) (s : State)
include h

theorem WriteIndep.memIndep : MemIndep π := ⟨h.bus.report, fun s mem lineKey badLines => h.mem s mem lineKey badLines s.badWords⟩

theorem State.cohWriteLine_keeps (key line off : Nat) (bs : Bytes) : π (s.cohWriteLine key line off bs) = π s := by
  unfold State.cohWriteLine
  split
  · exact State.enqueue_keeps h.bus s _
  · split
    · exact State.memErrAt_keeps h.bus s ..
    · exact (State.memLine_keeps h.memIndep _ ..).trans (State.invalidateAll_keeps h.bus s h.tiles line)

theorem cohWriteN_keeps (key : Nat) : ∀ (fuel : Nat) (s : State) (pa : Nat) (bs : Bytes), π (cohWriteN fuel s key pa bs) = π s
  | 0, _, _, _ => rfl
  | fuel + 1, s, pa, bs => by
    unfold cohWriteN
    split
    · rfl
    · exact (cohWriteN_keeps key fuel _ _ _).trans (State.cohWriteLine_keeps h s ..)

theorem State.cohWrite_keeps (key pa : Nat) (bs : Bytes) : π (s.cohWrite key pa bs) = π s := cohWriteN_keeps h key _ s pa bs

theorem State.sramWrite_keeps (pa : Nat) (bs : Bytes) : π (s.sramWrite pa bs) = π s := by
  have hput : ∀ bs, π (s.sramPut pa bs) = π s := fun bs => h.mem s _ s.lineKey s.badLines _
  unfold State.sramWrite
  dsimp only
  split
  · exact hput bs
  · refine (State.each_keeps _ (fun w s => ?_) _).trans (hput _)
    split
    · exact State.podErr_keeps h.bus s ..
    · rfl

theorem State.writeAt_keeps (key pa : Nat) (bs : Bytes) : π (s.writeAt key pa bs) = π s := by
  unfold State.writeAt
  split
  · exact State.cohWrite_keeps h s ..
  · exact State.cohWrite_keeps h s ..
  · exact State.cohWrite_keeps h s ..
  · exact State.sramWrite_keeps h s ..
  · split
    · exact (State.sramWrite_keeps h _ ..).trans (State.ioTouch_keeps h.bus s pa)
    · exact State.ioTouch_keeps h.bus s pa
  · exact State.emit_keeps h.bus.report s _
  · exact State.barWrite_keeps h.bus s ..
  · rfl

end Writes

theorem pwrIndep : WriteIndep State.pwr := ⟨fun _ _ _ _ _ _ _ _ _ _ _ _ => rfl, fun _ _ => rfl, fun _ _ _ _ _ => rfl⟩

/-! ### Start-up steps (R498) -/

theorem State.keyLinks_pwr : s.keyLinks.pwr = s.pwr := by
  refine State.each_keeps (π := State.pwr) s (fun node s => State.each_keeps (π := State.pwr) s (fun k s => ?_) _) _
  split <;> rfl

theorem State.resumeLeaves_pwr : s.resumeLeaves.pwr = s.pwr := by
  unfold State.resumeLeaves
  dsimp only
  split <;> rfl

theorem State.loadDies_pwr (failMask : Nat) (imgs : List Nat) : (s.loadDies failMask imgs).pwr = s.pwr := by
  have hr := pwrIndep.bus.report
  refine State.each_keeps (π := State.pwr) s (fun node s => ?_) _
  split
  · exact (State.pf_keeps hr _ ..).trans ((State.setQuiet_keeps hr _ ..).trans ((State.fltRecord_keeps hr _ ..).trans (State.fltReport_keeps hr _ ..)))
  · rfl

theorem State.hardRepairs_pwr (hbm : Bool) (noSpare : List Nat) : (s.hardRepairs hbm noSpare).pwr = s.pwr := by
  unfold State.hardRepairs
  refine State.each_keeps (π := State.pwr) s (fun p s => ?_) _
  dsimp only
  split
  · split
    · exact (State.notice_keeps pwrIndep.bus.report _ ..).trans (State.rowLines_keeps pwrIndep.memIndep s (fun _ => rfl) ..)
    · exact State.rowLines_keeps pwrIndep.memIndep s (fun _ => rfl) ..
  · rfl

theorem State.trainDdr_keeps {α : Type} {π : State → α} (h : ReportIndep π)
    (hchans : ∀ (s : State) l, π { s with ddrChans := l } = π s) (l : List Nat) : π (s.trainDdr l) = π s := by
  have hpf := fun s f i v => State.pf_keeps h s f i v
  have hpb : ∀ (s : State) f i b, π (s.pb f i b) = π s := fun s f i b => hpf s f i _
  have hite : ∀ (s : State) (c : Prop) [Decidable c] f i v, π (if c then s else s.pf f i v) = π s := fun s c _ f i v => by
    split
    · rfl
    · exact hpf ..
  unfold State.trainDdr
  dsimp only
  refine (hite _ _ _ _ _).trans ((hchans _ _).trans (State.each_keeps s (fun ch s => ?_) _))
  split
  · rw [hpf, hpf, hpf, hpf, hpf, hpb, hpf]
  · split
    · rw [State.notice_keeps h, hpf, hpf, hpf, hpb, hpf]
    · rw [hpf, hpf, hpb, hpf]

theorem State.trainDdr_pwr (l : List Nat) : (s.trainDdr l).pwr = s.pwr := State.trainDdr_keeps s pwrIndep.bus.report (fun _ _ => rfl) l

theorem State.cxlPlace_pwr : ∀ (l : List (Nat × Nat)) (base : Nat) (s : State), (s.cxlPlace l base).pwr = s.pwr
  | [], _, _ => rfl
  | (k, n) :: r, base, s => by
    unfold State.cxlPlace
    dsimp only
    split
    · exact State.cxlPlace_pwr r ..
    · split
      · exact (State.cxlPlace_pwr r ..).trans (State.notice_keeps pwrIndep.bus.report s ..)
      · exact State.cxlPlace_pwr r ..

theorem State.coreStart_pwr (d : Nat) : (s.coreStart d).pwr = s.pwr :=
  State.each_keeps (π := State.pwr) _ (fun _ s => State.cohWriteLine_keeps pwrIndep s ..) _

/-- Step 7 brings the dies up; every other step leaves the power state. -/
theorem State.startStep_pwr (n : Nat) (info : List Nat) :
    (s.startStep n info).pwr = if n = 7 then { s.pwr with up := true } else s.pwr := by
  unfold State.startStep
  by_cases h1 : n = 1
  · subst h1; exact State.resumeLeaves_pwr _
  by_cases h2 : n = 2
  · subst h2; rfl
  by_cases h4 : n = 4
  · subst h4; exact State.keyLinks_pwr s
  by_cases h5 : n = 5
  · subst h5; exact State.loadDies_pwr s ..
  by_cases h6 : n = 6
  · subst h6; rfl
  by_cases h7 : n = 7
  · subst h7; exact congrArg (fun p : PwrSt => { p with up := true }) (State.hardRepairs_pwr s true info)
  by_cases h8 : n = 8
  · subst h8; exact (State.trainDdr_pwr _ info).trans (State.hardRepairs_pwr s false _)
  by_cases h9 : n = 9
  · subst h9; exact State.cxlPlace_pwr _ _ s
  by_cases h10 : n = 10
  · subst h10; exact State.coreStart_pwr s _
  rw [if_neg h1, if_neg h2, if_neg h4, if_neg h5, if_neg h6, if_neg h7, if_neg h8, if_neg h9, if_neg h10, if_neg h7]
  by_cases h11 : n = 11
  · rw [if_pos h11]
    split <;> rfl
  · rw [if_neg h11]

/-! ### The package reset (R404) -/

/-- What a package reset leaves to the parts that outlive it: the queue, the cells, the dictionary, the secrets, and the power state. -/
def State.outliving (s : State) : List Instr × Tab Tile × Mem × OdSt × SecSt × PwrSt := (s.pending, s.tiles, s.mem, s.od, s.sec, s.pwr)

theorem State.restoreFaults_keeps {α : Type} {π : State → α} (h : ∀ (s : State) f i v, π (s.pf f i v) = π s)
    (c : Tab Nat × List Nat × List Bytes) : π (s.restoreFaults c) = π s := by
  refine (State.each_keeps _ (fun i s => h s ..) _).trans (State.each_keeps s (fun r s => ?_) _)
  dsimp only
  split
  · rw [h, h, h, h]
  · rw [h, h]

theorem State.applyOd_keeps {α : Type} {π : State → α} (h : ∀ (s : State) f i v, π (s.pf f i v) = π s)
    (hmode : ∀ (s : State) hm dm, π { s with hbmMode := hm, ddrMode := dm } = π s)
    (hunits : ∀ (s : State) eth compat bmp, π { s with eth := eth, flt := { s.flt with compat := compat }, bmp := bmp } = π s) :
    π s.applyOd = π s := by
  have hnet : ∀ s : State, π s.netStart = π s := fun s => hunits s _ s.flt.compat _
  unfold State.applyOd
  dsimp only
  refine (hunits ..).trans ((hnet _).trans ?_)
  rw [h, h, h, h, State.each_keeps (π := π) _ (fun p s => h s ..), State.each_keeps (π := π) _ (fun r s => h s ..), h, h]
  exact hmode ..

/-- The package as a reset finds it, before the fault copies and the dictionary are applied. -/
def State.resetBase (s : State) (powerOn : Bool) : State :=
  let sec : SecSt := {
    slots := s.sec.slots, minSvn := s.sec.minSvn, attBlock := s.sec.attBlock, idBlock := s.sec.idBlock, resvSeq := s.sec.resvSeq
    attUsed := s.sec.attUsed, secrets := s.sec.secrets
    svns := s.sec.slots.rows.foldl (fun t r => t.put r.1 r.2.2) s.sec.svns }
  let gens := match s.flt.save with
    | some r => if r.valid then r.gens else []
    | none => []
  let flt : FltSt := {
    records := (nvCopies s).2.2, repairs := s.flt.repairs, save := s.flt.save, gensAtBoot := gens
    nvRec := (nvCopies s).1, nvHeld := (nvCopies s).2.1, nvRing := (nvCopies s).2.2 }
  let t : State := { State.reset with
    pending := s.pending, outbox := s.outbox, freeCtr := s.freeCtr, rndCtr := s.rndCtr
    mem := memCells s.mem, lineKey := s.lineKey, badLines := s.badLines
    keyIds := ({} : Tab Nat).put 0 s.keyNext, keyNext := s.keyNext + 1, fused := s.fused
    od := { vals := s.od.saved, saved := s.od.saved }, sec := sec, flt := flt }
  let t := t.onPwr (fun p => { p with main := s.pwr.main, aux := s.pwr.aux, bothOut := s.pwr.bothOut && !powerOn })
  if powerOn then t else (t.wr .PWR_ENERGY 0 (s.rdN .PWR_ENERGY)).onPwr (fun p => { p with energyRem := s.pwr.energyRem })

theorem State.packageReset_eq (powerOn : Bool) : s.packageReset powerOn =
    (let t := ((s.resetBase powerOn).restoreFaults (nvCopies s)).applyOd
     let t := if s.pwr.trip then t.emit (.pin .thermtripN true) else t
     if powerOn then t else t.latch (latchedDies s)) := rfl

theorem State.packageReset_keeps {α : Type} {π : State → α} (h : ∀ (s : State) f i v, π (s.pf f i v) = π s)
    (hmode : ∀ (s : State) hm dm, π { s with hbmMode := hm, ddrMode := dm } = π s)
    (hunits : ∀ (s : State) eth compat bmp, π { s with eth := eth, flt := { s.flt with compat := compat }, bmp := bmp } = π s)
    (hemit : ∀ (s : State) o, π (s.emit o) = π s) (powerOn : Bool) : π (s.packageReset powerOn) = π (s.resetBase powerOn) := by
  have hbase := (State.applyOd_keeps _ h hmode hunits).trans (State.restoreFaults_keeps (s.resetBase powerOn) h (nvCopies s))
  have hpin : π (if s.pwr.trip then (((s.resetBase powerOn).restoreFaults (nvCopies s)).applyOd).emit (.pin .thermtripN true)
      else ((s.resetBase powerOn).restoreFaults (nvCopies s)).applyOd) = π (s.resetBase powerOn) := by
    split
    · exact (hemit ..).trans hbase
    · exact hbase
  rw [State.packageReset_eq]
  dsimp only
  split
  · exact hpin
  · exact (State.latch_keeps _ h _).trans hpin

/-- The dies' work and the unsaved entries have ended, and start-up begins; the cells and the NV store hold what they held. -/
structure State.Anew (s s' : State) : Prop where
  pending : s'.pending = s.pending
  tiles : s'.tiles = State.reset.tiles
  mem : s'.mem = memCells s.mem
  vals : s'.od.vals = s.od.saved
  saved : s'.od.saved = s.od.saved
  secrets : s'.sec.secrets = s.sec.secrets
  parts : s'.sec.parts = State.reset.sec.parts
  steps : s'.pwr.steps = []
  inReset : s'.pwr.inReset = false
  up : s'.pwr.up = false
  off : s'.pwr.off = false

theorem State.Anew.of_outliving {s t u : State} (h : s.Anew t) (hu : u.outliving = t.outliving) : s.Anew u := by
  simp only [State.outliving, Prod.mk.injEq] at hu
  obtain ⟨hpend, htiles, hmem, hod, hsec, hpwr⟩ := hu
  refine ⟨hpend.trans h.pending, htiles.trans h.tiles, hmem.trans h.mem, ?_, ?_, ?_, ?_, ?_, ?_, ?_, ?_⟩
  · rw [hod]; exact h.vals
  · rw [hod]; exact h.saved
  · rw [hsec]; exact h.secrets
  · rw [hsec]; exact h.parts
  · rw [hpwr]; exact h.steps
  · rw [hpwr]; exact h.inReset
  · rw [hpwr]; exact h.up
  · rw [hpwr]; exact h.off

theorem State.resetBase_anew (powerOn : Bool) : s.Anew (s.resetBase powerOn) := by
  cases powerOn <;> exact ⟨rfl, rfl, rfl, rfl, rfl, rfl, rfl, rfl, rfl, rfl, rfl⟩

theorem State.resetBase_inputs (powerOn : Bool) : (s.resetBase powerOn).pwr.main = s.pwr.main ∧ (s.resetBase powerOn).pwr.aux = s.pwr.aux := by
  cases powerOn <;> exact ⟨rfl, rfl⟩

theorem State.packageReset_outliving (powerOn : Bool) : (s.packageReset powerOn).outliving = (s.resetBase powerOn).outliving :=
  State.packageReset_keeps s (fun _ _ _ _ => rfl) (fun _ _ _ => rfl) (fun _ _ _ _ => rfl) (fun _ _ => rfl) powerOn

theorem State.packageReset_anew (powerOn : Bool) : s.Anew (s.packageReset powerOn) :=
  (State.resetBase_anew s powerOn).of_outliving (State.packageReset_outliving s powerOn)

theorem State.packageReset_inputs (powerOn : Bool) : (s.packageReset powerOn).pwr.main = s.pwr.main ∧ (s.packageReset powerOn).pwr.aux = s.pwr.aux := by
  have hpwr : (s.packageReset powerOn).pwr = (s.resetBase powerOn).pwr :=
    congrArg (fun p => p.2.2.2.2.2) (State.packageReset_outliving s powerOn)
  rw [hpwr]
  exact State.resetBase_inputs s powerOn

theorem exec_packageReset {s : State} (hsave : saving s = false) (haux : s.pwr.aux = true) :
    exec .packageReset s = .next (s.packageReset false) := by
  have hexec : exec .packageReset s = execPackageReset s := rfl
  rw [hexec, execPackageReset, if_neg (by simp [hsave]), if_pos haux]

theorem exec_auxInputApply {s : State} (haux : s.pwr.aux = false) :
    exec .auxInputApply s = .next (((s.onPwr fun p => { p with aux := true }).packageReset s.pwr.bothOut).pf F.PWR_STATUS_aux_good 0 1) := by
  have hexec : exec .auxInputApply s = execAuxInputApply s := rfl
  rw [hexec, execAuxInputApply, if_neg (by simp [haux])]
  rfl

/-- The state in which the main input is there again. -/
def State.mainBack (s : State) : State := (s.onPwr fun p => { p with main := true }).pf F.PWR_STATUS_main_good 0 1

theorem exec_mainInputRestore {s : State} (hmain : s.pwr.main = false) :
    exec .mainInputRestore s = .next (if s.pwr.aux && s.pwr.lost then s.mainBack.packageReset false else s.mainBack) := by
  have hexec : exec .mainInputRestore s = execMainInputRestore s := rfl
  rw [hexec, execMainInputRestore, if_neg (by simp [hmain])]
  rfl

/-- The step named may complete now. -/
def stepMay (s : State) (n : Nat) : Prop :=
  stepReady s.pwr n = true ∧ s.gb F.PWR_START_fail = false ∧ s.flt.sag = false ∧ s.pwr.inReset = false ∧ s.pwr.off = false ∧
    s.gb F.ROT_STATUS_error = false ∧ stepWaits s n = false

theorem exec_startupStepDone {s : State} {n : Nat} (ok : Bool) (info : List Nat) (h : stepMay s n) :
    exec (.startupStepDone ok (n :: info)) s =
      if !ok || (n = 5 && info.headD 0 % 256 = 255) then .next (if n = 1 then s.rotError else if n = 5 || n = 7 then s.pf F.PWR_START_fail 0 n else s)
      else .next (((s.startStep n info).onPwr fun p => { p with steps := p.steps ++ [n] }).pf F.PWR_START_stage 0 n) := by
  obtain ⟨hready, hfail, hsag, hreset, hoff, herr, hwaits⟩ := h
  have hexec : exec (.startupStepDone ok (n :: info)) s = execStartupStepDone ok (n :: info) s := rfl
  rw [hexec, execStartupStepDone]
  exact if_neg (by simp [hready, hfail, hsag, hreset, hoff, herr, hwaits])

theorem stepReady_le {p : PwrSt} {n : Nat} (h : stepReady p n = true) : n ≤ 11 := by
  simp only [stepReady, Bool.and_eq_true, decide_eq_true_eq] at h
  exact h.1.2

/-- Settles O55: what a package reset starts anew, and each step of start-up by its outcome. -/
theorem resetAndStartUpComplete : Obligations.ResetAndStartUpComplete := by
  refine ⟨fun s => ⟨fun hsave haux => ?_, fun hsave => ?_, fun haux => ?_, fun hmain haux hlost => ?_, fun hmain hlost => ?_⟩,
    fun s n info hready hfail hsag hreset hoff herr hwaits => ⟨fun h5 => ?_, fun hn => ?_, fun hn => ?_⟩⟩
  · obtain ⟨h1, h2, h3, h4, h5, h6, h7, h8, h9, h10, h11⟩ := State.packageReset_anew s false
    exact ⟨_, exec_packageReset hsave haux, h1, h2, h3, h4, h5, h6, h7, h8, h9, h10, h11⟩
  · exact ⟨_, congrArg id (if_pos hsave), rfl, rfl, rfl⟩
  · obtain ⟨h1, h2, h3, h4, h5, h6, h7, h8, h9, h10, h11⟩ := State.packageReset_anew (s.onPwr fun p => { p with aux := true }) s.pwr.bothOut
    exact ⟨_, exec_auxInputApply haux, ⟨h1, h2, h3, h4, h5, h6, h7, h8, h9, h10, h11⟩, (State.packageReset_inputs _ _).2,
      State.gf_pf_same _ _ _ _ (by decide) (by decide)⟩
  · obtain ⟨h1, h2, h3, h4, h5, h6, h7, h8, h9, h10, h11⟩ := State.packageReset_anew s.mainBack false
    exact ⟨_, (exec_mainInputRestore hmain).trans (congrArg Host.Outcome.next (if_pos (by simp [haux, hlost]))),
      ⟨h1, h2, h3, h4, h5, h6, h7, h8, h9, h10, h11⟩, (State.packageReset_inputs _ _).1⟩
  · exact ⟨_, (exec_mainInputRestore hmain).trans (congrArg Host.Outcome.next (if_neg (by simp [hlost]))), rfl, rfl,
      State.gf_pf_same _ _ _ _ (by decide) (by decide)⟩
  · have hn := stepReady_le hready
    have hpwr := State.startStep_pwr s n info
    refine ⟨_, (exec_startupStepDone true info ⟨hready, hfail, hsag, hreset, hoff, herr, hwaits⟩).trans (if_neg ?_), ?_, ?_, fun h7 => ?_, fun h7 => ?_⟩
    · simpa using h5
    · have hsteps : (s.startStep n info).pwr.steps = s.pwr.steps := by
        rw [hpwr]
        split <;> rfl
      exact congrArg (· ++ [n]) hsteps
    · rw [State.gf_pf_same _ _ _ _ (by decide) (by decide)]
      exact Nat.mod_eq_of_lt (Nat.lt_of_le_of_lt hn (by decide))
    · rw [if_pos h7] at hpwr
      have hup : (s.startStep n info).pwr.up = true := congrArg PwrSt.up hpwr
      exact hup
    · rw [if_neg h7] at hpwr
      have hup : (s.startStep n info).pwr.up = s.pwr.up := congrArg PwrSt.up hpwr
      exact hup
  · have hrun := exec_startupStepDone false info ⟨hready, hfail, hsag, hreset, hoff, herr, hwaits⟩
    have h1 : n ≠ 1 := by omega
    rw [if_pos (by simp), if_neg h1, if_pos (by simpa using hn)] at hrun
    refine ⟨_, hrun, ?_, rfl, rfl⟩
    rw [State.gf_pf_same _ _ _ _ (by decide) (by decide)]
    exact Nat.mod_eq_of_lt (Nat.lt_of_le_of_lt (stepReady_le hready) (by decide))
  · rw [exec_startupStepDone false info ⟨hready, hfail, hsag, hreset, hoff, herr, hwaits⟩, if_pos (by simp), if_pos hn]

end Sys2Proof.Machine

/-! PROOF. Power measurement, temperatures, gear requests, reference clocks, sleep and the Acorn links (R23, R29, R492 to R497). -/

namespace Sys2Proof.Machine

variable (s : State)

/-! ### The governor (R493) -/

section Governor

variable {α : Type} {π : State → α} (hnotice : ∀ s : State, π (s.notice 10 4 1) = π s)
  (hbreach : ∀ s : State, π (s.pf F.PWR_STATUS_cap_breach 0 1) = π s)
  (hpower : ∀ (s : State) v, π (s.pf F.PWR_STATUS_throttle_power 0 v) = π s)
  (hclk : ∀ (s : State) n v, n < 8 → π (s.pf F.PWR_TILE_CLK_mhz n v) = π s)
  (hpwr : ∀ (s : State) run breach, π (s.onPwr fun p => { p with floorRun := run, breach := breach }) = π s)

include hclk in
theorem State.tileClocks_keeps (f : Nat → Nat → Nat) : π (s.tileClocks f) = π s := by
  have hlist : ∀ (l : List Nat) (s : State), (∀ n ∈ l, n < 8) → π (s.each l fun n s => s.pf F.PWR_TILE_CLK_mhz n (f n (clkOf s n))) = π s := by
    intro l
    induction l with
    | nil => exact fun _ _ => rfl
    | cons n l ih =>
      exact fun s h => (ih _ fun m hm => h m (List.mem_cons_of_mem _ hm)).trans (hclk s n _ (h n List.mem_cons_self))
  exact hlist dies8 s fun n hn => List.mem_range.mp hn

include hnotice hbreach hpower hclk hpwr in
theorem State.governor_keeps (avg : Nat) : π (s.governor avg) = π s := by
  have hsync : ∀ s : State, π s.throttleSync = π s := fun s => hpower s _
  have hrun : ∀ (s : State) run, π (s.onPwr fun p => { p with floorRun := run }) = π s := fun s run => hpwr s run s.pwr.breach
  have hset : ∀ (s : State) b, π (s.onPwr fun p => { p with breach := b }) = π s := fun s b => hpwr s s.pwr.floorRun b
  have hstart : ∀ (s : State) (c : Bool), π (if c then ((s.pf F.PWR_STATUS_cap_breach 0 1).notice 10 4 1).onPwr (fun p => { p with breach := true })
      else s) = π s := fun s c => by
    split
    · exact (hset _ _).trans ((hnotice _).trans (hbreach s))
    · rfl
  unfold State.governor
  dsimp only
  split
  · exact (hsync _).trans ((State.tileClocks_keeps _ hclk _).trans ((hstart _ _).trans (hrun s _)))
  · split
    · exact (hsync _).trans ((State.tileClocks_keeps _ hclk _).trans ((hset _ _).trans ((hstart _ _).trans (hrun s _))))
    · exact (hstart _ _).trans (hrun s _)

end Governor

/-- The governor leaves a register that is neither its own nor a report's. -/
theorem State.governor_gf {f : Fld} (hf : f.unreported = true) (hbreach : Fld.apart F.PWR_STATUS_cap_breach f = true)
    (hpower : Fld.apart F.PWR_STATUS_throttle_power f = true) (hclk : f.reg.ctorIdx ≠ Reg.PWR_TILE_CLK.ctorIdx) (avg : Nat) :
    (s.governor avg).gf f = s.gf f :=
  State.governor_keeps (π := fun s => s.gf f) s (fun s => State.fltReport_gf s hf (by decide) (by decide) 1)
    (fun s => State.gf_pf_apart s hbreach 0 1) (fun s v => State.gf_pf_apart s hpower 0 v)
    (fun s n v hn => State.gf_pf_distinct s F.PWR_TILE_CLK_mhz f hclk (by omega) (by decide) v) (fun _ _ _ => rfl) avg

/-! ### Measurements (R492) -/

/-- The notices of inputs that leave their ranges. -/
def State.inputNotices (s : State) (mainMv auxMv : Nat) : State :=
  let s := s.when (s.gb F.PWR_STATUS_main_good && !decide (11400 ≤ mainMv ∧ mainMv ≤ 12600)) (fun s => s.notice 10 4 2)
  s.when (s.gb F.PWR_STATUS_aux_good && !decide (10800 ≤ auxMv ∧ auxMv ≤ 13200)) (fun s => s.notice 10 4 3)

theorem State.inputNotices_keeps {α : Type} {π : State → α} (h : ReportIndep π) (mainMv auxMv : Nat) : π (s.inputNotices mainMv auxMv) = π s :=
  (State.when_keeps _ (fun s => State.notice_keeps h s 10 4 3) _).trans (State.when_keeps s (fun s => State.notice_keeps h s 10 4 2) _)

/-- The registers of a measurement: the inputs, the average, and the energy. -/
def State.showSample (s : State) (mainMv auxMv watts e : Nat) : State :=
  ((((s.pf F.PWR_INPUT_main_mv 0 mainMv).pf F.PWR_INPUT_aux_mv 0 auxMv).pf F.PWR_INPUT_main_w 0 watts).bump64 .PWR_ENERGY 0 (e / 100)).onPwr
    fun p => { p with energyRem := e % 100 }

theorem State.showSample_samples (mainMv auxMv watts e : Nat) : (s.showSample mainMv auxMv watts e).pwr.samples = s.pwr.samples := rfl

theorem State.showSample_mem (mainMv auxMv watts e : Nat) : (s.showSample mainMv auxMv watts e).mem = s.mem := rfl

/-- What a measurement leaves before the governor runs. -/
def State.sampled (s : State) (mw mainMv auxMv : Nat) : State :=
  let mainOk := decide (11400 ≤ mainMv ∧ mainMv ≤ 12600)
  let auxOk := decide (10800 ≤ auxMv ∧ auxMv ≤ 13200)
  let s := s.inputNotices mainMv auxMv
  let s := (s.pb F.PWR_STATUS_main_good 0 mainOk).pb F.PWR_STATUS_aux_good 0 auxOk
  let s := s.onPwr (fun p => { p with samples := (mw :: p.samples).take 100 })
  s.showSample mainMv auxMv (s.pwr.samples.sum / max 1 s.pwr.samples.length / 1000) (s.pwr.energyRem + mw)

theorem exec_powerSample {s : State} (mw mainMv auxMv : Nat) (haux : s.pwr.aux = true) (hreset : s.pwr.inReset = false) :
    ∃ avg, exec (.powerSample mw mainMv auxMv) s =
      .next (if (s.sampled mw mainMv auxMv).pwr.up then (s.sampled mw mainMv auxMv).governor avg else s.sampled mw mainMv auxMv) := by
  have hexec : exec (.powerSample mw mainMv auxMv) s = execPowerSample mw mainMv auxMv s := rfl
  rw [hexec, execPowerSample, if_neg (by simp [haux, hreset])]
  exact ⟨_, rfl⟩

theorem State.sampled_kept (mw mainMv auxMv : Nat) :
    (s.sampled mw mainMv auxMv).pwr.samples = (mw :: s.pwr.samples).take 100 ∧ (s.sampled mw mainMv auxMv).mem = s.mem := by
  have hsamples : (s.inputNotices mainMv auxMv).pwr.samples = s.pwr.samples :=
    State.inputNotices_keeps (π := fun s => s.pwr.samples) s (fun _ _ _ _ _ _ _ => rfl) mainMv auxMv
  have hmem : (s.inputNotices mainMv auxMv).mem = s.mem := State.inputNotices_keeps s memIndep.report mainMv auxMv
  unfold State.sampled
  dsimp only
  rw [State.showSample_samples, State.showSample_mem, ← hsamples, ← hmem]
  exact ⟨rfl, rfl⟩

theorem State.sampled_gf (mw : Nat) {mainMv auxMv : Nat} (hmain : mainMv < 65536) (haux : auxMv < 65536) :
    (s.sampled mw mainMv auxMv).gf F.PWR_INPUT_main_mv = mainMv ∧ (s.sampled mw mainMv auxMv).gf F.PWR_INPUT_aux_mv = auxMv ∧
      (s.sampled mw mainMv auxMv).gb F.PWR_STATUS_main_good = decide (11400 ≤ mainMv ∧ mainMv ≤ 12600) := by
  unfold State.sampled State.showSample
  dsimp only
  have henergy : ∀ (s : State) (f : Fld) k e, f.reg.ctorIdx ≠ Reg.PWR_ENERGY.ctorIdx →
      ((s.bump64 .PWR_ENERGY 0 k).onPwr fun p => { p with energyRem := e }).gf f = s.gf f := fun s f k e h =>
    State.gf_wr_distinct s h (by decide) (by decide) _
  refine ⟨?_, ?_, ?_⟩
  · rw [henergy _ _ _ _ (by decide), State.gf_pf_apart _ (f := F.PWR_INPUT_main_w) (f' := F.PWR_INPUT_main_mv) (by decide),
      State.gf_pf_apart _ (f := F.PWR_INPUT_aux_mv) (f' := F.PWR_INPUT_main_mv) (by decide), State.gf_pf_same _ _ _ _ (by decide) (by decide)]
    exact Nat.mod_eq_of_lt hmain
  · rw [henergy _ _ _ _ (by decide), State.gf_pf_apart _ (f := F.PWR_INPUT_main_w) (f' := F.PWR_INPUT_aux_mv) (by decide),
      State.gf_pf_same _ _ _ _ (by decide) (by decide)]
    exact Nat.mod_eq_of_lt haux
  · rw [State.gb, henergy _ _ _ _ (by decide), State.gf_pf_apart _ (f := F.PWR_INPUT_main_w) (f' := F.PWR_STATUS_main_good) (by decide),
      State.gf_pf_apart _ (f := F.PWR_INPUT_aux_mv) (f' := F.PWR_STATUS_main_good) (by decide),
      State.gf_pf_apart _ (f := F.PWR_INPUT_main_mv) (f' := F.PWR_STATUS_main_good) (by decide)]
    have hgood : ∀ (s : State) (ok ok' : Bool) f, (((s.pb F.PWR_STATUS_main_good 0 ok).pb F.PWR_STATUS_aux_good 0 ok').onPwr f).gf F.PWR_STATUS_main_good = bN ok :=
      fun s ok ok' f => by
        refine (State.gf_pf_apart _ (f := F.PWR_STATUS_aux_good) (f' := F.PWR_STATUS_main_good) (by decide) 0 _).trans ?_
        rw [State.pb, State.gf_pf_same _ _ _ _ (by decide) (by decide)]
        cases ok <;> rfl
    rw [hgood]
    cases decide (11400 ≤ mainMv ∧ mainMv ≤ 12600) <;> rfl

/-! ### Temperatures (R497) -/

theorem uN_lt (w : Nat) (v : Int) : uN w v < 2 ^ w := by
  have hpos : (0 : Int) < 2 ^ w := by positivity
  have h := Int.emod_lt_of_pos v hpos
  have h0 := Int.emod_nonneg v (ne_of_gt hpos)
  unfold uN
  zify
  rw [Int.toNat_of_nonneg h0]
  exact h

theorem State.gf_lt (f : Fld) (i : Nat) : s.gf f i < 2 ^ (f.hi + 1 - f.lo) := Nat.mod_lt _ (Nat.two_pow_pos _)

theorem State.clusterStep_keeps {α : Type} {π : State → α} (hcl : ∀ (s : State) k v, k < 65536 → π (s.pf F.PWR_CLUSTER_mhz k v) = π s)
    (hlim : ∀ (s : State) lim, π (s.onPwr fun p => { p with clusterLim := lim }) = π s) {m : Nat} (hm : m < 2) (f : Nat → Nat) :
    π (s.clusterStep m f) = π s := by
  have hlist : ∀ (l : List Nat) (s : State), (∀ k ∈ l, k < 65536) → π (s.each l fun k s =>
      (s.onPwr (fun p => { p with clusterLim := p.clusterLim.put k (f (p.clusterLim.atD k 3000)) })).clusterSync k) = π s := by
    intro l
    induction l with
    | nil => exact fun _ _ => rfl
    | cons k l ih =>
      exact fun s h => (ih _ fun m hm => h m (List.mem_cons_of_mem _ hm)).trans
        ((hcl _ k _ (h k List.mem_cons_self)).trans (hlim s (s.pwr.clusterLim.put k (f (s.pwr.clusterLim.atD k 3000)))))
  refine hlist (clustersOf m) s fun k hk => ?_
  obtain ⟨j, hj, rfl⟩ := List.mem_map.mp hk
  have := List.mem_range.mp hj
  omega

/-- A sample above the throttle temperature. -/
def State.throttled (s : State) (i : Nat) : State :=
  let s := (s.pf F.PWR_STATUS_throttle_thermal 0 1).notice 10 4 0
  if !s.pwr.up then s
  else if i < 32 then s.pf F.PWR_TILE_CLK_mhz (i / 4) (max 600 (clkOf s (i / 4) - 25))
  else if i < 36 then s.clusterStep ((i - 32) / 2) (fun c => max 600 (c - 25))
  else s

/-- A sample at or below it. -/
def State.cooled (s : State) (i : Nat) : State :=
  if s.pwr.up && 32 ≤ i && i < 36 && s.pwr.clusterLim.has (8 * ((i - 32) / 2)) then s.clusterStep ((i - 32) / 2) (fun c => min 3000 (c + 25)) else s

theorem exec_tempSample {s : State} {i : Nat} {c t : Int} (ht : t = c + effCal s 0x20 (i + 1) (-1000) 1000) (hi : i < 53)
    (haux : s.pwr.aux = true) (hreset : s.pwr.inReset = false) (hcold : t < (tempLimits i).2) :
    exec (.tempSample i c) s = .next (if (tempLimits i).1 < t then (s.pf F.PWR_TEMP_centi_c i (uN 16 t)).throttled i
      else (s.pf F.PWR_TEMP_centi_c i (uN 16 t)).cooled i) := by
  have hexec : exec (.tempSample i c) s = execTempSample i c s := rfl
  rw [hexec, execTempSample, if_neg (by simp [haux, hreset]; omega)]
  dsimp only
  rw [← ht, if_neg (by omega)]
  split <;> rfl

theorem State.throttled_gf {f : Fld} {i j : Nat} (hi : i < 53) (hj : j < 65536) (hf : f.unreported = true)
    (hstatus : f.reg.ctorIdx ≠ Reg.PWR_STATUS.ctorIdx) (hclk : f.reg.ctorIdx ≠ Reg.PWR_TILE_CLK.ctorIdx)
    (hcl : f.reg.ctorIdx ≠ Reg.PWR_CLUSTER.ctorIdx) : (s.throttled i).gf f j = s.gf f j := by
  have hstart : ((s.pf F.PWR_STATUS_throttle_thermal 0 1).notice 10 4 0).gf f j = s.gf f j :=
    (State.fltReport_gf _ hf (by decide) hj 0).trans (State.gf_pf_distinct s F.PWR_STATUS_throttle_thermal f hstatus (by decide) hj 1)
  unfold State.throttled
  dsimp only
  split
  · exact hstart
  · split
    · exact (State.gf_pf_distinct _ F.PWR_TILE_CLK_mhz f hclk (by omega) hj _).trans hstart
    · split
      · exact (State.clusterStep_keeps (π := fun s => s.gf f j) _
          (fun s k v hk => State.gf_pf_distinct s F.PWR_CLUSTER_mhz f hcl hk hj v) (fun _ _ => rfl) (by omega) _).trans hstart
      · exact hstart

theorem State.cooled_gf {f : Fld} {i j : Nat} (hj : j < 65536) (hcl : f.reg.ctorIdx ≠ Reg.PWR_CLUSTER.ctorIdx) :
    (s.cooled i).gf f j = s.gf f j := by
  unfold State.cooled
  split
  next h =>
    simp only [Bool.and_eq_true, decide_eq_true_eq] at h
    exact State.clusterStep_keeps (π := fun s => s.gf f j) s (fun s k v hk => State.gf_pf_distinct s F.PWR_CLUSTER_mhz f hcl hk hj v)
      (fun _ _ => rfl) (by omega) _
  next => rfl

theorem State.throttled_mem (i : Nat) : (s.throttled i).mem = s.mem := by
  have hstart : ((s.pf F.PWR_STATUS_throttle_thermal 0 1).notice 10 4 0).mem = s.mem := State.notice_keeps memIndep.report _ ..
  unfold State.throttled
  dsimp only
  split
  · exact hstart
  · split
    · exact hstart
    · split
      · exact (State.clusterStep_keeps (π := State.mem) _ (fun _ _ _ _ => rfl) (fun _ _ => rfl) (by omega) _).trans hstart
      · exact hstart

theorem State.cooled_mem (i : Nat) : (s.cooled i).mem = s.mem := by
  unfold State.cooled
  split
  next h =>
    simp only [Bool.and_eq_true, decide_eq_true_eq] at h
    exact State.clusterStep_keeps (π := State.mem) s (fun _ _ _ _ => rfl) (fun _ _ => rfl) (by omega) _
  next => rfl

theorem State.throttled_thermal (i : Nat) (hi : i < 53) : (s.throttled i).gf F.PWR_STATUS_throttle_thermal = 1 := by
  have hstart : ((s.pf F.PWR_STATUS_throttle_thermal 0 1).notice 10 4 0).gf F.PWR_STATUS_throttle_thermal = 1 := by
    rw [State.notice, State.fltReport_gf _ (by decide) (by decide) (by decide), State.gf_pf_same _ _ _ _ (by decide) (by decide)]
    rfl
  unfold State.throttled
  dsimp only
  split
  · exact hstart
  · split
    · exact (State.gf_pf_distinct _ F.PWR_TILE_CLK_mhz F.PWR_STATUS_throttle_thermal (by decide) (by omega) (by decide) _).trans hstart
    · split
      · exact (State.clusterStep_keeps (π := fun s => s.gf F.PWR_STATUS_throttle_thermal) _
          (fun s k v hk => State.gf_pf_distinct s F.PWR_CLUSTER_mhz F.PWR_STATUS_throttle_thermal (by decide) hk (by decide) v)
          (fun _ _ => rfl) (by omega) _).trans hstart
      · exact hstart

theorem State.throttled_clock {i : Nat} (hi : i < 32) (hup : s.pwr.up = true) :
    (s.throttled i).gf F.PWR_TILE_CLK_mhz (i / 4) = max 600 (s.gf F.PWR_TILE_CLK_mhz (i / 4) - 25) := by
  have hclk : clkOf ((s.pf F.PWR_STATUS_throttle_thermal 0 1).notice 10 4 0) (i / 4) = s.gf F.PWR_TILE_CLK_mhz (i / 4) :=
    (State.fltReport_gf _ (by decide) (by decide) (by omega) 0).trans
      (State.gf_pf_distinct s F.PWR_STATUS_throttle_thermal F.PWR_TILE_CLK_mhz (by decide) (by decide) (by omega) 1)
  have hup' : ((s.pf F.PWR_STATUS_throttle_thermal 0 1).notice 10 4 0).pwr.up = true :=
    (congrArg PwrSt.up (State.notice_keeps pwrIndep.bus.report (s.pf F.PWR_STATUS_throttle_thermal 0 1) 10 4 0)).trans hup
  have hlt : s.gf F.PWR_TILE_CLK_mhz (i / 4) < 2048 := State.gf_lt s ..
  unfold State.throttled
  dsimp only
  rw [if_neg (by simp [hup']), if_pos hi, State.gf_pf_same _ _ _ _ (by decide) (by decide), hclk]
  exact Nat.mod_eq_of_lt (by show _ < 2048; omega)

/-! ### Gear requests (R494) -/

theorem exec_gearRequest {gear : Nat} (hgear : gear < 4) :
    ∃ s' : State, exec (.gearRequest .operator gear) s = .next s' ∧ s'.gf F.PWR_GEAR_requested = gear ∧ s'.gf F.PWR_GEAR_REQ_gear = gear ∧
      s'.gears = s.gears ∧ s'.mem = s.mem := by
  have hexec : exec (.gearRequest .operator gear) s = execGearRequest .operator gear s := rfl
  rw [hexec, execGearRequest, if_neg (by simp; omega)]
  dsimp only
  have hmod : gear % 4 = gear := Nat.mod_eq_of_lt hgear
  have hsync : ∀ (s : State) (f : Fld), Fld.apart F.PWR_GEAR_gear f = true → Fld.apart F.PWR_GEAR_pending f = true → s.gearSync.gf f = s.gf f :=
    fun s f h1 h2 => (State.gf_pf_apart _ h2 0 _).trans (State.gf_pf_apart s h1 0 _)
  have hgo : ∀ (s : State) (f : Fld) c, Fld.apart F.PWR_GEAR_REQ_go f = true → (if c = true then s.pf F.PWR_GEAR_REQ_go 0 0 else s).gf f = s.gf f :=
    fun s f c h => by
      split
      · exact State.gf_pf_apart s h 0 0
      · rfl
  refine ⟨_, rfl, ?_, ?_, ?_, ?_⟩
  · rw [hsync _ _ (by decide) (by decide), hgo _ _ _ (by decide),
      State.gf_pf_apart _ (f := F.PWR_GEAR_REQ_go) (f' := F.PWR_GEAR_requested) (by decide), State.gf_pf_same _ _ _ _ (by decide) (by decide)]
    exact hmod
  · rw [hsync _ _ (by decide) (by decide), hgo _ _ _ (by decide),
      State.gf_pf_apart _ (f := F.PWR_GEAR_REQ_go) (f' := F.PWR_GEAR_REQ_gear) (by decide),
      State.gf_pf_apart _ (f := F.PWR_GEAR_requested) (f' := F.PWR_GEAR_REQ_gear) (by decide), State.gf_pf_same _ _ _ _ (by decide) (by decide)]
    exact hmod
  · split <;> rfl
  · split <;> rfl

/-! ### Reference clocks (R496) -/

/-- A port that loses its clock. -/
def State.portUnclocked (s : State) (p : Nat) : State :=
  (s.portOut p).when (s.gf F.PORT_STATUS_link_up p ≠ 0) (fun s => s.notice (portDie p) (portBlk p) 0)

theorem port_fltIdx {p : Nat} (hp : p < 24) : fltIdx (portDie p) (portBlk p) < 65536 :=
  fltIdx_lt (by unfold portDie; omega) (by unfold portBlk; omega)

theorem State.holdover_gf {f : Fld} (h : f.reg.ctorIdx ≠ Reg.TB_STATUS.ctorIdx) {j : Nat} (hj : j < 65536) : s.holdover.gf f j = s.gf f j := by
  unfold State.holdover
  split
  · rfl
  · rw [State.gf_pf_distinct _ F.TB_STATUS_locked f h (by decide) hj, State.gf_pf_distinct _ F.TB_STATUS_holdover f h (by decide) hj]

theorem State.ptpLost_gf {f : Fld} (h : f.reg.ctorIdx ≠ Reg.TB_STATUS.ctorIdx) {j : Nat} (hj : j < 65536) (p : Nat) :
    (s.ptpLost p).gf f j = s.gf f j :=
  State.when_keeps (π := fun s => s.gf f j) s (fun s => State.holdover_gf s h hj) _

/-- The links of a port that goes out are down. -/
theorem State.portOut_down {p : Nat} (hp : p < 24) : (s.portOut p).gf F.PORT_STATUS_link_up p = 0 := by
  unfold State.portOut State.retrainEnd
  dsimp only
  rw [State.ptpLost_gf _ (by decide) (by omega), State.gf_pf_apart _ (f := F.PORT_CTRL_retrain) (f' := F.PORT_STATUS_link_up) (by decide),
    State.gf_pf_apart _ (f := F.PORT_STATUS_retraining) (f' := F.PORT_STATUS_link_up) (by decide), State.gf_pf_same _ _ _ _ (by decide) (by decide)]
  rfl

/-- Another port's links stay as they are. -/
theorem State.portOut_otherPort {p q : Nat} (hp : p < 24) (hq : q < 24) (hpq : p ≠ q) :
    (s.portOut q).gf F.PORT_STATUS_link_up p = s.gf F.PORT_STATUS_link_up p := by
  have hkey : ∀ (s : State) (f : Fld) v, (s.pf f q v).gf F.PORT_STATUS_link_up p = s.gf F.PORT_STATUS_link_up p := fun s f v =>
    State.gf_pf_reg s (by unfold Reg.key; omega) v
  have hdowns : ∀ (l : List Nat) (s : State), (∀ k ∈ l, k < 8) →
      (s.each l fun k s => s.bump .LINK_LINK_DOWNS (linkNo q k)).gf F.PORT_STATUS_link_up p = s.gf F.PORT_STATUS_link_up p := by
    intro l
    induction l with
    | nil => exact fun _ _ => rfl
    | cons k l ih =>
      intro s h
      have hk := h k List.mem_cons_self
      exact (ih _ fun m hm => h m (List.mem_cons_of_mem _ hm)).trans
        (State.gf_bump_distinct s (by decide) (by unfold linkNo; omega) (by omega) 1)
  unfold State.portOut State.retrainEnd
  dsimp only
  rw [State.ptpLost_gf _ (by decide) (by omega), hkey, hkey, hkey]
  exact hdowns _ s fun k hk => List.mem_range.mp (List.mem_filter.mp hk).1

theorem State.portUnclocked_gf {p q : Nat} (hp : p < 24) (hq : q < 24) :
    (s.portUnclocked q).gf F.PORT_STATUS_link_up p = if p = q then 0 else s.gf F.PORT_STATUS_link_up p := by
  refine (State.when_keeps (π := fun s => s.gf F.PORT_STATUS_link_up p) _
    (fun s => State.fltReport_gf s (by decide) (port_fltIdx hq) (by omega) 0) _).trans ?_
  split
  next h => subst h; exact State.portOut_down s hp
  next h => exact State.portOut_otherPort s hp hq h

theorem exec_refclkLoss_eth {n : Nat} (hn : n < 8) :
    exec (.refclkLoss (.eth n)) s = .next ((((s.portUnclocked (3 * n)).portUnclocked (3 * n + 1)).portUnclocked (3 * n + 2)).notice 10 4 4) := by
  have hexec : exec (.refclkLoss (.eth n)) s = execRefclkLoss (.eth n) s := rfl
  rw [hexec, execRefclkLoss, if_neg (by omega)]
  rfl

theorem exec_refclkLoss_pcie {r : Nat} (hr : r < 8) :
    exec (.refclkLoss (.pcie r)) s = .next ((s.each (List.range 4) (fun l s => s.pcieDown (linkIdx r l))).notice 10 4 4) := by
  have hexec : exec (.refclkLoss (.pcie r)) s = execRefclkLoss (.pcie r) s := rfl
  rw [hexec, execRefclkLoss, if_neg (by omega)]

/-- The time base is stepped forward to the true time, or slewed back to it. -/
theorem exec_refclkReturn (t : Word64) : ∃ s' : State, exec (.refclkReturn .sys t) s = .next s' ∧ s'.gf F.TB_STATUS_holdover = 0 ∧
    (s.now < t.toNat → s'.now = t.toNat) ∧ (t.toNat ≤ s.now → s'.now = s.now ∧ s'.time.slewRem = (s.now - t.toNat) * nsUnit) := by
  have hexec : exec (.refclkReturn .sys t) s = .next ((s.adjust ((t.toNat : Int) - s.now)).pf F.TB_STATUS_holdover 0 0) := rfl
  have hnow : ∀ s : State, (s.pf F.TB_STATUS_holdover 0 0).now = s.now := fun s => State.now_pf s (by decide) 0
  refine ⟨_, hexec, State.gf_pf_same _ _ _ _ (by decide) (by decide), fun h => ?_, fun h => ?_⟩
  · rw [hnow, (State.adjust_forward s (by omega)).1]
    have := t.isLt
    rw [Nat.mod_eq_of_lt (by omega)]
    omega
  · have hslew : (s.adjust ((t.toNat : Int) - s.now)).now = s.now ∧
        (s.adjust ((t.toNat : Int) - s.now)).time.slewRem = (-((t.toNat : Int) - s.now)).toNat * nsUnit := by
      rw [State.adjust, if_neg (by omega)]
      exact ⟨State.now_pf _ (by decide) _, rfl⟩
    refine ⟨(hnow _).trans hslew.1, hslew.2.trans ?_⟩
    congr 1
    omega

/-! ### Sleep (R29) -/

theorem exec_islandSleep {u : UnitId} (hthere : unitExists s u = true) (hin : unitIn s u = true) (hawake : unitAsleep s u = false)
    (hidle : unitBusy s u = false) :
    exec (.islandSleep u) s = .next (match u with
      | .tile t => if s.tileState t = 1 && (s.tile t).queued.isNone then s.pf F.TILE_STATUS_state t 3 else s
      | .nme st => if (s.rk? st).isSome || (s.nmeU st).sweep.isSome then s else { s with asleep := s.asleep ++ [u] }
      | .drl _ => { s with asleep := s.asleep ++ [u] }) := by
  have hexec : exec (.islandSleep u) s = execIslandSleep u s := rfl
  rw [hexec]
  unfold execIslandSleep
  rw [if_neg (by simp [hthere, hin, hawake, hidle])]
  cases u <;> rfl

/-- Settles O56: each measurement, request and clock event, and the sleep of each kind of unit. -/
theorem powerManagementCompletes : Obligations.PowerManagementCompletes := by
  refine ⟨fun s => ⟨fun mw mainMv auxMv haux hreset hmain hauxMv => ?_, fun i c hi haux hreset => ?_, fun gear hgear => exec_gearRequest s hgear,
    fun r hr => exec_refclkLoss_pcie s hr, fun n p hn hlo hhi => ?_, fun t => exec_refclkReturn s t⟩,
    fun s => ⟨fun t hen hin hst hlap hq => ?_, fun st hst hin hawake hsweep hrk => ?_, fun n hn hin hawake hidle => ?_,
      ⟨_, rfl, rfl, rfl, rfl⟩, ⟨_, rfl, rfl, rfl, rfl⟩⟩⟩
  · obtain ⟨avg, hrun⟩ := exec_powerSample mw mainMv auxMv haux hreset
    obtain ⟨hmw, hmem⟩ := State.sampled_kept s mw mainMv auxMv
    obtain ⟨h1, h2, h3⟩ := State.sampled_gf s mw hmain hauxMv
    refine ⟨_, hrun, ?_⟩
    split
    · refine ⟨(State.governor_gf _ (by decide) (by decide) (by decide) (by decide) avg).trans h1,
        (State.governor_gf _ (by decide) (by decide) (by decide) (by decide) avg).trans h2, ?_, ?_, ?_⟩
      · rw [State.gb, State.governor_gf _ (by decide) (by decide) (by decide) (by decide) avg]
        exact h3
      · refine Eq.trans ?_ hmw
        exact State.governor_keeps (π := fun s => s.pwr.samples) _
          (fun s => State.notice_keeps (π := fun s => s.pwr.samples) (fun _ _ _ _ _ _ _ => rfl) s ..)
          (fun _ => rfl) (fun _ _ => rfl) (fun _ _ _ _ => rfl) (fun _ _ _ => rfl) avg
      · refine Eq.trans ?_ hmem
        exact State.governor_keeps (π := State.mem) _ (fun s => State.notice_keeps memIndep.report s ..)
          (fun _ => rfl) (fun _ _ => rfl) (fun _ _ _ _ => rfl) (fun _ _ _ => rfl) avg
    · exact ⟨h1, h2, h3, hmw, hmem⟩
  · intro t hcold
    have hshown : (s.pf F.PWR_TEMP_centi_c i (uN 16 t)).gf F.PWR_TEMP_centi_c i = uN 16 t := by
      rw [State.gf_pf_same _ _ _ _ (by decide) (by decide)]
      exact Nat.mod_eq_of_lt (uN_lt 16 t)
    refine ⟨_, exec_tempSample rfl hi haux hreset hcold, ?_, ?_, fun hhot => ⟨?_, fun h32 hup => ?_⟩⟩
    · split
      · exact (State.throttled_gf _ hi (by omega) (by decide) (by decide) (by decide) (by decide)).trans hshown
      · exact (State.cooled_gf _ (by omega) (by decide)).trans hshown
    · split
      · exact State.throttled_mem _ i
      · exact State.cooled_mem _ i
    · rw [if_pos hhot]
      exact State.throttled_thermal _ i hi
    · rw [if_pos hhot, State.throttled_clock (s.pf F.PWR_TEMP_centi_c i (uN 16 t)) h32 hup,
        State.gf_pf_distinct s F.PWR_TEMP_centi_c F.PWR_TILE_CLK_mhz (by decide) (by omega) (by omega)]
  · refine ⟨_, exec_refclkLoss_eth s hn, ?_⟩
    rw [State.notice, State.fltReport_gf _ (by decide) (by decide) (by omega), State.portUnclocked_gf _ (by omega) (by omega),
      State.portUnclocked_gf _ (by omega) (by omega), State.portUnclocked_gf _ (by omega) (by omega)]
    split_ifs
    · rfl
    · rfl
    · rfl
    · omega
  · rw [exec_islandSleep s (u := .tile t) hen hin (by simp [unitAsleep, hst]) (by simp [unitBusy, hlap])]
    exact congrArg Host.Outcome.next (if_pos (by simp [hst, hq]))
  · rw [exec_islandSleep s (u := .nme st) (by simpa [unitExists] using hst) hin (by simpa [unitAsleep] using hawake) (by simp [unitBusy, hsweep])]
    exact congrArg Host.Outcome.next (if_neg (by simp [hrk, hsweep]))
  · rw [exec_islandSleep s (u := .drl n) (by simpa [unitExists] using hn) (by simp [unitIn, hn, hin]) (by simpa [unitAsleep] using hawake)
      (by simp [unitBusy, hidle])]

end Sys2Proof.Machine

/-! PROOF. Interrupt files, peer requests, device entries and links of PCIe (R380, R388, R390 to R395). -/

namespace Sys2Proof.Machine

variable (s : State)

/-! ### Interrupt files and peer requests -/

theorem State.msiWrite_pending {s : State} {pa m f data : Nat} (hfile : msiFile pa = some (m, f, 0)) (hlo : 0 < data) (hhi : data ≤ 2047)
    (hphase : s.pcie.hcr.phase = 0) (hin : s.dieIn (8 + m) = true) :
    (m * 640 + f) * 2048 + data ∈ (s.msiWrite pa 4 data).pcie.imsic ∧ (s.msiWrite pa 4 data).mem = s.mem := by
  rw [State.msiWrite, hfile]
  dsimp only
  rw [if_neg (by simp [hphase, hin]; omega)]
  refine ⟨?_, rfl⟩
  show _ ∈ if _ then _ else _
  split
  next h => exact List.contains_iff_mem.mp h
  next => exact List.mem_cons_self

theorem State.peerEnd_read {m rid len : Nat} (status : Nat) (b : Bytes) (hback : peerGone s m rid = false) :
    s.peerEnd m rid (.read len) status b = s.emit (.peerCpl m rid status b) := by
  rw [State.peerEnd, State.when, if_pos (by simp [peerIsWrite, hback])]

theorem exec_peerRequest {m rid : Nat} (addr : Nat) (ideT : Bool) (op : PeerOp) (hm : m < 2) (hrid : rid < 65536) (hin : s.dieIn (8 + m) = true) :
    exec (.peerRequest m rid addr ideT op) s = .next (s.peer m rid addr ideT op) :=
  congrArg Host.Outcome.next (if_pos (by simp [hm, hrid, hin]))

/-- A read in partition 0 whose range is translated answers its bytes. -/
theorem State.peer_read {s s1 s2 s3 : State} {m rid addr len e : Nat} {ps : List (Nat × Nat × Nat × Nat)} {b : Bytes} (ideT : Bool)
    (hfirst : s.pcie.wait.any (fun w => w.1 = m && w.2.1 = rid && ordered w.2.2.2.2) = false) (hent : s.devEntry m rid = (.ok (some e), s1))
    (hpart : s1.gf F.TRANS_ATTR_part_id (bitsN e 6 1) = 0) (hxl : s1.xlRange (.iommu m) (bitsN e 6 1) addr len accLoad (8 + m) = (.ok ps, s2))
    (hread : s2.peerRead m ps = (.ok b, s3)) (hdue : s3.flt.due = []) (hback : peerGone s3 m rid = false) :
    s.peer m rid addr ideT (.read len) = s3.emit (.peerCpl m rid 0 b) := by
  have hdo : (s2.peerDo m rid (.read len) ps).settle = s3.emit (.peerCpl m rid 0 b) := by
    rw [State.peerDo, hread]
    dsimp only
    rw [State.peerEnd_read s3 0 b hback]
    exact State.settle_of_done hdue
 
  delta State.peer
  rw [if_neg (by simp [hfirst]), hent]
  dsimp only
  rw [hpart, if_neg (by simp), if_neg (by simp [peerIsWrite])]
  simp only [peerLen, if_true]
  rw [hxl]
  exact (if_neg (by simp [ordered])).trans hdo

theorem State.peerEnd_keeps {α : Type} {π : State → α} (hemit : ∀ (s : State) o, π (s.emit o) = π s) (m rid : Nat) (op : PeerOp) (status : Nat)
    (b : Bytes) : π (s.peerEnd m rid op status b) = π s :=
  State.when_keeps s (fun s => hemit s _) _

/-- The first failed check is held with its kind and requester. -/
theorem State.iommuFault_first {s : State} {m rid kind : Nat} (addr : Nat) (op : PeerOp) (hm : m < 2) (hrid : rid < 65536) (hkind : kind < 8)
    (hfirst : s.gb F.IOMMU_FAULT_first_fault m = false) :
    (s.iommuFault m rid addr kind op).gf F.IOMMU_FAULT_first_fault m = kind ∧ (s.iommuFault m rid addr kind op).gf F.IOMMU_FAULT_rid m = rid := by
  have hreport : ∀ (s : State) (f : Fld), f.unreported = true → f.reg.ctorIdx ≠ Reg.IOMMU_FAULT_COUNT.ctorIdx →
      (((s.bump .IOMMU_FAULT_COUNT m).notice (8 + m) 4 0).peerEnd m rid op 1 []).gf f m = s.gf f m := fun s f hf hc => by
    refine (State.peerEnd_keeps (π := fun s => s.gf f m) _ (fun _ _ => rfl) m rid op 1 []).trans ?_
    exact (State.fltReport_gf _ hf (fltIdx_lt (by omega) (by omega)) (by omega) 0).trans (State.gf_bump_distinct s hc (by omega) (by omega) 1)
  rw [State.iommuFault, if_neg (by simp [hfirst])]
  constructor
  · rw [hreport _ _ (by decide) (by decide), State.gf_pf_apart _ (f := F.IOMMU_FAULT_ADDR_addr) (f' := F.IOMMU_FAULT_first_fault) (by decide),
      State.gf_pf_apart _ (f := F.IOMMU_FAULT_rid) (f' := F.IOMMU_FAULT_first_fault) (by decide), State.pb,
      State.gf_pf_apart _ (f := F.IOMMU_FAULT_write) (f' := F.IOMMU_FAULT_first_fault) (by decide), State.gf_pf_same _ _ _ _ (by decide) (by decide)]
    exact Nat.mod_eq_of_lt hkind
  · rw [hreport _ _ (by decide) (by decide), State.gf_pf_apart _ (f := F.IOMMU_FAULT_ADDR_addr) (f' := F.IOMMU_FAULT_rid) (by decide),
      State.gf_pf_same _ _ _ _ (by decide) (by decide)]
    exact Nat.mod_eq_of_lt hrid

theorem State.iommuFault_mem (m rid addr kind : Nat) (op : PeerOp) : (s.iommuFault m rid addr kind op).mem = s.mem := by
  have hreport : ∀ s : State, (((s.bump .IOMMU_FAULT_COUNT m).notice (8 + m) 4 0).peerEnd m rid op 1 []).mem = s.mem := fun s =>
    (State.peerEnd_keeps (π := State.mem) _ (fun _ _ => rfl) m rid op 1 []).trans ((State.notice_keeps memIndep.report _ ..).trans
      (State.bump_keeps memIndep.report s ..))
  unfold State.iommuFault
  refine (hreport _).trans ?_
  split <;> rfl

theorem State.peer_noEntry {s s1 : State} {m rid : Nat} (addr : Nat) (ideT : Bool) (op : PeerOp)
    (hfirst : s.pcie.wait.any (fun w => w.1 = m && w.2.1 = rid && ordered w.2.2.2.2) = false) (hent : s.devEntry m rid = (.ok none, s1)) :
    s.peer m rid addr ideT op = s1.iommuFault m rid addr 5 op := by
  delta State.peer
  rw [if_neg (by simp [hfirst]), hent]

/-! ### Device entries -/

theorem exec_iommuDtInval {role : Role} {m : Nat} (v : Word32) (hm : m < 2) (hrole : s.mmioRole role = true)
    (hidle : s.gb F.IOMMU_DT_INVAL_go m = false) :
    exec (.iommuDtInval role m v) s = .next (s.wr .IOMMU_DT_INVAL m (v.toNat % 2 ^ 18)) := by
  have hexec : exec (.iommuDtInval role m v) s = execIommuDtInval role m v s := rfl
  rw [hexec, execIommuDtInval, if_neg (by simp [hrole, hidle]; omega)]

theorem exec_iommuDtInvalDone {m : Nat} (hm : m < 2) (hgo : s.gb F.IOMMU_DT_INVAL_go m = true) :
    exec (.iommuDtInvalDone m) s = .next ((s.onPcie fun p => { p with dtCache := p.dtCache.keep fun k _ =>
      k / 65536 ≠ m || !(s.gb F.IOMMU_DT_INVAL_all m || k % 65536 = s.gf F.IOMMU_DT_INVAL_rid m) }).pf F.IOMMU_DT_INVAL_go m 0) := by
  have hexec : exec (.iommuDtInvalDone m) s = execIommuDtInvalDone m s := rfl
  rw [hexec, execIommuDtInvalDone, if_neg (by simp [hgo]; omega)]

/-! ### Links (R388, R393 to R395) -/

/-- The link as its loss leaves it, before the DMA channels stop. -/
def State.linkDropped (s : State) (k : Nat) : State :=
  let s := if s.gb F.PCIE_LINK_recovery k then s else s.pcieAckSome k
  let lost := (s.pcie.links.atD k {}).replay ++ (s.pcie.links.atD k {}).queue
  let s := (s.setPLink k {}).when (lost ≠ []) (fun s => s.bump .PCIE_LOST k lost.length)
  ((s.wr .PCIE_LINK k 0).pf F.PCIE_LINK_down_event k 1).sealDrop (k / 16) (behindLink ((s.wr .PCIE_LINK k 0).pf F.PCIE_LINK_down_event k 1) k)

theorem State.pcieDown_up {k : Nat} (hup : s.gb F.PCIE_LINK_up k = true) : ∃ cnt : Nat × Nat → Nat,
    s.pcieDown k = ((s.linkDropped k).each (dmaOn (s.linkDropped k) k) (fun c s => s.dmaLost c.1 c.2 (cnt c))).notice (8 + k / 16) (16 + k % 16 / 4) 0 := by
  rw [State.pcieDown, if_neg (by simp [hup])]
  exact ⟨_, rfl⟩

theorem State.sealDrop_keeps {α : Type} {π : State → α} (hrun : ∀ (s : State) l, π (s.onPcie fun p => { p with run := l }) = π s)
    (hadm : ∀ (s : State) adm, π { s with sec := { s.sec with admitted := adm } } = π s)
    (hseal : ∀ (s : State) i, i < 65536 → π (s.wr .IOMMU_SEAL i 0) = π s) {m : Nat} (hm : m < 2) (rids : Nat → Bool) :
    π (s.sealDrop m rids) = π s := by
  have hlist : ∀ (l : List Nat) (s : State), (∀ i ∈ l, i < 64) → π (s.each l fun i s => s.wr .IOMMU_SEAL (64 * m + i) 0) = π s := by
    intro l
    induction l with
    | nil => exact fun _ _ => rfl
    | cons i l ih =>
      intro s h
      have hi := h i List.mem_cons_self
      exact (ih _ fun j hj => h j (List.mem_cons_of_mem _ hj)).trans (hseal s _ (by omega))
  unfold State.sealDrop
  dsimp only
  exact (hlist _ _ fun i hi => List.mem_range.mp (List.mem_filter.mp hi).1).trans ((hadm _ _).trans (hrun s _))

theorem State.linkDropped_spec {k : Nat} (hk : k < 32) : (s.linkDropped k).gb F.PCIE_LINK_up k = false ∧
    (s.linkDropped k).gf F.PCIE_LINK_down_event k = 1 ∧ (s.linkDropped k).pcie.links.atD k {} = {} := by
  have hdrop : ∀ (s : State) (f : Fld) rids, f.reg.ctorIdx ≠ Reg.IOMMU_SEAL.ctorIdx → (s.sealDrop (k / 16) rids).gf f k = s.gf f k := fun s f rids h =>
    State.sealDrop_keeps (π := fun s => s.gf f k) s (fun _ _ => rfl) (fun _ _ => rfl)
      (fun s i hi => State.gf_wr_distinct s h hi (by omega) 0) (by omega) rids
  unfold State.linkDropped
  dsimp only
  refine ⟨?_, ?_, ?_⟩
  · rw [State.gb, hdrop _ _ _ (by decide), State.gf_pf_apart _ (f := F.PCIE_LINK_down_event) (f' := F.PCIE_LINK_up) (by decide), State.gf,
      State.rdN_wr_same]
    rfl
  · rw [hdrop _ _ _ (by decide), State.gf_pf_same _ _ _ _ (by decide) (by decide)]
    rfl
  · refine (State.sealDrop_keeps (π := fun s => s.pcie.links.atD k {}) _ (fun _ _ => rfl) (fun _ _ => rfl) (fun _ _ _ => rfl) (by omega) _).trans ?_
    refine (State.when_keeps (π := fun s => s.pcie.links.atD k {}) _ 
      (fun s => State.bump_keeps (π := fun s => s.pcie.links.atD k {}) (fun _ _ _ _ _ _ _ => rfl) s ..) _).trans ?_
    exact Tab.atD_put_same ..

theorem pcieThere_lt {s : State} {r l : Nat} (h : pcieThere s r l = true) : linkIdx r l < 32 := by
  have hlinks : pcieLinks s r ≤ 4 := by
    unfold pcieLinks
    dsimp only
    split_ifs <;> omega
  simp only [pcieThere, Bool.and_eq_true, decide_eq_true_eq] at h
  unfold linkIdx
  omega

theorem exec_pcieRecoveryEnter {r l : Nat} (hthere : pcieThere s r l = true) (hup : s.gb F.PCIE_LINK_up (linkIdx r l) = true)
    (hrec : s.gb F.PCIE_LINK_recovery (linkIdx r l) = false) :
    exec (.pcieRecoveryEnter r l) s = .next ((s.pcieAckSome (linkIdx r l)).pf F.PCIE_LINK_recovery (linkIdx r l) 1) := by
  have hexec : exec (.pcieRecoveryEnter r l) s = execPcieRecoveryEnter r l s := rfl
  rw [hexec, execPcieRecoveryEnter, if_neg (by simp [hthere, hup, hrec])]

/-- The link as the end of its recovery leaves it: what was sent and what waits is sent again. -/
def State.linkRecovered (s : State) (k : Nat) : State :=
  (s.pf F.PCIE_LINK_recovery k 0).setPLink k { replay := (s.pcie.links.atD k {}).replay ++ (s.pcie.links.atD k {}).queue, queue := [] }

theorem exec_pcieRecoveryExit {r l : Nat} (hthere : pcieThere s r l = true) (hrec : s.gb F.PCIE_LINK_recovery (linkIdx r l) = true) :
    exec (.pcieRecoveryExit r l) s = .next ((s.linkRecovered (linkIdx r l)).each (dmaOn (s.linkRecovered (linkIdx r l)) (linkIdx r l))
      fun c s => s.dmaRun c.1 c.2 false) := by
  have hexec : exec (.pcieRecoveryExit r l) s = execPcieRecoveryExit r l s := rfl
  rw [hexec, execPcieRecoveryExit, if_neg (by simp [hthere, hrec])]
  rfl

theorem exec_pcieLinkUp {r l speed width : Nat} (flit cxl : Bool) (hthere : pcieThere s r l = true) (hdown : s.gb F.PCIE_LINK_up (linkIdx r l) = false)
    (hs0 : 0 < speed) (hs : speed ≤ 6) (hw0 : 0 < width) (hw : width ≤ 16 / pcieLinks s r) (hin : s.dieIn (8 + r / 4) = true) :
    exec (.pcieLinkUp r l speed width flit cxl) s = .next (((((s.pf F.PCIE_LINK_speed (linkIdx r l) speed).pf F.PCIE_LINK_width (linkIdx r l) width).pf
      F.PCIE_LINK_up (linkIdx r l) 1).pb F.PCIE_LINK_flit (linkIdx r l) flit).pb F.PCIE_LINK_cxl (linkIdx r l) cxl) := by
  have hexec : exec (.pcieLinkUp r l speed width flit cxl) s = execPcieLinkUp r l speed width flit cxl s := rfl
  rw [hexec, execPcieLinkUp]
  exact if_neg (by simp [hthere, hdown, hin]; omega)

/-- Settles O48: an MSI, the two ends of a peer request, the invalidation of device entries, and each change of a link. -/
theorem pcieCompletes : Obligations.PcieCompletes := by
  intro s m role
  refine ⟨fun pa f data hfile hlo hhi hphase hin => ⟨_, rfl, State.msiWrite_pending hfile hlo hhi hphase hin⟩,
    fun rid addr len e ps b ideT s1 s2 s3 hm hrid hin hfirst hent hpart hxl hread hdue hback => ?_,
    fun rid addr ideT op s1 hm hrid hin hfirst hent hclear => ?_, fun v hm hrole hidle => exec_iommuDtInval s v hm hrole hidle,
    fun hm hgo => ?_, fun r l hthere => ⟨fun hup hrec => ?_, fun hrec => ?_, fun hup => ?_, fun speed width flit cxl hdown hs0 hs hw0 hw hin => ?_⟩⟩
  · rw [exec_peerRequest s addr ideT (.read len) hm hrid hin, State.peer_read ideT hfirst hent hpart hxl hread hdue hback]
  · obtain ⟨hkind, hheld⟩ := State.iommuFault_first addr op hm hrid (by omega : 5 < 8) hclear
    refine ⟨_, (exec_peerRequest s addr ideT op hm hrid hin).trans (congrArg _ (State.peer_noEntry addr ideT op hfirst hent)), hkind, hheld, ?_⟩
    exact State.iommuFault_mem s1 m rid addr 5 op
  · refine ⟨_, exec_iommuDtInvalDone s hm hgo, State.gb_pf_zero _ _ _ (by decide) (by decide), rfl, fun hall r hr => ?_⟩
    have hkept := (List.mem_filter.mp hr).2
    simpa [hall] using hkept
  · exact ⟨_, exec_pcieRecoveryEnter s hthere hup hrec, State.gb_pf_one _ _ _ (by decide) (by decide)⟩
  · refine ⟨s.linkRecovered (linkIdx r l), State.gb_pf_zero s F.PCIE_LINK_recovery _ (by decide) (by decide), ?_, ?_, exec_pcieRecoveryExit s hthere hrec⟩
    · exact congrArg PLink.queue (Tab.atD_put_same ..)
    · exact congrArg PLink.replay (Tab.atD_put_same ..)
  · obtain ⟨cnt, hdown⟩ := State.pcieDown_up s hup
    obtain ⟨h1, h2, h3⟩ := State.linkDropped_spec s (pcieThere_lt hthere)
    have hexec : exec (.pcieLinkDown r l) s = .next (s.pcieDown (linkIdx r l)) := congrArg Host.Outcome.next (if_pos hthere)
    exact ⟨_, cnt, h1, h2, h3, hexec.trans (congrArg _ hdown)⟩
  · have hw16 : width ≤ 16 := hw.trans (Nat.div_le_self 16 _)
    refine ⟨_, exec_pcieLinkUp s flit cxl hthere hdown hs0 hs hw0 hw hin, ?_, ?_, ?_, ?_, rfl⟩
    · rw [State.pb, State.gb_pf_apart _ (f := F.PCIE_LINK_cxl) (f' := F.PCIE_LINK_up) (by decide), State.pb,
        State.gb_pf_apart _ (f := F.PCIE_LINK_flit) (f' := F.PCIE_LINK_up) (by decide)]
      exact State.gb_pf_one _ _ _ (by decide) (by decide)
    · rw [State.pb, State.gf_pf_apart _ (f := F.PCIE_LINK_cxl) (f' := F.PCIE_LINK_speed) (by decide), State.pb,
        State.gf_pf_apart _ (f := F.PCIE_LINK_flit) (f' := F.PCIE_LINK_speed) (by decide),
        State.gf_pf_apart _ (f := F.PCIE_LINK_up) (f' := F.PCIE_LINK_speed) (by decide),
        State.gf_pf_apart _ (f := F.PCIE_LINK_width) (f' := F.PCIE_LINK_speed) (by decide), State.gf_pf_same _ _ _ _ (by decide) (by decide)]
      exact Nat.mod_eq_of_lt (Nat.lt_of_le_of_lt hs (by decide))
    · rw [State.pb, State.gf_pf_apart _ (f := F.PCIE_LINK_cxl) (f' := F.PCIE_LINK_width) (by decide), State.pb,
        State.gf_pf_apart _ (f := F.PCIE_LINK_flit) (f' := F.PCIE_LINK_width) (by decide),
        State.gf_pf_apart _ (f := F.PCIE_LINK_up) (f' := F.PCIE_LINK_width) (by decide), State.gf_pf_same _ _ _ _ (by decide) (by decide)]
      exact Nat.mod_eq_of_lt (Nat.lt_of_le_of_lt hw16 (by decide))
    · cases cxl
      · exact State.gb_pf_zero _ _ _ (by decide) (by decide)
      · exact State.gb_pf_one _ _ _ (by decide) (by decide)

end Sys2Proof.Machine

/-! PROOF. Entries that start, collectives, and the messages, verdicts and route banks of the Derailleur (R297, R348 to R374). -/

namespace Sys2Proof.Machine

variable (s : State)

/-! ### An entry starts (R297) -/

theorem State.takeEntry_some {s s1 : State} {n st slot : Nat} {ent : Ent} (h : s.takeEntry n st slot = some (ent, s1)) :
    ∃ inGroup, Machine.nextEntry s n st = some (ent.pos, ent.entry, inGroup) := by
  unfold State.takeEntry at h
  split at h
  · cases h
  next pos e inGroup hnext =>
    obtain ⟨rfl, -⟩ := Prod.mk.inj (Option.some.inj h)
    exact ⟨inGroup, hnext⟩

/-- The place an entry's type starts in. -/
def startSlot (s : State) (n ty : Nat) : Nat :=
  match ty with
  | 5 => (freeWait s n).getD 0
  | _ => (freeSlot s n).getD 0

/-- The stream's entry of a type starts, and its command runs on the state that has taken it. -/
theorem State.startEntry_starts {s s1 : State} {n st ty : Nat} {ent : Ent} {types : Nat → Bool} (f : Ent → State → Option State)
    (h : s.starts n st ty (startSlot s n ty) ent s1) (htype : types ty = true) :
    s.startEntry n st types f = (f ent s1).getD (s.setStrm n st fun x => { x with waits := true }) := by
  obtain ⟨hpick, hty, htake⟩ := h
  obtain ⟨inGroup, hnext⟩ := State.takeEntry_some htake
  have hslot : s.takeEntry n st (match entType ent.entry with | 5 => (freeWait s n).getD 0 | _ => (freeSlot s n).getD 0) = some (ent, s1) := by
    rw [hty]
    exact htake
  delta State.startEntry
  rw [if_neg (not_not.mpr hpick), hnext]
  dsimp only
  rw [if_neg (by simp [hty, htype])]
  split
  next ent' s' heq =>
    obtain ⟨rfl, rfl⟩ := Prod.mk.inj (Option.some.inj (heq.symm.trans hslot))
    rfl
  next heq => exact absurd (heq.symm.trans hslot) (Option.some_ne_none _).symm

/-! ### Collectives (R348 to R356) -/

theorem State.collStart_runs {s s1 s2 s4 : State} {n st c op : Nat} {ent : Ent} {d : Bytes} (hop : op ≤ 9)
    (hstart : s.starts n st 4 ((freeSlot s n).getD 0) ent s1) (hcmpl : cmplBad ent.entry = false) (hin : s1.blkIn n 4 = true)
    (hcur : drlCurrent s1 n = true) (hon : drlOn s1 n = true)
    (hread : (s1.wake (.drl n)).vread (.drl n) (fieldB ent.entry 16 1 % 64) (fieldB ent.entry 8 8) 64 n = (.ok d, s2))
    (hdop : fieldB d 0 1 = op) (hdc : fieldB d 4 2 = c) (hc : c ≠ 0xFFFF) (hnew : s2.inst? n c = none)
    (hended : s2.drl.ended.at? (ik n c) ≠ some (s2.stepOf (s2.domainOf n))) (hroom : (instsOf s2 n).length < 16)
    (hsetup : let x : Inst := { stream := st, pos := ent.pos, desc := d, step := s2.stepOf (s2.domainOf n), gear := s2.gearOf n
                                bank := s2.gf F.DRL_RT_CTRL_active n, members := [(0xFFFF, n)] }
      Tx.instSetup n x ((s2.onDrl (fun g => { g with insts := g.insts.put (ik n c) x })).drlCount n) = (.ok (), s4)) :
    s.collStart n st op = s4.instTime n c := by
  subst hdc
  unfold State.collStart
  refine (State.startEntry_starts _ (ty := 4) hstart rfl).trans ?_
  dsimp only at hsetup ⊢
  rw [if_neg (by simp [hcmpl]), if_neg (by simp [hin, hcur]), if_neg (by simp [hon]), hread]
  dsimp only
  rw [if_neg (by simp [hdop, hc]; omega), if_neg (by simp [hdop, hnew]), if_neg hended, if_neg (by omega), hsetup]
  rfl

theorem State.instStage_fits {s : State} {n c : Nat} {x : Inst} (hx : s.inst? n c = some x) (hfit : stageFits s n x = true) :
    s.instStage n c = (((s.setInst n c fun x => { x with stage := 2 }).stageWaits n).instBegin n c).drlGo := by
  rw [State.instStage, hx]
  exact if_pos hfit

theorem State.instStage_waits {s : State} {n c : Nat} {x : Inst} (hx : s.inst? n c = some x) (hfit : stageFits s n x = false) :
    s.instStage n c = (s.setInst n c fun x => { x with stage := 1 }).stageWaits n := by
  rw [State.instStage, hx]
  exact if_neg (by simp [hfit])

theorem State.inst?_setInst {s : State} {n c : Nat} {x : Inst} (hx : s.inst? n c = some x) (f : Inst → Inst) :
    (s.setInst n c f).inst? n c = some (f x) := by
  have hx' : s.drl.insts.at? (ik n c) = some x := hx
  unfold State.setInst State.inst? State.onDrl
  dsimp only
  rw [hx']
  exact Tab.at_put_same ..

theorem exec_collStartInstant {n c : Nat} {x : Inst} (hx : s.inst? n c = some x) (hin : drlIn s n = true) (hst : x.stage = 0)
    (hnow : x.start ≤ s.dieTime n) : exec (.collStartInstant n c) s = .next (s.instStage n c) := by
  have hexec : exec (.collStartInstant n c) s = execCollStartInstant n c s := rfl
  rw [hexec, execCollStartInstant, hx]
  exact congrArg Host.Outcome.next (if_pos (by simp [hin, hst, hnow]))

theorem exec_stageReserve {n c : Nat} {x : Inst} (hx : s.inst? n c = some x) (hin : drlIn s n = true) (hst : x.stage = 1) :
    exec (.stageReserve n c) s = .next (s.instStage n c) := by
  have hexec : exec (.stageReserve n c) s = execStageReserve n c s := rfl
  rw [hexec, execStageReserve, hx]
  exact congrArg Host.Outcome.next (if_pos (by simp [hin, hst]))

/-- The command of each operation starts a COLL entry. -/
theorem exec_collective {n st op : Nat} {i : Instr} (h : (i, op) ∈ [(Instr.allReduce n st, 0), (.reduceScatter n st, 1), (.allGather n st, 2),
    (.allToAll n st, 3), (.dispatch n st, 4), (.combine n st, 5), (.gradDispatch n st, 6), (.gradCombine n st, 7), (.verdict n st, 8), (.digest n st, 9)]) :
    op ≤ 9 ∧ exec i s = .next (s.collStart n st op) := by
  simp only [List.mem_cons, List.not_mem_nil, or_false, Prod.mk.injEq] at h
  obtain ⟨rfl, rfl⟩ | ⟨rfl, rfl⟩ | ⟨rfl, rfl⟩ | ⟨rfl, rfl⟩ | ⟨rfl, rfl⟩ | ⟨rfl, rfl⟩ | ⟨rfl, rfl⟩ | ⟨rfl, rfl⟩ | ⟨rfl, rfl⟩ | ⟨rfl, rfl⟩ := h <;>
    exact ⟨by omega, rfl⟩

/-- Settles O46: the path of a COLL entry through its checks, and the two starts of an instance. -/
theorem collectivesStart : Obligations.CollectivesStart := by
  intro s n st c
  refine ⟨fun ent s1 d s2 s4 op hstart hcmpl hin hcur hon hread hdop hdc hc hnew hended hroom hsetup i hi => ?_,
    fun x hx hin => ⟨fun hfit => ⟨fun hst hnow => ?_, fun hst => ?_⟩, fun hfit hst hnow => ?_⟩⟩
  · obtain ⟨hop, hrun⟩ := exec_collective s hi
    rw [hrun, State.collStart_runs hop hstart hcmpl hin hcur hon hread hdop hdc hc hnew hended hroom hsetup]
  · rw [exec_collStartInstant s hx hin hst hnow, State.instStage_fits hx hfit]
  · rw [exec_stageReserve s hx hin hst, State.instStage_fits hx hfit]
  · refine ⟨_, { x with stage := 1 }, (exec_collStartInstant s hx hin hst hnow).trans (congrArg _ (State.instStage_waits hx hfit)), ?_, rfl, ?_⟩
    · exact State.inst?_setInst hx fun x => { x with stage := 1 }
    · unfold State.stageWaits State.setInst State.onDrl
      rfl

/-! ### Messages (R357, R372, R373) -/

/-- The command of each kind brings a message to the unit. -/
theorem exec_drlMsg {n kind : Nat} {m : DrlMsg} {i : Instr} (hn : n < 8)
    (h : (i, kind) ∈ [(Instr.drlCount n m none, 0), (.drlAllow n m none, 1), (.drlRow n m none, 2), (.drlPart n m none, 3),
      (.drlData n m none, 4), (.drlResult n m none, 5), (.drlEnd n m none, 6), (.drlAbort n m none, 7)]) :
    kind ≤ 7 ∧ exec i s = .next ((s.drlTake n kind m).2).drlGo := by
  have hmsg : ∀ kind, s.drlMsg n kind m none = ((s.drlTake n kind m).2).drlGo := fun kind => if_neg (by omega)
  simp only [List.mem_cons, List.not_mem_nil, or_false, Prod.mk.injEq] at h
  obtain ⟨rfl, rfl⟩ | ⟨rfl, rfl⟩ | ⟨rfl, rfl⟩ | ⟨rfl, rfl⟩ | ⟨rfl, rfl⟩ | ⟨rfl, rfl⟩ | ⟨rfl, rfl⟩ | ⟨rfl, rfl⟩ := h <;>
    exact ⟨by omega, congrArg Host.Outcome.next (hmsg _)⟩

theorem State.drlTake_on {s : State} {n kind : Nat} (m : DrlMsg) (hk : kind ≤ 7) (hon : drlOn s n = true) (hin : s.blkIn n 4 = true) :
    s.drlTake n kind m = match msgRuns (s.wake (.drl n)) n m with
      | some false => (true, (s.wake (.drl n)).drlBad n)
      | some true => match (s.wake (.drl n)).takeMsg n kind m with
        | some t => (true, t)
        | none => (false, s.wake (.drl n))
      | none =>
        if (s.drl.early.filter (fun r => r.1 = n && r.2.2.collId = m.collId && r.2.2.step = m.step && r.2.2.senderPos = m.senderPos)).length ≥ 2 then
          (false, s.wake (.drl n))
        else (true, (s.wake (.drl n)).onDrl fun d => { d with early := d.early ++ [(n, kind, m)] }) := by
  rw [State.drlTake, if_neg (by simp [hon, hin]; omega)]
  rfl

theorem exec_drlTimeout {n c : Nat} {x : Inst} (hn : n < 8) (hx : s.inst? n c = some x) (hst : x.stage = 2) :
    exec (.drlTimeout n c) s = .next ((s.instFail n c 0x82).drlGo) := by
  have hexec : exec (.drlTimeout n c) s = execDrlTimeout n c s := rfl
  rw [hexec, execDrlTimeout, hx]
  exact congrArg Host.Outcome.next (if_pos (by simp [hn, hst]))

theorem State.takeMsg_misfit {s : State} {n kind : Nat} {m : DrlMsg} {x : Inst} (hx : s.inst? n m.collId = some x) (hq : x.count ≤ m.senderPos) :
    s.takeMsg n kind m = some (s.drlBad n) := by
  delta State.takeMsg
  dsimp only
  rw [hx]
  exact if_pos (by simp [hq])

theorem State.takeMsg_abort {s : State} {n : Nat} {m : DrlMsg} {x : Inst} (hx : s.inst? n m.collId = some x) (hq : m.senderPos < x.count) :
    s.takeMsg n 7 m = some (s.instFail n m.collId 0x81) := by
  delta State.takeMsg
  dsimp only
  rw [hx]
  exact (if_neg (by simp [hq, fits])).trans (if_pos rfl)

theorem State.takeMsg_header {s : State} {n kind : Nat} {m : DrlMsg} {x : Inst} (hx : s.inst? n m.collId = some x) (hq : m.senderPos < x.count)
    (hk : kind < 7) (hfit : fits x kind m.seg = true) (hbad : headerBad x m.hdr = true) :
    s.takeMsg n kind m = some (s.instFail n m.collId 0x83) := by
  delta State.takeMsg
  dsimp only
  rw [hx]
  exact (if_neg (by simp [hq, hfit])).trans ((if_neg (by omega)).trans (if_pos hbad))

/-! ### The verdict between dies (R359) -/

theorem exec_verdictTerm {n k : Nat} {t : VTerm} (hfind : s.drl.termNet.find? (fun t => t.to' = n && t.from' = k) = some t) (hin : s.blkIn n 4 = true)
    (hruns : msgRuns s n { collId := t.coll, step := t.step } = some true) :
    exec (.verdictTerm n k) s = .next (((((s.onDrl fun d => { d with termNet := d.termNet.filter (· != t) }).setInst n t.coll fun x => { x with
      terms := if x.terms.any (·.1 = k) then x.terms else x.terms ++ [(k, t.q, t.qv, t.nf)] }).verdictMerge n t.coll)).drlGo) := by
  have hexec : exec (.verdictTerm n k) s = execVerdictTerm n k s := rfl
  rw [hexec]
  unfold execVerdictTerm
  rw [hfind]
  dsimp only
  rw [if_neg (by simp [hin]), hruns]

/-- The verdict as a die that takes it holds it, before its instance ends. -/
def State.verdictHeld (s : State) (n : Nat) (r : VRes) : State :=
  let s := s.onDrl (fun d => { d with resNet := execVerdictResult.takeFirstOut r d.resNet })
  let s := (s.setInst n r.coll (fun x => { x with nf := r.nf, qs := [(0, r.qv, r.q)] })).verdictHeard (s.domainOf n) r.nf
  (s.onDrl (fun d => { d with norms := d.norms.del n })).pf F.DRL_STATUS_step_nf n 0

theorem exec_verdictResult {n : Nat} {r : VRes} {x : Inst} (hfind : s.drl.resNet.find? (fun r => r.to' = n) = some r) (hx : s.inst? n r.coll = some x)
    (hstep : x.step = r.step) (hop : x.op = 8) (hok : r.status = 0) :
    exec (.verdictResult n) s = .next (((s.verdictHeld n r).instEnd n r.coll 0 0).drlGo) := by
  have hx' : (s.onDrl fun d => { d with resNet := execVerdictResult.takeFirstOut r d.resNet }).inst? n r.coll = some x := hx
  have hexec : exec (.verdictResult n) s = execVerdictResult n s := rfl
  rw [hexec]
  unfold execVerdictResult
  rw [hfind]
  dsimp only
  rw [hx']
  dsimp only
  rw [if_neg (by simp [hstep, hop]), if_neg (by simp [hok])]
  rfl

/-! ### Enabling and route banks (R364, R374) -/

theorem exec_drlEnable {role : Role} {n : Nat} (v : Word32) (hn : n < 8) (hrole : s.mayWriteDom role (s.domainOf n) = true)
    (hareas : drlAreasOk s n = true) :
    exec (.drlEnable role n v) s = .next ((s.pf F.DRL_CTRL_enable n (v.toNat % 2)).pf F.DRL_CTRL_timeout n (max 1 (bitsN v.toNat 15 8))) := by
  have hexec : exec (.drlEnable role n v) s = execDrlEnable role n v s := rfl
  rw [hexec, execDrlEnable]
  exact (if_neg (by simp [hrole]; omega)).trans (if_neg (by simp [hareas]))

theorem exec_routeWindowWrite {role : Role} {n i off : Nat} (v : Word64) (hn : n < 8) (hrole : s.mayWriteDom role (s.domainOf n) = true)
    (hi : i < 16384) (halign : off % 8 = 0) (hoff : off + 8 ≤ 32) :
    exec (.routeWindowWrite role n false i off 8 v) s =
      if s.gb F.DRL_RT_CTRL_commit n then .next (s.pf F.DRL_STATUS_rt_write_refused n 1)
      else .next (s.onDrl fun d => { d with
        routes := d.routes.put (routeKey n (shadowBank s n) i)
          (setFieldB (sliceB (d.routes.atD (routeKey n (shadowBank s n) i) []) 0 32) off 8 v.toNat) }) := by
  have hexec : exec (.routeWindowWrite role n false i off 8 v) s = execRouteWindowWrite role n false i off 8 v s := rfl
  rw [hexec, execRouteWindowWrite]
  exact if_neg (by simp [hrole, halign]; omega)

theorem exec_routeSaveDone {n : Nat} (hn : n < 8) (hcommit : s.gb F.DRL_RT_CTRL_commit n = true) (hsaved : n ∉ s.drl.saved) (hin : s.blkIn n 4 = true) :
    exec (.routeSaveDone n) s = .next ((s.physWrite (s.gf F.DRL_RT_SAVE_pa n * 2 ^ 20 + shadowBank s n * 2 ^ 20) (bankImage s n (shadowBank s n))).onDrl
      fun d => { d with saved := d.saved ++ [n] }) := by
  have hexec : exec (.routeSaveDone n) s = execRouteSaveDone n s := rfl
  rw [hexec, execRouteSaveDone]
  exact if_neg (by simp [hcommit, hsaved, hin]; omega)

/-- Settles O47: each fate of a message at the unit and at its instance, the verdict's two messages, and the unit's registers. -/
theorem derailleurMessagesComplete : Obligations.DerailleurMessagesComplete := by
  refine ⟨fun s n m hn hon hin => ⟨fun i kind hi => ?_, fun c x hx hst => exec_drlTimeout s hn hx hst⟩,
    fun s n kind m x hx => ⟨fun hq => State.takeMsg_abort hx hq, fun hq hk hfit hbad => State.takeMsg_header hx hq hk hfit hbad,
      fun hq => State.takeMsg_misfit hx hq⟩,
    fun s n k role => ⟨fun t hfind hin hruns => ?_, fun r x hfind hx hstep hop hok => ?_, fun v hn hrole hareas => ?_,
      fun i off v hn hrole hi halign hoff => ?_, fun hn hrole => ?_, fun hn hcommit hsaved hin => ?_⟩⟩
  · obtain ⟨hk, hrun⟩ := exec_drlMsg s hn hi
    refine ⟨fun t hruns htake => ?_, fun hruns hfew => ?_, fun hruns => ?_⟩
    · rw [hrun, State.drlTake_on m hk hon hin, hruns, htake]
    · rw [hrun, State.drlTake_on m hk hon hin, hruns]
      dsimp only
      rw [if_neg (by omega)]
    · rw [hrun, State.drlTake_on m hk hon hin, hruns]
  · refine ⟨_, fun hmem => ?_, ?_, exec_verdictTerm s hfind hin hruns⟩
    · have hnet : ∀ (s : State) f, (s.setInst n t.coll f).drl.termNet = s.drl.termNet := fun s f => by
        unfold State.setInst State.onDrl
        dsimp only
        split <;> rfl
      rw [hnet] at hmem
      simpa using (List.mem_filter.mp hmem).2
    · rfl
  · refine ⟨s.verdictHeld n r, State.gb_pf_zero _ _ _ (by decide) (by decide), Tab.at_del_same .., exec_verdictResult s hfind hx hstep hop hok⟩
  · refine ⟨_, exec_drlEnable s v hn hrole hareas, ?_, ?_, rfl⟩
    · rw [State.gf_pf_apart _ (f := F.DRL_CTRL_timeout) (f' := F.DRL_CTRL_enable) (by decide), State.gf_pf_same _ _ _ _ (by decide) (by decide)]
      exact Nat.mod_mod ..
    · have hbits : bitsN v.toNat 15 8 < 256 := Nat.mod_lt _ (by decide)
      rw [State.gf_pf_same _ _ _ _ (by decide) (by decide)]
      exact Nat.mod_eq_of_lt (by show _ < 256; omega)
  · rw [exec_routeWindowWrite s v hn hrole hi halign hoff]
    exact ⟨fun hopen => ⟨_, if_neg (by simp [hopen]), rfl, rfl⟩, fun hcommit => if_pos hcommit⟩
  · exact ⟨_, congrArg Host.Outcome.next (if_pos (by simp [hn, hrole])), State.gb_pf_one _ _ _ (by decide) (by decide), rfl, rfl⟩
  · have hmem : ∀ (s : State) f, (s.onDrl f).mem = s.mem := fun _ _ => rfl
    exact ⟨_, exec_routeSaveDone s hn hcommit hsaved hin, List.mem_append_right _ List.mem_cons_self, hmem _ _⟩

end Sys2Proof.Machine

/-! PROOF. Streams and the entries of their rings (R292 to R308). -/

namespace Sys2Proof.Machine

variable (s : State)

/-! ### The record of a stream -/

@[simp] theorem State.strm_setStrm (n st : Nat) (f : Strm → Strm) : (s.setStrm n st f).strm n st = f (s.strm n st) :=
  Tab.atD_put_same ..

@[simp] theorem State.strm_wr (r : Reg) (i v n st : Nat) : (s.wr r i v).strm n st = s.strm n st := rfl
@[simp] theorem State.strm_pf (f : Fld) (i v n st : Nat) : (s.pf f i v).strm n st = s.strm n st := rfl

theorem State.strmOn_setStrm (n st : Nat) (f : Strm → Strm) : strmOn (s.setStrm n st f) n st = strmOn s n st := rfl

/-! ### Enabling and disabling (R316, R317) -/

theorem State.unwatch_keeps {α : Type} {π : State → α} (h : ∀ s a line, π (State.dropCopy s a line) = π s) (n line : Nat) :
    π (s.unwatch n line) = π s := by
  unfold State.unwatch
  split
  · rfl
  · exact h s ..

theorem State.releaseWatch_on (n st : Nat) : strmOn (s.releaseWatch n st) n st = strmOn s n st := by
  have harmed : strmOn ((s.setStrm n st fun x => { x with watch := none, fresh := false }).pf F.SEQ_STREAM_STATUS_armed (sk n st) 0) n st
      = strmOn s n st := State.gb_pf_apart _ (by decide) ..
  unfold State.releaseWatch
  dsimp only
  split
  · exact (State.unwatch_keeps (π := fun s => strmOn s n st) _ (fun _ _ _ => rfl) n _).trans harmed
  · exact harmed

theorem State.releaseWatch_fetched (n st : Nat) : ((s.releaseWatch n st).strm n st).fetched = (s.strm n st).fetched := by
  have hset : (((s.setStrm n st fun x => { x with watch := none, fresh := false }).pf F.SEQ_STREAM_STATUS_armed (sk n st) 0).strm n st).fetched
      = (s.strm n st).fetched := by rw [State.strm_pf, State.strm_setStrm]
  unfold State.releaseWatch
  dsimp only
  split
  · exact (State.unwatch_keeps (π := fun s => (s.strm n st).fetched) _ (fun _ _ _ => rfl) n _).trans hset
  · exact hset

theorem exec_streamDisable {s : State} {role : Role} {n st : Nat} (hn : n < 8) (hst : st < 64)
    (hrole : s.mayWriteStream role n st (strmCtx s n st) = true) (hon : strmOn s n st = true) :
    ∃ s', exec (.streamDisable role n st) s = .next s' ∧ strmOn s' n st = false ∧ (s'.strm n st).fetched = [] := by
  let s1 := s.each (s.strm n st).fetched fun p s' => s'.finish n st p.1 p.2 []
    { status := St.cancelled, tStart := s'.dieTime n, tEnd := s'.dieTime n }
  let s2 := (s1.pf F.SEQ_STREAM_CTRL_enable (sk n st) 0).setStrm n st fun x => { x with fetched := [], opening := false, limit := x.head }
  have hoff : strmOn s2 n st = false := State.gb_pf_zero s1 _ _ (by decide) (by decide)
  have hfetched : (s2.strm n st).fetched = [] := congrArg Strm.fetched (State.strm_setStrm _ n st _)
  have hexec : exec (.streamDisable role n st) s =
      .next (if s2.seq.ents.any (fun e => e.die = n && e.stream = st) then s2 else s2.releaseWatch n st) := by
    have hx : exec (.streamDisable role n st) s = execStreamDisable role n st s := rfl
    rw [hx]
    exact if_neg (by simp [hrole, hon]; omega)
  refine ⟨_, hexec, ?_⟩
  split
  · exact ⟨hoff, hfetched⟩
  · exact ⟨(State.releaseWatch_on s2 n st).trans hoff, (State.releaseWatch_fetched s2 n st).trans hfetched⟩

/-- The fields of SEQ_STREAM_CTRL but enable, as a write leaves them (R317). -/
def State.strmFields (s : State) (i : Nat) (v : Word32) : State :=
  ((((s.pf F.SEQ_STREAM_CTRL_ctx i (bitsN v.toNat 6 1)).pf F.SEQ_STREAM_CTRL_step_bound i (bitsN v.toNat 7 7)).pf
    F.SEQ_STREAM_CTRL_halt_on_error i (bitsN v.toNat 8 8)).pf F.SEQ_STREAM_CTRL_priority i (bitsN v.toNat 10 9)).pf
    F.SEQ_STREAM_CTRL_ring_log2 i (max 6 (min 20 (bitsN v.toNat 15 11)))

theorem State.strmFields_ctx (i : Nat) (v : Word32) : (s.strmFields i v).gf F.SEQ_STREAM_CTRL_ctx i = bitsN v.toNat 6 1 := by
  unfold State.strmFields
  rw [State.gf_pf_apart _ (by decide), State.gf_pf_apart _ (by decide), State.gf_pf_apart _ (by decide), State.gf_pf_apart _ (by decide),
    State.gf_pf_same _ _ _ _ (by decide) (by decide)]
  exact Nat.mod_eq_of_lt (bitsN_lt _ 6 1)

theorem State.strmFields_priority (i : Nat) (v : Word32) : (s.strmFields i v).gf F.SEQ_STREAM_CTRL_priority i = bitsN v.toNat 10 9 := by
  unfold State.strmFields
  rw [State.gf_pf_apart _ (by decide), State.gf_pf_same _ _ _ _ (by decide) (by decide)]
  exact Nat.mod_eq_of_lt (bitsN_lt _ 10 9)

theorem State.strmFields_ring (i : Nat) (v : Word32) :
    (s.strmFields i v).gf F.SEQ_STREAM_CTRL_ring_log2 i = max 6 (min 20 (bitsN v.toNat 15 11)) := by
  unfold State.strmFields
  rw [State.gf_pf_same _ _ _ _ (by decide) (by decide)]
  exact Nat.mod_eq_of_lt (Nat.lt_of_le_of_lt (by omega : _ ≤ 20) (by decide))

theorem exec_streamEnable {s : State} {role : Role} {n st : Nat} {v : Word32} (hn : n < 8) (hst : st < 64)
    (hrole : s.mayWriteStream role n st (bitsN v.toNat 6 1) = true) (hoff : strmOn s n st = false) :
    exec (.streamEnable role n st v) s = .next (if bitN v.toNat 0 then
      ((s.strmFields (sk n st) v).pf F.SEQ_STREAM_CTRL_enable (sk n st) 1).streamOpen n st else s.strmFields (sk n st) v) := by
  have hexec : exec (.streamEnable role n st v) s = execStreamEnable role n st v s := rfl
  rw [hexec, execStreamEnable, if_neg (by simp [hrole]; omega), if_neg (by simp [hoff])]
  rfl

theorem exec_haltClear {s : State} {role : Role} {n st : Nat} (hn : n < 8) (hst : st < 64)
    (hrole : s.mayWriteStream role n st (strmCtx s n st) = true) (hhalted : strmHalted s n st = true) (hstuck : (s.strm n st).stuck = false) :
    exec (.haltClear role n st) s = .next (s.pf F.SEQ_STREAM_STATUS_halted (sk n st) 0) := by
  have hsame : (s.pf F.SEQ_STREAM_STATUS_halted (sk n st) 0).strm n st = s.strm n st := rfl
  have hexec : exec (.haltClear role n st) s = execHaltClear role n st s := rfl
  rw [hexec, execHaltClear, if_neg (by simp [hrole, hhalted]; omega)]
  dsimp only
  rw [hsame, if_neg (by simp [hstuck])]

theorem exec_entryFetch {s s1 : State} {n st : Nat} {b : Bytes} (hn : n < 8) (hst : st < 64) (hup : seqUp s n = true)
    (hon : strmOn s n st = true) (hrun : strmHalted s n st = false) (htail : (s.strm n st).head < (s.strm n st).limit)
    (hroom : (s.strm n st).fetched.length < 16)
    (hread : s.vread (.seq n) (strmCtx s n st) ((s.strm n st).ring + (s.strm n st).head % strmSlots s n st * 64) 64 n = (.ok b, s1)) :
    exec (.entryFetch n st) s =
      .next (((s1.setStrm n st fun x => { x with fetched := x.fetched ++ [(x.head, b)], head := x.head + 1 }).wr .SEQ_STREAM_HEAD (sk n st)
        ((s.strm n st).head + 1)).scbPut n st 72 ((s.strm n st).head + 1)) := by
  have hexec : exec (.entryFetch n st) s = execEntryFetch n st s := rfl
  rw [hexec, execEntryFetch]
  dsimp only
  rw [if_neg (by simp [hup, hon, hrun]; omega), hread]

/-! ### NOP and JOB entries (R296 to R303) -/

theorem exec_nopEntry {s s1 : State} {n st : Nat} {ent : Ent} (h : s.starts n st 0 ((freeSlot s n).getD 0) ent s1)
    (hcmpl : cmplBad ent.entry = false) : exec (.nopEntry n st) s = .next (s1.endEnt ent 0 0 0) := by
  have hexec : exec (.nopEntry n st) s = execNopEntry n st s := rfl
  rw [hexec]
  refine congrArg Host.Outcome.next ((State.startEntry_starts _ (ty := 0) h rfl).trans ?_)
  rw [if_neg (by simp [hcmpl])]
  rfl

/-- The job an entry starts as (R298, R299). -/
def jobOf (s : State) (n st : Nat) (ent : Ent) (rs : List Bytes) : Job :=
  { stream := st, pos := ent.pos, entry := ent.entry, order := s.seq.nextOrder, round := ent.round, inGroup := ent.inGroup
    tiles := (tset n ent.entry).filter (usable s), reconv := rs, tStart := s.dieTime n }

theorem exec_jobEntryStart {s s1 s2 : State} {n st : Nat} {ent : Ent} {rs : List Bytes} (h : s.starts n st 1 ((freeSlot s n).getD 0) ent s1)
    (hgood : jobBad s1 ent.entry = false) (huse : (tset n ent.entry).any (usable s1) = true) (hpin : pinAbsent s1 n ent.entry = false)
    (htable : s1.reconvTable n ent.entry = (.ok rs, s2)) :
    exec (.jobEntryStart n st) s =
      .next ((s2.setJob n ent.slot (jobOf s2 n st ent rs)).onSeq fun q => { q with nextOrder := q.nextOrder + 1 }) := by
  have hexec : exec (.jobEntryStart n st) s = execJobEntryStart n st s := rfl
  rw [hexec]
  refine congrArg Host.Outcome.next ((State.startEntry_starts _ (ty := 1) h rfl).trans ?_)
  dsimp only
  rw [if_neg (by simp [hgood]), if_neg (by simp [huse, hpin]), htable]
  rfl

theorem State.job?_setJob (n j : Nat) (x : Job) : (s.setJob n j x).job? n j = some x := Tab.at_put_same ..

/-! ### Micro-batch groups (R304, R305) -/

theorem MbGroup.append_keeps (g : MbGroup) (tokens : Nat) :
    (g.append tokens).jobs = g.jobs ∧ (g.append tokens).maxRounds = g.maxRounds := by
  unfold MbGroup.append
  split <;> exact ⟨rfl, rfl⟩

theorem MbGroup.append_rounds (g : MbGroup) (tokens : Nat) (h : g.rounds ≤ g.maxRounds) :
    (g.append tokens).rounds = min (g.rounds + 1) g.maxRounds := by
  unfold MbGroup.append
  split
  next hfull => exact (show g.rounds = g.maxRounds by omega).trans (Nat.min_eq_right (by omega)).symm
  next hroom => exact (Nat.min_eq_left (Nat.le_of_not_gt hroom)).symm

theorem MbGroup.append_sched (g : MbGroup) (tokens : Nat) (h : g.sched.length = g.rounds) :
    (g.append tokens).sched.length = (g.append tokens).rounds := by
  unfold MbGroup.append
  split
  · exact h
  · simp [h]

/-- Each overflow reported adds a round, up to the group's limit. -/
theorem MbGroup.appended (rep : List Nat) (g : MbGroup) (h : g.rounds ≤ g.maxRounds) (hs : g.sched.length = g.rounds) :
    (rep.foldl MbGroup.append g).jobs = g.jobs ∧ (rep.foldl MbGroup.append g).rounds = min (g.rounds + rep.length) g.maxRounds ∧
      (rep.foldl MbGroup.append g).sched.length = (rep.foldl MbGroup.append g).rounds := by
  induction rep generalizing g with
  | nil => exact ⟨rfl, (Nat.min_eq_left h).symm, hs⟩
  | cons tokens rep ih =>
    obtain ⟨hjobs, hmax⟩ := g.append_keeps tokens
    have hrounds := g.append_rounds tokens h
    obtain ⟨ihj, ihr, ihs⟩ := ih (g.append tokens) (by omega) (g.append_sched tokens hs)
    refine ⟨ihj.trans hjobs, ?_, ihs⟩
    rw [List.foldl_cons, ihr, hmax, hrounds, List.length_cons]
    omega

/-- The group an MB_BEGIN entry opens for R rounds, before the overflows reported are added (R304). -/
def mbGroupOf (ent : Ent) (jobs : List (Nat × Bytes)) (R maxR : Nat) : MbGroup :=
  { pos := ent.pos, entry := ent.entry, jobs := jobs, rounds := min R maxR, maxRounds := maxR
    sched := if bitN (fieldB ent.entry 19 1) 0 then (List.range (min R maxR)).reverse else List.range (min R maxR)
    exceeded := R > maxR, tStart := ent.tStart }

theorem mbGroupOf_sched (ent : Ent) (jobs : List (Nat × Bytes)) (R maxR : Nat) :
    (mbGroupOf ent jobs R maxR).sched.length = (mbGroupOf ent jobs R maxR).rounds := by
  unfold mbGroupOf
  dsimp only
  split <;> simp

/-- The rounds of a forward group before the overflows reported. -/
def forwardRounds (s : State) (e : Bytes) : Nat :=
  ceilDiv (fieldB e 8 4) (max (if fieldB e 12 4 = 0 then s.odN 0x8020 1 else fieldB e 12 4) 1)

theorem exec_mbBegin {s s1 : State} {n st : Nat} {ent : Ent} (h : s.starts n st 2 ((freeSlot s n).getD 0) ent s1)
    (hk : 0 < fieldB ent.entry 18 1) (hk' : fieldB ent.entry 18 1 ≤ 15) (hmax : 0 < fieldB ent.entry 16 2) (hcmpl : cmplBad ent.entry = false)
    (hjobs : ((s1.strm n st).fetched.take (fieldB ent.entry 18 1)).any (fun p => entType p.2 ≠ 1) = false)
    (hfrom : fieldB ent.entry 24 8 = 0) {g : MbGroup}
    (hg : g = (s1.strm n st).report.foldl MbGroup.append (mbGroupOf ent ((s1.strm n st).fetched.take (fieldB ent.entry 18 1))
      (forwardRounds s1 ent.entry) (fieldB ent.entry 16 2))) (hsched : g.sched ≠ []) :
    exec (.mbBegin n st) s =
      .next ((s1.setStrm n st fun x => { x with fetched := x.fetched.drop (fieldB ent.entry 18 1), report := [] }).setStrm n st
        fun x => { x with group := some g }) := by
  have hexec : exec (.mbBegin n st) s = execMbBegin n st s := rfl
  rw [hexec]
  refine congrArg Host.Outcome.next ((State.startEntry_starts _ (ty := 2) h rfl).trans ?_)
  dsimp only
  rw [if_neg (by simp only [hcmpl, hjobs]; simp; omega), if_neg (not_not.mpr hfrom)]
  subst hg
  simp only [hfrom, if_true]
  exact congrArg (fun o => Option.getD o _) (congrArg some (if_neg hsched))

theorem exec_mbRoundStart {s : State} {n m r : Nat} {rest : List Nat} {e : Ent} {g : MbGroup}
    (hfind : s.seq.ents.find? (fun e => e.die = n && entType e.entry = 2 && e.slot = m) = some e) (hgroup : (s.strm n e.stream).group = some g)
    (hrun : g.running = false) (hsched : g.sched = r :: rest) (hup : seqUp s n = true) (hheld : seqHeld s n = false) :
    exec (.mbRoundStart n m) s =
      .next (s.setStrm n e.stream fun x => { x with group := some { g with running := true, cur := r, sched := rest, toStart := g.jobs } }) := by
  have hexec : exec (.mbRoundStart n m) s = execMbRoundStart n m s := rfl
  rw [hexec, execMbRoundStart, hfind]
  dsimp only
  rw [hgroup]
  dsimp only
  rw [hsched]
  dsimp only
  rw [if_neg (by simp [hrun, hup, hheld])]

/-! ### WAIT entries (R308) -/

/-- The started entry notes the line its watch is on. -/
def State.entLine (s : State) (n st pos line : Nat) : State :=
  s.onSeq fun q => { q with ents := q.ents.map fun x => if x.die = n && x.stream = st && x.pos = pos then { x with line := line } else x }

/-- What a WAIT does when its line is shared, or not yet. -/
def State.waitLook (s : State) (n : Nat) (ent : Ent) (pa key : Nat) (ok : Bool) : State :=
  if ok then
    if waitMet ent.entry (s.cohRead key pa 8) then s.endWait { ent with line := lineOf pa } 0 else s.waitSaw ent (leVal (s.cohRead key pa 8))
  else s.homeReq { kind := .watch, agent := agentSeq n, line := lineOf pa, key := key }

theorem exec_waitEntry {s s1 s2 s4 : State} {n st pa key : Nat} {ok : Bool} {ent : Ent} (h : s.starts n st 5 ((freeWait s n).getD 0) ent s1)
    (hcond : fieldB ent.entry 24 1 ≤ 1) (halign : fieldB ent.entry 8 8 % 8 = 0) (hcmpl : cmplBad ent.entry = false)
    (hwatch : s1.watchTarget (.seq n) (fieldB ent.entry 25 1 % 64) (fieldB ent.entry 8 8) n = (.ok (pa, key), s2))
    (hgood : s2.lineBad (lineOf pa) = false)
    (hshare : (s2.entLine n st ent.pos (lineOf pa)).shareNow (agentSeq n) (lineOf pa) key true = (ok, s4)) :
    exec (.waitEntry n st) s = .next (s4.waitLook n ent pa key ok) := by
  unfold State.entLine at hshare
  have hexec : exec (.waitEntry n st) s = execWaitEntry n st s := rfl
  have hwhen : s1.when (decide (fieldB ent.entry 24 1 > 1)) (fun s => s.pf F.SEQ_STATUS_reserved_encoding n 1) = s1 := by
    rw [State.when, if_neg (by simp; omega)]
  rw [hexec]
  refine congrArg Host.Outcome.next ((State.startEntry_starts _ (ty := 5) h rfl).trans ?_)
  dsimp only
  rw [if_neg (by simp [halign, hcmpl]), hwhen, hwatch]
  dsimp only
  rw [if_neg (by simp [hgood]), hshare]
  cases ok <;> rfl

theorem exec_waitTimeout {s : State} {n w : Nat} {e : Ent}
    (hfind : s.seq.ents.find? (fun e => e.die = n && entType e.entry = 5 && e.slot = w) = some e) (htime : fieldB e.entry 28 4 ≠ 0) :
    exec (.waitTimeout n w) s = .next (s.endWait e St.timeout) := by
  have hexec : exec (.waitTimeout n w) s = execWaitTimeout n w s := rfl
  rw [hexec, execWaitTimeout, hfind]
  exact if_neg htime

/-- Settles O34: each command takes the branch its premises choose; the rounds of a micro-batch group are counted along the list of overflows
reported. -/
theorem streamsComplete : Obligations.StreamsComplete := by
  intro s n st role hn hst
  refine ⟨?enable, ?disable, ?halt, ?fetch, ?nop, ?job, ?mb, ?round, ?wait, ?timeout⟩
  case enable =>
    intro v hrole hoff
    exact ⟨s.strmFields (sk n st) v, State.strmFields_ctx s .., State.strmFields_priority s .., State.strmFields_ring s .., rfl,
      exec_streamEnable hn hst hrole hoff⟩
  case disable => exact exec_streamDisable hn hst
  case halt =>
    intro hrole hhalted hstuck
    exact ⟨_, exec_haltClear hn hst hrole hhalted hstuck, State.gb_pf_zero s _ _ (by decide) (by decide), rfl⟩
  case fetch =>
    intro b s1 hup hon hrun htail hroom hread
    exact ⟨_, by rw [State.strm_wr, State.strm_setStrm], by rw [State.strm_wr, State.strm_setStrm],
      exec_entryFetch hn hst hup hon hrun htail hroom hread⟩
  case nop => exact fun ent s1 => exec_nopEntry
  case job =>
    intro ent s1 rs s2 h hgood huse hpin htable
    exact ⟨_, jobOf s2 n st ent rs, exec_jobEntryStart h hgood huse hpin htable, State.job?_setJob s2 .., rfl, rfl, rfl, rfl, rfl⟩
  case mb =>
    intro ent s1 h e k B R hk hk' hmax hcmpl hjobs hfrom hR
    obtain ⟨happended, hrounds, hsched⟩ := MbGroup.appended (s1.strm n st).report (mbGroupOf ent ((s1.strm n st).fetched.take k)
      (forwardRounds s1 e) (fieldB e 16 2)) (Nat.min_le_right ..) (mbGroupOf_sched ..)
    have hmin : min (min (forwardRounds s1 e) (fieldB e 16 2) + (s1.strm n st).report.length) (fieldB e 16 2) = min R (fieldB e 16 2) := by
      have hR' : R = forwardRounds s1 e + (s1.strm n st).report.length := rfl
      omega
    replace hrounds := hrounds.trans hmin
    refine ⟨_, _, exec_mbBegin h hk hk' hmax hcmpl hjobs hfrom rfl ?_, congrArg Strm.group (State.strm_setStrm _ n st _), hrounds, happended, ?_, ?_⟩
    · intro hnil
      rw [hnil, hrounds] at hsched
      have := hsched.symm
      simp only [List.length_nil] at this
      omega
    · simp only [State.strm_setStrm]
      rfl
    · simp only [State.strm_setStrm]
  case round => exact fun m e g r rest => exec_mbRoundStart
  case wait =>
    intro ent s1 s2 ok s4 pa key h hcond halign hcmpl hwatch hgood hshare
    have hexec := exec_waitEntry h hcond halign hcmpl hwatch hgood hshare
    refine ⟨?_, ?_, ?_⟩
    · rintro rfl
      exact hexec
    · rintro rfl hmet
      rw [hexec, State.waitLook, if_pos rfl, if_neg (by simp [hmet])]
    · rintro rfl hmet
      rw [hexec, State.waitLook, if_pos rfl, if_pos hmet]
  case timeout => exact fun w e => exec_waitTimeout

end Sys2Proof.Machine

/-! PROOF. Laps and jobs (R148, R186, R220, R247, R300 to R303, R309). -/

namespace Sys2Proof.Machine

variable (s : State)

theorem State.onJob_keeps {α : Type} {π : State → α} (h : ∀ (s : State) q, π { s with seq := q } = π s) {s : State} (n j : Nat) (f : Job → Job) :
    π (s.onJob n j f) = π s := by
  unfold State.onJob
  split
  · exact h ..
  · rfl

theorem State.setJob_mem (n j : Nat) (x : Job) : (s.setJob n j x).mem = s.mem := rfl
theorem State.onSeq_mem (f : SeqSt → SeqSt) : (s.onSeq f).mem = s.mem := rfl

/-! ### A lap is dispatched (R300, R311) -/

/-- The lap i of a job as the complex places it in a tile's queued slot (R300). -/
def lapSent (s : State) (t j : Nat) (x : Job) (i : Nat) (again : Bool) : Lap :=
  { die := tileDie t, job := j, index := i, round := x.round, ctx := x.ctx, code := fieldB x.entry 8 8
    args := (fieldB x.entry 16 8 + x.round * fieldB x.entry 32 4 + i * fieldB x.entry 28 4) % 2 ^ 64
    groups := min 64 (fieldB x.entry 2 1)
    panStack := (fieldB x.entry 5 1 + (if x.inGroup then x.round * x.laps else 0) + i) % 144
    seq := s.seq.nextLap, recompute := x.recompute, rerun := again }

/-- The job notes that the lap has gone to the tile. -/
def Job.sentTo (x : Job) (t : Nat) (again : Bool) : Job :=
  if again then { x with rerun := x.rerun.drop 1 } else { x with sent := x.sent.put t (x.sent.atD t 0 + 1) }

theorem exec_lapDispatch {s : State} {t j i : Nat} {x : Job} {again : Bool} (hin : s.tileIn t = true) (hup : seqUp s (tileDie t) = true)
    (hheld : seqHeld s (tileDie t) = false) (hcur : tileCurrent s t = true) (hfree : (s.tile t).queued = none)
    (hnext : (jobsOf s (tileDie t)).findSome? (fun p => (lapFor (tileDie t) p.2 t).map (fun l => (p.1, p.2, l.1, l.2))) = some (j, x, i, again))
    (hturn : again = true ∨ lapBefore s (tileDie t) x i = false) :
    exec (.lapDispatch t) s = .next (((((s.when (s.tileState t = 3) (fun s => s.pf F.TILE_STATUS_state t 1)).onSeq
      fun q => { q with nextLap := q.nextLap + 1 }).setJob (tileDie t) j (x.sentTo t again)).setTile t
      fun tl => { tl with queued := some (lapSent s t j x i again) })) := by
  have hexec : exec (.lapDispatch t) s = execLapDispatch t s := rfl
  rw [hexec, execLapDispatch, if_neg (by simp [hin, hup, hheld, hcur, hfree]), hnext]
  dsimp only
  rw [if_neg (by obtain rfl | h := hturn <;> simp [*])]
  rfl

/-! ### A lap starts (R148, R186, R247, R301) -/

/-- The tile with its queued lap started: every group stands at the code address with all threads active. -/
def Tile.started (tl : Tile) (l : Lap) : Tile :=
  { tl with
    lap := some l, queued := none, stopped := false, icache := [], slots := {}, watches := {}, acc := {}, accInt := []
    groups := ⟨(List.range l.groups).map fun g => (g, { pc := l.code, active := allMask })⟩ }

/-- The registers a lap starts with (R186, R200, R247). -/
def State.lapRegs (s : State) (t : Nat) (l : Lap) (mode : Nat) : State :=
  (((((((((((s.wr .TILE_NUM_CTRL t mode).wr .TILE_NUM_STATUS t 0).wr .TILE_ERR_PC t 0).wr .TILE_ERR_INFO t 0).wr .TILE_ERR_ADDR t 0).wr
    .TILE_ERR_AUX t 0).pf F.TILE_STATUS_state t 2).pf F.TILE_STATUS_groups_live t l.groups).pf F.PAN_INFO_held (pk l.die l.panStack) 1).pf
    F.PAN_INFO_holder (pk l.die l.panStack) t).bump64 .SEQ_LAPS l.die)

theorem State.lapRegs_keeps (t : Nat) (l : Lap) (mode t' : Nat) :
    (s.lapRegs t l mode).tile t' = s.tile t' ∧ (s.lapRegs t l mode).mem = s.mem := by
  unfold State.lapRegs State.bump64
  simp

section Started

variable {t : Nat} {l : Lap} (ht : t < 1152) (hn : l.die < 8) (hk : l.panStack < 144)
include ht hn hk

theorem State.lapRegs_gf {f : Fld} (hf : f.reg.ctorIdx ≠ Reg.PAN_INFO.ctorIdx) (hf' : f.reg.ctorIdx ≠ Reg.SEQ_LAPS.ctorIdx) (mode : Nat) :
    (s.lapRegs t l mode).gf f t = ((((((((s.wr .TILE_NUM_CTRL t mode).wr .TILE_NUM_STATUS t 0).wr .TILE_ERR_PC t 0).wr .TILE_ERR_INFO t 0).wr
      .TILE_ERR_ADDR t 0).wr .TILE_ERR_AUX t 0).pf F.TILE_STATUS_state t 2).pf F.TILE_STATUS_groups_live t l.groups).gf f t := by
  unfold State.lapRegs State.bump64 pk
  rw [State.gf_wr_distinct _ hf' (by omega) (by omega), State.gf_pf_distinct _ F.PAN_INFO_holder f hf (by omega) (by omega),
    State.gf_pf_distinct _ F.PAN_INFO_held f hf (by omega) (by omega)]

theorem State.lapRegs_state (mode : Nat) : (s.lapRegs t l mode).gf F.TILE_STATUS_state t = 2 := by
  rw [State.lapRegs_gf s ht hn hk (by decide) (by decide),
    State.gf_pf_apart _ (f := F.TILE_STATUS_groups_live) (f' := F.TILE_STATUS_state) (by decide),
    State.gf_pf_same _ _ _ _ (by decide) (by decide)]
  rfl

theorem State.lapRegs_groups (hgroups : l.groups ≤ 64) (mode : Nat) : (s.lapRegs t l mode).gf F.TILE_STATUS_groups_live t = l.groups := by
  rw [State.lapRegs_gf s ht hn hk (by decide) (by decide), State.gf_pf_same _ _ _ _ (by decide) (by decide)]
  exact Nat.mod_eq_of_lt (Nat.lt_of_le_of_lt hgroups (by decide))

theorem State.lapRegs_status (mode : Nat) : (s.lapRegs t l mode).gf F.TILE_ERR_INFO_status t = 0 := by
  rw [State.lapRegs_gf s ht hn hk (by decide) (by decide),
    State.gf_pf_apart _ (f := F.TILE_STATUS_groups_live) (f' := F.TILE_ERR_INFO_status) (by decide),
    State.gf_pf_apart _ (f := F.TILE_STATUS_state) (f' := F.TILE_ERR_INFO_status) (by decide),
    State.gf_wr_distinct _ (by decide) (by omega) (by omega), State.gf_wr_distinct _ (by decide) (by omega) (by omega), State.gf,
    State.rdN_wr_same]
  decide

omit ht in
theorem State.lapRegs_held (mode : Nat) : (s.lapRegs t l mode).gf F.PAN_INFO_held (pk l.die l.panStack) = 1 := by
  unfold State.lapRegs State.bump64
  rw [State.gf_wr_distinct _ (by decide) (by omega) (by unfold pk; omega),
    State.gf_pf_apart _ (f := F.PAN_INFO_holder) (f' := F.PAN_INFO_held) (by decide), State.gf_pf_same _ _ _ _ (by decide) (by decide)]
  rfl

end Started

theorem Tab.lookIn_map {α : Type} (v : α) {g : Nat} (l : List Nat) (h : g ∈ l) : Tab.lookIn g (l.map fun k => (k, v)) = some v := by
  induction l with
  | nil => cases h
  | cons k l ih =>
    by_cases hk : k = g
    · exact if_pos hk
    · exact (if_neg hk).trans (ih ((List.mem_cons.mp h).resolve_left (Ne.symm hk)))

theorem exec_lapStart {s : State} {t : Nat} {l : Lap} (hqueued : (s.tile t).queued = some l) (hidle : (s.tile t).lap = none)
    (hin : s.tileIn t = true) (hup : seqUp s l.die = true) (hheld : seqHeld s l.die = false) (hcur : tileCurrent s t = true)
    (hstack : stackFree s l = true) :
    ∃ f mode, exec (.lapStart t) s =
      .next ((((s.setTile t fun tl => tl.started { l with gear := s.gearOf l.die, step := s.stepOf (s.domainOf l.die) }).onJob l.die l.job f).lapRegs t
        { l with gear := s.gearOf l.die, step := s.stepOf (s.domainOf l.die) } mode)) := by
  have hexec : exec (.lapStart t) s = execLapStart t s := rfl
  rw [hexec, execLapStart, hqueued, hidle]
  dsimp only
  rw [if_neg (by simp [hin, hup, hheld, hcur, hstack])]
  exact ⟨_, _, rfl⟩

/-! ### A lap ends (R158, R302) -/

theorem State.lapClear_tile (t : Nat) :
    ((s.lapClear t).tile t).lap = none ∧ ((s.lapClear t).tile t).groups = {} ∧ ((s.lapClear t).tile t).stopped = false := by
  unfold State.lapClear
  simp only [State.tile_pf, State.tile_setTile, true_and]

theorem State.lapClear_state (t : Nat) : (s.lapClear t).gf F.TILE_STATUS_state t = 1 := by
  unfold State.lapClear
  rw [State.gf_pf_apart _ (f := F.TILE_STATUS_groups_live) (f' := F.TILE_STATUS_state) (by decide),
    State.gf_pf_same _ _ _ _ (by decide) (by decide)]
  rfl

theorem State.lapClear_groups (t : Nat) : (s.lapClear t).gf F.TILE_STATUS_groups_live t = 0 := by
  unfold State.lapClear
  rw [State.gf_pf_same _ _ _ _ (by decide) (by decide)]
  rfl

theorem exec_lapEnd {s : State} {t : Nat} {l : Lap} (hlap : (s.tile t).lap = some l) (hover : lapOver s t = true) :
    ∃ s1 : State, exec (.lapEnd t) s = .next (s1.lapClear t) := by
  have hexec : exec (.lapEnd t) s = execLapEnd t s := rfl
  rw [hexec, execLapEnd, hlap]
  dsimp only
  rw [if_neg (by simp [hover])]
  exact ⟨_, rfl⟩

/-- Settles O35: the chain of writes at a lap's start and end is followed register by register. -/
theorem lapsComplete : Obligations.LapsComplete := by
  intro s t
  refine ⟨?dispatch, ?start, ?ended⟩
  case dispatch =>
    intro j x i again hin hup hheld hcur hfree hnext hturn
    refine ⟨_, lapSent s t j x i again, exec_lapDispatch hin hup hheld hcur hfree hnext hturn, ?_, rfl, rfl, rfl, rfl, rfl, rfl, rfl, ?_⟩
    · rw [State.tile_setTile]
    · rw [State.setTile_mem, State.setJob_mem, State.onSeq_mem]
      exact State.when_keeps (π := State.mem) (f := fun s => s.pf F.TILE_STATUS_state t 1) s (fun s => rfl) _
  case start =>
    intro l hqueued hidle hin hup hheld hcur hstack hgroups hpan
    have ht : t < 1152 := by
      simp only [State.tileIn, State.enabled, Bool.and_eq_true, decide_eq_true_eq] at hin
      exact hin.1.1
    have hn : l.die < 8 := by
      simp only [seqUp, Bool.and_eq_true, decide_eq_true_eq] at hup
      exact hup.1
    obtain ⟨f, mode, hexec⟩ := exec_lapStart hqueued hidle hin hup hheld hcur hstack
    generalize hl' : { l with gear := s.gearOf l.die, step := s.stepOf (s.domainOf l.die) } = l' at hexec
    have hdie : l'.die = l.die := by rw [← hl']
    have hstk : l'.panStack = l.panStack := by rw [← hl']
    have hgr : l'.groups = l.groups := by rw [← hl']
    generalize hs1 : (s.setTile t fun tl => tl.started l').onJob l.die l.job f = s1 at hexec
    have htile : s1.tile t = (s.tile t).started l' := by
      rw [← hs1, State.onJob_keeps (π := fun s => s.tile t) (fun _ _ => rfl), State.tile_setTile]
    have hmem : s1.mem = s.mem := by
      rw [← hs1, State.onJob_keeps (π := State.mem) (fun _ _ => rfl)]
      rfl
    obtain ⟨htile', hmem'⟩ := State.lapRegs_keeps s1 t l' mode t
    rw [htile] at htile'
    refine ⟨_, l', hexec, congrArg Tile.queued htile', congrArg Tile.lap htile', by rw [← hl'], by rw [← hl'], fun g hg => ?_,
      State.lapRegs_state s1 ht (hdie ▸ hn) (hstk ▸ hpan) mode, hgr ▸ State.lapRegs_groups s1 ht (hdie ▸ hn) (hstk ▸ hpan) (hgr ▸ hgroups) mode,
      State.lapRegs_status s1 ht (hdie ▸ hn) (hstk ▸ hpan) mode, ?_, hmem'.trans hmem⟩
    · have hgroup : (s1.lapRegs t l' mode).group t g = { pc := l'.code, active := allMask } := by
        rw [State.group, htile']
        have hrow : ((s.tile t).started l').groups.at? g = some { pc := l'.code, active := allMask } :=
          Tab.lookIn_map _ _ (List.mem_range.mpr (hgr ▸ hg))
        rw [Tab.atD, hrow, Option.getD_some]
      rw [hgroup, ← hl']
      exact ⟨rfl, rfl, rfl⟩
    · rw [← hdie, ← hstk]
      exact State.lapRegs_held s1 (hdie ▸ hn) (hstk ▸ hpan) mode
  case ended =>
    intro l hlap hover
    obtain ⟨s1, hexec⟩ := exec_lapEnd hlap hover
    obtain ⟨hlap', hgroups, hstopped⟩ := State.lapClear_tile s1 t
    exact ⟨_, hexec, hlap', hgroups, hstopped, State.lapClear_state s1 t, State.lapClear_groups s1 t⟩

/-! ### Jobs (R220, R302, R303) -/

theorem State.onJob_eq {s : State} {n j : Nat} {x : Job} (hx : s.job? n j = some x) (f : Job → Job) : s.onJob n j f = s.setJob n j (f x) := by
  rw [State.onJob, hx]

theorem exec_jobLastLapEnd_off {s : State} {n j : Nat} {x : Job} (hx : s.job? n j = some x) (hphase : x.phase = 0) (hstatus : x.status = 0)
    (hlaps : x.laps ≤ x.ended) (hhands : x.hands = []) (hquiet : s.jobQuiet n j = true) (hoff : s.tableOn (s.domainOf n) = false) :
    exec (.jobLastLapEnd n j) s = .next (s.setJob n j { x with phase := x.nextPhase }) := by
  have hlocked : ∀ tid, s.entLocked (s.domainOf n) tid = false := fun tid => by simp [State.entLocked, hoff]
  have hexec : exec (.jobLastLapEnd n j) s = execJobLastLapEnd n j s := rfl
  rw [hexec, execJobLastLapEnd, hx]
  dsimp only
  rw [if_neg (by simp [hphase, hstatus, hlaps, hquiet, hlocked]), if_pos (by simp [State.each, hhands, hoff]), if_neg (by simp [hstatus]),
    if_neg (by simp [hstatus]), hhands]
  rfl

theorem exec_jobLastLapEnd_quiet {s : State} {n j : Nat} {x : Job} (hx : s.job? n j = some x) (hphase : x.phase = 0) (hstatus : x.status = 0)
    (hlaps : x.laps ≤ x.ended) (hhands : x.hands = []) (hrec : x.recompute = false) (hquiet : s.jobQuiet n j = true)
    (hon : s.tableOn (s.domainOf n) = true) (hlocked : x.produced.any (s.entLocked (s.domainOf n)) = false)
    (htrig : x.produced.filter (fun tid => s.triggers (s.domainOf n) x [] tid) = []) :
    exec (.jobLastLapEnd n j) s = .next (s.setJob n j { x with phase := 3 }) := by
  have hexec : exec (.jobLastLapEnd n j) s = execJobLastLapEnd n j s := rfl
  rw [hexec, execJobLastLapEnd, hx]
  dsimp only
  rw [if_neg (by simp only [hhands, List.map_nil, List.nil_append, hlocked]; simp [hphase, hstatus, hlaps, hquiet]), hhands,
    if_neg (by simp [State.each, hphase, hstatus, hon]; exact hrec)]
  exact if_pos htrig

theorem exec_reconversionDone_on {s s1 : State} {n j : Nat} {x : Job} {r : Bytes} {rest : List Bytes} {p : Nat × Nat × Nat} {cs : List Nat}
    (hx : s.job? n j = some x) (hphase : x.phase = 2) (htodo : x.todo = r :: rest) (hon : s.tableOn (s.domainOf n) = true)
    (hrows : x.drows.filter (fun p => p.1 = fieldB r 0 3) = [p])
    (hrun : s.reconvRun n x r (useScale (s.entRead (s.domainOf n) (fieldB r 0 3))) p.2.1 p.2.2 = (.ok cs, s1)) :
    exec (.reconversionDone n j) s = .next ((s1.vwrite (.seq n) x.ctx
      (((Config.openResult 0x74 (fieldB r 0 3)).toNat + 2 ^ 32 * (Config.openResult 0x75 (fieldB r 0 3)).toNat) % 2 ^ 47
        + p.2.1 * typeBits (fieldB r 3 1) / 8)
      (packElems (fieldB r 3 1) cs) n).2.onJob n j fun x => { x with todo := rest, phase := if rest = [] then 3 else 2 }) := by
  have hexec : exec (.reconversionDone n j) s = execReconversionDone n j s := rfl
  rw [hexec, execReconversionDone, hx]
  simp only [hphase, htodo]
  rw [if_pos hon, hrows, List.foldl_cons, hrun]
  rfl

theorem exec_reconversionDone_off {s : State} {n j : Nat} {x : Job} {r : Bytes} {rest : List Bytes} (hx : s.job? n j = some x)
    (hphase : x.phase = 2) (htodo : x.todo = r :: rest) (hoff : s.tableOn (s.domainOf n) = false) :
    exec (.reconversionDone n j) s = .next (s.setJob n j { x with todo := rest, phase := if rest = [] then 3 else 2 }) := by
  have hexec : exec (.reconversionDone n j) s = execReconversionDone n j s := rfl
  rw [hexec, execReconversionDone, hx]
  simp only [hphase, htodo]
  rw [if_neg (by simp [hoff]), List.foldl_nil, State.onJob_eq hx]

/-- The state with the job's stacks released and its slot free (R251, R313). -/
def State.jobGone (s : State) (n j : Nat) (x : Job) : State :=
  (s.panRelease n x.popped).onSeq fun q => { q with jobs := q.jobs.del (jobKey n j) }

theorem State.jobGone_none (n j : Nat) (x : Job) : (s.jobGone n j x).job? n j = none := Tab.at_del_same ..

theorem State.jobGone_ents (n j : Nat) (x : Job) : (s.jobGone n j x).seq.ents = s.seq.ents := by
  have hpan : (s.panRelease n x.popped).seq = s.seq := by
    unfold State.panRelease
    exact State.each_keeps (π := State.seq) s (fun _ _ => by rfl) _
  have hdel : (s.jobGone n j x).seq.ents = (s.panRelease n x.popped).seq.ents := rfl
  rw [hdel, hpan]

/-- The completion record of a job (R302, R313). -/
def jobRecord (s : State) (n : Nat) (x : Job) : CRec :=
  { status := x.status, flags := flOr (x.lapFlags.rows.foldl (fun f r => flOr f r.2) 0 % 128) (if x.extra then 128 else 0)
    lapsDone := x.clean, failTile := x.failTile, failLap := x.failLap, failAddr := x.failAddr, unacked := x.unacked, tEnd := s.dieTime n }

theorem exec_jobComplete {s : State} {n j : Nat} {x : Job} {e : Ent} (hx : s.job? n j = some x) (hphase : x.phase = 3)
    (hquiet : s.jobQuiet n j = true) (hfind : s.seq.ents.find? (fun e => e.die = n && e.stream = x.stream && e.pos = x.pos) = some e) :
    exec (.jobComplete n j) s = .next ((s.jobGone n j x).endJobEnt e x.used (jobRecord (s.jobGone n j x) n x)) := by
  have hexec : exec (.jobComplete n j) s = execJobComplete n j s := rfl
  rw [← State.jobGone_ents s n j x] at hfind
  rw [hexec, execJobComplete, hx]
  dsimp only
  rw [if_neg (by simp [hphase, hquiet])]
  unfold State.jobGone at hfind ⊢
  rw [hfind]
  rfl

theorem exec_stepEnd_unswept {s s1 : State} {n st : Nat} {ent : Ent} (h : s.starts n st 6 ((freeSlot s n).getD 0) ent s1)
    (hcmpl : cmplBad ent.entry = false) (hnone : fieldB ent.entry 8 8 = 0) :
    exec (.stepEnd n st) s = .next (s1.onSeq fun q => { q with ents := q.ents.map fun x =>
      if x.die = ent.die && x.stream = ent.stream && x.pos = ent.pos then { x with swept := some 0 } else x }) := by
  have hexec : exec (.stepEnd n st) s = execStepEnd n st s := rfl
  rw [hexec]
  refine congrArg Host.Outcome.next ((State.startEntry_starts _ (ty := 6) h rfl).trans ?_)
  rw [if_neg (by simp [hcmpl]), if_pos hnone]
  rfl

/-- Settles O36: each command takes the branch its premises choose. -/
theorem jobsComplete : Obligations.JobsComplete := by
  intro s n j x hx
  refine ⟨?unscaled, ?scaled, ?reconv, ?complete, ?stepEnd⟩
  case unscaled =>
    intro hphase hstatus hlaps hhands hquiet hoff
    exact ⟨_, exec_jobLastLapEnd_off hx hphase hstatus hlaps hhands hquiet hoff, State.job?_setJob s .., rfl⟩
  case scaled => exact exec_jobLastLapEnd_quiet hx
  case reconv =>
    intro r rest hphase htodo
    exact ⟨fun p cs s1 => exec_reconversionDone_on hx hphase htodo, exec_reconversionDone_off hx hphase htodo⟩
  case complete =>
    intro e hphase hquiet hfind
    exact ⟨_, _, State.jobGone_none s n j x, rfl, rfl, rfl, exec_jobComplete hx hphase hquiet hfind⟩
  case stepEnd => exact fun st ent s1 => exec_stepEnd_unswept

end Sys2Proof.Machine

/-! PROOF. Slot bindings and folds (R159, R212 to R219), and the Pannier (R246 to R260). -/

namespace Sys2Proof.Machine

variable (s : State)

/-! ### Bindings (R159, R212) -/

theorem State.numReserved_keeps {α : Type} {π : State → α} (h : ReportIndep π) (d : Nat) (c : Bool) : π (s.numReserved d c) = π s :=
  State.when_keeps s (fun _ => (State.notice_keeps h ..).trans (State.pf_keeps h ..)) c

theorem exec_sbindComplete_off {s : State} {t k : Nat} (hopen : (s.slot t (k % 16)).complete = false) (hlap : (s.tile t).lap.isSome = true)
    (hoff : s.tableOn (s.domainOf (tileDie t)) = false) :
    exec (.sbindComplete t k) s = .next (s.setSlot t (k % 16) fun x => { tid := x.tid, complete := true, bound := true }) := by
  have hexec : exec (.sbindComplete t k) s = execSbindComplete t k s := rfl
  rw [hexec, execSbindComplete]
  dsimp only
  rw [if_neg (by simp [hopen, Option.isSome_iff_ne_none.mp hlap]), if_pos (by simp [hoff])]

theorem State.setSlot_mem (t k : Nat) (f : Slot → Slot) : (s.setSlot t k f).mem = s.mem := rfl

/-- The slot of a binding that is performed with entry e (R208, R220, R222). -/
def Slot.boundTo (x : Slot) (e : Bytes) (l : Lap) : Slot :=
  { x with
    complete := true, bound := true, cold := entCold e && !l.recompute
    scale := if (entCold e && !l.recompute) then 0x3F800000 else useScale e
    aged := entAge e ≠ 0 && !l.recompute, cls := entCls e, noShadow := bitN (entPolicy e) 1 || l.recompute, record := sliceB e 64 128 }

theorem exec_sbindComplete_on {s : State} {t k d pa : Nat} {e : Bytes} (hd : d = s.domainOf (tileDie t))
    (hpa : pa = s.entPa d (s.slot t (k % 16)).tid) (he : e = s.entRead d (s.slot t (k % 16)).tid)
    (hopen : (s.slot t (k % 16)).complete = false) (hlap : (s.tile t).lap.isSome = true) (hon : s.tableOn d = true)
    (hdue : (s.num.foldDue.atD d []).any (·.stack = hbmStack s.hbmMode pa) = false) (hlocked : s.pageLocked pa = false)
    (hregion : s.region pa = .hbm) (hgood : s.physBad pa 256 = none) :
    exec (.sbindComplete t k) s =
      .next ((s.numReserved d (entReserved e || scaleBad e)).setSlot t (k % 16) fun x => x.boundTo e (s.lapOf t)) := by
  subst hd hpa he
  have hexec : exec (.sbindComplete t k) s = execSbindComplete t k s := rfl
  rw [hexec, execSbindComplete]
  dsimp only
  rw [if_neg (by simp [hopen, Option.isSome_iff_ne_none.mp hlap]), if_neg (by simp [hon]), if_neg (by simp only [hdue]; decide),
    if_neg (by simp [hlocked]), if_neg (by simp [hregion]), hgood]
  rfl

/-! ### Folds (R215, R218, R219) -/

theorem State.domainOf_of_regs {s s' : State} (h : ∀ d < 16, s'.gf F.STEP_CTRL_c_die_mask d = s.gf F.STEP_CTRL_c_die_mask d) (n : Nat) :
    s'.domainOf n = s.domainOf n := by
  unfold State.domainOf
  rw [List.find?_congr fun d hd => by rw [h d (List.mem_range.mp hd)]]

theorem State.domainDies_of_regs {s s' : State} (h : ∀ d < 16, s'.gf F.STEP_CTRL_c_die_mask d = s.gf F.STEP_CTRL_c_die_mask d) (d : Nat) :
    s'.domainDies d = s.domainDies d := by
  unfold State.domainDies
  simp only [State.domainOf_of_regs h]

theorem exec_validationFold {s : State} {role : Role} {d : Nat} (hd : d < 16) (hrole : s.mayWriteDom role d = true)
    (hoff : s.tableOn d = false) (hfits : tableFits s d = true) :
    exec (.validationFold role d) s = .next ((s.pf F.NUM_TABLE_BASE_enable d 1).startFold d false true) := by
  have hexec : exec (.validationFold role d) s = execValidationFold role d s := rfl
  rw [hexec, execValidationFold, if_neg (by simp [hrole, hoff, hfits]; omega)]

/-- A fold that starts is due on every NME of the domain, behind those still due. -/
theorem State.startFold_due {d : Nat} (skipped validation : Bool) (hon : s.tableOn d = true) :
    (s.startFold d skipped validation).tableOn d = true ∧ (s.startFold d skipped validation).num.foldDue.atD d [] =
      s.num.foldDue.atD d [] ++ (s.domainDies d).flatMap fun n => [⟨2 * n, skipped, validation⟩, ⟨2 * n + 1, skipped, validation⟩] := by
  unfold State.startFold
  dsimp only
  split
  next hnone =>
    have hnil : ((s.domainDies d).flatMap fun n => ([⟨2 * n, skipped, validation⟩, ⟨2 * n + 1, skipped, validation⟩] : List FoldDue)) = [] := by
      simpa [hon] using hnone
    rw [hnil, List.append_nil]
    exact ⟨hon, rfl⟩
  next =>
    refine ⟨?_, Tab.atD_put_same ..⟩
    rw [State.tableOn, State.gb_pf_apart _ (f := F.NUM_STATUS_fold_busy) (f' := F.NUM_TABLE_BASE_enable) (by decide)]
    exact hon

theorem exec_fold {s : State} {st d : Nat} {f : FoldDue} (hfind : (s.num.foldDue.atD d []).find? (fun f => f.stack = st) = some f)
    (hin : s.blkState (stackDie st) (8 + st % 2) = 0) (hfree : s.nme.locked = []) :
    ∃ s1 : State, exec (.fold st d) s =
      .next ((({ s1 with num := { s1.num with foldDue := s1.num.foldDue.put d ((s.num.foldDue.atD d []).erase f) } } : State).when
        ((s.num.foldDue.atD d []).erase f = []) fun s => s.pf F.NUM_STATUS_fold_busy d 0)) := by
  have hlocked : ∀ i, s.entLocked d i = false := fun i => by simp [State.entLocked, State.pageLocked, hfree]
  have hexec : exec (.fold st d) s = execFold st d s := rfl
  rw [hexec, execFold]
  dsimp only
  rw [hfind]
  dsimp only
  rw [if_neg (by simp [hin]), if_neg (by simp [hlocked])]
  exact ⟨_, rfl⟩

/-- Settles O37: the registers and the list of due folds are followed through each command. -/
theorem scalingCompletes : Obligations.ScalingCompletes := by
  intro s t k st d role
  refine ⟨?bind, ?enable, ?fold⟩
  case bind =>
    intro sl pa d hopen hlap
    refine ⟨exec_sbindComplete_off hopen hlap, fun hon hdue hlocked hregion hgood => ?_⟩
    refine ⟨_, exec_sbindComplete_on (d := d) (pa := pa) rfl rfl rfl hopen hlap hon hdue hlocked hregion hgood, ?_⟩
    rw [State.slot_setSlot]
    exact ⟨rfl, rfl, rfl, (State.setSlot_mem ..).trans <| State.numReserved_keeps (π := State.mem) s (fun _ _ _ _ _ _ _ => rfl) ..⟩
  case enable =>
    intro hd hrole hoff hfits
    obtain ⟨hon, hdue⟩ := State.startFold_due (s.pf F.NUM_TABLE_BASE_enable d 1) false true (State.gb_pf_one s _ _ (by decide) (by decide))
    rw [State.domainDies_of_regs (fun d' hd' => State.gf_pf_distinct s F.NUM_TABLE_BASE_enable F.STEP_CTRL_c_die_mask (by decide) (by omega) (by omega) 1) d] at hdue
    exact ⟨_, exec_validationFold hd hrole hoff hfits, hon, hdue⟩
  case fold =>
    intro f hfind hin hfree
    obtain ⟨s1, hexec⟩ := exec_fold hfind hin hfree
    refine ⟨_, hexec, ?_, fun hlast => ?_⟩
    · rw [State.when_keeps (π := fun s => s.num.foldDue.atD d []) (f := fun s => s.pf F.NUM_STATUS_fold_busy d 0) _ (fun _ => rfl) _]
      exact Tab.atD_put_same ..
    · rw [State.when, if_pos (by simp [hlast])]
      exact (State.gf_pf_same _ _ _ _ (by decide) (by decide))

/-! ### The Pannier's registers -/

theorem State.gf_pf_elsewhere {f f' : Fld} {i j : Nat} (h : f'.reg.ctorIdx ≠ f.reg.ctorIdx ∨ j ≠ i) (hi : i < 65536) (hj : j < 65536) (v : Nat) :
    (s.pf f i v).gf f' j = s.gf f' j :=
  State.gf_pf_reg s (by unfold Reg.key; omega) v

theorem panSet_top (n k top fin bottom frames : Nat) :
    panTop (panSet s n k top fin bottom frames) n k = top % 2 ^ (F.PAN_TOP_top.hi + 1 - F.PAN_TOP_top.lo) := by
  unfold panTop panSet
  rw [State.gf_pf_apart _ (f := F.PAN_INFO_frames) (f' := F.PAN_TOP_top) (by decide),
    State.gf_pf_apart _ (f := F.PAN_BOTTOM_bottom) (f' := F.PAN_TOP_top) (by decide),
    State.gf_pf_apart _ (f := F.PAN_END_end) (f' := F.PAN_TOP_top) (by decide), State.gf_pf_same _ _ _ _ (by decide) (by decide)]

theorem panSet_zero (n k : Nat) : panTop (panSet s n k 0 0 0 0) n k = 0 ∧ panEnd (panSet s n k 0 0 0 0) n k = 0 ∧
    panBottom (panSet s n k 0 0 0 0) n k = 0 ∧ panFrames (panSet s n k 0 0 0 0) n k = 0 := by
  refine ⟨(panSet_top s ..).trans (Nat.zero_mod _), ?_, ?_, ?_⟩
  · unfold panEnd panSet
    rw [State.gf_pf_apart _ (f := F.PAN_INFO_frames) (f' := F.PAN_END_end) (by decide),
      State.gf_pf_apart _ (f := F.PAN_BOTTOM_bottom) (f' := F.PAN_END_end) (by decide), State.gf_pf_same _ _ _ _ (by decide) (by decide)]
    exact Nat.zero_mod _
  · unfold panBottom panSet
    rw [State.gf_pf_apart _ (f := F.PAN_INFO_frames) (f' := F.PAN_BOTTOM_bottom) (by decide), State.gf_pf_same _ _ _ _ (by decide) (by decide)]
    exact Nat.zero_mod _
  · unfold panFrames panSet
    rw [State.gf_pf_same _ _ _ _ (by decide) (by decide)]
    exact Nat.zero_mod _

section Move

variable {n k : Nat} (hn : n < 8) (hk : k < 144) {f : Fld}

theorem State.panMove?_pan {p : PanSt} (h : p.moves = s.pan.moves) : ({ s with pan := p } : State).panMove? n k = s.panMove? n k :=
  congrArg (Tab.at? · (pk n k)) h

theorem State.panSetMove_move (m : Option PanMove) : (s.panSetMove n k m).panMove? n k = m := by
  cases m with
  | none => exact Tab.at_del_same ..
  | some m => exact Tab.at_put_same ..

theorem State.panEmpty_move : (s.panEmpty n k).panMove? n k = none := by
  have hfails : ∀ (s : State) fails, ({ s with pan := { s.pan with fails := fails } } : State).panMove? n k = s.panMove? n k := fun _ _ => rfl
  exact (hfails _ _).trans (State.panSetMove_move _ none)

theorem State.panEmpty_gf_eq (i : Nat) : (s.panEmpty n k).gf f i = ((panSet s n k 0 0 0 0).panSetMove n k none).gf f i := by
  have hpan : ∀ (s : State) p, ({ s with pan := p } : State).gf f i = s.gf f i := fun _ _ => rfl
  exact hpan _ _

include hn hk

theorem State.panSetMove_gf (hstatus : f.reg.ctorIdx ≠ Reg.PAN_STATUS.ctorIdx) (hmove : Fld.apart F.PAN_INFO_move f = true) (m : Option PanMove) :
    (s.panSetMove n k m).gf f (pk n k) = s.gf f (pk n k) := by
  unfold State.panSetMove
  dsimp only
  rw [State.gf_pf_elsewhere _ (f := F.PAN_STATUS_busy) (f' := f) (.inl hstatus) (by omega) (by unfold pk; omega), State.gf_pf_apart _ hmove]
  rfl

/-- Emptying a stack leaves its offsets and frames at 0, and nothing moves. -/
theorem State.panEmpty_zero : panTop (s.panEmpty n k) n k = 0 ∧ panEnd (s.panEmpty n k) n k = 0 ∧
    panBottom (s.panEmpty n k) n k = 0 ∧ panFrames (s.panEmpty n k) n k = 0 := by
  obtain ⟨htop, hend, hbottom, hframes⟩ := panSet_zero s n k
  have hmove : ∀ {f : Fld}, f.reg.ctorIdx ≠ Reg.PAN_STATUS.ctorIdx → Fld.apart F.PAN_INFO_move f = true →
      (s.panEmpty n k).gf f (pk n k) = (panSet s n k 0 0 0 0).gf f (pk n k) := fun hstatus hapart =>
    (State.panEmpty_gf_eq s _).trans (State.panSetMove_gf _ hn hk hstatus hapart none)
  exact ⟨(hmove (by decide) (by decide)).trans htop, (hmove (by decide) (by decide)).trans hend,
    (hmove (by decide) (by decide)).trans hbottom, (hmove (by decide) (by decide)).trans hframes⟩

/-- Emptying a stack leaves what the registers of another index than its own hold, but PAN_STATUS. -/
theorem State.panEmpty_gf {j : Nat} (hj : j < 65536) (hstatus : f.reg.ctorIdx ≠ Reg.PAN_STATUS.ctorIdx)
    (hother : j ≠ pk n k ∨ [Reg.PAN_TOP, .PAN_END, .PAN_BOTTOM, .PAN_INFO].all (fun r => f.reg.ctorIdx ≠ r.ctorIdx) = true) :
    (s.panEmpty n k).gf f j = s.gf f j := by
  have hpk : pk n k < 65536 := by unfold pk; omega
  have helse : ∀ (s : State) (g : Fld) v, g.reg ∈ [Reg.PAN_TOP, .PAN_END, .PAN_BOTTOM, .PAN_INFO] → (s.pf g (pk n k) v).gf f j = s.gf f j :=
    fun s g v hg => State.gf_pf_elsewhere s (hother.symm.imp_left fun h => by simpa using (List.all_eq_true.mp h) _ hg) hpk hj v
  have hset : (panSet s n k 0 0 0 0).gf f j = s.gf f j := by
    unfold panSet
    rw [helse _ F.PAN_INFO_frames _ (by decide), helse _ F.PAN_BOTTOM_bottom _ (by decide), helse _ F.PAN_END_end _ (by decide),
      helse _ F.PAN_TOP_top _ (by decide)]
  rw [State.panEmpty_gf_eq, ← hset]
  generalize panSet s n k 0 0 0 0 = s
  unfold State.panSetMove
  refine (State.gf_pf_elsewhere _ (f := F.PAN_STATUS_busy) (f' := f) (.inl hstatus) (by omega) hj _).trans ?_
  exact helse _ F.PAN_INFO_move _ (by decide)

end Move

/-! ### Pushes and pops (R249 to R251, R256, R257) -/

theorem State.onJob_tile (n j : Nat) (f : Job → Job) (t : Nat) : (s.onJob n j f).tile t = s.tile t :=
  State.onJob_keeps (π := fun s => s.tile t) (fun _ _ => rfl) ..

theorem State.panFinish_keeps (t : Nat) : (s.panFinish t).mem = s.mem ∧ (s.panFinish t).regs = s.regs := ⟨rfl, rfl⟩

theorem exec_ppushStart {s : State} {t i pend : Nat} {l : Lap} {o : PanOp} (hlap : (s.tile t).lap = some l) (hrerun : l.rerun = false)
    (hnext : panNextPush (s.tile t).panQ 0 = some (i, o, pend)) (hpush : o.push = true) (hfirst : o.behind = 0)
    (hok : panBlocked s l.die l.panStack = none) (horder : panEnd s l.die l.panStack ≤ panTop s l.die l.panStack)
    (hcap : panEnd s l.die l.panStack + pend + frameSize o.len ≤ panCap s l.die)
    (hring : panEnd s l.die l.panStack + pend + frameSize o.len - panLow s l.die l.panStack ≤ panRing s l.die) :
    ∃ f, exec (.ppushStart t) s = .next ((s.onJob l.die l.job f).panMark t i fun o =>
      { o with started := true, off := panEnd s l.die l.panStack + pend }) := by
  have hexec : exec (.ppushStart t) s = execPpushStart t s := rfl
  rw [hexec, execPpushStart, hlap, hnext]
  dsimp only
  rw [if_neg (by simp [hpush, hfirst]), hok]
  dsimp only
  rw [if_neg (by simp [hrerun]), if_neg (by omega), if_neg (by omega), if_neg (by omega)]
  exact ⟨_, rfl⟩

theorem exec_ppushDone {s s1 : State} {t : Nat} {l : Lap} {o : PanOp} {rest : List PanOp} (hlap : (s.tile t).lap = some l)
    (hrerun : l.rerun = false) (hqueue : (s.tile t).panQ = o :: rest) (hpush : o.push = true) (hstarted : o.started = true)
    (hup : panUp s l.die = true) (hgood : s.rangeBad (tstoreBase t + o.addr) o.len = none) {r : Bytes}
    (hr : r = panRecord o.len o.tag (panFrames s l.die l.panStack) l.index (s.stepOf (s.domainOf l.die)))
    (hwrite : s.panWrite l.die l.panStack (panEnd s l.die l.panStack) (r ++ s.sramRead (tstoreBase t + o.addr) o.len ++ r)
      (panBottom s l.die l.panStack ≤ panEnd s l.die l.panStack) = (.ok (), s1)) :
    exec (.ppushDone t) s = .next ((panSet s1 l.die l.panStack (panTop s1 l.die l.panStack + frameSize o.len)
      (panEnd s1 l.die l.panStack + frameSize o.len) (panBottom s1 l.die l.panStack) (panFrames s1 l.die l.panStack + 1)).panFinish t) := by
  subst hr
  have hexec : exec (.ppushDone t) s = execPpushDone t s := rfl
  have hrun : ¬ l.rerun = true := by simp [hrerun]
  rw [hexec, execPpushDone, hlap, hqueue]
  refine (if_neg (by simp [hpush, hstarted])).trans ((if_neg (by simp [hup])).trans ?_)
  rw [hgood, if_neg hrun]
  simp only [if_neg hrun, hwrite]

/-- A pop's frame is taken off its stack, and the pop leaves the queue. -/
def State.popFrame (s : State) (t n k j start : Nat) (busy : Bool) : State :=
  let s := if busy then s.panSetMove n k none else s
  let s := panSet s n k start (panEnd s n k) (panBottom s n k) (panFrames s n k - 1)
  (s.onJob n j fun x => if x.popped.contains k then x else { x with popped := k :: x.popped }).panFinish t

theorem State.popFrame_keeps (t n k j start : Nat) (busy : Bool) : (s.popFrame t n k j start busy).mem = s.mem ∧
    panTop (s.popFrame t n k j start busy) n k = start % 2 ^ (F.PAN_TOP_top.hi + 1 - F.PAN_TOP_top.lo) := by
  have hmove : (if busy then s.panSetMove n k none else s).mem = s.mem := by
    split
    · rfl
    · rfl
  unfold State.popFrame
  dsimp only
  generalize (if busy then s.panSetMove n k none else s) = s' at hmove ⊢
  have htop := panSet_top s' n k start (panEnd s' n k) (panBottom s' n k) (panFrames s' n k - 1)
  have hmem : (panSet s' n k start (panEnd s' n k) (panBottom s' n k) (panFrames s' n k - 1)).mem = s.mem := hmove
  generalize panSet s' n k start (panEnd s' n k) (panBottom s' n k) (panFrames s' n k - 1) = s'' at htop hmem ⊢
  generalize hf : (fun x : Job => if x.popped.contains k then x else { x with popped := k :: x.popped }) = f
  have hjob : (s''.onJob n j f).regs = s''.regs := State.onJob_keeps (π := State.regs) (fun _ _ => rfl) ..
  obtain ⟨hfmem, hfregs⟩ := State.panFinish_keeps (s''.onJob n j f) t
  exact ⟨hfmem.trans ((State.onJob_keeps (π := State.mem) (fun _ _ => rfl) ..).trans hmem),
    (State.gf_of_regs (hfregs.trans hjob) ..).trans htop⟩

theorem exec_ppopDone {s s0 s1 s2 : State} {t start : Nat} {l : Lap} {o : PanOp} {rest : List PanOp} {data : Bytes}
    (hlap : (s.tile t).lap = some l) (hrerun : l.rerun = false) (hqueue : (s.tile t).panQ = o :: rest) (hpop : o.push = false)
    (hfirst : o.behind = 0) (hok : panBlocked s l.die l.panStack = none) (hplain : o.xpose = false)
    (hs0 : s0 = s.onJob l.die l.job fun x =>
      if x.popOrg.has l.index then x else { x with popOrg := x.popOrg.put l.index (panTop s l.die l.panStack) })
    (hframe : s0.panFrame l.die l.panStack (panTop s0 l.die l.panStack) o false = (.ok start, s1))
    (hres : panBottom s1 l.die l.panStack ≤ start) (hread : s1.panRead l.die l.panStack (start + 64) o.len true = (.ok data, s2)) :
    ∃ busy, exec (.ppopDone t) s = .next ((s2.sramWrite (tstoreBase t + o.addr) data).popFrame t l.die l.panStack l.job start busy) := by
  subst hs0
  have hexec : exec (.ppopDone t) s = execPpopDone t s := rfl
  rw [hexec, execPpopDone, hlap, hqueue]
  dsimp only
  rw [if_neg (by simp [hpop, hfirst]), hok]
  dsimp only
  simp only [hrerun, Bool.false_eq_true, if_false, hframe, Bool.false_and, Bool.not_false, Bool.true_and]
  rw [if_neg (by simp [hres])]
  simp only [hres, decide_true, hread, hplain, Bool.false_eq_true, if_false]
  exact ⟨_, rfl⟩

/-! ### The mover (R252 to R255) -/

theorem State.panStart_move (n k cls : Nat) (m : PanMove) : (s.panStart n k cls m).panMove? n k = some m :=
  (State.panMove?_pan (s.panSetMove n k (some m)) rfl).trans (State.panSetMove_move s (some m))

theorem State.panFill_starts {s s1 : State} {n k len : Nat} (cls : Nat)
    (hlen : s.panLenAt n k (panBottom s n k - 64) false = (.ok len, s1)) (hfits : frameSize len ≤ panBottom s1 n k) :
    s.panFill n k cls = s1.panStart n k cls
      { spill := false, off := panBottom s1 n k - frameSize len, size := frameSize len, demand := cls = 0 } := by
  rw [State.panFill, hlen]
  exact if_neg (by omega)

theorem exec_spillStart {s s1 : State} {n k len : Nat} (hdemand : panTurn s n 0 (panDemandable s n) = none)
    (hprefetch : panTurn s n 1 (panPrefetchable s n) = none) (hspill : panTurn s n 2 (panSpillable s n) = some k)
    (hlen : s.panLenAt n k (panBottom s n k) true = (.ok len, s1)) :
    exec (.spillStart n k) s = .next (s1.panStart n k 2 { spill := true, off := panBottom s1 n k, size := frameSize len }) := by
  have hexec : exec (.spillStart n k) s = execSpillStart n k s := rfl
  rw [hexec, execSpillStart, if_neg (by simp [hdemand, hprefetch, hspill]), hlen]

theorem exec_prefetchFillStart {s : State} {n k : Nat} (hdemand : panTurn s n 0 (panDemandable s n) = none)
    (hprefetch : panTurn s n 1 (panPrefetchable s n) = some k) : exec (.prefetchFillStart n k) s = .next (s.panFill n k 1) := by
  have hexec : exec (.prefetchFillStart n k) s = execPrefetchFillStart n k s := rfl
  rw [hexec, execPrefetchFillStart, if_neg (by simp [hdemand, hprefetch])]

theorem exec_demandFillStart {s : State} {n k : Nat} (hdemand : panTurn s n 0 (panDemandable s n) = some k) :
    exec (.demandFillStart n k) s = .next (s.panFill n k 0) := by
  have hexec : exec (.demandFillStart n k) s = execDemandFillStart n k s := rfl
  rw [hexec, execDemandFillStart, if_neg (by simp [hdemand])]

/-- A move's end: its lines are counted, bottom changes, and nothing moves. -/
def State.moveEnd (s : State) (n k : Nat) (m : PanMove) : State :=
  ((s.bump64 (if m.spill then .PAN_SPILL_LINES else .PAN_FILL_LINES) n (m.size / 64)).pf F.PAN_BOTTOM_bottom (pk n k)
    (if m.spill then m.off + m.size else m.off)).panSetMove n k none

theorem exec_moveDone {s s1 s2 : State} {n k : Nat} {m : PanMove} {bs : Bytes} (hm : s.panMove? n k = some m)
    (hread : s.panRead n k m.off m.size m.spill = (.ok bs, s1)) (hwrite : s1.panWrite n k m.off bs (!m.spill) = (.ok (), s2)) :
    exec (.moveDone n k) s = .next (s2.moveEnd n k m) := by
  have hexec : exec (.moveDone n k) s = execMoveDone n k s := rfl
  rw [hexec, execMoveDone, hm]
  dsimp only
  rw [hread]
  dsimp only
  rw [hwrite]
  rfl

theorem State.moveEnd_bottom {n k : Nat} (hn : n < 8) (hk : k < 144) (m : PanMove) : panBottom (s.moveEnd n k m) n k =
    (if m.spill then m.off + m.size else m.off) % 2 ^ (F.PAN_BOTTOM_bottom.hi + 1 - F.PAN_BOTTOM_bottom.lo) := by
  unfold panBottom State.moveEnd
  rw [State.panSetMove_gf _ hn hk (f := F.PAN_BOTTOM_bottom) (by decide) (by decide), State.gf_pf_same _ _ _ _ (by decide) (by decide)]

theorem State.moveEnd_mem (n k : Nat) (m : PanMove) : (s.moveEnd n k m).mem = s.mem := rfl

/-! ### Writes of the Pannier's registers (R255, R260) -/

theorem exec_panClear {s : State} {n k : Nat} {role : Role} {v : Word32} (hn : n < 8) (hk : k < 144) (hrole : s.mmioRole role = true)
    (hfree : panHeld s n k = false) (hstack : bitsN v.toNat 7 0 = k) (hall : bitN v.toNat 8 = false) (hclear : bitN v.toNat 9 = true) :
    exec (.panClear role n v) s = .next (((s.pf F.PAN_CMD_stack n k).pb F.PAN_CMD_all n false).panEmpty n k) := by
  have hpk : pk n k < 65536 := by unfold pk; omega
  have hheld : panHeld ((s.pf F.PAN_CMD_stack n k).pb F.PAN_CMD_all n false) n k = false := by
    unfold State.pb panHeld State.gb
    rw [State.gf_pf_distinct _ F.PAN_CMD_all F.PAN_INFO_held (by decide) (by omega) hpk,
      State.gf_pf_distinct _ F.PAN_CMD_stack F.PAN_INFO_held (by decide) (by omega) hpk]
    exact hfree
  have hexec : exec (.panClear role n v) s = execPanClear role n v s := rfl
  rw [hexec, execPanClear, if_neg (by simp [hrole]; omega)]
  dsimp only
  rw [hstack, hall, if_neg (by simp [hclear]), if_neg (by simp), if_pos hk, State.panClearOne, if_neg (by simp [hheld])]

/-- PAN_SIZES with its clamps (R260). -/
def State.panSizes (s : State) (n ring wm pre seed : Nat) (clamped : Bool) : State :=
  ((((s.pf F.PAN_SIZES_ring_mib n ring).pf F.PAN_SIZES_wmark_mib n wm).pf F.PAN_SIZES_prefetch_mib n pre).pf F.PAN_SIZES_seed_mib n seed).when
    clamped fun s => s.pf F.PAN_STATUS_clamped n 1

theorem State.panSizes_gf {f : Fld} (hf : Fld.apart F.PAN_STATUS_clamped f = true) (n ring wm pre seed : Nat) (clamped : Bool) :
    (s.panSizes n ring wm pre seed clamped).gf f n =
      ((((s.pf F.PAN_SIZES_ring_mib n ring).pf F.PAN_SIZES_wmark_mib n wm).pf F.PAN_SIZES_prefetch_mib n pre).pf F.PAN_SIZES_seed_mib n seed).gf f n :=
  State.when_keeps (π := fun s => s.gf f n) _ (fun _ => State.gf_pf_apart _ hf ..) _

theorem State.panSizes_fields (n ring wm pre seed : Nat) (clamped : Bool) (hring : ring < 2 ^ 16) (hwm : wm < 2 ^ 16) (hpre : pre < 2 ^ 16) :
    (s.panSizes n ring wm pre seed clamped).gf F.PAN_SIZES_ring_mib n = ring ∧
      (s.panSizes n ring wm pre seed clamped).gf F.PAN_SIZES_wmark_mib n = wm ∧
      (s.panSizes n ring wm pre seed clamped).gf F.PAN_SIZES_prefetch_mib n = pre := by
  refine ⟨(State.panSizes_gf s (by decide) ..).trans ?_, (State.panSizes_gf s (by decide) ..).trans ?_,
    (State.panSizes_gf s (by decide) ..).trans ?_⟩
  · rw [State.gf_pf_apart _ (f := F.PAN_SIZES_seed_mib) (f' := F.PAN_SIZES_ring_mib) (by decide),
      State.gf_pf_apart _ (f := F.PAN_SIZES_prefetch_mib) (f' := F.PAN_SIZES_ring_mib) (by decide),
      State.gf_pf_apart _ (f := F.PAN_SIZES_wmark_mib) (f' := F.PAN_SIZES_ring_mib) (by decide),
      State.gf_pf_same _ _ _ _ (by decide) (by decide)]
    exact Nat.mod_eq_of_lt hring
  · rw [State.gf_pf_apart _ (f := F.PAN_SIZES_seed_mib) (f' := F.PAN_SIZES_wmark_mib) (by decide),
      State.gf_pf_apart _ (f := F.PAN_SIZES_prefetch_mib) (f' := F.PAN_SIZES_wmark_mib) (by decide),
      State.gf_pf_same _ _ _ _ (by decide) (by decide)]
    exact Nat.mod_eq_of_lt hwm
  · rw [State.gf_pf_apart _ (f := F.PAN_SIZES_seed_mib) (f' := F.PAN_SIZES_prefetch_mib) (by decide),
      State.gf_pf_same _ _ _ _ (by decide) (by decide)]
    exact Nat.mod_eq_of_lt hpre

theorem exec_panSizesWrite {s : State} {n : Nat} {role : Role} (v : Word64) (hn : n < 8) (hrole : s.mmioRole role = true)
    (hoff : s.gb F.PAN_CTRL_enable n = false) :
    ∃ ring wm pre seed clamped, exec (.panSizesWrite role n v) s = .next (s.panSizes n ring wm pre seed clamped) ∧
      ring = max 8 (min 4096 (bitsN v.toNat 15 0)) ∧ wm = max 4 (min (ring - 3) (bitsN v.toNat 31 16)) ∧
      pre = max 1 (min (wm - 3) (bitsN v.toNat 47 32)) := by
  have hexec : exec (.panSizesWrite role n v) s = execPanSizesWrite role n v s := rfl
  rw [hexec, execPanSizesWrite, if_neg (by simp [hrole, hoff]; omega)]
  exact ⟨_, _, _, _, _, rfl, rfl, rfl, rfl⟩

theorem exec_panEnable {s : State} {n : Nat} {role : Role} {v : Word32} (hn : n < 8) (hrole : s.mmioRole role = true)
    (hoff : s.gb F.PAN_CTRL_enable n = false) (hon : bitN v.toNat 0 = true) :
    exec (.panEnable role n v) s = .next (((s.pf F.PAN_CTRL_ctx n (bitsN v.toNat 6 1)).each (List.range 144) fun k s => s.panEmpty n k).pf
      F.PAN_CTRL_enable n 1) := by
  have hexec : exec (.panEnable role n v) s = execPanEnable role n v s := rfl
  rw [hexec, execPanEnable, if_neg (by simp [hrole]; omega)]
  dsimp only
  rw [if_pos (by simp [hon, hoff]), if_neg (by simp [hoff])]

theorem State.each_cons {α : Type} (x : α) (l : List α) (f : α → State → State) : s.each (x :: l) f = (f x s).each l f := rfl

theorem State.panEmptied_gf {n j : Nat} {f : Fld} (hn : n < 8) (hj : j < 65536)
    (hf : [Reg.PAN_TOP, .PAN_END, .PAN_BOTTOM, .PAN_INFO, .PAN_STATUS].all (fun r => f.reg.ctorIdx ≠ r.ctorIdx) = true)
    (l : List Nat) (hl : ∀ k ∈ l, k < 144) : (s.each l fun k s => s.panEmpty n k).gf f j = s.gf f j := by
  have hregs : [Reg.PAN_TOP, .PAN_END, .PAN_BOTTOM, .PAN_INFO].all (fun r => f.reg.ctorIdx ≠ r.ctorIdx) = true :=
    List.all_eq_true.mpr fun r hr => List.all_eq_true.mp hf r (List.mem_append_left [Reg.PAN_STATUS] hr)
  have hstatus : f.reg.ctorIdx ≠ Reg.PAN_STATUS.ctorIdx := by simpa using List.all_eq_true.mp hf .PAN_STATUS (by simp)
  induction l generalizing s with
  | nil => rfl
  | cons k l ih =>
    rw [State.each_cons, ih (s.panEmpty n k) fun k hk => hl k (List.mem_cons_of_mem _ hk)]
    exact State.panEmpty_gf s hn (hl k List.mem_cons_self) hj hstatus (.inr hregs)

/-- Every stack named is empty once each has been emptied in turn. -/
theorem State.panEmptied_zero {n k : Nat} (hn : n < 8) (hk : k < 144) (l : List Nat) (hl : ∀ k ∈ l, k < 144)
    (h : k ∈ l ∨ panTop s n k = 0 ∧ panFrames s n k = 0) :
    panTop (s.each l fun k s => s.panEmpty n k) n k = 0 ∧ panFrames (s.each l fun k s => s.panEmpty n k) n k = 0 := by
  induction l generalizing s with
  | nil => exact h.resolve_left (by simp)
  | cons k' l ih =>
    rw [State.each_cons]
    refine ih (s.panEmpty n k') (fun k hk => hl k (List.mem_cons_of_mem _ hk)) ?_
    by_cases hkk : k = k'
    · subst hkk
      obtain ⟨htop, -, -, hframes⟩ := State.panEmpty_zero s hn hk
      exact .inr ⟨htop, hframes⟩
    · have hpk : pk n k ≠ pk n k' := by unfold pk; omega
      have hlt : pk n k < 65536 := by unfold pk; omega
      have hk' := hl k' List.mem_cons_self
      refine (h.imp_left fun h => (List.mem_cons.mp h).resolve_left hkk).imp_right fun ⟨htop, hframes⟩ => ⟨?_, ?_⟩
      · exact (State.panEmpty_gf s hn hk' hlt (by decide) (.inl hpk)).trans htop
      · exact (State.panEmpty_gf s hn hk' hlt (by decide) (.inl hpk)).trans hframes

/-- Settles O38: the offsets of the stacks are followed through each command; emptying the stacks one by one leaves each empty. -/
theorem pannierCompletes : Obligations.PannierCompletes := by
  refine ⟨fun s t l hlap hrerun => ⟨?push, ?pushed, ?pop⟩, fun s n k len role hn hk => ⟨?spill, ?prefetch, ?demand, ?move, ?clear, ?regs⟩⟩
  case push =>
    intro i o pend hnext hpush hfirst hok horder hcap hring
    obtain ⟨f, hexec⟩ := exec_ppushStart hlap hrerun hnext hpush hfirst hok horder hcap hring
    refine ⟨_, hexec, ?_, ?_, ?_⟩
    · exact State.onJob_keeps (π := State.mem) (fun _ _ => rfl) ..
    · exact State.onJob_keeps (π := State.regs) (fun _ _ => rfl) ..
    · unfold State.panMark
      rw [State.tile_setTile, State.onJob_tile]
  case pushed =>
    intro o rest s1 hqueue hpush hstarted hup hgood r hwrite
    exact exec_ppushDone hlap hrerun hqueue hpush hstarted hup hgood rfl hwrite
  case pop =>
    intro o rest s1 s2 start data hqueue hpop hfirst hok hplain s0 hframe hres hread
    obtain ⟨busy, hexec⟩ := exec_ppopDone hlap hrerun hqueue hpop hfirst hok hplain rfl hframe hres hread
    obtain ⟨hmem, htop⟩ := State.popFrame_keeps (s2.sramWrite (tstoreBase t + o.addr) data) t l.die l.panStack l.job start busy
    exact ⟨_, hexec, hmem, htop⟩
  case spill =>
    intro s1 hdemand hprefetch hspill hlen
    exact ⟨_, exec_spillStart hdemand hprefetch hspill hlen, State.panStart_move s1 ..⟩
  case prefetch =>
    intro s1 hdemand hprefetch hlen hfits
    refine ⟨_, exec_prefetchFillStart hdemand hprefetch, ?_⟩
    rw [State.panFill_starts 1 hlen hfits, State.panStart_move]
    rfl
  case demand =>
    intro s1 hdemand hlen hfits
    refine ⟨_, exec_demandFillStart hdemand, ?_⟩
    rw [State.panFill_starts 0 hlen hfits, State.panStart_move]
    rfl
  case move =>
    intro m bs s1 s2 hm hread hwrite
    exact ⟨_, exec_moveDone hm hread hwrite, State.panSetMove_move _ none, State.moveEnd_mem s2 n k m, State.moveEnd_bottom s2 hn hk m⟩
  case clear =>
    intro hrole hfree v hstack hall hclear
    obtain ⟨htop, hend, hbottom, hframes⟩ := State.panEmpty_zero ((s.pf F.PAN_CMD_stack n k).pb F.PAN_CMD_all n false) hn hk
    exact ⟨_, exec_panClear hn hk hrole hfree hstack hall hclear, htop, hend, hbottom, hframes, State.panEmpty_move _⟩
  case regs =>
    intro hrole hoff
    refine ⟨fun v => ?_, fun v hon => ?_⟩
    · obtain ⟨ring, wm, pre, seed, clamped, hexec, hring, hwm, hpre⟩ := exec_panSizesWrite v hn hrole hoff
      obtain ⟨hr, hw, hp⟩ := State.panSizes_fields s n ring wm pre seed clamped (by omega) (by omega) (by omega)
      exact ⟨_, hexec, hr.trans hring, by omega, by omega⟩
    · let s1 := (s.pf F.PAN_CTRL_ctx n (bitsN v.toNat 6 1)).each (List.range 144) fun k s => s.panEmpty n k
      have hrange : ∀ k ∈ List.range 144, k < 144 := fun k hk => List.mem_range.mp hk
      refine ⟨_, exec_panEnable hn hrole hoff hon, State.gb_pf_one _ _ _ (by decide) (by decide), ?_, fun k hk => ?_⟩
      · rw [State.gf_pf_apart _ (f := F.PAN_CTRL_enable) (f' := F.PAN_CTRL_ctx) (by decide),
          State.panEmptied_gf _ hn (by omega) (by decide) _ hrange, State.gf_pf_same _ _ _ _ (by decide) (by decide)]
        exact Nat.mod_eq_of_lt (bitsN_lt _ 6 1)
      · obtain ⟨htop, hframes⟩ := State.panEmptied_zero (s.pf F.PAN_CTRL_ctx n (bitsN v.toNat 6 1)) hn hk (List.range 144) hrange
          (.inl (List.mem_range.mpr hk))
        have hpk : pk n k < 65536 := by unfold pk; omega
        exact ⟨(State.gf_pf_distinct _ F.PAN_CTRL_enable F.PAN_TOP_top (by decide) (by omega) hpk 1).trans htop,
          (State.gf_pf_distinct _ F.PAN_CTRL_enable F.PAN_INFO_frames (by decide) (by omega) hpk 1).trans hframes⟩

end Sys2Proof.Machine

/-! PROOF. Commands of the Root of Trust's mailboxes (R401 to R434): each that passes its checks is answered. -/

namespace Sys2Proof.Machine

variable (s : State)

/-! ### A request is answered (R414) -/

/-- The state with a response that stands ready. -/
def State.reply (s : State) (i : Nat) (r : MboxResp) : State := s.onSec fun x => { x with resp := x.resp.put i r }

theorem State.reply_answered (i cmd seq r : Nat) (b : Bytes) (p : Nat) : (s.reply i ⟨cmd, seq, r, b, p⟩).answered i cmd seq r :=
  ⟨_, Tab.at_put_same _ i _, rfl, rfl, rfl⟩

theorem State.reply_mem (i : Nat) (r : MboxResp) : (s.reply i r).mem = s.mem := rfl

theorem State.reply_gf (i : Nat) (r : MboxResp) (f : Fld) (j : Nat) : (s.reply i r).gf f j = s.gf f j := rfl

theorem State.mbox_reply {s t : State} {i r : Nat} {b : Bytes} (hopen : s.mboxOpen i = true) {seq cmd p : Nat} {f : State → Nat × Bytes × State}
    (hf : f (s.pf F.MBOX_CTRL_go i 1) = (r, b, t)) : s.mbox i seq cmd p f = t.reply i ⟨cmd, seq, r, b, p⟩ := by
  rw [State.mbox_open hopen, State.mboxDone, hf]
  rfl

theorem State.mbox_replies {s : State} {i r : Nat} (hopen : s.mboxOpen i = true) {seq cmd p : Nat} {f : State → Nat × Bytes × State}
    (hf : (f (s.pf F.MBOX_CTRL_go i 1)).1 = r) : ∃ (t : State) (b : Bytes), s.mbox i seq cmd p f = t.reply i ⟨cmd, seq, r, b, p⟩ :=
  ⟨_, _, State.mbox_reply hopen (Prod.ext hf rfl)⟩

/-- What answers a mailbox's request answers the command. -/
theorem next_of_replies {s : State} {i cmd seq r p : Nat} (h : ∃ (t : State) (b : Bytes), s = t.reply i ⟨cmd, seq, r, b, p⟩) :
    ∃ (t : State) (b : Bytes), (Host.Outcome.next s : Res) = .next (t.reply i ⟨cmd, seq, r, b, p⟩) := by
  obtain ⟨t, b, rfl⟩ := h
  exact ⟨t, b, rfl⟩

theorem State.mboxWait_free {s : State} {i : Nat} {c : MboxCmd} {held : State → Bool × State} (hfree : (held s).1 = false) (f : State → State) :
    s.mboxWait i c held f = f s := by
  unfold State.mboxWait
  split
  next heq => exact absurd (congrArg Prod.fst heq).symm (by simp [hfree])
  next => rfl

theorem roles_of_hostOrOp {i : Nat} (h : i = 0 ∨ i = 1) : isHost i = true ∨ isOp i = true := by simpa [isHost, isOp] using h

/-! ### Partitions (R418 to R427) -/

/-- The report of an attestation, with its signature (R418). -/
def signedReport (s : State) (nonce scope : Nat) : Bytes :=
  let leaf := s.gf F.ROT_ATT_LEAF_next
  let b := s.report true nonce scope leaf
  b ++ sliceB (Config.xmssSign 0 leaf b) 0 9893

/-- The state with the report noted. -/
def State.noteReport (s : State) (b : Bytes) (scope : Nat) : State :=
  s.onSec fun x => { x with reports := (Config.shake256 32 b, if scope = 0 then sealedParts s else [scope], s.now) :: x.reports }

theorem exec_attest {s : State} {i seq nonce scope : Nat} (hopen : s.mboxOpen i = true) {q : State} (hq : q = s.pf F.MBOX_CTRL_go i 1)
    (hscope : scope = 0 ∨ scope < 16 ∧ q.sec.parts.has scope = true) (hi : i = 0 ∨ i = 1) (hkeys : q.gb F.ROT_STATUS_att_exhausted = false) :
    exec (.attest i seq nonce scope true) s = .next (((q.useLeaf.2.noteReport (signedReport q nonce scope) scope).reply i
      ⟨1, seq, Rot.ok, signedReport q nonce scope, 0⟩).settle) := by
  subst hq
  have hexec : exec (.attest i seq nonce scope true) s = execAttest i seq nonce scope s true := rfl
  have hthere : (decide (scope ≥ 16) || decide (scope ≠ 0) && !(s.pf F.MBOX_CTRL_go i 1).sec.parts.has scope) = false := by
    obtain rfl | ⟨hlt, hhas⟩ := hscope
    · simp
    · rw [hhas]
      simp [hlt]
  rw [hexec, execAttest]
  refine congrArg (fun s : State => Host.Outcome.next s.settle) (State.mbox_reply hopen ?_)
  rw [if_neg (by rw [hthere]; decide), if_neg (by simp [isHost, isOp]; omega), if_neg (by simp [hkeys]), if_neg (by simp)]
  rfl

theorem State.noteReport_gf (b : Bytes) (scope : Nat) (f : Fld) (j : Nat) : (s.noteReport b scope).gf f j = s.gf f j := rfl

theorem exec_partCreate {s : State} {i seq p mask : Nat} {w cm : Word64} {ranges : List (Nat × Nat)} (hopen : s.mboxOpen i = true) {q : State}
    (hq : q = s.pf F.MBOX_CTRL_go i 1) (hi : i = 0 ∨ i = 1) (hbusy : q.partBusy p = false) (hp : 0 < p) (hp' : p < 16)
    (hnew : q.sec.parts.has p = false) (hmask : 0 < mask) (hmask' : mask < 256) (hlen : 0 < ranges.length) (hlen' : ranges.length ≤ 64)
    (hranges : ∀ r ∈ ranges, rangeOk q p r.1 r.2 = true)
    (hctx : (maskList cm.toNat 64).any (fun c => q.gb F.TRANS_ROOT_enable c && q.gf F.TRANS_ATTR_part_id c ≠ p) = false)
    (hdies : (maskList mask 8).any (fun n => q.domainOf n ≠ 0 || q.dieState n ≠ 0 || (List.range 64).any (fun st => strmOn q n st)) = false)
    (hroom : q.epochRoom (maskList mask 8).length = true) :
    ∃ (t : State) (b : Bytes), exec (.partCreate i seq p mask (some w) cm ranges true) s = .next (t.reply i ⟨2, seq, Rot.ok, b, p⟩) := by
  subst hq
  have hexec : exec (.partCreate i seq p mask (some w) cm ranges true) s = execPartCreate i seq p mask (some w) cm ranges s true := rfl
  have hall : ranges.all (fun r => rangeOk (s.pf F.MBOX_CTRL_go i 1) p r.1 r.2) = true := List.all_eq_true.mpr hranges
  rw [hexec, execPartCreate]
  refine next_of_replies (State.mbox_replies hopen ?_)
  dsimp only
  rw [if_neg (by simp [isHost, isOp]; omega), if_neg (by simp [hbusy]),
    if_neg (by simp only [hnew, hall, hctx]; simp [List.ne_nil_of_length_pos hlen]; omega), if_neg (by simp only [hdies]; decide), if_neg (by simp [hroom]), if_neg (by simp)]

theorem exec_grant {s : State} {i seq p base size : Nat} (hopen : s.mboxOpen i = true) {q : State} (hq : q = s.pf F.MBOX_CTRL_go i 1)
    (hi : i = 0 ∨ i = 1) (hbusy : q.partBusy p = false) (hsealed : q.sealedPart p = true) (hrange : rangeOk q p base size = true) :
    ∃ (t : State) (b : Bytes), exec (.grant i seq p base size) s = .next (t.reply i ⟨5, seq, Rot.ok, b, 0⟩) := by
  subst hq
  have hexec : exec (.grant i seq p base size) s = execGrant i seq p base size s := rfl
  rw [hexec, execGrant]
  refine next_of_replies (State.mbox_replies hopen ?_)
  dsimp only
  rw [if_neg (by simp [isHost, isOp]; omega), if_neg (by simp [hbusy]), if_neg (by simp [hsealed, hrange])]

/-- The state with an image measured into PMR_p (R423). -/
def State.measured (s : State) (p : Nat) (b : Bytes) : State :=
  s.setPart p fun x => { x with pmr := extendM x.pmr (Config.shake256 32 b), state := 3 }

theorem exec_bindHart {s s1 : State} {i seq p m va len c : Nat} {harts : Word64} {ps : List (Nat × Nat × Nat × Nat)} (hopen : s.mboxOpen i = true)
    {q : State} (hq : q = s.pf F.MBOX_CTRL_go i 1) (hi : i = 0 ∨ i = 1) (hbusy : q.partBusy p = false) (hsealed : q.sealedPart p = true)
    (hm : m < 2) (hfree : ((maskList harts.toNat 64).map (fun h => 64 * m + h)).any (fun h =>
      q.gf F.CORE_PART_part h ≠ 0 && q.gf F.CORE_PART_part h ≠ p) = false)
    (hctx : (maskList (q.part p).ctxMask 64).head? = some c) (hxl : q.xlRange (.core m) c va len accLoad (8 + m) = (.ok ps, s1))
    (hgood : ps.findSome? (fun r => s1.pieceBad r.1 r.2.1 2) = none) (hheld : (s.rangeHeld (.core m) c va len accLoad (8 + m)).1 = false) :
    exec (.bindHart i seq p m harts va len) s =
      .next (((s1.measured p (ps.flatMap fun q => s1.memBytes q.2.2.2 q.1 q.2.1)).each ((maskList harts.toNat 64).map fun h => 64 * m + h)
        fun h s => s.pf F.CORE_PART_part h p).reply i ⟨4, seq, Rot.ok, [], p⟩) := by
  subst hq
  have hctx' : (maskList (s.part p).ctxMask 64).head? = some c := hctx
  have hexec : exec (.bindHart i seq p m harts va len) s = execBindHart i seq p m harts va len s := rfl
  rw [hexec, execBindHart]
  dsimp only
  rw [State.mboxWait_free (by rw [hctx']; exact hheld)]
  refine congrArg Host.Outcome.next (State.mbox_reply hopen ?_)
  rw [if_neg (by simp [isHost, isOp]; omega), if_neg (by simp [hbusy]), if_neg (by simp [hsealed]; omega), if_neg (by simp only [hfree]; decide),
    hctx]
  dsimp only
  rw [hxl]
  dsimp only
  rw [hgood]
  rfl

/-- Each hart of the list is the partition's once all have been bound in turn. -/
theorem State.bound_gf (p : Nat) (hp : p < 16) {h : Nat} (hs : List Nat) (hlt : ∀ k ∈ hs, k < 65536) (hh : h < 65536)
    (hin : h ∈ hs ∨ s.gf F.CORE_PART_part h = p) : (s.each hs fun k s => s.pf F.CORE_PART_part k p).gf F.CORE_PART_part h = p := by
  induction hs generalizing s with
  | nil => exact hin.resolve_left (by simp)
  | cons k hs ih =>
    rw [State.each_cons]
    refine ih _ (fun k hk => hlt k (List.mem_cons_of_mem _ hk)) ?_
    by_cases hk : h = k
    · subst hk
      refine .inr ((State.gf_pf_same _ _ _ _ (by decide) (by decide)).trans (Nat.mod_eq_of_lt hp))
    · exact (hin.imp_left fun h' => (List.mem_cons.mp h').resolve_left hk).imp_right
        (State.gf_pf_elsewhere s (.inr hk) (hlt k List.mem_cons_self) hh p).trans

theorem exec_partTeardown {s : State} {i seq p : Nat} (hopen : s.mboxOpen i = true) {q : State} (hq : q = s.pf F.MBOX_CTRL_go i 1)
    (hi : i = 0 ∨ i = 1) (hsealed : q.sealedPart p = true) (hnew : (q.part p).state ≠ 1) (hold : (q.part p).state ≠ 2)
    (hroom : q.epochRoom (maskList (q.part p).mask 8).length = true) :
    exec (.partTeardown i seq p) s = .next ((q.teardown p).reply i ⟨3, seq, Rot.ok, [], p⟩) := by
  subst hq
  have hexec : exec (.partTeardown i seq p) s = execPartTeardown i seq p s := rfl
  rw [hexec, execPartTeardown]
  refine congrArg Host.Outcome.next (State.mbox_reply hopen ?_)
  rw [if_neg (by simp [isHost, isOp]; omega), if_neg (by simp [hsealed]), if_neg hnew, if_neg hold, if_pos hroom]

theorem State.dropGen_mem (p g : Nat) : (s.dropGen p g).mem = s.mem := by
  unfold State.dropGen
  dsimp only
  split <;> rfl

/-- The generation a rotation takes next (R427). -/
def nextGen (x : Part) : Nat := (([1, 2, 3].map (fun d => (x.gen + d) % 4)).find? (fun g => !x.live.contains g)).getD 0

/-- The state with generation g current in p. -/
def State.rotated (s : State) (p g : Nat) : State := (s.newKey p g).setPart p fun x => { x with gen := g, live := x.live ++ [g] }

theorem State.rotated_mem (p g : Nat) : (s.rotated p g).mem = s.mem := rfl

theorem exec_keyRotate {s : State} {i seq p : Nat} (hopen : s.mboxOpen i = true) {q : State} (hq : q = s.pf F.MBOX_CTRL_go i 1)
    (hi : i = 0 ∨ i = 1) (hbusy : q.partBusy p = false) (hpart : p = 0 ∨ q.sealedPart p = true) (hlive : (q.part p).live.length < 3) :
    exec (.keyRotate i seq p) s = .next (((q.rotated p (nextGen (q.part p))).dropGen p (q.part p).gen).reply i ⟨6, seq, Rot.ok, [], 0⟩) := by
  subst hq
  have hexec : exec (.keyRotate i seq p) s = execKeyRotate i seq p s := rfl
  rw [hexec, execKeyRotate]
  refine congrArg Host.Outcome.next (State.mbox_reply hopen ?_)
  dsimp only
  rw [if_neg (by simp [isHost, isOp]; omega), if_neg (by simp [hbusy]), if_neg (by obtain rfl | h := hpart <;> simp [*]), if_neg (by omega)]
  rfl

theorem exec_rekeyStart {s s1 : State} {i seq p unit ctx desc : Nat} {mc : Bool} {b : Bytes} (hopen : s.mboxOpen i = true) {q : State}
    (hq : q = s.pf F.MBOX_CTRL_go i 1) (hi : i = 0 ∧ p = 0 ∨ isTen i p = true) (hbusy : q.partBusy p = false)
    (hunit : if mc then unit < 2 else unit < 16) (hctx : ctx < 64) (hdesc : desc % 256 = 0) (hpart : q.gf F.TRANS_ATTR_part_id ctx = p)
    (hread : q.vread (rkX (rkUnit mc unit)) ctx desc 64 (rkNode (rkUnit mc unit)) = (.ok b, s1)) (hp : fieldB b 0 1 % 16 = p)
    (hgen : fieldB b 2 1 % 4 = (s1.part p).gen) (hidle : s1.rk? (rkUnit mc unit) = none) (hup : rkUp s1 (rkUnit mc unit) = true)
    (hheld : (s.rangeHeld (rkX (rkUnit mc unit)) ctx desc 64 accLoad (rkNode (rkUnit mc unit))).1 = false) :
    ∃ (t : State) (b : Bytes), exec (.rekeyStart i seq p mc unit ctx desc) s = .next (t.reply i ⟨7, seq, Rot.ok, b, 0⟩) := by
  subst hq
  have hexec : exec (.rekeyStart i seq p mc unit ctx desc) s = execRekeyStart i seq p mc unit ctx desc s := rfl
  have hrole : (!(isHost i || isTen i p)) = false := by
    obtain ⟨rfl, -⟩ | h := hi
    · rfl
    · simp [h]
  have hhost : (isHost i && decide (p ≠ 0)) = false := by
    obtain ⟨-, rfl⟩ | h := hi
    · simp
    · have hne : i ≠ 0 := by
        simp only [isTen, Bool.and_eq_true, decide_eq_true_eq] at h
        omega
      simp [isHost, hne]
  have hthere : (if mc = true then decide (unit ≥ 2) else decide (unit ≥ 16)) = false := by
    cases mc
    · exact decide_eq_false (Nat.not_le_of_lt hunit)
    · exact decide_eq_false (Nat.not_le_of_lt hunit)
  rw [hexec, execRekeyStart, State.mboxWait_free (by rw [Nat.mod_eq_of_lt hctx]; exact hheld)]
  refine next_of_replies (State.mbox_replies hopen ?_)
  dsimp only
  rw [hrole, if_neg (by decide), if_neg (by simp [hbusy]), if_neg (by simp only [hhost, hthere, hpart]; simp; omega), hread]
  dsimp only
  rw [if_neg (by simp [hp, hgen]), if_neg (by simp [hidle, hup])]

theorem exec_unknownMboxCommand {s : State} {i seq cmd : Nat} (hopen : s.mboxOpen i = true) :
    exec (.unknownMboxCommand i seq cmd) s = .next ((s.pf F.MBOX_CTRL_go i 1).reply i ⟨cmd, seq, Rot.denied, [], 0⟩) := by
  have hexec : exec (.unknownMboxCommand i seq cmd) s = execUnknownMboxCommand i seq cmd s := rfl
  rw [hexec, execUnknownMboxCommand, State.mbox_reply hopen rfl]

/-- Settles O49: no check of the command turns the request away, so that it is answered with its own result. -/
theorem partitionCommandsComplete : Obligations.PartitionCommandsComplete := by
  intro s i seq p hopen q
  refine ⟨?attest, ?create, ?grant, ?bind, ?teardown, ?rotate, ?rekey, fun cmd => ?unknown⟩
  case attest =>
    intro nonce scope hscope hi hkeys
    exact ⟨_, State.reply_answered .., by rw [State.reply_gf, State.noteReport_gf], exec_attest hopen rfl hscope hi hkeys⟩
  case create =>
    intro mask w cm ranges hi hbusy hp hp' hnew hmask hmask' hlen hlen' hranges hctx hdies hroom
    obtain ⟨t, b, hexec⟩ := exec_partCreate (w := w) (seq := seq) hopen rfl hi hbusy hp hp' hnew hmask hmask' hlen hlen' hranges hctx hdies hroom
    exact ⟨_, hexec, State.reply_answered ..⟩
  case grant =>
    intro base size hi hbusy hsealed hrange
    obtain ⟨t, b, hexec⟩ := exec_grant (seq := seq) hopen rfl hi hbusy hsealed hrange
    exact ⟨_, hexec, State.reply_answered ..⟩
  case bind =>
    intro m harts va len c ps s1 hi hbusy hsealed hm hfree hctx hxl hgood hheld
    have hexec := exec_bindHart (seq := seq) hopen rfl hi hbusy hsealed hm hfree hctx hxl hgood hheld
    have hlt : ∀ h ∈ maskList harts.toNat 64, h < 64 := fun h hh => List.mem_range.mp (List.mem_filter.mp hh).1
    refine ⟨_, hexec, State.reply_answered .., fun h hh hp => ?_⟩
    rw [State.reply_gf]
    refine State.bound_gf _ p hp _ (fun k hk => ?_) (by have := hlt h hh; omega) (.inl (List.mem_map.mpr ⟨h, hh, rfl⟩))
    obtain ⟨h', hh', rfl⟩ := List.mem_map.mp hk
    have := hlt h' hh'
    omega
  case teardown =>
    intro hi hsealed hnew hold hroom
    exact ⟨_, exec_partTeardown hopen rfl hi hsealed hnew hold hroom, State.reply_answered ..⟩
  case rotate =>
    intro hi hbusy hpart hlive
    refine ⟨_, exec_keyRotate hopen rfl hi hbusy hpart hlive, State.reply_answered .., ?_⟩
    rw [State.reply_mem, State.dropGen_mem, State.rotated_mem]
    rfl
  case rekey =>
    intro mc unit ctx desc b s1 hi hbusy hunit hctx hdesc hpart hread hp hgen hidle hup hheld
    obtain ⟨t, b, hexec⟩ := exec_rekeyStart (seq := seq) hopen rfl hi hbusy hunit hctx hdesc hpart hread hp hgen hidle hup hheld
    exact ⟨_, hexec, State.reply_answered ..⟩
  case unknown => exact ⟨_, exec_unknownMboxCommand hopen, State.reply_answered .., rfl⟩

/-! ### Key release and Husks (R429 to R431) -/

theorem role_of_hostOrTenant {i p : Nat} (h : i = 0 ∨ isTen i p = true) : (!(isHost i || isTen i p)) = false := by
  obtain rfl | h := h
  · rfl
  · simp [h]

/-- The result of opening a wrapped key (R430). -/
def openResult (k : Option Bytes) : Nat := match k with | some _ => Rot.ok | none => Rot.unwrapFail

/-- The state with an opened key in its slot. -/
def State.huskKey (s : State) (key : Nat) (k : Option Bytes) : State :=
  match k with
  | some k => s.onSec fun x => { x with husk := x.husk.put key k }
  | none => s

/-- The key of a release, opened from its wrapping (R430). -/
def releasedKey (q : State) (p slot dg : Nat) (ct wrapped tag : Bytes) : Option Bytes :=
  Config.aeadOpen (Config.shake256 32 (Config.kemDecaps (q.part p).kem ct ++ leBytes 32 dg ++ leBytes 1 p)) (zerosB 12)
    (leBytes 1 p ++ leBytes 1 slot ++ zerosB 6 ++ leBytes 32 dg) wrapped tag

theorem exec_keyRelease {s : State} {i seq p slot dg : Nat} {ct wrapped tag : Bytes} {r : Bytes × List Nat × Nat} (hopen : s.mboxOpen i = true)
    {q : State} (hq : q = s.pf F.MBOX_CTRL_go i 1) (hi : i = 0 ∨ isTen i p = true) (hbusy : q.partBusy p = false)
    (hsealed : q.sealedPart p = true) (hslot : slot < 8)
    (hreport : ((q.sec.reports.filter (fun r => r.2.1.contains p)).take 16).find? (fun r => r.1 = leBytes 32 dg) = some r)
    (hfresh : q.now ≤ r.2.2 + q.odN 0x6010 1 * 10 ^ 9) :
    exec (.keyRelease i seq p slot dg ct wrapped tag) s =
      .next ((q.huskKey (p * 8 + slot) (releasedKey q p slot dg ct wrapped tag)).reply i
        ⟨8, seq, openResult (releasedKey q p slot dg ct wrapped tag), [], 0⟩) := by
  subst hq
  have hexec : exec (.keyRelease i seq p slot dg ct wrapped tag) s = execKeyRelease i seq p slot dg ct wrapped tag s := rfl
  rw [hexec, execKeyRelease]
  refine congrArg Host.Outcome.next (State.mbox_reply hopen ?_)
  dsimp only
  rw [role_of_hostOrTenant hi, if_neg (by decide), if_neg (by simp [hbusy]), if_neg (by simp [hsealed]; omega), hreport]
  dsimp only
  rw [if_neg (by omega)]
  unfold releasedKey
  cases Config.aeadOpen (Config.shake256 32 (Config.kemDecaps ((s.pf F.MBOX_CTRL_go i 1).part p).kem ct ++ leBytes 32 dg ++ leBytes 1 p)) (zerosB 12)
      (leBytes 1 p ++ leBytes 1 slot ++ zerosB 6 ++ leBytes 32 dg) wrapped tag with
  | none => rfl
  | some k => rfl

theorem exec_huskLoad {s : State} {i seq p slot ctx : Nat} {header : Bytes} {chunks : List (Nat × Nat × Nat)} (hopen : s.mboxOpen i = true)
    {q : State} (hq : q = s.pf F.MBOX_CTRL_go i 1) (hi : isTen i p = true) (hbusy : q.partBusy p = false) (hsealed : q.sealedPart p = true)
    (hslot : slot < 8) (hctx : ctx < 64) (hpart : q.gf F.TRANS_ATTR_part_id ctx = p) (hkey : q.sec.husk.has (p * 8 + slot) = true)
    (hver : fieldB header 0 2 = 1) (hlen : 0 < fieldB header 16 4) (hmod : fieldB header 16 4 % 4096 = 0)
    (hmax : fieldB header 16 4 ≤ 64 * 2 ^ 20) (hheld : (s.chunksHeld (fieldB header 16 4) ctx chunks).1 = false) :
    exec (.huskLoad i seq p slot ctx header chunks) s = .next ((State.huskChunks q p slot ctx header chunks).2.2.reply i
      ⟨9, seq, (State.huskChunks q p slot ctx header chunks).1, (State.huskChunks q p slot ctx header chunks).2.1, 0⟩) := by
  subst hq
  have hexec : exec (.huskLoad i seq p slot ctx header chunks) s = execHuskLoad i seq p slot ctx header chunks s := rfl
  rw [hexec, execHuskLoad, State.mboxWait_free (by rw [Nat.mod_eq_of_lt hctx]; exact hheld)]
  refine congrArg Host.Outcome.next (State.mbox_reply hopen ?_)
  rw [if_neg (by simp [hi]), if_neg (by simp [hbusy]), if_neg (by simp only [hsealed, hpart, hkey, hver, hmod]; simp; omega)]

/-! ### Devices (R432) -/

theorem exec_provision {s : State} {i seq kind idx : Nat} {secret : Bytes} (hopen : s.mboxOpen i = true) (hi : i = 1) (hkind : kind < 3)
    (hidx : idx < 2 ^ 32) (hpsk : kind = 1 → idx < 8) :
    exec (.provision i seq kind idx secret) s = .next (((s.pf F.MBOX_CTRL_go i 1).onSec fun x =>
      { x with secrets := x.secrets.put (secretKey kind idx) secret }).reply i ⟨14, seq, Rot.ok, [], 0⟩) := by
  have hexec : exec (.provision i seq kind idx secret) s = execProvision i seq kind idx secret s := rfl
  rw [hexec, execProvision]
  refine congrArg Host.Outcome.next (State.mbox_reply hopen ?_)
  rw [if_neg (by simp [isOp, hi]), if_neg (by simp; omega)]

theorem exec_tdispAdmit {s : State} {i seq p rid port : Nat} {ms : Bytes} (hopen : s.mboxOpen i = true) {q : State}
    (hq : q = s.pf F.MBOX_CTRL_go i 1) (hi : i = 0 ∨ i = 1) (hbusy : q.partBusy p = false) (hsealed : q.sealedPart p = true)
    (hrid : rid < 65536) (hport : port < 8) (hpsk : q.sec.secrets.has (secretKey 2 (port / 4 * 65536 + rid)) = true) :
    exec (.tdispAdmit i seq p rid port true ms) s = .next (((q.measured p ms).onSec fun x =>
      { x with admitted := x.admitted.put (port / 4 * 65536 + rid) p }).reply i ⟨10, seq, Rot.ok, ms, p⟩) := by
  subst hq
  have hexec : exec (.tdispAdmit i seq p rid port true ms) s = execTdispAdmit i seq p rid port true ms s := rfl
  rw [hexec, execTdispAdmit]
  refine congrArg Host.Outcome.next (State.mbox_reply hopen ?_)
  dsimp only
  rw [if_neg (by simp [isHost, isOp]; omega), if_neg (by simp [hbusy]), if_neg (by simp [hsealed]; omega), if_neg (by simp only [hpsk]; simp)]
  rfl

/-- The device k leaves the admitted and runs (R392). -/
def State.putInRun (s : State) (k : Nat) : State :=
  (s.onSec fun x => { x with admitted := x.admitted.del k }).onPcie fun q => { q with run := if q.run.contains k then q.run else k :: q.run }

theorem State.putInRun_mem (k : Nat) : k ∈ (s.putInRun k).pcie.run := by
  have hrun : (s.putInRun k).pcie.run = if s.pcie.run.contains k then s.pcie.run else k :: s.pcie.run := rfl
  rw [hrun]
  split
  next h => exact List.contains_iff_mem.mp h
  next => exact List.mem_cons_self

/-- A seal entry binds a requester to a partition. -/
def State.seal (s : State) (j rid p : Nat) : State :=
  ((s.pf F.IOMMU_SEAL_rid j rid).pf F.IOMMU_SEAL_part j p).pf F.IOMMU_SEAL_valid j 1

theorem State.seal_run (j rid p : Nat) : (s.seal j rid p).pcie.run = s.pcie.run := rfl

theorem State.seal_sealed {m j rid p : Nat} (hj : j ∈ sealsOf m) (hrid : rid < 65536) (hp : p < 16) : (s.seal j rid p).sealed m rid p = true := by
  refine List.any_eq_true.mpr ⟨j, hj, ?_⟩
  have hvalid : (s.seal j rid p).gb F.IOMMU_SEAL_valid j = true := State.gb_pf_one _ _ _ (by decide) (by decide)
  have hr : (s.seal j rid p).gf F.IOMMU_SEAL_rid j = rid := by
    unfold State.seal
    rw [State.gf_pf_apart _ (f := F.IOMMU_SEAL_valid) (f' := F.IOMMU_SEAL_rid) (by decide),
      State.gf_pf_apart _ (f := F.IOMMU_SEAL_part) (f' := F.IOMMU_SEAL_rid) (by decide), State.gf_pf_same _ _ _ _ (by decide) (by decide)]
    exact Nat.mod_eq_of_lt hrid
  have hpart : (s.seal j rid p).gf F.IOMMU_SEAL_part j = p := by
    unfold State.seal
    rw [State.gf_pf_apart _ (f := F.IOMMU_SEAL_valid) (f' := F.IOMMU_SEAL_part) (by decide), State.gf_pf_same _ _ _ _ (by decide) (by decide)]
    exact Nat.mod_eq_of_lt hp
  rw [hvalid, hr, hpart]
  simp

theorem State.reply_sealed (i : Nat) (r : MboxResp) (m rid part : Nat) : (s.reply i r).sealed m rid part = s.sealed m rid part := rfl

theorem State.reply_pcie (i : Nat) (r : MboxResp) : (s.reply i r).pcie = s.pcie := rfl

theorem exec_tdispStart {s : State} {i seq p rid m j : Nat} (hopen : s.mboxOpen i = true) {q : State} (hq : q = s.pf F.MBOX_CTRL_go i 1)
    (hi : isTen i p = true) (hbusy : q.partBusy p = false) (hrid : rid < 65536)
    (hadm : [0, 1].find? (fun m => q.sec.admitted.at? (m * 65536 + rid % 65536) = some p) = some m)
    (hfree : (sealsOf m).find? (fun j => !q.gb F.IOMMU_SEAL_valid j) = some j) :
    exec (.tdispStart i seq p rid) s = .next (((q.putInRun (m * 65536 + rid)).seal j rid p).reply i ⟨11, seq, Rot.ok, [], 0⟩) := by
  subst hq
  have hexec : exec (.tdispStart i seq p rid) s = execTdispStart i seq p rid s := rfl
  rw [hexec, execTdispStart]
  refine congrArg Host.Outcome.next (State.mbox_reply hopen ?_)
  rw [if_neg (by simp [hi]), if_neg (by simp [hbusy]), hadm]
  dsimp only
  rw [hfree, Nat.mod_eq_of_lt hrid]
  rfl

/-! ### Seals end (R392) -/

theorem State.seals_rdN {m k : Nat} (l : List Nat) : (s.each l fun i s => s.wr .IOMMU_SEAL (64 * m + i) 0).rdN .IOMMU_SEAL k =
    if k ∈ l.map (64 * m + ·) then 0 else s.rdN .IOMMU_SEAL k := by
  induction l generalizing s with
  | nil => rfl
  | cons i l ih =>
    rw [State.each_cons, ih]
    by_cases hk : k = 64 * m + i
    · subst hk
      simp
    · have hne : (s.wr .IOMMU_SEAL (64 * m + i) 0).rdN .IOMMU_SEAL k = s.rdN .IOMMU_SEAL k :=
        State.rdN_wr_ne s (by unfold Reg.key; omega) 0
      rw [hne]
      simp [hk]

/-- The seal entries of an H-die that a loss of requesters ends. -/
def sealsLost (s : State) (m : Nat) (rids : Nat → Bool) : List Nat :=
  (List.range 64).filter fun i => s.gb F.IOMMU_SEAL_valid (64 * m + i) && rids (s.gf F.IOMMU_SEAL_rid (64 * m + i))

theorem State.sealDrop_rdN (m : Nat) (rids : Nat → Bool) (k : Nat) : (s.sealDrop m rids).rdN .IOMMU_SEAL k =
    if k ∈ (sealsLost s m rids).map (64 * m + ·) then 0 else s.rdN .IOMMU_SEAL k :=
  State.seals_rdN _ (sealsLost s m rids)

/-- A seal entry of a state is in force for a requester. -/
def sealHeld (s : State) (rid k : Nat) : Bool := s.gb F.IOMMU_SEAL_valid k && s.gf F.IOMMU_SEAL_rid k = rid

theorem sealHeld_of_rdN {s s' : State} {k : Nat} (h : s'.rdN .IOMMU_SEAL k = s.rdN .IOMMU_SEAL k) (rid : Nat) : sealHeld s' rid k = sealHeld s rid k := by
  have hgf : ∀ f : Fld, f.reg = .IOMMU_SEAL → s'.gf f k = s.gf f k := fun f hf => by rw [State.gf, hf, h, State.gf, hf]
  rw [sealHeld, State.gb, hgf _ rfl, hgf _ rfl]
  rfl

theorem sealHeld_of_zero {s : State} {k : Nat} (h : s.rdN .IOMMU_SEAL k = 0) (rid : Nat) : sealHeld s rid k = false := by
  have hvalid : s.gb F.IOMMU_SEAL_valid k = false := by
    rw [State.gb, State.gf, h]
    decide
  rw [sealHeld, hvalid, Bool.false_and]

/-- No loss of requesters puts an entry in force, and each entry of a requester that is lost ends. -/
theorem State.sealDrop_held (m : Nat) (rids : Nat → Bool) (rid k : Nat) (h : sealHeld s rid k = false ∨ rids rid = true ∧ k ∈ sealsOf m) :
    sealHeld (s.sealDrop m rids) rid k = false := by
  by_cases hlost : k ∈ (sealsLost s m rids).map (64 * m + ·)
  · exact sealHeld_of_zero ((State.sealDrop_rdN s m rids k).trans (if_pos hlost)) rid
  · rw [sealHeld_of_rdN ((State.sealDrop_rdN s m rids k).trans (if_neg hlost))]
    obtain h | ⟨hrid, hk⟩ := h
    · exact h
    · by_contra hheld
      simp only [sealHeld, Bool.not_eq_false, Bool.and_eq_true, decide_eq_true_eq] at hheld
      obtain ⟨hvalid, hrid'⟩ := hheld
      obtain ⟨i, hi, rfl⟩ := List.mem_map.mp hk
      exact hlost (List.mem_map.mpr ⟨i, List.mem_filter.mpr ⟨hi, by simp [hvalid, hrid', hrid]⟩, rfl⟩)

theorem State.sealed_of_held {m rid : Nat} (h : ∀ k ∈ sealsOf m, sealHeld s rid k = false) (part : Nat) : s.sealed m rid part = false := by
  refine List.any_eq_false.mpr fun k hk => ?_
  have hheld : (s.gb F.IOMMU_SEAL_valid k && decide (s.gf F.IOMMU_SEAL_rid k = rid)) = false := h k hk
  rw [hheld]
  simp

theorem exec_tdispLeaveRun (rid : Nat) : exec (.tdispLeaveRun rid) s = .next ((s.sealDrop 0 (· = rid)).sealDrop 1 (· = rid)) := rfl

theorem State.leftRun_sealed {m : Nat} (hm : m < 2) (rid part : Nat) :
    ((s.sealDrop 0 (· = rid)).sealDrop 1 (· = rid)).sealed m rid part = false := by
  refine State.sealed_of_held _ (fun k hk => State.sealDrop_held _ _ _ _ _ ?_) part
  obtain rfl | rfl : m = 0 ∨ m = 1 := by omega
  · exact .inl (State.sealDrop_held s 0 _ rid k (.inr ⟨by simp, hk⟩))
  · exact .inr ⟨by simp, hk⟩

/-! ### Firmware, zeroisation and debug (R404 to R408, R435) -/

/-- The state with an image in its slot, and staged where its class is the RoT's (R406). -/
def State.slotted (s : State) (cls : Nat) (image : Bytes) : State :=
  (s.onSec fun x => { x with slots := x.slots.put cls (leVal (imgDigest image), imgSvn image) }).when (cls < 2)
    fun s => s.onSec fun x => { x with rotStaged := some (imgDigest image) }

/-- The image is staged on the dies it is for. -/
def State.staged (s : State) (cls mask : Nat) (image : Bytes) : State :=
  (s.slotted cls image).each (clsDies cls mask) fun n s => s.onSec fun x =>
    { x with dies := x.dies.put n { x.dies.atD n {} with staged := some (leVal (imgDigest image), imgSvn image), started := false } }

theorem State.staged_mem (cls mask : Nat) (image : Bytes) : (s.staged cls mask image).mem = s.mem := by
  unfold State.staged
  refine (State.each_keeps (π := State.mem) _ (fun _ _ => by rfl) _).trans ?_
  unfold State.slotted
  exact State.when_keeps (π := State.mem) _ (fun _ => by rfl) _

theorem exec_fwStage {s : State} {i seq cls mask : Nat} {image : Bytes} (hopen : s.mboxOpen i = true) {q : State}
    (hq : q = s.pf F.MBOX_CTRL_go i 1) (hi : i = 1) (hcls : cls < 5) (himg : fieldB image 0 4 = cls)
    (hdies : cls = 2 ∨ cls = 3 → clsDies cls mask ≠ []) (hidle : (clsDies cls mask).any (fun n => q.dieState n = 1) = false) :
    exec (.fwStage i seq cls mask image) s = .next ((if imgCheck q cls image ≠ Rot.ok then q.testFails else q.staged cls mask image).reply i
      ⟨12, seq, imgCheck q cls image, [], 0⟩) := by
  subst hq
  have hexec : exec (.fwStage i seq cls mask image) s = execFwStage i seq cls mask image s := rfl
  have hthere : ((decide (cls = 2) || decide (cls = 3)) && decide (clsDies cls mask = [])) = false := by
    by_cases h : cls = 2 ∨ cls = 3
    · simp [hdies h]
    · simp only [not_or] at h
      simp [h]
  rw [hexec, execFwStage]
  refine congrArg Host.Outcome.next (State.mbox_reply hopen ?_)
  dsimp only
  rw [if_neg (by simp [isOp, hi]), if_neg (by simp only [hthere, himg]; simp; omega), if_neg (by simp only [hidle]; decide)]
  by_cases hok : imgCheck (s.pf F.MBOX_CTRL_go i 1) cls image = Rot.ok
  · rw [if_neg (not_not.mpr hok), if_neg (not_not.mpr hok), hok]
    rfl
  · rw [if_pos hok, if_pos hok]
    rfl

/-- The die starts its staged image. -/
def State.dieStarts (s : State) (node : Nat) : State :=
  s.onSec fun x => { x with dies := x.dies.put node { s.sec.dies.atD node {} with started := true } }

theorem exec_fwActivate {s : State} {i seq node : Nat} (hopen : s.mboxOpen i = true) {q : State} (hq : q = s.pf F.MBOX_CTRL_go i 1) (hi : i = 1)
    (hnode : node < 10) (hstaged : (q.sec.dies.atD node {}).staged.isSome = true) (hnew : (q.sec.dies.atD node {}).started = false)
    (hreset : (q.sec.dies.atD node {}).reset = false) (hin : q.dieIn node = true) (hroom : q.epochFull = false) :
    exec (.fwActivate i seq node) s = .next (((q.dieStarts node).dieReset node).reply i ⟨13, seq, Rot.ok, [], 0⟩).settle := by
  subst hq
  have hexec : exec (.fwActivate i seq node) s = execFwActivate i seq node s := rfl
  have hthere : ((s.pf F.MBOX_CTRL_go i 1).sec.dies.atD node {}).staged.isNone = false :=
    Option.isNone_eq_false_iff.mpr hstaged
  rw [hexec, execFwActivate]
  refine congrArg (fun s : State => Host.Outcome.next s.settle) (State.mbox_reply hopen ?_)
  dsimp only
  rw [if_neg (by simp [isOp, hi]), if_neg (by rw [hthere]; simp; omega), if_neg (by simp only [hnew, hreset, hin]; simp),
    if_neg (by simp [hroom])]
  rfl

theorem exec_zeroise {s : State} {i seq : Nat} (hopen : s.mboxOpen i = true) (hi : i = 1) :
    exec (.zeroise i seq) s = .next ((s.pf F.MBOX_CTRL_go i 1).zeroise.reply i ⟨16, seq, Rot.ok, [], 0⟩) := by
  have hexec : exec (.zeroise i seq) s = execZeroise i seq s := rfl
  rw [hexec, execZeroise]
  refine congrArg Host.Outcome.next (State.mbox_reply hopen ?_)
  rw [if_neg (by simp [isOp, hi])]

/-- Debug is unlocked once everything is zeroised (R435). -/
def State.unlocked (s : State) : State := (s.zeroise.pf F.ROT_STATUS_debug_unlocked 0 1).approvedSync

theorem State.unlocked_on : s.unlocked.gf F.ROT_STATUS_debug_unlocked = 1 := by
  unfold State.unlocked State.approvedSync State.pb
  rw [State.gf_pf_apart _ (f := F.ROT_STATUS_approved) (f' := F.ROT_STATUS_debug_unlocked) (by decide),
    State.gf_pf_same _ _ _ _ (by decide) (by decide)]
  rfl

theorem exec_debugUnlock {s : State} {i seq : Nat} {token : Bytes} (hopen : s.mboxOpen i = true) (hi : i = 1) :
    exec (.debugUnlock i seq token) s = .next
      ((if Config.sigOk 4 token then (s.pf F.MBOX_CTRL_go i 1).unlocked else s.pf F.MBOX_CTRL_go i 1).reply i
        ⟨17, seq, if Config.sigOk 4 token then Rot.ok else Rot.verifyFail, [], 0⟩) := by
  have hexec : exec (.debugUnlock i seq token) s = execDebugUnlock i seq token s := rfl
  rw [hexec, execDebugUnlock]
  refine congrArg Host.Outcome.next (State.mbox_reply hopen ?_)
  rw [if_neg (by simp [isOp, hi])]
  cases Config.sigOk 4 token <;> rfl

/-- Settles O50: no check of the command turns the request away, so that it is answered with its own result. -/
theorem secretCommandsComplete : Obligations.SecretCommandsComplete := by
  intro s i seq p hopen q
  refine ⟨?release, ?husk, ?provision, ?device, ?start, fun rid => ?leave, ?stage, ?activate, fun hi => ?zeroise, fun token hi => ?debug⟩
  case release =>
    intro slot dg ct wrapped tag r hi hbusy hsealed hslot hreport hfresh kek k
    refine ⟨_, exec_keyRelease hopen rfl hi hbusy hsealed hslot hreport hfresh, ?_, fun key hkey => ?_⟩
    · exact State.reply_answered ..
    · have hk : releasedKey q p slot dg ct wrapped tag = some key := hkey
      rw [hk]
      exact Tab.at_put_same ..
  case husk =>
    intro slot ctx header chunks hi hbusy hsealed hslot hctx hpart hkey hver hlen hmod hmax hheld
    exact ⟨_, exec_huskLoad hopen rfl hi hbusy hsealed hslot hctx hpart hkey hver hlen hmod hmax hheld, State.reply_answered .., State.reply_mem ..⟩
  case provision =>
    intro kind idx secret hi hkind hidx hpsk
    exact ⟨_, exec_provision hopen hi hkind hidx hpsk, State.reply_answered .., Tab.at_put_same .., rfl⟩
  case device =>
    intro rid port ms hi hbusy hsealed hrid hport hpsk
    exact ⟨_, exec_tdispAdmit hopen rfl hi hbusy hsealed hrid hport hpsk, State.reply_answered .., Tab.at_put_same ..⟩
  case start =>
    intro rid m j hi hbusy hrid hp hadm hfree
    refine ⟨_, exec_tdispStart hopen rfl hi hbusy hrid hadm hfree, State.reply_answered .., ?_, ?_⟩
    · rw [State.reply_sealed]
      exact State.seal_sealed _ (List.mem_of_find?_eq_some hfree) hrid hp
    · rw [State.reply_pcie, State.seal_run]
      exact State.putInRun_mem ..
  case leave => exact ⟨_, exec_tdispLeaveRun s rid, fun m hm _ part => State.leftRun_sealed s hm rid part⟩
  case stage =>
    intro cls mask image hi hcls himg hdies hidle
    refine ⟨_, exec_fwStage hopen rfl hi hcls himg hdies hidle, State.reply_answered .., ?_⟩
    rw [State.reply_mem]
    split
    · rfl
    · exact State.staged_mem q cls mask image
  case activate =>
    intro node hi hnode hstaged hnew hreset hin hroom
    exact ⟨_, State.reply_answered .., exec_fwActivate hopen rfl hi hnode hstaged hnew hreset hin hroom⟩
  case zeroise => exact ⟨_, exec_zeroise hopen hi, State.reply_answered ..⟩
  case debug =>
    refine ⟨_, exec_debugUnlock hopen hi, State.reply_answered .., fun hok => ?_⟩
    rw [State.reply_gf, if_pos hok]
    exact State.unlocked_on _

/-! ### Responses (R402, R413, R414) -/

theorem State.mbox_taken {s : State} {i : Nat} (h : s.sec.resp.has i = true) (seq cmd p : Nat) (f : State → Nat × Bytes × State) :
    s.mbox i seq cmd p f = s := by
  rw [State.mbox, if_pos (by simp [h])]

/-- On the error state every request is answered ERROR_STATE (R402). -/
theorem State.mbox_error {s : State} {i : Nat} (hi : i < 17) (hready : s.gb F.ROT_STATUS_ready = true) (hsag : s.flt.sag = false)
    (hreset : s.pwr.inReset = false) (hresp : s.sec.resp.has i = false) (hwaits : s.sec.waits.has i = false)
    (herr : (s.pf F.MBOX_CTRL_go i 1).gb F.ROT_STATUS_error = true) (seq cmd p : Nat) (f : State → Nat × Bytes × State) :
    s.mbox i seq cmd p f = (s.pf F.MBOX_CTRL_go i 1).reply i ⟨cmd, seq, Rot.errorState, [], p⟩ := by
  rw [State.mbox, if_neg (by simp [hready, hsag, hreset, hresp, hwaits]; omega)]
  dsimp only
  rw [herr]
  rfl

/-- The bytes of a response, with its header. -/
def respBytes (r : MboxResp) : Bytes := leBytes 2 r.cmd ++ leBytes 2 (8 + r.body.length) ++ leBytes 4 r.seq ++ r.body

/-- The response stands in the buffer and no longer with the RoT. -/
def State.respOut (s : State) (i : Nat) (r : MboxResp) : State :=
  ({ s with mem := s.mem.putBytes (mboxBuf i + 0x4000) ((respBytes r).take 16384) } : State).onSec fun x => { x with resp := x.resp.del i }

/-- The mailbox's registers show a response. -/
def State.respRegs (s : State) (i result n : Nat) : State :=
  (((s.pf F.MBOX_STATUS_done i 1).pf F.MBOX_STATUS_result i result).pf F.MBOX_STATUS_resp_len i n).pf F.MBOX_CTRL_go i 0

theorem State.respOut_keeps (i : Nat) (r : MboxResp) (f : Fld) (j : Nat) : (s.respOut i r).gf f j = s.gf f j := rfl

theorem State.respRegs_gf {f : Fld} (hf : Fld.apart F.MBOX_STATUS_done f = true) (hf' : Fld.apart F.MBOX_STATUS_result f = true)
    (hf'' : Fld.apart F.MBOX_STATUS_resp_len f = true) (i result n : Nat) :
    (((s.pf F.MBOX_STATUS_done i 1).pf F.MBOX_STATUS_result i result).pf F.MBOX_STATUS_resp_len i n).gf f i = s.gf f i := by
  rw [State.gf_pf_apart _ hf'', State.gf_pf_apart _ hf', State.gf_pf_apart _ hf]

theorem State.respRegs_done (i result n : Nat) : (s.respRegs i result n).gf F.MBOX_STATUS_done i = 1 := by
  unfold State.respRegs
  rw [State.gf_pf_apart _ (f := F.MBOX_CTRL_go) (f' := F.MBOX_STATUS_done) (by decide),
    State.gf_pf_apart _ (f := F.MBOX_STATUS_resp_len) (f' := F.MBOX_STATUS_done) (by decide),
    State.gf_pf_apart _ (f := F.MBOX_STATUS_result) (f' := F.MBOX_STATUS_done) (by decide), State.gf_pf_same _ _ _ _ (by decide) (by decide)]
  rfl

theorem State.respRegs_result {result : Nat} (h : result < 256) (i n : Nat) : (s.respRegs i result n).gf F.MBOX_STATUS_result i = result := by
  unfold State.respRegs
  rw [State.gf_pf_apart _ (f := F.MBOX_CTRL_go) (f' := F.MBOX_STATUS_result) (by decide),
    State.gf_pf_apart _ (f := F.MBOX_STATUS_resp_len) (f' := F.MBOX_STATUS_result) (by decide), State.gf_pf_same _ _ _ _ (by decide) (by decide)]
  exact Nat.mod_eq_of_lt h

theorem State.respRegs_go (i result n : Nat) : (s.respRegs i result n).gf F.MBOX_CTRL_go i = 0 := by
  unfold State.respRegs
  rw [State.gf_pf_same _ _ _ _ (by decide) (by decide)]
  rfl

theorem State.respRegs_keeps (i result n : Nat) : (s.respRegs i result n).sec = s.sec ∧ (s.respRegs i result n).outbox = s.outbox ∧
    (s.respRegs i result n).mem = s.mem := ⟨rfl, rfl, rfl⟩

theorem exec_mboxResponse {s : State} {i : Nat} {r : MboxResp} (hr : s.sec.resp.at? i = some r) (hsag : s.flt.sag = false) (hpart : r.part = 0) :
    exec (.mboxResponse i) s = .next (((s.respOut i r).respRegs i r.result (8 + r.body.length)).msiOut 10 (s.gf F.MBOX_MSI_ADDR_addr i * 4)
      (s.gf F.MBOX_MSI_DATA_data i)) := by
  have hexec : exec (.mboxResponse i) s = execMboxResponse i s := rfl
  have haddr := State.respRegs_gf (s.respOut i r) (f := F.MBOX_MSI_ADDR_addr) (by decide) (by decide) (by decide) i r.result (8 + r.body.length)
  have hdata := State.respRegs_gf (s.respOut i r) (f := F.MBOX_MSI_DATA_data) (by decide) (by decide) (by decide) i r.result (8 + r.body.length)
  rw [State.respOut_keeps] at haddr hdata
  rw [← haddr, ← hdata, hexec, execMboxResponse, hr]
  dsimp only
  rw [if_neg (by simp [hsag]), if_pos hpart]
  rfl

/-! ### The self-test and the keys of the Chainring (R70, R401, R402) -/

theorem crIdx_bound {node k : Nat} (h : crThere node k = true) : node < 10 := by
  simp only [crThere, Bool.and_eq_true, decide_eq_true_eq] at h
  exact h.1

/-- The sender's end of a link counts the cell. -/
def State.cellSent (s : State) (i k : Nat) : State :=
  match crPeer s i k with
  | some j => s.bump64 .CR_TX_CTR j
  | none => s

theorem State.cellSent_alone {i k : Nat} (h : crPeer s i k = none) : s.cellSent i k = s := by
  rw [State.cellSent, h]

theorem crPeer_wr {r : Reg} (hr : Reg.CR_LINK_STATUS.ctorIdx ≠ r.ctorIdx) (i v k : Nat) : crPeer (s.wr r i v) i k = crPeer s i k := by
  have hkey : Reg.CR_LINK_STATUS.key i ≠ r.key i := by
    unfold Reg.key
    omega
  have hgf : (s.wr r i v).gf F.CR_LINK_STATUS_peer i = s.gf F.CR_LINK_STATUS_peer i := by
    rw [State.gf, State.rdN_wr_ne s hkey, State.gf]
  rw [crPeer, hgf]
  rfl

theorem exec_crCellRx {s : State} {node k : Nat} (tagOk : Bool) (cell : Bytes) (hthere : crThere node k = true)
    (hkeyed : s.gb F.CR_LINK_STATUS_keyed (crIdx node k) = true) :
    exec (.crCellRx node k tagOk cell) s =
      if tagOk then .next ((s.cellSent (crIdx node k) k).bump64 .CR_RX_CTR (crIdx node k))
      else .next ((((s.cellSent (crIdx node k) k).pf F.CR_LINK_STATUS_auth_fail (crIdx node k) 1).raise node 0 0 false 0).settle) := by
  have hnode := crIdx_bound hthere
  have hexec : exec (.crCellRx node k tagOk cell) s = execCrCellRx node k tagOk cell s := rfl
  rw [hexec, execCrCellRx]
  dsimp only
  rw [if_neg (by simp; omega), if_neg (by simp [hthere, hkeyed])]
  rfl

theorem exec_crLinkRekey {s : State} {node k : Nat} (hthere : crThere node k = true) (hkeyed : s.gb F.CR_LINK_STATUS_keyed (crIdx node k) = true)
    (hpeer : crPeer s (crIdx node k) k = none) (hrun : 2 ^ 63 ≤ s.rdN .CR_TX_CTR (crIdx node k)) (herr : s.gb F.ROT_STATUS_error = false) :
    exec (.crLinkRekey node k) s = .next (if (s.wr .CR_TX_CTR (crIdx node k) 1).rdN .CR_RX_CTR (crIdx node k) < 2 ^ 63
      then s.wr .CR_TX_CTR (crIdx node k) 1 else (s.wr .CR_TX_CTR (crIdx node k) 1).wr .CR_RX_CTR (crIdx node k) 1) := by
  have hexec : exec (.crLinkRekey node k) s = execCrLinkRekey node k s := rfl
  rw [hexec, execCrLinkRekey]
  dsimp only
  have htx : ¬ s.rdN .CR_TX_CTR (crIdx node k) < 2 ^ 63 := by omega
  have hpeer' : crPeer (s.wr .CR_TX_CTR (crIdx node k) 1) (crIdx node k) k = none := (crPeer_wr s (by decide) ..).trans hpeer
  have hpeer'' : crPeer ((s.wr .CR_TX_CTR (crIdx node k) 1).wr .CR_RX_CTR (crIdx node k) 1) (crIdx node k) k = none :=
    (crPeer_wr _ (by decide) ..).trans hpeer'
  rw [if_neg (by simp [hthere, hkeyed, herr])]
  simp only [if_neg htx, hpeer', hpeer'']

theorem State.bothRestarted (i : Nat) (c : Prop) [Decidable c] :
    (if c then s.wr .CR_TX_CTR i 1 else (s.wr .CR_TX_CTR i 1).wr .CR_RX_CTR i 1).rdN .CR_TX_CTR i = 1 ∧
      (if c then s.wr .CR_TX_CTR i 1 else (s.wr .CR_TX_CTR i 1).wr .CR_RX_CTR i 1).mem = s.mem := by
  have hsame : (s.wr .CR_TX_CTR i 1).rdN .CR_TX_CTR i = 1 := (State.rdN_wr_same ..).trans (Nat.mod_eq_of_lt (by decide))
  split
  · exact ⟨hsame, rfl⟩
  · refine ⟨(State.rdN_wr_ne _ (by unfold Reg.key; simp [Reg.ctorIdx]) 1).trans hsame, rfl⟩

/-- Settles O51: the registers of a response and of a link are followed through each command. -/
theorem mailboxAndLinkKeysComplete : Obligations.MailboxAndLinkKeysComplete := by
  refine ⟨fun s i seq => ⟨?taken, ?error, ?response⟩, fun s node k cell => ⟨rfl, ?test, fun hthere hkeyed hpeer => ⟨?cell, ?rekey⟩, ?forged⟩⟩
  case taken =>
    intro htaken kind idx secret
    exact congrArg Host.Outcome.next (State.mbox_taken htaken seq 14 0 _)
  case error =>
    intro hi hready hsag hreset hresp hwaits herr kind idx secret
    exact ⟨_, congrArg Host.Outcome.next (State.mbox_error hi hready hsag hreset hresp hwaits herr seq 14 0 _), State.reply_answered .., rfl⟩
  case response =>
    intro r hr hsag hpart hi hresult
    obtain ⟨hsec, hout, hmem⟩ := State.respRegs_keeps (s.respOut i r) i r.result (8 + r.body.length)
    refine ⟨_, State.respRegs_done .., State.respRegs_result _ hresult .., State.respRegs_go .., ?_, hout, hmem, exec_mboxResponse hr hsag hpart⟩
    rw [hsec]
    exact Tab.at_del_same ..
  case test =>
    intro herr
    exact congrArg Host.Outcome.next (if_neg (by simp [herr]))
  case cell =>
    have hexec := exec_crCellRx true cell hthere hkeyed
    rw [State.cellSent_alone s hpeer] at hexec
    exact hexec
  case rekey =>
    intro hrun herr
    obtain ⟨hctr, hmem⟩ := State.bothRestarted s (crIdx node k) ((s.wr .CR_TX_CTR (crIdx node k) 1).rdN .CR_RX_CTR (crIdx node k) < 2 ^ 63)
    exact ⟨_, exec_crLinkRekey hthere hkeyed hpeer hrun herr, hctr, hmem⟩
  case forged =>
    intro hthere hkeyed
    exact ⟨_, State.gf_pf_same _ _ _ _ (by decide) (by decide), exec_crCellRx false cell hthere hkeyed⟩

end Sys2Proof.Machine

/-! PROOF. Fault events, operator commands and automatic recovery (R438 to R448, R455). -/

namespace Sys2Proof.Machine

variable (s : State)

/-! ### What the operations of a fault block leave -/

/-- The state of the node's blocks is what the registers show. -/
def blkShown (s : State) (node : Nat) : Prop := (node < 10 && !s.pwr.up) = false

theorem blkShown_of_state {s : State} {node b : Nat} (h : s.blkState node b ≠ 4) : blkShown s node := by
  unfold blkShown
  unfold State.blkState at h
  by_contra hoff
  exact h (if_pos (by simpa using hoff))

theorem State.blkState_shown {s s' : State} {node : Nat} (h : blkShown s node) (hpwr : s'.pwr = s.pwr) (b : Nat) :
    s'.blkState node b = s'.gf F.FLT_STATUS_state (fltIdx node b) := by
  unfold blkShown at h
  rw [State.blkState, hpwr, h]
  rfl

theorem State.bmpEvent_flt (kind : Nat) (record : Bytes) : (s.bmpEvent kind record).flt = s.flt := by
  unfold State.bmpEvent
  split
  · rfl
  · refine State.each_keeps (π := State.flt) s (fun r s => ?_) _
    dsimp only
    split
    · rfl
    · split
      · rfl
      · exact State.when_keeps (π := State.flt) (f := fun s => s.emit (.ibi 0xA1)) _ (fun s => rfl) _

theorem State.fltRecord_regs (node b src cls event : Nat) (forced : Bool) (detail : Nat) :
    (s.fltRecord node b src cls event forced detail).regs = s.regs := State.bmpEvent_regs ..

theorem State.fltRecord_gf (node b src cls event : Nat) (forced : Bool) (detail : Nat) (f : Fld) (j : Nat) :
    (s.fltRecord node b src cls event forced detail).gf f j = s.gf f j := State.gf_of_regs (State.fltRecord_regs ..) f j

theorem State.fltRecord_quiet (node b src cls event : Nat) (forced : Bool) (detail : Nat) :
    (s.fltRecord node b src cls event forced detail).flt.quiet = s.flt.quiet := by
  unfold State.fltRecord
  dsimp only
  rw [State.bmpEvent_flt]

theorem State.fltRecord_blkState (node b src cls event : Nat) (forced : Bool) (detail : Nat) (node' b' : Nat) :
    (s.fltRecord node b src cls event forced detail).blkState node' b' = s.blkState node' b' := by
  rw [State.blkState, State.fltRecord_gf, State.fltRecord_keeps (π := State.pwr) (fun _ _ _ _ _ _ _ => rfl)]
  rfl

theorem State.setQuiet_gf {f : Fld} (hf : Fld.apart F.FLT_QUIET_LEFT_ms f = true) (node b : Nat) (ms : Option Nat) :
    (s.setQuiet node b ms).gf f (fltIdx node b) = s.gf f (fltIdx node b) := by
  unfold State.setQuiet
  exact (State.gf_pf_apart _ hf ..).trans (State.gf_of_regs rfl ..)

theorem State.setQuiet_some (node b ms : Nat) : (s.setQuiet node b (some ms)).flt.quiet.at? (fltIdx node b) = some ms :=
  Tab.at_put_same s.flt.quiet _ _

theorem State.setQuiet_none (node b : Nat) : (s.setQuiet node b none).flt.quiet.at? (fltIdx node b) = none :=
  Tab.at_del_same s.flt.quiet _

theorem State.fltState_gf {f : Fld} (hf : Fld.apart F.FLT_STATUS_state f = true) (node b st : Nat) :
    (s.fltState node b st).gf f (fltIdx node b) = s.gf f (fltIdx node b) := by
  unfold State.fltState
  dsimp only
  split
  · rfl
  · exact (State.when_keeps (π := fun s => s.gf f (fltIdx node b)) _ (fun s => State.gf_of_regs (s' := s.fltMsi (fltIdx node b)) rfl ..) _).trans
      (State.gf_pf_apart _ hf ..)

theorem State.fltState_state {st : Nat} (hst : st < 4) (node b : Nat) :
    (s.fltState node b st).gf F.FLT_STATUS_state (fltIdx node b) = st := by
  unfold State.fltState
  dsimp only
  split
  · assumption
  · refine (State.when_keeps (π := fun s => s.gf F.FLT_STATUS_state (fltIdx node b)) _
      (fun s => State.gf_of_regs (s' := s.fltMsi (fltIdx node b)) rfl ..) _).trans ?_
    exact (State.gf_pf_same _ _ _ _ (by decide) (by decide)).trans (Nat.mod_eq_of_lt hst)

theorem State.fltState_quiet (node b st : Nat) : (s.fltState node b st).flt.quiet = s.flt.quiet := by
  unfold State.fltState
  dsimp only
  split
  · rfl
  · exact State.when_keeps (π := fun s => s.flt.quiet) (f := fun s => s.fltMsi (fltIdx node b)) _ (fun _ => rfl) _

/-- The source bits a report sets, with their class. -/
def State.reportBits (s : State) (node b src : Nat) : State :=
  (s.pf F.FLT_STATUS_src (fltIdx node b) (setBitsN (s.gf F.FLT_STATUS_src (fltIdx node b)) src src 1)).pf F.FLT_STATUS_class_max (fltIdx node b)
    (classMax node b (setBitsN (s.gf F.FLT_STATUS_src (fltIdx node b)) src src 1))

/-- What a report does beyond them it does in other registers. -/
theorem State.fltReport_bits {f : Fld} (hother : [Reg.FLT_COUNT, .TB_STATUS, .FLT_QUIET_LEFT].all (fun r => f.reg.ctorIdx ≠ r.ctorIdx) = true)
    {node b : Nat} (hi : fltIdx node b < 65536) (src : Nat) :
    (s.fltReport node b src).gf f (fltIdx node b) = (s.reportBits node b src).gf f (fltIdx node b) := by
  have hcount : f.reg.ctorIdx ≠ Reg.FLT_COUNT.ctorIdx := by simpa using List.all_eq_true.mp hother .FLT_COUNT (by simp)
  have htb : f.reg.ctorIdx ≠ Reg.TB_STATUS.ctorIdx := by simpa using List.all_eq_true.mp hother .TB_STATUS (by simp)
  have hquiet : f.reg.ctorIdx ≠ Reg.FLT_QUIET_LEFT.ctorIdx := by simpa using List.all_eq_true.mp hother .FLT_QUIET_LEFT (by simp)
  have hapart : Fld.apart F.FLT_QUIET_LEFT_ms f = true := by
    unfold Fld.apart
    rw [decide_eq_true hquiet, Bool.true_or]
  unfold State.fltReport
  dsimp only
  rw [State.when_keeps (π := fun s => s.gf f (fltIdx node b)) _ (fun s => State.setQuiet_gf s hapart ..),
    State.when_keeps (π := fun s => s.gf f (fltIdx node b)) _
      (fun s => State.gf_pf_distinct s F.TB_STATUS_replica_fault f htb (by decide) hi _),
    State.when_keeps (π := fun s => s.gf f (fltIdx node b)) _ (fun s => State.gf_of_regs (s := s) (s' := s.fltMsi (fltIdx node b)) rfl ..),
    State.when_keeps (π := fun s => s.gf f (fltIdx node b)) _ (fun s => State.gf_of_regs (State.bmpEvent_regs s ..) ..),
    State.gf_bump_distinct _ hcount hi hi]
  rfl

/-- A report leaves every field of its own registers but the source bits and their class. -/
theorem State.fltReport_own {f : Fld} (hsrc : Fld.apart F.FLT_STATUS_src f = true) (hcls : Fld.apart F.FLT_STATUS_class_max f = true)
    (hother : [Reg.FLT_COUNT, .TB_STATUS, .FLT_QUIET_LEFT].all (fun r => f.reg.ctorIdx ≠ r.ctorIdx) = true) {node b : Nat}
    (hi : fltIdx node b < 65536) (src : Nat) : (s.fltReport node b src).gf f (fltIdx node b) = s.gf f (fltIdx node b) := by
  rw [State.fltReport_bits s hother hi, State.reportBits, State.gf_pf_apart _ hcls, State.gf_pf_apart _ hsrc]

theorem State.fltReport_first {node b : Nat} (hi : fltIdx node b < 65536) :
    bitN ((s.fltReport node b 0).gf F.FLT_STATUS_src (fltIdx node b)) 0 = true := by
  have hbit := bitN_setBitsN_same (s.gf F.FLT_STATUS_src (fltIdx node b)) 0 true
  rw [State.fltReport_bits s (by decide) hi, State.reportBits,
    State.gf_pf_apart _ (f := F.FLT_STATUS_class_max) (f' := F.FLT_STATUS_src) (by decide), State.gf_pf_same _ _ _ _ (by decide) (by decide)]
  revert hbit
  show bitN (setBitsN _ 0 0 1) 0 = true → _
  generalize setBitsN (s.gf F.FLT_STATUS_src (fltIdx node b)) 0 0 1 = v
  simp only [bitN, beq_iff_eq]
  omega

theorem State.fltReport_blkState {node b : Nat} (hi : fltIdx node b < 65536) (src : Nat) :
    (s.fltReport node b src).blkState node b = s.blkState node b := by
  rw [State.blkState, State.fltReport_own s (by decide) (by decide) (by decide) hi,
    State.fltReport_keeps (π := State.pwr) (fun _ _ _ _ _ _ _ => rfl)]
  rfl

/-! ### The epoch (R46 to R49) -/

/-- The registers an advance of PKG_EPOCH writes. -/
def epochRegs : List Reg := [.PKG_EPOCH, .PKG_EPOCH_STATUS, .TILE_UNIT_EPOCH, .NME_UNIT_EPOCH, .DRL_UNIT_EPOCH]

theorem State.recordLive_gf {f : Fld} (htile : f.reg.ctorIdx ≠ Reg.TILE_UNIT_EPOCH.ctorIdx) (hnme : f.reg.ctorIdx ≠ Reg.NME_UNIT_EPOCH.ctorIdx)
    (hdrl : f.reg.ctorIdx ≠ Reg.DRL_UNIT_EPOCH.ctorIdx) {j : Nat} (hj : j < 65536) (old : Nat) (skip : UnitId → Bool) :
    (s.recordLive old skip).gf f j = s.gf f j := by
  refine State.each_keeps (π := fun s => s.gf f j) s (fun u s => ?_) _
  split
  next h =>
    simp only [Bool.and_eq_true] at h
    obtain ⟨⟨⟨⟨⟨-, -⟩, hexists⟩, -⟩, -⟩, -⟩ := h
    cases u with
    | tile t =>
      have ht : t < 1152 := by
        simp only [unitExists, State.enabled, Bool.and_eq_true, decide_eq_true_eq] at hexists
        exact hexists.1
      exact State.gf_pf_distinct s F.TILE_UNIT_EPOCH_epoch f htile (i := t) (by omega) hj _
    | nme st =>
      have hst : st < 16 := by simpa [unitExists] using hexists
      exact State.gf_pf_distinct s F.NME_UNIT_EPOCH_epoch f hnme (i := st) (by omega) hj _
    | drl n =>
      have hn : n < 8 := by simpa [unitExists] using hexists
      exact State.gf_pf_distinct s F.DRL_UNIT_EPOCH_epoch f hdrl (i := n) (by omega) hj _
  next => rfl

theorem State.epochUp_gf {f : Fld} (hf : epochRegs.all (fun r => f.reg.ctorIdx ≠ r.ctorIdx) = true) {j : Nat} (hj : j < 65536) :
    s.epochUp.gf f j = s.gf f j := by
  have hne : ∀ r ∈ epochRegs, f.reg.ctorIdx ≠ r.ctorIdx := fun r hr => by simpa using List.all_eq_true.mp hf r hr
  unfold State.epochUp State.epochUpBut
  dsimp only
  rw [State.recordLive_gf _ (hne .TILE_UNIT_EPOCH (by decide)) (hne .NME_UNIT_EPOCH (by decide)) (hne .DRL_UNIT_EPOCH (by decide)) hj]
  have hepoch : ∀ (s : State) v, (s.pf F.PKG_EPOCH_epoch 0 v).gf f j = s.gf f j := fun s v =>
    State.gf_pf_distinct s F.PKG_EPOCH_epoch f (hne .PKG_EPOCH (by decide)) (by decide) hj v
  split
  · rw [State.gf_pf_distinct _ F.PKG_EPOCH_STATUS_overflow f (hne .PKG_EPOCH_STATUS (by decide)) (by decide) hj, hepoch]
  · exact hepoch ..

theorem State.epochUp_pkgEpoch : s.epochUp.pkgEpoch = min (2 ^ 32 - 1) (s.pkgEpoch + 1) := by
  unfold State.epochUp State.epochUpBut
  dsimp only
  rw [State.pkgEpoch, State.recordLive_gf _ (by decide) (by decide) (by decide) (by decide)]
  split
  next hmax =>
    rw [State.gf_pf_apart _ (f := F.PKG_EPOCH_STATUS_overflow) (f' := F.PKG_EPOCH_epoch) (by decide),
      State.gf_pf_same _ _ _ _ (by decide) (by decide), Nat.min_eq_left hmax]
    rfl
  next hroom =>
    have hlt : s.pkgEpoch + 1 < 2 ^ 32 := by omega
    rw [State.gf_pf_same _ _ _ _ (by decide) (by decide), Nat.min_eq_right (by omega)]
    exact Nat.mod_eq_of_lt hlt

/-! ### Events of a tile (R438, R442, R443) -/

section Tile

variable {node b : Nat} (hn : node < 8) (hb : 16 ≤ b) (hb' : b < 160)
include hn hb hb'

theorem fltClasses_tile : fltClasses node b = [1, 2, 2, 2, 2] := by
  have hne : ∀ k < 16, b ≠ k := by omega
  simp [fltClasses, hn, hne, hb, hb']

theorem eventRegs_tile (src : Nat) : s.eventRegs node b src = s := by
  have hne : ∀ k < 16, b ≠ k := by omega
  have hten : node ≠ 10 := by omega
  simp [State.eventRegs, replicaBlk, hn, hne, hten]

theorem exec_faultEvent_tile {src : Nat} (hsrc : src < 5) (detail : Nat) :
    exec (.faultEvent node b src detail) s = .next ((s.raise node b src false detail).settle) := by
  have hne : ∀ k < 16, b ≠ k := by omega
  have hhost : ¬ (node = 8 ∨ node = 9) := by omega
  have hclass : (fltClass node b src).isNone = false := by
    rw [fltClass, fltClasses_tile hn hb hb']
    simpa using hsrc
  have hexec : exec (.faultEvent node b src detail) s = execFaultEvent node b src detail s := rfl
  rw [hexec, execFaultEvent, if_neg (by simp [hclass]), if_neg (by simp [hne]), if_neg (by simp [hne]), if_neg (by simp [hhost])]
  have hwhen : s.when (((decide (node < 8) && decide (b = 6)) || ((decide (node = 8) || decide (node = 9)) && decide (b = 2))) &&
      decide (src = 1) && decide (s.homeOf detail = some node))
      (fun s => s.homeReq { kind := .rebuild, agent := agentNone, line := lineOf detail }) = s := by
    rw [State.when, if_neg (by simp [hne])]
  dsimp only
  rw [hwhen, eventRegs_tile s hn hb hb']

end Tile

theorem State.raise_notice {node b src cls : Nat} (hcls : fltClass node b src = some cls) (hlow : cls < 2) (forced : Bool) (detail : Nat) :
    s.raise node b src forced detail = s.fltReport node b src := by
  rw [State.raise, hcls]
  exact if_pos hlow

theorem autoOk_of_gf {s s' : State} {node b : Nat} (hrec : ∀ f : Fld, f.reg = .FLT_RECOVERY → s'.gf f (fltIdx node b) = s.gf f (fltIdx node b))
    (hepoch : s'.epochFull = s.epochFull) : autoOk s' node b = autoOk s node b := by
  unfold autoOk State.gb
  dsimp only
  rw [hrec _ rfl, hrec _ rfl, hrec _ rfl, hepoch]

/-! ### A block leaves service (R443) -/

section Leaves

variable {node b st : Nat} (hi : fltIdx node b < 65536) (hst : st < 4)

theorem State.leaveService_due (src : Nat) : (s.leaveService node b src st).flt.due = s.flt.due ++ [(node, b, src)] := by
  unfold State.leaveService
  refine (State.when_keeps (π := fun s => s.flt.due) _ (fun s => State.epochUp_keeps (π := fun s => s.flt.due) s fun _ _ _ _ _ _ _ => rfl) _).trans ?_
  have hstate : (s.fltState node b st).flt.due = s.flt.due := State.fltState_keeps (π := fun s => s.flt.due) (fun _ _ _ _ _ _ _ => rfl) s node b st
  rw [State.leaveFor]
  exact congrArg (· ++ [(node, b, src)]) hstate

/-- A reading that neither a report nor the list of the blocks that leave can change. -/
theorem State.leaveService_keeps {α : Type} {π : State → α} (h : ReportIndep π) (hflt : ∀ (s : State) due cause, π { s with flt := { s.flt with due := due, cause := cause } } = π s)
    (src : Nat) : π (s.leaveService node b src st) = π s := by
  unfold State.leaveService State.leaveFor
  refine (State.when_keeps _ (fun s => State.epochUp_keeps s h) _).trans ?_
  exact (hflt ..).trans (State.fltState_keeps h s ..)

theorem State.leaveFor_gf (src : Nat) (f : Fld) (j : Nat) : (s.leaveFor node b src st).gf f j = (s.fltState node b st).gf f j := rfl

include hi

theorem State.leaveService_gf {f : Fld} (hf : epochRegs.all (fun r => f.reg.ctorIdx ≠ r.ctorIdx) = true) (src : Nat) :
    (s.leaveService node b src st).gf f (fltIdx node b) = (s.fltState node b st).gf f (fltIdx node b) := by
  unfold State.leaveService
  rw [State.when_keeps (π := fun s => s.gf f (fltIdx node b)) _ (fun s => State.epochUp_gf s hf hi), State.leaveFor_gf]

include hst

theorem State.leaveService_state (src : Nat) : (s.leaveService node b src st).gf F.FLT_STATUS_state (fltIdx node b) = st := by
  rw [State.leaveService_gf s hi (by decide), State.fltState_state s hst]

omit hst

theorem State.leaveService_pkgEpoch (hservice : serviceBlk node b = true) (src : Nat) :
    (s.leaveService node b src st).pkgEpoch = min (2 ^ 32 - 1) (s.pkgEpoch + 1) := by
  have hepoch : (s.fltState node b st).gf F.PKG_EPOCH_epoch = s.gf F.PKG_EPOCH_epoch := by
    unfold State.fltState
    dsimp only
    split
    · rfl
    · exact (State.when_keeps (π := fun s => s.gf F.PKG_EPOCH_epoch) _
        (fun s => State.gf_of_regs (s' := s.fltMsi (fltIdx node b)) rfl ..) _).trans
        (State.gf_pf_distinct s F.FLT_STATUS_state F.PKG_EPOCH_epoch (by decide) hi (by decide) st)
  unfold State.leaveService
  rw [State.when, if_pos hservice, State.epochUp_pkgEpoch, State.pkgEpoch, State.leaveFor_gf, hepoch]
  rfl

end Leaves

/-- The event of a source, with its record (R438, R454). -/
def State.eventNoted (s : State) (node b src cls : Nat) (forced : Bool) (detail : Nat) : State :=
  (s.fltReport node b src).fltRecord node b src cls 0 forced detail

theorem State.eventNoted_keeps {α : Type} {π : State → α} (h : ReportIndep π) (node b src cls : Nat) (forced : Bool) (detail : Nat) :
    π (s.eventNoted node b src cls forced detail) = π s :=
  (State.fltRecord_keeps h ..).trans (State.fltReport_keeps h ..)

/-- The block out of service in state 1, with its quiet period (R443, R445). -/
def State.leftAuto (s : State) (node b src : Nat) : State := (s.leaveService node b src 1).setQuiet node b (some (quietMs s b))

theorem State.raise_auto {node b src : Nat} (hcls : fltClass node b src = some 2) (hpart : partialSrc node b src = false) {forced : Bool} {detail : Nat}
    (hin : (s.eventNoted node b src 2 forced detail).blkState node b = 0) (hauto : autoOk (s.eventNoted node b src 2 forced detail) node b = true) :
    s.raise node b src forced detail =
      ((s.eventNoted node b src 2 forced detail).leftAuto node b src).fltRecord node b src 2 1 forced detail := by
  unfold State.eventNoted at hin hauto ⊢
  rw [State.raise, hcls]
  dsimp only
  rw [if_neg (by decide), if_neg (by simp [hpart]), if_neg (by decide : ¬ (2 : Nat) = 3), if_pos hin, if_neg (by simp), if_neg (by simp [hauto])]
  rfl

theorem State.eventNoted_gf {node b : Nat} {f : Fld} (hf : f.unreported = true) (hi : fltIdx node b < 65536) {j : Nat} (hj : j < 65536)
    (src cls : Nat) (forced : Bool) (detail : Nat) : (s.eventNoted node b src cls forced detail).gf f j = s.gf f j :=
  (State.fltRecord_gf ..).trans (State.fltReport_gf s hf hi hj src)

theorem State.eventNoted_blkState {node b : Nat} (hi : fltIdx node b < 65536) (src cls : Nat) (forced : Bool) (detail : Nat) :
    (s.eventNoted node b src cls forced detail).blkState node b = s.blkState node b :=
  (State.fltRecord_blkState ..).trans (State.fltReport_blkState s hi src)

theorem State.eventNoted_autoOk {node b : Nat} (hi : fltIdx node b < 65536) (src cls : Nat) (forced : Bool) (detail : Nat) :
    autoOk (s.eventNoted node b src cls forced detail) node b = autoOk s node b := by
  refine autoOk_of_gf (fun f hf => ?_) ?_
  · exact State.eventNoted_gf s (by unfold Fld.unreported; rw [hf]; decide) hi hi ..
  · rw [State.epochFull, State.gb, State.eventNoted_gf s (by decide) hi (by decide)]
    rfl

/-- The block out of service, its quiet period, the epoch, and what has to end (R443). -/
theorem State.leftAuto_spec {node b : Nat} (hi : fltIdx node b < 65536) (hservice : serviceBlk node b = true) (src : Nat) :
    (s.leftAuto node b src).gf F.FLT_STATUS_state (fltIdx node b) = 1 ∧ (s.leftAuto node b src).flt.due = s.flt.due ++ [(node, b, src)] ∧
      (s.leftAuto node b src).pkgEpoch = min (2 ^ 32 - 1) (s.pkgEpoch + 1) ∧
      (s.leftAuto node b src).flt.quiet.at? (fltIdx node b) = some (quietMs s b) := by
  have hdue : (s.leftAuto node b src).flt.due = (s.leaveService node b src 1).flt.due :=
    State.setQuiet_keeps (π := fun s => s.flt.due) (fun _ _ _ _ _ _ _ => rfl) _ node b _
  have hepoch : (s.leftAuto node b src).pkgEpoch = (s.leaveService node b src 1).pkgEpoch := by
    unfold State.leftAuto State.setQuiet State.pkgEpoch
    exact (State.gf_pf_distinct _ F.FLT_QUIET_LEFT_ms F.PKG_EPOCH_epoch (by decide) hi (by decide) _).trans (State.gf_of_regs rfl ..)
  refine ⟨?_, hdue.trans (State.leaveService_due s src), hepoch.trans (State.leaveService_pkgEpoch s hi hservice src), State.setQuiet_some ..⟩
  exact (State.setQuiet_gf _ (by decide) ..).trans (State.leaveService_state s hi (by decide) src)

/-- An event of class F2 of a tile takes it out of service (R438, R442 to R445). -/
theorem faultEvent_leaves {s : State} {node b src : Nat} (hn : node < 8) (hb : 16 ≤ b) (hb' : b < 160) (hdue : s.flt.due = []) (hsrc : 0 < src)
    (hsrc' : src < 5) (hin : s.blkState node b = 0) (hauto : autoOk s node b = true) (detail : Nat) :
    ∃ s1 : State, s1.blkState node b = 1 ∧ s1.flt.due = [(node, b, src)] ∧ s1.pkgEpoch = min (2 ^ 32 - 1) (s.pkgEpoch + 1) ∧
      s1.flt.quiet.at? (fltIdx node b) = some (s.odN 0x4F00 2) ∧ s1.mem = s.mem ∧ exec (.faultEvent node b src detail) s = .next s1.settle := by
  have hi : fltIdx node b < 65536 := fltIdx_lt (by omega) (by omega)
  have hshown : blkShown s node := blkShown_of_state (b := b) (by omega)
  have hcls : fltClass node b src = some 2 := by
    rw [fltClass, fltClasses_tile hn hb hb']
    obtain rfl | rfl | rfl | rfl : src = 1 ∨ src = 2 ∨ src = 3 ∨ src = 4 := by omega
    all_goals rfl
  have hpart : partialSrc node b src = false := by
    have hne : ∀ k < 16, b ≠ k := by omega
    simp [partialSrc, hne]
  have hservice : serviceBlk node b = true := by simp [serviceBlk, hn, hb, hb']
  have hraise := State.raise_auto s (detail := detail) (forced := false) hcls hpart ((State.eventNoted_blkState s hi ..).trans hin)
    ((State.eventNoted_autoOk s hi ..).trans hauto)
  generalize hs1 : s.eventNoted node b src 2 false detail = s1 at hraise
  have hpwr : s1.pwr = s.pwr := by rw [← hs1, State.eventNoted_keeps (π := State.pwr) s fun _ _ _ _ _ _ _ => rfl]
  have hod : s1.od = s.od := by rw [← hs1, State.eventNoted_keeps (π := State.od) s fun _ _ _ _ _ _ _ => rfl]
  have hdue1 : s1.flt.due = [] := by rw [← hs1, State.eventNoted_keeps (π := fun s => s.flt.due) s fun _ _ _ _ _ _ _ => rfl, hdue]
  have hmem : s1.mem = s.mem := by rw [← hs1, State.eventNoted_keeps (π := State.mem) s fun _ _ _ _ _ _ _ => rfl]
  have hepoch : s1.pkgEpoch = s.pkgEpoch := by rw [← hs1]; exact State.eventNoted_gf s (by decide) hi (by decide) ..
  have hquiet : quietMs s1 b = s.odN 0x4F00 2 := by
    rw [quietMs, if_neg (by omega), State.odN, hod]
    rfl
  obtain ⟨hstate, hdueL, hepochL, hquietL⟩ := State.leftAuto_spec s1 hi hservice src
  refine ⟨_, ?_, ?_, ?_, ?_, ?_, (exec_faultEvent_tile s hn hb hb' hsrc' detail).trans (congrArg (fun s : State => Host.Outcome.next s.settle) hraise)⟩
  · have hpwrL : (s1.leftAuto node b src).pwr = s.pwr := by
      unfold State.leftAuto
      rw [State.setQuiet_keeps (π := State.pwr) (fun _ _ _ _ _ _ _ => rfl),
        State.leaveService_keeps (π := State.pwr) s1 (fun _ _ _ _ _ _ _ => rfl) (fun _ _ _ => rfl), hpwr]
    rw [State.fltRecord_blkState, State.blkState_shown hshown hpwrL, hstate]
  · rw [State.fltRecord_keeps (π := fun s => s.flt.due) (fun _ _ _ _ _ _ _ => rfl), hdueL, hdue1]
    rfl
  · rw [State.pkgEpoch, State.fltRecord_gf]
    exact hepochL.trans (by rw [hepoch])
  · rw [State.fltRecord_quiet, hquietL, hquiet]
  · unfold State.leftAuto
    rw [State.fltRecord_keeps (π := State.mem) (fun _ _ _ _ _ _ _ => rfl), State.setQuiet_keeps (π := State.mem) (fun _ _ _ _ _ _ _ => rfl),
      State.leaveService_keeps (π := State.mem) s1 (fun _ _ _ _ _ _ _ => rfl) (fun _ _ _ => rfl), hmem]

theorem exec_fltForce_tile {node b src : Nat} (hn : node < 8) (hb : 16 ≤ b) (hb' : b < 160) (hsrc : src < 5) :
    exec (.fltForce .operator node b (BitVec.ofNat 32 (2 ^ src))) s = .next ((s.raise node b src true 0).settle) := by
  have hexec : exec (.fltForce .operator node b (BitVec.ofNat 32 (2 ^ src))) s = execFltForce .operator node b (BitVec.ofNat 32 (2 ^ src)) s := rfl
  have hbits : (List.range 32).filter (fun i => bitN (BitVec.ofNat 32 (2 ^ src)).toNat i) = [src] := by
    obtain rfl | rfl | rfl | rfl | rfl : src = 0 ∨ src = 1 ∨ src = 2 ∨ src = 3 ∨ src = 4 := by omega
    all_goals decide
  have hcls : ∃ c, fltClass node b src = some c := by
    refine Option.isSome_iff_exists.mp ?_
    rw [fltClass, fltClasses_tile hn hb hb']
    simpa using hsrc
  obtain ⟨c, hcls⟩ := hcls
  rw [hexec, execFltForce, if_neg (by simp), hbits]
  dsimp only
  rw [State.each_cons, hcls]
  dsimp only
  rw [if_pos (by simp), eventRegs_tile s hn hb hb']
  rfl

/-! ### Operator commands (R448) -/

theorem blkThere_lt {node b : Nat} (h : blkThere node b = true) : node ≤ 10 ∧ b < 160 := by
  simp only [blkThere, decide_eq_true_eq] at h
  by_contra hout
  refine h ?_
  have hcases : 10 < node ∨ 160 ≤ b := by omega
  unfold fltClasses
  obtain hnode | hb := hcases
  · rw [if_neg (by omega), if_neg (by simp; omega), if_neg (by omega)]
  · have hne : ∀ k < 160, b ≠ k := by omega
    have h20 : ¬ b < 20 := by omega
    have h16 : ¬ b < 16 := by omega
    have h160 : ¬ b < 160 := by omega
    simp [hne, h20, h16, h160]

theorem blkThere_idx {node b : Nat} (h : blkThere node b = true) : fltIdx node b < 65536 := by
  obtain ⟨hnode, hb⟩ := blkThere_lt h
  unfold fltIdx
  split_ifs <;> omega

section Result

variable (node b op : Nat)

theorem State.fltResult_result {res : Nat} (h : res < 8) : (s.fltResult node b op res).gf F.FLT_CMD_result (fltIdx node b) = res :=
  (State.gf_pf_same _ _ _ _ (by decide) (by decide)).trans (Nat.mod_eq_of_lt h)

theorem State.fltResult_op {op : Nat} (h : op < 4) (res : Nat) : (s.fltResult node b op res).gf F.FLT_CMD_op (fltIdx node b) = op := by
  unfold State.fltResult
  rw [State.gf_pf_apart _ (f := F.FLT_CMD_result) (f' := F.FLT_CMD_op) (by decide),
    State.gf_pf_apart _ (f := F.FLT_CMD_go) (f' := F.FLT_CMD_op) (by decide), State.gf_pf_same _ _ _ _ (by decide) (by decide)]
  exact Nat.mod_eq_of_lt h

theorem State.fltResult_gf {f : Fld} (hf : f.reg.ctorIdx ≠ Reg.FLT_CMD.ctorIdx) (res : Nat) :
    (s.fltResult node b op res).gf f (fltIdx node b) = s.gf f (fltIdx node b) := by
  have hkey : ∀ (s : State) (g : Fld) v, g.reg = .FLT_CMD → (s.pf g (fltIdx node b) v).gf f (fltIdx node b) = s.gf f (fltIdx node b) := fun s g v hg =>
    State.gf_pf_reg s (by unfold Reg.key; rw [hg]; omega) v
  unfold State.fltResult
  rw [hkey _ F.FLT_CMD_result _ rfl, hkey _ F.FLT_CMD_go _ rfl, hkey _ F.FLT_CMD_op _ rfl]

theorem State.fltResult_keeps (res : Nat) : (s.fltResult node b op res).mem = s.mem ∧ (s.fltResult node b op res).flt = s.flt ∧
    (s.fltResult node b op res).pwr = s.pwr := ⟨rfl, rfl, rfl⟩

end Result

theorem fltRefusal_cmdRecord (node b : Nat) : fltRefusal (s.cmdRecord node b) node b = fltRefusal s node b := by
  unfold fltRefusal State.cmdRecord
  rw [State.fltRecord_blkState]

theorem State.cmdRecord_blkState (node b : Nat) : (s.cmdRecord node b).blkState node b = s.blkState node b := State.fltRecord_blkState ..

theorem State.cmdRecord_gf (node b : Nat) (f : Fld) (j : Nat) : (s.cmdRecord node b).gf f j = s.gf f j := State.fltRecord_gf ..

theorem State.cmdRecord_keeps {α : Type} {π : State → α} (h : ReportIndep π) (node b : Nat) : π (s.cmdRecord node b) = π s :=
  State.fltRecord_keeps h ..

section Commands

variable {s : State} {node b : Nat} (hthere : blkThere node b = true)
include hthere

theorem exec_fltIsolate_refused {r : Nat} (hr : fltRefusal s node b = some r) :
    exec (.fltIsolate .operator node b) s = .next ((s.cmdRecord node b).fltResult node b 1 r) := by
  have hexec : exec (.fltIsolate .operator node b) s = execFltIsolate .operator node b s := rfl
  rw [hexec, execFltIsolate, if_neg (by simp [mayCommand, hthere])]
  dsimp only
  rw [fltRefusal_cmdRecord, hr]

/-- A block held in state 1 goes to state 2. -/
theorem exec_fltIsolate_held (hr : fltRefusal s node b = none) (hstate : s.blkState node b = 1) : exec (.fltIsolate .operator node b) s =
    .next (((((s.cmdRecord node b).setQuiet node b none).fltState node b 2).fltRecord node b 255 0 4 false 0).fltResult node b 1 0) := by
  have hexec : exec (.fltIsolate .operator node b) s = execFltIsolate .operator node b s := rfl
  rw [hexec, execFltIsolate, if_neg (by simp [mayCommand, hthere])]
  dsimp only
  rw [fltRefusal_cmdRecord, hr]
  dsimp only
  rw [State.cmdRecord_blkState, hstate, if_neg (by decide), if_pos rfl]

theorem exec_fltIsolate_served (hr : fltRefusal s node b = none) (hstate : s.blkState node b = 0) : exec (.fltIsolate .operator node b) s =
    .next (((((s.cmdRecord node b).leaveService node b 255 2).fltRecord node b 255 0 1 false 0).settle.fltRecord node b 255 0 4 false 0).fltResult
      node b 1 0) := by
  have hexec : exec (.fltIsolate .operator node b) s = execFltIsolate .operator node b s := rfl
  rw [hexec, execFltIsolate, if_neg (by simp [mayCommand, hthere])]
  dsimp only
  rw [fltRefusal_cmdRecord, hr]
  dsimp only
  rw [State.cmdRecord_blkState, hstate, if_neg (by decide), if_neg (by decide)]
  rfl

theorem exec_fltRestore (hr : fltRefusal s node b = none) (hstate : s.blkState node b = 2) (hroom : s.epochFull = false) (pass : Bool) :
    exec (.fltRestore .operator node b pass) s = .next (if !pass then (s.cmdRecord node b).testFail node b 2 else
      ((((((s.cmdRecord node b).recoverBlk node b).countRecovery node b 0).pf F.FLT_RECOVERY_auto (fltIdx node b) 1).fltRecord node b 255 0 2 false
        0).fltResult node b 2 0).settle.repairActed node b) := by
  have hexec : exec (.fltRestore .operator node b pass) s = execFltRestore .operator node b pass s := rfl
  have hroom' : (s.cmdRecord node b).epochFull = false := by rw [State.epochFull, State.gb, State.cmdRecord_gf]; exact hroom
  rw [hexec, execFltRestore, if_neg (by simp [mayCommand, hthere])]
  dsimp only
  rw [fltRefusal_cmdRecord, hr]
  dsimp only
  rw [State.cmdRecord_blkState, hstate, if_neg (by decide), if_neg (by simp [hroom'])]
  cases pass <;> rfl

theorem exec_fltReset (hr : fltRefusal s node b = none) (hstate : s.blkState node b = 2) (hroom : s.epochFull = false) :
    exec (.fltReset .operator node b true) s = .next ((((((s.cmdRecord node b).recoverBlk node b).zeroEpochs node b).pf F.FLT_RECOVERY_failed_tests
      (fltIdx node b) 0).fltResult node b 3 0).settle.repairActed node b) := by
  have hexec : exec (.fltReset .operator node b true) s = execFltReset .operator node b true s := rfl
  have hroom' : (s.cmdRecord node b).epochFull = false := by rw [State.epochFull, State.gb, State.cmdRecord_gf]; exact hroom
  rw [hexec, execFltReset, if_neg (by simp [mayCommand, hthere])]
  dsimp only
  rw [fltRefusal_cmdRecord, hr]
  dsimp only
  rw [State.cmdRecord_blkState, hstate, if_neg (by simp [hroom']), if_neg (by decide)]
  rfl

theorem exec_fltRecoveryClear : exec (.fltRecoveryClear .operator node b 0) s = .next ((((((s.pf F.FLT_RECOVERY_count (fltIdx node b) 0).pf
    F.FLT_RECOVERY_recent (fltIdx node b) 0).pf F.FLT_RECOVERY_failed_tests (fltIdx node b) 0).pf F.FLT_RECOVERY_overflow (fltIdx node b) 0).pf
    F.FLT_RECOVERY_auto (fltIdx node b) 1).fltRecord node b 255 0 7 false 0) := by
  have hexec : exec (.fltRecoveryClear .operator node b 0) s = execFltRecoveryClear .operator node b 0 s := rfl
  rw [hexec, execFltRecoveryClear]
  exact if_neg (by simp [mayCommand, hthere])

end Commands

/-! ### The results of the commands -/

theorem State.gf_pf_flag (f : Fld) (i : Nat) (hlo : f.lo ≤ f.hi) (hhi : f.hi < 64) : (s.pf f i 1).gf f i = 1 :=
  (State.gf_pf_same _ _ _ _ hhi hlo).trans (Nat.mod_eq_of_lt (Nat.one_lt_two_pow (by omega)))

theorem fltRefusal_node {s : State} {node b : Nat} (h : fltRefusal s node b = none) : node < 10 := by
  by_contra hnode
  have hcmd : cmdBlk node b = false := by simp [cmdBlk, show ¬ node < 8 by omega, hnode]
  rw [fltRefusal, hcmd, if_pos (by decide)] at h
  contradiction

/-- A block held, with the note of it and the result (R448). -/
theorem isolatedHeld_spec {s : State} {node b : Nat} (hshown : blkShown s node) (op : Nat) :
    let s' := ((((s.setQuiet node b none).fltState node b 2).fltRecord node b 255 0 4 false 0).fltResult node b op 0)
    s'.blkState node b = 2 ∧ s'.gf F.FLT_CMD_result (fltIdx node b) = 0 ∧ s'.flt.quiet.at? (fltIdx node b) = none ∧ s'.mem = s.mem := by
  intro s'
  have hkeeps : ∀ {α : Type} {π : State → α}, ReportIndep π →
      π (((s.setQuiet node b none).fltState node b 2).fltRecord node b 255 0 4 false 0) = π s := fun hπ => by
    rw [State.fltRecord_keeps hπ, State.fltState_keeps hπ, State.setQuiet_keeps hπ]
  obtain ⟨hmem, hflt, hpwr⟩ := State.fltResult_keeps (((s.setQuiet node b none).fltState node b 2).fltRecord node b 255 0 4 false 0) node b op 0
  refine ⟨?_, State.fltResult_result _ _ _ _ (by decide), ?_, hmem.trans (hkeeps fun _ _ _ _ _ _ _ => rfl)⟩
  · rw [State.blkState_shown hshown (hpwr.trans (hkeeps fun _ _ _ _ _ _ _ => rfl)), State.fltResult_gf _ _ _ _ (by decide), State.fltRecord_gf,
      State.fltState_state _ (by decide)]
  · rw [hflt, State.fltRecord_quiet, State.fltState_quiet, State.setQuiet_none]

/-- A failed self-test leaves the block held, with the result 6 (R448). -/
theorem State.testFail_spec {node b : Nat} (hshown : blkShown s node) {op : Nat} :
    (s.testFail node b op).gf F.FLT_CMD_result (fltIdx node b) = 6 ∧ (s.testFail node b op).blkState node b = 2 ∧
      (s.testFail node b op).gf F.FLT_STATUS_selftest_fail (fltIdx node b) = 1 ∧ (s.testFail node b op).mem = s.mem := by
  have hnote : ∀ {α : Type} {π : State → α} (hrec : ∀ (s : State) e, π (s.fltRecord node b 255 0 e false 0) = π s) (s : State) (c : Bool),
      π ((s.fltRecord node b 255 0 3 false 0).when c (fun s => s.fltRecord node b 255 0 4 false 0)) = π s := fun hrec s c =>
    (State.when_keeps _ (fun s => hrec s 4) _).trans (hrec s 3)
  have hkeeps : ∀ {α : Type} {π : State → α}, ReportIndep π → (∀ (s : State), π (s.fltResult node b op 6) = π s) →
      π (s.testFail node b op) = π s := fun hπ hres => by
    unfold State.testFail
    dsimp only
    rw [hres, hnote (fun s e => State.fltRecord_keeps hπ ..), State.pf_keeps hπ, State.pf_keeps hπ, State.fltState_keeps hπ, State.setQuiet_keeps hπ]
  have hgf : ∀ {f : Fld}, f.reg.ctorIdx ≠ Reg.FLT_CMD.ctorIdx → Fld.apart F.FLT_RECOVERY_failed_tests f = true →
      (s.testFail node b op).gf f (fltIdx node b) =
        (((s.setQuiet node b none).fltState node b 2).pf F.FLT_STATUS_selftest_fail (fltIdx node b) 1).gf f (fltIdx node b) := fun {f} hcmd hfailed => by
    unfold State.testFail
    dsimp only
    rw [State.fltResult_gf _ _ _ _ hcmd, hnote (π := fun s => s.gf f (fltIdx node b)) (fun s e => State.fltRecord_gf ..), State.gf_pf_apart _ hfailed]
  refine ⟨State.fltResult_result _ _ _ _ (by decide), ?_, ?_, hkeeps (π := State.mem) (fun _ _ _ _ _ _ _ => rfl) fun _ => rfl⟩
  · rw [State.blkState_shown hshown (hkeeps (π := State.pwr) (fun _ _ _ _ _ _ _ => rfl) fun _ => rfl), hgf (by decide) (by decide),
      State.gf_pf_apart _ (by decide), State.fltState_state _ (by decide)]
  · rw [hgf (by decide) (by decide), State.gf_pf_flag _ _ _ (by decide) (by decide)]

theorem recoveryCleared_spec (node b : Nat) :
    let i := fltIdx node b
    let s' := (((((s.pf F.FLT_RECOVERY_count i 0).pf F.FLT_RECOVERY_recent i 0).pf F.FLT_RECOVERY_failed_tests i 0).pf F.FLT_RECOVERY_overflow i 0).pf
      F.FLT_RECOVERY_auto i 1).fltRecord node b 255 0 7 false 0
    s'.gf F.FLT_RECOVERY_count i = 0 ∧ s'.gf F.FLT_RECOVERY_recent i = 0 ∧ s'.gf F.FLT_RECOVERY_failed_tests i = 0 ∧
      s'.gf F.FLT_RECOVERY_auto i = 1 ∧ s'.mem = s.mem := by
  intro i s'
  have hauto : ∀ (s : State) {f : Fld}, Fld.apart F.FLT_RECOVERY_auto f = true → (s.pf F.FLT_RECOVERY_auto i 1).gf f i = s.gf f i := fun s _ h =>
    State.gf_pf_apart s h ..
  have hoverflow : ∀ (s : State) {f : Fld}, Fld.apart F.FLT_RECOVERY_overflow f = true → (s.pf F.FLT_RECOVERY_overflow i 0).gf f i = s.gf f i :=
    fun s _ h => State.gf_pf_apart s h ..
  refine ⟨?_, ?_, ?_, ?_, ?_⟩
  · rw [State.fltRecord_gf, hauto _ (by decide), hoverflow _ (by decide), State.gf_pf_apart _ (f := F.FLT_RECOVERY_failed_tests) (by decide),
      State.gf_pf_apart _ (f := F.FLT_RECOVERY_recent) (by decide), State.gf_pf_same _ _ _ _ (by decide) (by decide), Nat.zero_mod]
  · rw [State.fltRecord_gf, hauto _ (by decide), hoverflow _ (by decide), State.gf_pf_apart _ (f := F.FLT_RECOVERY_failed_tests) (by decide),
      State.gf_pf_same _ _ _ _ (by decide) (by decide), Nat.zero_mod]
  · rw [State.fltRecord_gf, hauto _ (by decide), hoverflow _ (by decide), State.gf_pf_same _ _ _ _ (by decide) (by decide), Nat.zero_mod]
  · rw [State.fltRecord_gf, State.gf_pf_flag _ _ _ (by decide) (by decide)]
  · exact State.fltRecord_keeps (π := State.mem) (fun _ _ _ _ _ _ _ => rfl) ..

/-! ### Automatic recovery (R445, R446, R455) -/

theorem State.countRecovery_failed (node b recent : Nat) :
    (s.countRecovery node b recent).gf F.FLT_RECOVERY_failed_tests (fltIdx node b) = 0 := by
  unfold State.countRecovery
  dsimp only
  have htime : ∀ (s : State) v, (s.wr .FLT_LAST_TIME (fltIdx node b) v).gf F.FLT_RECOVERY_failed_tests (fltIdx node b) =
      s.gf F.FLT_RECOVERY_failed_tests (fltIdx node b) := fun s v => by
    unfold State.gf
    rw [State.rdN_wr_ne s]
    unfold Reg.key
    simp only [Reg.ctorIdx]
    omega
  rw [htime, State.when_keeps (π := fun s => s.gf F.FLT_RECOVERY_failed_tests (fltIdx node b)) _
    (fun s => State.gf_pf_apart s (f := F.FLT_RECOVERY_overflow) (by decide) ..), State.gf_pf_same _ _ _ _ (by decide) (by decide), Nat.zero_mod]

theorem exec_quietPeriodEnd_pass {s : State} {node b : Nat} (hstate : s.blkState node b = 1) (hquiet : s.flt.quiet.has (fltIdx node b) = true)
    (hdie : s.dieIn node = true) (hroom : s.epochFull = false) :
    ∃ s1 : State, s1.gf F.FLT_RECOVERY_failed_tests (fltIdx node b) = 0 ∧ exec (.quietPeriodEnd node b true) s = .next s1.settle := by
  have hexec : exec (.quietPeriodEnd node b true) s = execQuietPeriodEnd node b true s := rfl
  refine ⟨_, ?_, by rw [hexec, execQuietPeriodEnd, if_neg (by simp [hstate, hquiet, hdie]), if_pos rfl, if_neg (by simp [hroom])]⟩
  rw [State.fltRecord_gf, State.countRecovery_failed]

/-- The state after a failed self-test at the end of a quiet period, which count n of them in a row has (R445). -/
def State.quietFailed (s : State) (node b n : Nat) : State :=
  let src := s.flt.cause.atD (fltIdx node b) 0
  let cls := (fltClass node b src).getD 2
  ((((s.fltReport node b src).pf F.FLT_STATUS_selftest_fail (fltIdx node b) 1).pf F.FLT_RECOVERY_failed_tests (fltIdx node b) n).fltRecord node b src
    cls 0 false 0).fltRecord node b src cls 3 false 0

theorem exec_quietPeriodEnd_fail {s : State} {node b : Nat} (hstate : s.blkState node b = 1) (hquiet : s.flt.quiet.has (fltIdx node b) = true)
    (hdie : s.dieIn node = true) {n : Nat} (hn : min 3 (s.gf F.FLT_RECOVERY_failed_tests (fltIdx node b) + 1) = n) :
    exec (.quietPeriodEnd node b false) s = .next (if n = 3 then
      (((s.quietFailed node b n).setQuiet node b none).fltState node b 2).fltRecord node b (s.flt.cause.atD (fltIdx node b) 0)
        ((fltClass node b (s.flt.cause.atD (fltIdx node b) 0)).getD 2) 4 false 0
      else (s.quietFailed node b n).setQuiet node b (some (quietMs (s.quietFailed node b n) b))) := by
  have hexec : exec (.quietPeriodEnd node b false) s = execQuietPeriodEnd node b false s := rfl
  rw [hexec, execQuietPeriodEnd, if_neg (by simp [hstate, hquiet, hdie]), if_neg (by decide)]
  dsimp only
  rw [hn]
  exact (apply_ite Host.Outcome.next ..).symm

section QuietFailed

variable {node b : Nat} (n : Nat)

theorem State.quietFailed_keeps {α : Type} {π : State → α} (h : ReportIndep π) : π (s.quietFailed node b n) = π s := by
  unfold State.quietFailed
  dsimp only
  rw [State.fltRecord_keeps h, State.fltRecord_keeps h, State.pf_keeps h, State.pf_keeps h, State.fltReport_keeps h]

theorem State.quietFailed_count {n : Nat} (hn : n < 4) : (s.quietFailed node b n).gf F.FLT_RECOVERY_failed_tests (fltIdx node b) = n := by
  unfold State.quietFailed
  dsimp only
  rw [State.fltRecord_gf, State.fltRecord_gf, State.gf_pf_same _ _ _ _ (by decide) (by decide)]
  exact Nat.mod_eq_of_lt hn

theorem State.quietFailed_mark : (s.quietFailed node b n).gf F.FLT_STATUS_selftest_fail (fltIdx node b) = 1 := by
  unfold State.quietFailed
  dsimp only
  rw [State.fltRecord_gf, State.fltRecord_gf, State.gf_pf_apart _ (by decide), State.gf_pf_flag _ _ _ (by decide) (by decide)]

theorem State.quietFailed_state (hi : fltIdx node b < 65536) :
    (s.quietFailed node b n).gf F.FLT_STATUS_state (fltIdx node b) = s.gf F.FLT_STATUS_state (fltIdx node b) := by
  unfold State.quietFailed
  dsimp only
  rw [State.fltRecord_gf, State.fltRecord_gf, State.gf_pf_apart _ (by decide), State.gf_pf_apart _ (by decide),
    State.fltReport_own s (by decide) (by decide) (by decide) hi]

end QuietFailed

section QuietPeriod

variable {s : State} {node b : Nat} (hstate : s.blkState node b = 1) (hquiet : s.flt.quiet.has (fltIdx node b) = true) (hdie : s.dieIn node = true)
include hstate hquiet hdie

/-- The first and the second failed test in a row: the period runs again (R445). -/
theorem quietPeriodEnd_again (hi : fltIdx node b < 65536) (hfew : s.gf F.FLT_RECOVERY_failed_tests (fltIdx node b) < 2) :
    ∃ s', exec (.quietPeriodEnd node b false) s = .next s' ∧ s'.blkState node b = 1 ∧
      s'.gf F.FLT_RECOVERY_failed_tests (fltIdx node b) = s.gf F.FLT_RECOVERY_failed_tests (fltIdx node b) + 1 ∧
      s'.gf F.FLT_STATUS_selftest_fail (fltIdx node b) = 1 ∧ s'.flt.quiet.has (fltIdx node b) = true ∧ s'.mem = s.mem := by
  have hshown : blkShown s node := blkShown_of_state (b := b) (by omega)
  have hexec := exec_quietPeriodEnd_fail hstate hquiet hdie (n := s.gf F.FLT_RECOVERY_failed_tests (fltIdx node b) + 1) (by omega)
  rw [if_neg (by omega)] at hexec
  have hcount := State.quietFailed_count s (node := node) (b := b) (n := s.gf F.FLT_RECOVERY_failed_tests (fltIdx node b) + 1) (by omega)
  generalize s.gf F.FLT_RECOVERY_failed_tests (fltIdx node b) + 1 = n at hexec hcount ⊢
  refine ⟨_, hexec, ?_, ?_, ?_, ?_, ?_⟩
  · rw [State.blkState_shown hshown, State.setQuiet_gf _ (by decide), State.quietFailed_state s n hi, ← State.blkState_shown hshown rfl, hstate]
    rw [State.setQuiet_keeps (π := State.pwr) (fun _ _ _ _ _ _ _ => rfl), State.quietFailed_keeps (π := State.pwr) s n fun _ _ _ _ _ _ _ => rfl]
  · rw [State.setQuiet_gf _ (by decide), hcount]
  · rw [State.setQuiet_gf _ (by decide), State.quietFailed_mark]
  · rw [Tab.has, State.setQuiet_some]
    rfl
  · rw [State.setQuiet_keeps (π := State.mem) (fun _ _ _ _ _ _ _ => rfl), State.quietFailed_keeps (π := State.mem) s n fun _ _ _ _ _ _ _ => rfl]

/-- The third: the block is held (R445). -/
theorem quietPeriodEnd_held (hthird : s.gf F.FLT_RECOVERY_failed_tests (fltIdx node b) = 2) :
    ∃ s', exec (.quietPeriodEnd node b false) s = .next s' ∧ s'.blkState node b = 2 ∧
      s'.gf F.FLT_RECOVERY_failed_tests (fltIdx node b) = 3 ∧ s'.flt.quiet.at? (fltIdx node b) = none ∧ s'.mem = s.mem := by
  have hshown : blkShown s node := blkShown_of_state (b := b) (by omega)
  have hexec := exec_quietPeriodEnd_fail hstate hquiet hdie (n := 3) (by omega)
  rw [if_pos rfl] at hexec
  have hkeeps : ∀ {α : Type} {π : State → α}, ReportIndep π → π (((s.quietFailed node b 3).setQuiet node b none).fltState node b 2) = π s :=
    fun hπ => by rw [State.fltState_keeps hπ, State.setQuiet_keeps hπ, State.quietFailed_keeps s 3 hπ]
  refine ⟨_, hexec, ?_, ?_, ?_, ?_⟩
  · rw [State.fltRecord_blkState, State.blkState_shown hshown (hkeeps fun _ _ _ _ _ _ _ => rfl), State.fltState_state _ (by decide)]
  · rw [State.fltRecord_gf, State.fltState_gf _ (by decide), State.setQuiet_gf _ (by decide), State.quietFailed_count s (by decide)]
  · rw [State.fltRecord_quiet, State.fltState_quiet, State.setQuiet_none]
  · rw [State.fltRecord_keeps (π := State.mem) (fun _ _ _ _ _ _ _ => rfl), hkeeps (π := State.mem) fun _ _ _ _ _ _ _ => rfl]

end QuietPeriod

theorem recentWindowExpiry_spec {s : State} {node b : Nat} (hrecent : 0 < s.gf F.FLT_RECOVERY_recent (fltIdx node b)) :
    ∃ s', exec (.recentWindowExpiry node b) s = .next s' ∧
      s'.gf F.FLT_RECOVERY_recent (fltIdx node b) = s.gf F.FLT_RECOVERY_recent (fltIdx node b) - 1 ∧
      s'.gf F.FLT_RECOVERY_count (fltIdx node b) = s.gf F.FLT_RECOVERY_count (fltIdx node b) ∧
      (s.gf F.FLT_RECOVERY_recent (fltIdx node b) = 1 → s.gf F.FLT_RECOVERY_count (fltIdx node b) < 65535 →
        s'.gf F.FLT_RECOVERY_auto (fltIdx node b) = 1) ∧ s'.mem = s.mem := by
  have hlt := State.gf_lt s F.FLT_RECOVERY_recent (fltIdx node b)
  have hcount : ∀ v, (s.pf F.FLT_RECOVERY_recent (fltIdx node b) v).gf F.FLT_RECOVERY_count (fltIdx node b) = s.gf F.FLT_RECOVERY_count (fltIdx node b) :=
    fun v => State.gf_pf_apart s (by decide) ..
  have hauto : ∀ (s : State) (c : Bool) (f : Fld), Fld.apart F.FLT_RECOVERY_auto f = true →
      (s.when c (fun s => s.pf F.FLT_RECOVERY_auto (fltIdx node b) 1)).gf f (fltIdx node b) = s.gf f (fltIdx node b) := fun s c f hf =>
    State.when_keeps (π := fun s => s.gf f (fltIdx node b)) s (fun s => State.gf_pf_apart s hf ..) c
  have hexec : exec (.recentWindowExpiry node b) s = execRecentWindowExpiry node b s := rfl
  rw [hexec, execRecentWindowExpiry, if_neg (by omega)]
  refine ⟨_, rfl, ?_, ?_, fun hone hroom => ?_, ?_⟩
  · rw [hauto _ _ _ (by decide), State.gf_pf_same _ _ _ _ (by decide) (by decide)]
    exact Nat.mod_eq_of_lt (by simp only [F.FLT_RECOVERY_recent] at hlt ⊢; omega)
  · rw [hauto _ _ _ (by decide), hcount]
  · rw [State.when, if_pos (by simp only [hcount, hone, Bool.and_eq_true, decide_eq_true_eq]; exact ⟨trivial, hroom⟩), State.gf_pf_flag _ _ _ (by decide) (by decide)]
  · exact State.when_keeps (π := State.mem) (f := fun s => s.pf F.FLT_RECOVERY_auto (fltIdx node b) 1) _ (fun _ => rfl) _

/-! ### The obligation -/

/-- Settles O52: an event of class F2 reports, records, and takes the block out of service; each operator command is the operation
of its refusal, state and test result. -/
theorem faultsIsolateAndRecover : Obligations.FaultsIsolateAndRecover := by
  unfold Obligations.FaultsIsolateAndRecover
  refine ⟨fun s node b src detail hn hb hb' hdue => ?_, fun s node b hthere => ?_, fun s node b => ?_⟩
  · have hi : fltIdx node b < 65536 := fltIdx_lt (by omega) (by omega)
    refine ⟨fun hsrc hsrc' hin hauto => faultEvent_leaves hn hb hb' hdue hsrc hsrc' hin hauto detail, ?_, State.fltReport_blkState s hi 0,
      State.fltReport_first s hi, exec_fltForce_tile s hn hb hb'⟩
    have hcls : fltClass node b 0 = some 1 := by
      rw [fltClass, fltClasses_tile hn hb hb']
      rfl
    have hdue' : (s.fltReport node b 0).flt.due = [] :=
      (State.fltReport_keeps (π := fun s => s.flt.due) (fun _ _ _ _ _ _ _ => rfl) ..).trans hdue
    rw [exec_faultEvent_tile s hn hb hb' (by decide), State.raise_notice s hcls (by decide), State.settle_of_done hdue']
  · have hi : fltIdx node b < 65536 := blkThere_idx hthere
    intro i
    refine ⟨fun r hr hlt => ⟨_, exec_fltIsolate_refused hthere hr, State.fltResult_result _ _ _ _ hlt, State.fltResult_op _ _ _ (by decide) _, ?_, ?_⟩,
      fun hr => ⟨fun hstate => ?_, fun hstate hdue => ?_, fun hstate hroom => ⟨?_, ?_, ?_⟩⟩, ?_⟩
    · rw [State.fltResult_gf _ _ _ _ (by decide), State.cmdRecord_gf]
    · exact State.cmdRecord_keeps (π := State.mem) s (fun _ _ _ _ _ _ _ => rfl) node b
    · have hshown : blkShown (s.cmdRecord node b) node := blkShown_of_state (b := b) (by rw [State.cmdRecord_blkState]; omega)
      obtain ⟨hblk, hres, hq, hmem⟩ := isolatedHeld_spec (b := b) hshown 1
      exact ⟨_, exec_fltIsolate_held hthere hr hstate, hblk, hres, hq,
        hmem.trans (State.cmdRecord_keeps (π := State.mem) s (fun _ _ _ _ _ _ _ => rfl) node b)⟩
    · have hshown : blkShown s node := blkShown_of_state (b := b) (by omega)
      refine ⟨_, ?_, ?_, ?_, exec_fltIsolate_served hthere hr hstate⟩
      · rw [State.fltRecord_blkState, State.blkState_shown hshown, State.leaveService_state _ hi (by decide)]
        rw [State.leaveService_keeps (π := State.pwr) _ (fun _ _ _ _ _ _ _ => rfl) (fun _ _ _ => rfl),
          State.cmdRecord_keeps (π := State.pwr) s fun _ _ _ _ _ _ _ => rfl]
      · rw [State.fltRecord_keeps (π := fun s => s.flt.due) (fun _ _ _ _ _ _ _ => rfl), State.leaveService_due,
          State.cmdRecord_keeps (π := fun s => s.flt.due) s fun _ _ _ _ _ _ _ => rfl, hdue]
        rfl
      · rw [State.fltRecord_keeps (π := State.mem) (fun _ _ _ _ _ _ _ => rfl),
          State.leaveService_keeps (π := State.mem) _ (fun _ _ _ _ _ _ _ => rfl) (fun _ _ _ => rfl),
          State.cmdRecord_keeps (π := State.mem) s fun _ _ _ _ _ _ _ => rfl]
    · refine ⟨_, State.fltResult_result _ _ _ _ (by decide), State.fltResult_op _ _ _ (by decide) _, ?_, exec_fltRestore hthere hr hstate hroom true⟩
      rw [State.fltResult_gf _ _ _ _ (by decide), State.fltRecord_gf, State.gf_pf_flag _ _ _ (by decide) (by decide)]
    · have hshown : blkShown (s.cmdRecord node b) node := blkShown_of_state (b := b) (by rw [State.cmdRecord_blkState]; omega)
      obtain ⟨hres, hblk, hmark, hmem⟩ := State.testFail_spec (s.cmdRecord node b) (b := b) hshown (op := 2)
      exact ⟨_, exec_fltRestore hthere hr hstate hroom false, hres, hblk, hmark,
        hmem.trans (State.cmdRecord_keeps (π := State.mem) s (fun _ _ _ _ _ _ _ => rfl) node b)⟩
    · exact ⟨_, State.fltResult_result _ _ _ _ (by decide), State.fltResult_op _ _ _ (by decide) _, exec_fltReset hthere hr hstate hroom⟩
    · exact ⟨_, exec_fltRecoveryClear hthere, recoveryCleared_spec s node b⟩
  · intro i
    refine ⟨fun hstate hquiet hdie _ hb hn => ?_, recentWindowExpiry_spec, ⟨_, rfl, rfl, rfl, rfl⟩⟩
    have hi : fltIdx node b < 65536 := fltIdx_lt hn hb
    exact ⟨exec_quietPeriodEnd_pass hstate hquiet hdie, quietPeriodEnd_again hstate hquiet hdie hi, quietPeriodEnd_held hstate hquiet hdie⟩

end Sys2Proof.Machine

/-! PROOF. The management controller: dictionary commits, sessions, channels and the watchdog (R464, R470 to R479). -/

namespace Sys2Proof.Machine

/-! ### A commit whose requester is gone (R464, log entry 162) -/

/-- A write of 0x4F00.01 waits for its commit; the session that asked for it has been closed. -/
def orphanCommit : State :=
  State.reset.onBmp fun b => { b with commit := some (doorNone, { door := .dtls 0 }, odKey 0x4F00 1, [1], 0) }

/-- The commit stores its value and answers nobody. -/
theorem exec_orphanCommit : ∃ s', exec (.nvCommitDone true) orphanCommit = .next s' ∧ s'.outbox = [] := ⟨_, rfl, by decide⟩

/-- Refutes O57: the commit of a request whose session has closed sends no response. -/
theorem not_dictionaryRequestsComplete : ¬ Obligations.DictionaryRequestsComplete := by
  unfold Obligations.DictionaryRequestsComplete
  intro h
  obtain ⟨s', body, rest, hs', -, -, -, hsent, -⟩ := (h.2 orphanCommit 0 doorNone (odKey 0x4F00 1) 0 { door := .dtls 0 } [1] rfl rfl rfl rfl).1
  obtain ⟨t, ht, hquiet⟩ := exec_orphanCommit
  rw [Host.Outcome.next.inj (hs'.symm.trans ht), hquiet] at hsent
  exact List.cons_ne_nil _ _ hsent.symm

variable (s : State)

/-! ### Requests of an open session (R470 to R472) -/

/-- A request that is new and of a known major is carried out (R475). -/
theorem State.bmpReq_new {s : State} {h : BmpHdr} (hopen : s.doorOpen h.door = true) (hnew : seenBefore s h = (0, []))
    (hmajor : h.odMajor = 1 ∨ h.odMajor = 2) (type : Nat) (run : State → State) : s.bmpReq h type run = run s := by
  rw [State.bmpReq, if_neg (by simp [hopen]), hnew]
  exact if_neg (by obtain h | h := hmajor <;> simp [h])

/-- The session with a response kept for its sequence number (R475). -/
def Sess.answered (x : Sess) (seq : Nat) (m : Bytes) : Sess :=
  { x with resps := ((seq, m) :: x.resps).take 16, high := some (max (x.high.getD 0) seq) }

theorem State.respond_dtls (k seq major type status : Nat) (body : Bytes) :
    s.respond { door := .dtls k, seq := seq, odMajor := major } type status body =
      (s.setSess k (fun x => x.answered seq (bmpMsg type seq major status 1 body))).emit (.bmp k (bmpMsg type seq major status 1 body)) := rfl

theorem State.respond_sess (k seq major type status : Nat) (body : Bytes) :
    (s.respond { door := .dtls k, seq := seq, odMajor := major } type status body).sess k =
      (s.sess k).answered seq (bmpMsg type seq major status 1 body) := Tab.atD_put_same ..

theorem State.sess_setSess (k : Nat) (f : Sess → Sess) : (s.setSess k f).sess k = f (s.sess k) := Tab.atD_put_same ..

section Session

variable {s : State} {k seq major : Nat} (hopen : s.doorOpen (.dtls k) = true) (hmajor : major = 1 ∨ major = 2)
  (hnew : seenBefore s { door := .dtls k, seq := seq, odMajor := major } = (0, []))
include hopen hmajor hnew

theorem exec_heartbeat_new : exec (.heartbeat { door := .dtls k, seq := seq, odMajor := major }) s =
    .next (s.respond { door := .dtls k, seq := seq, odMajor := major } 8 BmpS.ok
      (beW 8 s.now ++ beW 4 (s.rdN .ROT_STATUS) ++ beW 4 (s.rdN .MGMT_STATUS))) :=
  congrArg Host.Outcome.next (State.bmpReq_new hopen hnew hmajor ..)

theorem exec_subscribe_new (on : Bool) : exec (.subscribe { door := .dtls k, seq := seq, odMajor := major } on) s =
    .next ((s.setSess k fun x => { x with sub := on }).respond { door := .dtls k, seq := seq, odMajor := major } 6 BmpS.ok []) :=
  congrArg Host.Outcome.next (State.bmpReq_new hopen hnew hmajor ..)

/-- The final fragment reaches mailbox 1; one before it is staged (R471). -/
theorem exec_mboxSubmit_new {off : Nat} {data : Bytes} (hlen : data.length ≤ 992) (hend : off + data.length ≤ 4096)
    (hidle : s.gb F.MBOX_CTRL_go 1 = false) (final : Bool) :
    exec (.mboxSubmit { door := .dtls k, seq := seq, odMajor := major } final off data) s = .next ((if final then
        (({ s.setSess k (fun x => { x with mstage := [] }) with
            mem := s.mem.putBytes (mboxBuf 1 + 0x1000) (setSliceB (s.sess k).mstage off data) } : State).pf F.MBOX_STATUS_done 1 0).pf F.MBOX_CTRL_go 1 1
      else s.setSess k fun x => { x with mstage := setSliceB (s.sess k).mstage off data }).respond
        { door := .dtls k, seq := seq, odMajor := major } 5 BmpS.ok []) := by
  refine congrArg Host.Outcome.next ((State.bmpReq_new hopen hnew hmajor ..).trans ?_)
  dsimp only
  rw [if_neg (by simp [isChan]), if_neg (by simp [hidle]), if_neg (by simp; omega)]
  cases final <;> rfl

theorem exec_mboxFetch_new {off len : Nat} (hdone : s.gb F.MBOX_STATUS_done 1 = true) (hoff : off < s.gf F.MBOX_STATUS_resp_len 1)
    (hlen : len ≤ 984) : exec (.mboxFetch { door := .dtls k, seq := seq, odMajor := major } off len) s =
    .next (s.respond { door := .dtls k, seq := seq, odMajor := major } 5 BmpS.ok (leBytes 1 (s.gf F.MBOX_STATUS_result 1) ++ zerosB 3 ++
      beW 4 (s.gf F.MBOX_STATUS_resp_len 1) ++ beW 4 off ++ zerosB 4 ++
        s.mem.getBytes (mboxBuf 1 + 0x4000 + off) (min len (s.gf F.MBOX_STATUS_resp_len 1 - off)))) := by
  refine congrArg Host.Outcome.next ((State.bmpReq_new hopen hnew hmajor ..).trans ?_)
  dsimp only
  rw [if_neg (by simp [isChan]), if_neg (by simp [hdone]), if_neg (by omega), if_neg (by omega)]

omit hmajor in
/-- A malformed message is answered with TYPE (R465). -/
theorem State.badMessage_new (type : Nat) : s.badMessage { door := .dtls k, seq := seq, odMajor := major } type =
    s.respond { door := .dtls k, seq := seq, odMajor := major } type BmpS.type [] := by
  rw [State.badMessage, if_neg (by simp [hopen]), hnew]
  rfl

end Session

/-- Of the type of a malformed message nothing is known: its answer's is free (log entry 97). -/
theorem exec_badMessage_new {s : State} {k seq major : Nat} (hopen : s.doorOpen (.dtls k) = true)
    (hnew : seenBefore s { door := .dtls k, seq := seq, odMajor := major } = (0, [])) :
    exec (.badMessage { door := .dtls k, seq := seq, odMajor := major }) s =
      .next (s.free.2.respond { door := .dtls k, seq := seq, odMajor := major } (s.free.1.toNat % 256) BmpS.type []) :=
  congrArg Host.Outcome.next (State.badMessage_new (s := s.free.2) hopen hnew _)

/-! ### Sessions (R474) -/

theorem State.sessCount_sess (j : Nat) : s.sessCount.sess j = s.sess j := rfl

/-- An event leaves every session open or closed as it is. -/
theorem State.bmpEvent_opened (kind : Nat) (record : Bytes) (j : Nat) : ((s.bmpEvent kind record).sess j).opened = (s.sess j).opened := by
  have hput : ∀ (s s' : State) (i : Nat) (x : Sess), s'.bmp.sess = s.bmp.sess.put i x → x.opened = (s.sess i).opened →
      (s'.sess j).opened = (s.sess j).opened := fun s s' i x hs' hx => by
    unfold State.sess at hx ⊢
    rw [hs']
    by_cases hji : j = i
    · rw [hji, Tab.atD_put_same, hx]
    · rw [Tab.atD_put_ne _ hji]
  unfold State.bmpEvent
  split
  · rfl
  · refine State.each_keeps (π := fun s => (s.sess j).opened) s (fun r s => ?_) _
    dsimp only
    split
    · exact hput s _ r.1 _ rfl rfl
    · split
      · exact hput s _ r.1 _ rfl rfl
      · exact (State.when_keeps (π := fun s => (s.sess j).opened) (f := fun s => s.emit (.ibi 0xA1)) _ (fun s => rfl) _).trans (hput s _ r.1 _ rfl rfl)

theorem State.notice_opened (node b src j : Nat) : ((s.notice node b src).sess j).opened = (s.sess j).opened := by
  unfold State.notice State.fltReport
  dsimp only
  rw [State.when_keeps (π := fun s => (s.sess j).opened) (f := fun s => s.setQuiet node b (some (quietMs s b))) _ (fun s => rfl),
    State.when_keeps (π := fun s => (s.sess j).opened) (f := fun s => s.pf F.TB_STATUS_replica_fault 0 1) _ (fun s => rfl),
    State.when_keeps (π := fun s => (s.sess j).opened) (f := fun s => s.fltMsi (fltIdx node b)) _ (fun s => rfl),
    State.when_keeps (π := fun s => (s.sess j).opened) _ (fun s => State.bmpEvent_opened s ..)]
  unfold State.bump
  dsimp only
  split <;> rfl

/-- With a key that is provisioned, the first closed session opens (R474). -/
theorem exec_dtlsHandshake {s : State} (hup : s.mgmtUp = true) {k : Nat}
    (hfirst : (List.range 4).find? (fun k => !(s.sess k).opened) = some k) {i : Nat} (hi : i < 8) {x : Bytes}
    (hkey : s.sec.secrets.at? (secretKey 1 i) = some x) :
    exec (.dtlsHandshake (Config.pskId x) true true) s = .next ((s.setSess k fun _ => { opened := true }).sessCount) ∧
      exec (.dtlsHandshake (Config.pskId x) false true) s = .next (((s.bump .MGMT_HS_FAILS 0).notice 10 5 0).emit .alert) := by
  have hknown : (List.range 8).any (fun i => (s.sec.secrets.at? (secretKey 1 i)).map Config.pskId == some (Config.pskId x)) = true :=
    List.any_eq_true.mpr ⟨i, List.mem_range.mpr hi, by rw [hkey]; simp⟩
  have hexec : ∀ finished, exec (.dtlsHandshake (Config.pskId x) finished true) s = execDtlsHandshake (Config.pskId x) finished true s := fun _ => rfl
  simp only [hexec, execDtlsHandshake, hup, hknown, hfirst, Bool.not_true, Bool.or_self, Bool.false_eq_true, Bool.true_and, if_false, if_true,
    and_self]

theorem exec_sessionIdleTimeout {s : State} {k : Nat} (hk : k < 4) (hopened : (s.sess k).opened = true) :
    ∃ s', exec (.sessionIdleTimeout k) s = .next s' ∧ (s'.sess k).opened = false ∧ s'.mem = s.mem := by
  have hexec : exec (.sessionIdleTimeout k) s = execSessionIdleTimeout k s := rfl
  rw [hexec, execSessionIdleTimeout, if_neg (by simp [hopened]; exact hk)]
  refine ⟨_, rfl, ?_, rfl⟩
  rw [State.sessCount_sess]
  show (Option.getD ((s.bmp.sess.del k).at? k) {}).opened = false
  rw [Tab.at_del_same]
  rfl

/-! ### Channels (R478, R479) -/

theorem State.mgmtUp_pf {f : Fld} (hstatus : f.reg.ctorIdx ≠ Reg.MGMT_STATUS.ctorIdx) (hflt : f.reg.ctorIdx ≠ Reg.FLT_STATUS.ctorIdx) {i : Nat}
    (hi : i < 65536) (v : Nat) : (s.pf f i v).mgmtUp = s.mgmtUp := by
  have hfield : ∀ (f' : Fld) j, f'.reg.ctorIdx ≠ f.reg.ctorIdx → j < 65536 → (s.pf f i v).gf f' j = s.gf f' j := fun f' j hne hj =>
    State.gf_pf_elsewhere s (Or.inl hne) hi hj v
  unfold State.mgmtUp State.blkState State.gb
  rw [hfield F.MGMT_STATUS_ready 0 (Ne.symm hstatus) (by decide), hfield F.FLT_STATUS_state (fltIdx 10 5) (Ne.symm hflt) (by decide)]
  rfl

/-- A channel of HOST is its own to a hart of partition 0 alone (R478). -/
theorem exec_odcGo_foreign {s : State} {hart c : Nat} (hhart : hart < 128) (hc : c < 23) (hpart : s.gf F.CORE_PART_part hart = 0) (hten : 8 ≤ c) :
    exec (.odcGo hart c) s = .next (s.bump .ODC_DENIED c) := by
  have hexec : exec (.odcGo hart c) s = execOdcGo hart c s := rfl
  rw [hexec, execOdcGo, if_neg (by simp; omega), hpart]
  exact if_pos (by simp; omega)

theorem exec_odcGo_host {s : State} {hart c : Nat} (hhart : hart < 128) (hpart : s.gf F.CORE_PART_part hart = 0) (hc : c < 8)
    (hidle : s.gb F.ODC_CTRL_go c = false) : exec (.odcGo hart c) s = .next ((s.chanGo c).settle) := by
  have hexec : exec (.odcGo hart c) s = execOdcGo hart c s := rfl
  rw [hexec, execOdcGo, if_neg (by simp; omega), hpart, if_neg (by simp; omega), if_neg (by simp [hidle])]

section Channel

variable {s : State} {c : Nat} (hc : c < 8)
include hc

theorem State.chanGo_runs (hup : s.mgmtUp = true) {n : Nat} (hn : beVal (sliceB (s.mem.getBytes (odcBuf c + 0x1000) 4096) 2 2) = n)
    (hmin : 16 ≤ n) (hmax : n ≤ 4096) :
    s.chanGo c = (s.pf F.ODC_CTRL_go c 1).message (.chan c) ((s.mem.getBytes (odcBuf c + 0x1000) 4096).take n) := by
  have hup' : (s.pf F.ODC_CTRL_go c 1).mgmtUp = true := by rw [State.mgmtUp_pf s (by decide) (by decide) (by omega), hup]
  unfold State.chanGo
  dsimp only
  rw [if_neg (by simp [hup'])]
  have hbuf : (s.pf F.ODC_CTRL_go c 1).mem = s.mem := rfl
  rw [hbuf, hn, if_neg (by simp; omega)]

/-- What the channel shows when it completes with BUSY (R479). -/
def State.chanBusy (s : State) (c : Nat) : State :=
  (((s.pf F.ODC_CTRL_go c 1).pf F.ODC_CTRL_go c 0).pf F.ODC_STATUS_done c 1).pf F.ODC_STATUS_status c BmpS.busy

theorem State.chanGo_busy (hout : s.blkState 10 5 ≠ 0) : s.chanGo c =
    if s.pcie.hcr.phase = 0 then (s.chanBusy c).msiOut 10 (s.gf F.ODC_MSI_ADDR_addr c * 4) (s.gf F.ODC_MSI_DATA_data c) else s.chanBusy c := by
  have hfield : ∀ (s : State) (f : Fld) v (f' : Fld), f.reg.ctorIdx ≠ f'.reg.ctorIdx → (s.pf f c v).gf f' c = s.gf f' c := fun s f v f' hne =>
    State.gf_pf_elsewhere s (Or.inl (Ne.symm hne)) (by omega) (by omega) v
  have hout' : (s.pf F.ODC_CTRL_go c 1).blkState 10 5 ≠ 0 := by
    have hsame : (s.pf F.ODC_CTRL_go c 1).gf F.FLT_STATUS_state (fltIdx 10 5) = s.gf F.FLT_STATUS_state (fltIdx 10 5) :=
      State.gf_pf_elsewhere s (Or.inl (by decide)) (by omega) (by decide) 1
    unfold State.blkState at hout ⊢
    rw [hsame]
    exact hout
  have hdown : (s.pf F.ODC_CTRL_go c 1).mgmtUp = false := by simp [State.mgmtUp, hout']
  have hkeeps : ∀ f' : Fld, f'.reg.ctorIdx ≠ Reg.ODC_CTRL.ctorIdx → f'.reg.ctorIdx ≠ Reg.ODC_STATUS.ctorIdx →
      (s.chanBusy c).gf f' c = s.gf f' c := fun f' hctrl hstatus => by
    unfold State.chanBusy
    rw [hfield _ F.ODC_STATUS_status _ _ (Ne.symm hstatus), hfield _ F.ODC_STATUS_done _ _ (Ne.symm hstatus),
      hfield _ F.ODC_CTRL_go _ _ (Ne.symm hctrl), hfield _ F.ODC_CTRL_go _ _ (Ne.symm hctrl)]
  unfold State.chanGo
  dsimp only
  rw [if_pos (by simp [hdown]), if_neg hout']
  show (s.chanBusy c).when (decide (s.pcie.hcr.phase = 0)) _ = _
  rw [State.when, hkeeps _ (by decide) (by decide), hkeeps _ (by decide) (by decide)]
  by_cases hphase : s.pcie.hcr.phase = 0
  · rw [if_pos (by simpa using hphase), if_pos hphase]
  · rw [if_neg (by simpa using hphase), if_neg hphase]

omit hc

theorem State.chanBusy_spec (s : State) (c : Nat) : (s.chanBusy c).gf F.ODC_CTRL_go c = 0 ∧ (s.chanBusy c).gf F.ODC_STATUS_done c = 1 ∧
    (s.chanBusy c).gf F.ODC_STATUS_status c = BmpS.busy ∧ (s.chanBusy c).mem = s.mem := by
  unfold State.chanBusy
  refine ⟨?_, ?_, ?_, rfl⟩
  · rw [State.gf_pf_apart _ (f := F.ODC_STATUS_status) (by decide), State.gf_pf_apart _ (f := F.ODC_STATUS_done) (by decide),
      State.gf_pf_same _ _ _ _ (by decide) (by decide)]
    rfl
  · rw [State.gf_pf_apart _ (f := F.ODC_STATUS_status) (by decide), State.gf_pf_flag _ _ _ (by decide) (by decide)]
  · rw [State.gf_pf_same _ _ _ _ (by decide) (by decide)]
    rfl

end Channel

/-! ### The watchdog (R479) -/

theorem mgmtWatchdog_leaves {s : State} (hup : s.mgmtUp = true) (hdue : s.flt.due = []) (hauto : autoOk s 10 5 = true) :
    ∃ s1 : State, s1.blkState 10 5 = 1 ∧ s1.flt.due = [(10, 5, 3)] ∧ s1.mem = s.mem ∧ exec .mgmtWatchdog s = .next s1.settle := by
  have hi : fltIdx 10 5 < 65536 := by decide
  have hin : s.blkState 10 5 = 0 := by
    simp only [State.mgmtUp, Bool.and_eq_true, decide_eq_true_eq] at hup
    exact hup.1.2
  have hraise := State.raise_auto s (node := 10) (b := 5) (src := 3) (detail := 0) (forced := false) rfl rfl
    ((State.eventNoted_blkState s hi ..).trans hin) ((State.eventNoted_autoOk s hi ..).trans hauto)
  generalize hs1 : s.eventNoted 10 5 3 2 false 0 = s1 at hraise
  have hdue1 : s1.flt.due = [] := by rw [← hs1, State.eventNoted_keeps (π := fun s => s.flt.due) s fun _ _ _ _ _ _ _ => rfl, hdue]
  have hmem : s1.mem = s.mem := by rw [← hs1, State.eventNoted_keeps (π := State.mem) s fun _ _ _ _ _ _ _ => rfl]
  have hexec : exec .mgmtWatchdog s = .next ((s.raise 10 5 3 false 0).settle) := congrArg Host.Outcome.next (if_pos hup)
  refine ⟨_, ?_, ?_, ?_, hexec.trans (congrArg (fun s : State => Host.Outcome.next s.settle) hraise)⟩
  · rw [State.fltRecord_blkState]
    exact (State.setQuiet_gf (f := F.FLT_STATUS_state) _ (by decide) 10 5 _).trans (State.leaveService_state (st := 1) s1 hi (by decide) 3)
  · unfold State.leftAuto
    rw [State.fltRecord_keeps (π := fun s => s.flt.due) (fun _ _ _ _ _ _ _ => rfl),
      State.setQuiet_keeps (π := fun s => s.flt.due) (fun _ _ _ _ _ _ _ => rfl), State.leaveService_due, hdue1]
    rfl
  · unfold State.leftAuto
    rw [State.fltRecord_keeps (π := State.mem) (fun _ _ _ _ _ _ _ => rfl), State.setQuiet_keeps (π := State.mem) (fun _ _ _ _ _ _ _ => rfl),
      State.leaveService_keeps (π := State.mem) s1 (fun _ _ _ _ _ _ _ => rfl) (fun _ _ _ => rfl), hmem]

/-! ### The obligation -/

/-- Settles O58: a new request of an open session is carried out and answered; the doors beside it each by their own rule. -/
theorem sessionsAndDoorsComplete : Obligations.SessionsAndDoorsComplete := by
  unfold Obligations.SessionsAndDoorsComplete
  refine ⟨fun s k seq major hup hk hopened hmajor => ?_, fun s => ⟨fun k i x hup hfirst hi hkey => ⟨?_, ?_⟩,
    fun k hk hopened => exec_sessionIdleTimeout hk hopened, fun hart c hhart hc hpart => ⟨exec_odcGo_foreign hhart hc hpart, fun hhost hidle => ⟨?_, ?_⟩⟩,
    mgmtWatchdog_leaves⟩⟩
  · intro h hnew
    have hopen : s.doorOpen (.dtls k) = true := by simp [State.doorOpen, hup, hk, hopened]
    refine ⟨⟨_, exec_heartbeat_new hopen hmajor hnew, rfl, rfl⟩, fun off data hlen hend hidle => ⟨?_, ?_⟩,
      fun off len hdone hoff hlen => ⟨_, exec_mboxFetch_new hopen hmajor hnew hdone hoff hlen, rfl, rfl⟩,
      fun on => ⟨_, exec_subscribe_new hopen hmajor hnew on, ?_, rfl⟩, ⟨_, _, exec_badMessage_new hopen hnew, rfl, rfl⟩⟩
    · refine ⟨_, exec_mboxSubmit_new hopen hmajor hnew hlen hend hidle true, ?_, ?_, rfl, rfl⟩
      · exact State.gf_pf_flag _ _ _ (by decide) (by decide)
      · refine (State.gf_pf_elsewhere _ (Or.inl (by decide)) (by decide) (by decide) 1).trans ?_
        rw [State.gf_pf_same _ _ _ _ (by decide) (by decide)]
        rfl
    · refine ⟨_, exec_mboxSubmit_new hopen hmajor hnew hlen hend hidle false, ?_, rfl, rfl⟩
      rw [State.respond_sess]
      exact congrArg Sess.mstage (State.sess_setSess s k fun x => { x with mstage := setSliceB (s.sess k).mstage off data })
    · rw [State.respond_sess]
      exact congrArg Sess.sub (State.sess_setSess s k _)
  · refine ⟨_, (exec_dtlsHandshake hup hfirst hi hkey).1, ?_, rfl, fun j hj => Tab.atD_put_ne _ hj ..⟩
    exact congrArg Sess.opened (State.sess_setSess s k fun _ => { opened := true })
  · refine ⟨_, _, (exec_dtlsHandshake hup hfirst hi hkey).2, rfl, fun j => ?_⟩
    refine (State.notice_opened _ 10 5 0 j).trans ?_
    unfold State.bump
    dsimp only
    split <;> rfl
  · intro n hup hn hmin hmax
    rw [exec_odcGo_host hhart hpart hhost hidle, State.chanGo_runs hhost hup hn hmin hmax]
  · intro hout _
    obtain ⟨hgo, hdone, hstatus, hmem⟩ := State.chanBusy_spec s c
    exact ⟨_, hgo, hdone, hstatus, hmem, by rw [exec_odcGo_host hhart hpart hhost hidle, State.chanGo_busy hhost hout]⟩

end Sys2Proof.Machine

/-! PROOF. Shard repairs between replicas (R284, R285), and re-encryption (R286 to R289, R387). -/

namespace Sys2Proof.Machine

/-! ### Sequences of accesses -/

theorem Tx.andThen_ok {α β : Type} {m : Tx α} {s s' : State} {a : α} (h : m s = (.ok a, s')) (f : α → Tx β) : Tx.andThen m f s = f a s' := by
  rw [Tx.andThen, h]

theorem Tx.andThen_act {β : Type} (f : State → State) (g : Unit → Tx β) (s : State) : Tx.andThen (Tx.act f) g s = g () (f s) := rfl

theorem Tx.andThen_pure {α β : Type} (a : α) (g : α → Tx β) (s : State) : Tx.andThen (Tx.pure a) g s = g a s := rfl

theorem State.run_ok {m : Tx State} {s s' t : State} (h : m s = (.ok t, s')) (g : State → Nat → Nat → State) : s.run m g = t := by
  rw [State.run, h]

theorem State.runOk_ok {m : Tx State} {s s' t : State} (h : m s = (.ok t, s')) (g : State → Nat → Nat → State) : s.runOk m g = (true, t) := by
  rw [State.runOk, State.run_ok h, h]

/-! ### Repairs (R284, R285) -/

theorem crcBits_lt {c : Nat} (hc : c < 2 ^ 64) (n : Nat) : crcBits n c < 2 ^ 64 := by
  induction n generalizing c with
  | zero => exact hc
  | succ n ih =>
    rw [crcBits]
    split
    · exact ih (Nat.xor_lt_two_pow (Nat.mod_lt _ (by decide)) (by decide))
    · exact ih (by omega)

theorem crcByte_lt {c : Nat} (hc : c < 2 ^ 64) (b : Byte) : crcByte c b < 2 ^ 64 :=
  crcBits_lt (Nat.xor_lt_two_pow hc (by have := b.isLt; omega)) 8

theorem crcFold_lt (bs : Bytes) {c : Nat} (hc : c < 2 ^ 64) : bs.foldl crcByte c < 2 ^ 64 := by
  induction bs generalizing c with
  | nil => rwa [List.foldl_nil]
  | cons b bs ih =>
    rw [List.foldl_cons]
    exact ih (crcByte_lt hc b)

theorem crc64_lt (bs : Bytes) : crc64 bs < 2 ^ 64 := by
  rw [crc64]
  exact crcFold_lt bs (by decide)

section Repairs

variable {s : State} {st shard step : Nat}

theorem exec_repairReq_serves {die : Nat} {x : NmeSweep} {img : Bytes} {s1 : State} (hin : nmeIn s st = true) (hidle : (s.nmeU st).sweep = none)
    (hlast : (s.nmeU st).last = some x) (hheld : (s.nmeU st).held.contains shard = false) (hshard : shard < x.count)
    (himage : Tx.image st x (x.shard shard) x.live s = (.ok img, s1)) :
    exec (.repairReq st shard step die none) s = .next ((s1.each (List.range (ceilDiv img.length 4096)) (fun j s =>
      s.emit (.nme (2 * die + st % 2) 1 shard step (4096 * j) ((img.drop (4096 * j)).take 4096)))).emit
        (.nme (2 * die + st % 2) 2 shard step 0 (leBytes 8 (crc64 img)))) := by
  refine congrArg Host.Outcome.next ?_
  have hreq : s.repairReq st shard step 0xFFFF die = s.repairServe st shard step 0xFFFF die := by
    rw [State.repairReq, hidle]
    simp [hin]
  show (s.repairReq st shard step 0xFFFF die).2 = _
  rw [hreq, State.repairServe, hlast]
  dsimp only
  rw [if_neg (Bool.eq_false_iff.mp hheld), if_neg (by omega)]
  exact congrArg Prod.snd (State.runOk_ok ((Tx.andThen_ok himage _).trans rfl) _)

theorem exec_repairData_writes {x : NmeSweep} {off : Nat} {data : Bytes} {s1 : State} (hrep : repairOf s st shard step = some x)
    (hwrite : Tx.imageWrite st x (x.shard shard) off data s = (.ok (), s1)) : exec (.repairData st shard step off data none) s = .next s1 := by
  refine congrArg Host.Outcome.next ?_
  show (s.repairData st shard step off data).2 = _
  rw [State.repairData, hrep]
  exact congrArg Prod.snd (State.runOk_ok ((Tx.andThen_ok hwrite _).trans rfl) _)

/-- The shard is held no more, and no repair of it runs. -/
def State.shardFreed (s : State) (st shard : Nat) : State :=
  let s := s.setNme st (fun u => { u with held := u.held.filter (· != shard), repairs := u.repairs.filter (·.shard != shard) })
  s.pf F.NME_DIGEST_LAST_held st (bN ((s.nmeU st).held ≠ []))

theorem State.shardFreed_held (s : State) (st shard : Nat) : shard ∉ ((s.shardFreed st shard).nmeU st).held := by
  show shard ∉ ((s.nme.units.put st _).atD st {}).held
  rw [Tab.atD_put_same]
  simp

theorem State.repairEnd_frees {x : NmeSweep} {img : Bytes} {s1 s2 : State} (hrep : repairOf s st shard step = some x)
    (himage : Tx.image st x (x.shard shard) x.live s = (.ok img, s1)) (hderive : Tx.derive st x shard x.live s1 = (.ok (), s2)) :
    (s.repairEnd st shard step (crc64 img)).2 = (s2.shardFreed st shard).fltRecord (stackDie st) (nmeBlk st) 3 2 2 false shard := by
  rw [State.repairEnd, hrep]
  refine congrArg Prod.snd (State.runOk_ok (s' := (s2.shardFreed st shard).fltRecord (stackDie st) (nmeBlk st) 3 2 2 false shard) ?_ _)
  rw [Tx.andThen_ok himage, if_neg (not_not.mpr rfl), Tx.andThen_ok hderive, Tx.andThen_act]
  rfl

/-- An end whose digest agrees frees the shard (R284). -/
theorem exec_repairEnd_frees {x : NmeSweep} {img : Bytes} {s1 s2 : State} (hrep : repairOf s st shard step = some x)
    (himage : Tx.image st x (x.shard shard) x.live s = (.ok img, s1)) (hderive : Tx.derive st x shard x.live s1 = (.ok (), s2)) :
    ∃ s', exec (.repairEnd st shard step (crc64 img) none) s = .next s' ∧ shard ∉ (s'.nmeU st).held ∧ s'.mem = s2.mem := by
  have hcrc : leVal (leBytes 8 (crc64 img)) = crc64 img := by
    rw [leVal_leBytes]
    exact Nat.mod_eq_of_lt (crc64_lt img)
  have hexec : exec (.repairEnd st shard step (crc64 img) none) s = .next (s.repairEnd st shard step (leVal (leBytes 8 (crc64 img)))).2 := rfl
  rw [hexec, hcrc, State.repairEnd_frees hrep himage hderive]
  refine ⟨_, rfl, ?_, State.fltRecord_keeps (π := State.mem) (fun _ _ _ _ _ _ _ => rfl) ..⟩
  rw [State.fltRecord_keeps (π := fun s => s.nmeU st) fun _ _ _ _ _ _ _ => rfl]
  exact State.shardFreed_held s2 st shard

end Repairs

/-- Settles O41: each message of a repair is taken by the rule of its kind; the sequences of accesses go through. -/
theorem repairsComplete : Obligations.RepairsComplete := by
  intro s st shard step die hin
  refine ⟨fun x img s1 hidle hlast hheld hshard himage => exec_repairReq_serves hin hidle hlast hheld hshard himage,
    fun x off data s1 hrep hwrite => exec_repairData_writes hrep hwrite,
    fun x img s1 s2 hrep himage hderive => exec_repairEnd_frees hrep himage hderive, fun reason hwaits => ?_, fun r hfind hring => ?_⟩
  · refine congrArg Host.Outcome.next ?_
    exact if_pos (Bool.and_eq_true_iff.mpr ⟨hin, hwaits⟩)
  · have hexec : exec (.repairRetry st shard) s = execRepairRetry st shard s := rfl
    rw [hexec, execRepairRetry, hfind]
    dsimp only
    rw [State.nmeSend, if_pos hring]

/-! ### Re-encryption (R286 to R289, R387) -/

/-- Both fields of a control register read as they were written. -/
theorem State.gf_pf_pair {f g : Fld} (happart : Fld.apart g f = true) (hf : f.hi < 64) (hf' : f.lo ≤ f.hi) (hg : g.hi < 64) (hg' : g.lo ≤ g.hi)
    (s : State) (i : Nat) {v w : Nat} (hv : v < 2 ^ (f.hi + 1 - f.lo)) (hw : w < 2 ^ (g.hi + 1 - g.lo)) :
    ((s.pf f i v).pf g i w).gf f i = v ∧ ((s.pf f i v).pf g i w).gf g i = w := by
  rw [State.gf_pf_apart _ happart, State.gf_pf_same _ _ _ _ hf hf', State.gf_pf_same _ _ _ _ hg hg']
  exact ⟨Nat.mod_eq_of_lt hv, Nat.mod_eq_of_lt hw⟩

theorem exec_rekeyGo {s : State} {role : Role} {st : Nat} (hmay : s.mayWriteNme role st = true) (hidle : s.rk? st = none) (v : Word64) :
    let s0 := (s.pf F.NME_REKEY_CTRL_ctx st (bitsN v.toNat 5 0)).pf F.NME_REKEY_CTRL_desc st (bitsN v.toNat 47 8)
    exec (.rekeyGo role st v) s =
      .next (if bitN v.toNat 6 && rkUp s0 st then s0.rkGo st (bitsN v.toNat 5 0) (bitsN v.toNat 47 8 * 256) else s0) := by
  have hexec : exec (.rekeyGo role st v) s = execRekeyGo role st v s := rfl
  rw [hexec, execRekeyGo, if_neg (by simp [hmay, hidle])]

theorem exec_mcRekeyGo {s : State} {role : Role} {m : Nat} (hm : m < 2) (hmay : s.mmioRole role = true) (hidle : s.rk? (16 + m) = none) (v : Word64) :
    let s0 := (s.pf F.MC_REKEY_CTRL_ctx m (bitsN v.toNat 5 0)).pf F.MC_REKEY_CTRL_desc m (bitsN v.toNat 47 8)
    exec (.mcRekeyGo role m v) s =
      .next (if bitN v.toNat 6 && rkUp s0 (16 + m) then s0.rkGo (16 + m) (bitsN v.toNat 5 0) (bitsN v.toNat 47 8 * 256) else s0) := by
  have hexec : exec (.mcRekeyGo role m v) s = execMcRekeyGo role m v s := rfl
  rw [hexec, execMcRekeyGo, if_neg (by simp [hmay, hidle]; omega)]

/-- Settles O42: the control registers show what was written; a chunk and a page go through their sequences of accesses. -/
theorem reEncryptionCompletes : Obligations.ReEncryptionCompletes := by
  intro s role st m k mc v
  refine ⟨fun hmay hidle => ?_, fun hm hmay hidle => ?_, fun r s1 s2 hr hleaves hup => ?_, fun r s2 s3 hr hleaves hup hend => ?_⟩
  · obtain ⟨hctx, hdesc⟩ := State.gf_pf_pair (f := F.NME_REKEY_CTRL_ctx) (g := F.NME_REKEY_CTRL_desc) (by decide) (by decide) (by decide) (by decide)
      (by decide) s st (bitsN_lt v.toNat 5 0) (bitsN_lt v.toNat 47 8)
    exact ⟨_, hctx, hdesc, rfl, exec_rekeyGo hmay hidle v⟩
  · obtain ⟨hctx, hdesc⟩ := State.gf_pf_pair (f := F.MC_REKEY_CTRL_ctx) (g := F.MC_REKEY_CTRL_desc) (by decide) (by decide) (by decide) (by decide)
      (by decide) s m (bitsN_lt v.toNat 5 0) (bitsN_lt v.toNat 47 8)
    exact ⟨_, hctx, hdesc, rfl, exec_mcRekeyGo hm hmay hidle v⟩
  · intro u pa r' hmore hgood data hjournal hsave
    have hexec : exec (.rekeyChunkDone mc k) s = execRekeyChunkDone mc k s := rfl
    rw [hexec, execRekeyChunkDone, hr]
    dsimp only
    rw [if_neg (by simp [hleaves, hup]; omega), hgood]
    refine congrArg Host.Outcome.next (State.run_ok (s' := s2) ?_ _)
    rw [Tx.andThen_ok hjournal, Tx.andThen_act, Tx.andThen_ok hsave]
    rfl
  · intro u n s0 s0' s1 r' hsave hseek
    have hexec : exec (.rekeyPageDone mc k) s = execRekeyPageDone mc k s := rfl
    rw [hexec, execRekeyPageDone, hr]
    dsimp only
    rw [if_neg (by simp [hleaves, hup]; omega)]
    refine congrArg Host.Outcome.next (State.run_ok (s' := s3) ?_ _)
    exact (Tx.andThen_ok hsave _).trans ((Tx.andThen_ok hseek _).trans rfl)

end Sys2Proof.Machine

/-! PROOF. Instructions of the NME and its program store (R264 to R268), and the sweep from phase to phase (R269 to R281, R306). -/

namespace Sys2Proof.Machine

variable {s : State} {st : Nat}

theorem State.nmeU_setNme (s : State) (st : Nat) (f : Nme → Nme) : (s.setNme st f).nmeU st = f (s.nmeU st) := Tab.atD_put_same ..

theorem State.nmeU_setNme_ne (s : State) {st k : Nat} (h : k ≠ st) (f : Nme → Nme) : (s.setNme st f).nmeU k = s.nmeU k := Tab.atD_put_ne _ h ..

theorem State.nmeU_onSweep (s : State) (st : Nat) (f : NmeSweep → NmeSweep) :
    ((s.onSweep st f).nmeU st).sweep = (s.nmeU st).sweep.map f := congrArg Nme.sweep (State.nmeU_setNme s st _)

theorem nmeIn_of_runs (h : nmeRuns s st = true) : nmeIn s st = true := (Bool.and_eq_true_iff.mp h).1

theorem restart_of_runs (h : nmeRuns s st = true) : (s.nmeU st).restart = false := by
  simpa using (Bool.and_eq_true_iff.mp h).2

/-! ### Instructions (R264 to R266) -/

/-- Every opcode of the table computes a result in each lane (R265). -/
theorem nmeOp_defined {op : Nat} (h : 2 ≤ op) (h' : op ≤ 0x13) (ftz : Bool) (a b c : Nat) : ∃ v f, nmeOp op ftz a b c = some (v, f) := by
  have hsome : ∀ {o : Option (Nat × Nat)}, o.isSome = true → ∃ v f, o = some (v, f) := fun {o} ho => by
    obtain ⟨p, hp⟩ := Option.isSome_iff_exists.mp ho
    exact ⟨p.1, p.2, hp⟩
  apply hsome
  unfold nmeOp
  dsimp only
  split
  case h_1 => split <;> rfl
  case h_16 => split <;> rfl
  case h_17 => split <;> rfl
  case h_19 => interval_cases op <;> contradiction
  all_goals rfl

/-- A block that is loaded stays as it is. -/
theorem State.loadBlock_loaded (hloaded : (s.nmeU st).loaded = true) : s.loadBlock st = s := by
  unfold State.loadBlock
  dsimp only
  split
  · rfl
  · exact if_pos (by simp [hloaded])

theorem State.nmeFlags_keeps {α : Type} {π : State → α} (h : ReportIndep π) (s : State) (st fl : Nat) : π (s.nmeFlags st fl) = π s := by
  have hflag : ∀ (s : State) (c : Bool) (f : Fld), π (s.when c fun s => s.pf f st 1) = π s := fun s c f =>
    State.when_keeps s (fun s => State.pf_keeps h s ..) c
  unfold State.nmeFlags
  dsimp only
  rw [hflag, hflag, hflag, hflag]

/-- The constants an instruction reads: those of the sweep, if there is one. -/
def nmeConsts (s : State) (st : Nat) : List Nat := match (s.nmeU st).sweep with | some x => x.consts | none => []

/-- An instruction of the table acts in every lane of the loaded block. -/
theorem State.nmeExec_lanes (hin : nmeIn s st = true) (hloaded : (s.nmeU st).loaded = true) {a : NmeArgs} (hrd : a.rd < 16) (hsa : a.sa < 32)
    (hsb : a.sb < 32) (hsc : a.sc < 32) (op : Nat) :
    ((s.nmeExec st op a).nmeU st).lanes =
        (s.nmeU st).lanes.map (fun lane => (laneStep op a (s.gb F.NME_CTRL_ftz st) (nmeConsts s st) lane).1) ∧ (s.nmeExec st op a).mem = s.mem := by
  have hargs : ({ rd := a.rd % 16, sa := a.sa % 32, sb := a.sb % 32, sc := a.sc % 32 } : NmeArgs) = a := by
    rw [Nat.mod_eq_of_lt hrd, Nat.mod_eq_of_lt hsa, Nat.mod_eq_of_lt hsb, Nat.mod_eq_of_lt hsc]
  unfold State.nmeExec
  rw [if_neg (by simp [hin]), State.loadBlock_loaded hloaded]
  dsimp only
  rw [hargs]
  refine ⟨?_, State.nmeFlags_keeps (π := State.mem) (fun _ _ _ _ _ _ _ => rfl) ..⟩
  rw [State.nmeFlags_keeps (π := fun s => s.nmeU st) fun _ _ _ _ _ _ _ => rfl, State.nmeU_setNme]
  dsimp only
  rw [List.map_map]
  rfl

theorem laneStep_of_op {op : Nat} {a : NmeArgs} {ftz : Bool} {cs lane : List Nat} {v f : Nat}
    (h : nmeOp op ftz (laneSrc lane cs a.sa) (laneSrc lane cs a.sb) (laneSrc lane cs a.sc) = some (v, f)) :
    (laneStep op a ftz cs lane).1 = lane.set a.rd v := by
  rw [laneStep, h]

/-- The command of each opcode is the instruction in every lane. -/
theorem exec_nmeInstr {a : NmeArgs} {i : Instr} {op : Nat} (h : (i, op) ∈ [(Instr.nmeMov st a, 0x02), (.nmeAdd st a, 0x03), (.nmeSub st a, 0x04),
    (.nmeMul st a, 0x05), (.nmeFma st a, 0x06), (.nmeFnma st a, 0x07), (.nmeDiv st a, 0x08), (.nmeSqrt st a, 0x09), (.nmeRsq st a, 0x0A),
    (.nmeExp2 st a, 0x0B), (.nmeLog2 st a, 0x0C), (.nmeMin st a, 0x0D), (.nmeMax st a, 0x0E), (.nmeAbs st a, 0x0F), (.nmeNeg st a, 0x10),
    (.nmeSign st a, 0x11), (.nmeClamp st a, 0x12), (.nmeSelge st a, 0x13)]) :
    2 ≤ op ∧ op ≤ 0x13 ∧ exec i s = .next (s.nmeExec st op a) := by
  simp only [List.mem_cons, List.not_mem_nil, or_false, Prod.mk.injEq] at h
  obtain ⟨rfl, rfl⟩ | ⟨rfl, rfl⟩ | ⟨rfl, rfl⟩ | ⟨rfl, rfl⟩ | ⟨rfl, rfl⟩ | ⟨rfl, rfl⟩ | ⟨rfl, rfl⟩ | ⟨rfl, rfl⟩ | ⟨rfl, rfl⟩ | ⟨rfl, rfl⟩ |
    ⟨rfl, rfl⟩ | ⟨rfl, rfl⟩ | ⟨rfl, rfl⟩ | ⟨rfl, rfl⟩ | ⟨rfl, rfl⟩ | ⟨rfl, rfl⟩ | ⟨rfl, rfl⟩ | ⟨rfl, rfl⟩ := h <;>
    exact ⟨by omega, by omega, rfl⟩

theorem exec_nmeNop (hin : nmeIn s st = true) (hloaded : (s.nmeU st).loaded = true) (op : Nat) :
    exec (.nmeNop st op) s = .next (if op = 0 then s else s.pf F.NME_STATUS_reserved_encoding st 1) := by
  have hexec : exec (.nmeNop st op) s = execNmeNop st op s := rfl
  rw [hexec, execNmeNop, if_neg (by simp [hin]), State.loadBlock_loaded hloaded, State.when]
  by_cases hop : op = 0
  · rw [if_pos hop, if_neg (by simp [hop])]
  · rw [if_neg hop, if_pos (by simp [hop])]

/-- END writes the block's results and frees the lanes (R266). -/
theorem exec_nmeEnd {x : NmeSweep} {s0 s1 : State} (hin : nmeIn s st = true) (hloaded : (s.nmeU st).loaded = true)
    (hx : (s.nmeU st).sweep = some x) (hended : x.ended = false) (hrestart : (s.nmeU st).restart = false)
    (hranges : Tx.shardRanges st x (x.shard x.curU) s = (.ok (), s0))
    (hout : Tx.shardOut st x (x.shard x.curU) (512 * (s.nmeU st).blk)
      ((s.nmeU st).lanes.take (min 512 (shElems (x.shard x.curU) - 512 * (s.nmeU st).blk))) s0 = (.ok (), s1)) :
    exec (.nmeEnd st) s = .next (s1.setNme st fun u => { u with loaded := false, blk := u.blk + 1 }) := by
  have hexec : exec (.nmeEnd st) s = execNmeEnd st s := rfl
  rw [hexec, execNmeEnd]
  dsimp only
  rw [hx]
  dsimp only
  rw [if_neg (by simp [hloaded, hended, nmeRuns, hin, hrestart])]
  exact congrArg Host.Outcome.next (State.run_ok ((Tx.andThen_ok hranges _).trans ((Tx.andThen_ok hout _).trans rfl)) _)

/-! ### The program store (R267, R268) -/

theorem exec_nmeProgWrite {role : Role} (hmay : s.mayWriteNme role st = true) (bank i : Nat) (v : Word64) :
    (s.gf F.NME_PROG_CTRL_active st ≠ bank % 2 → s.gb F.NME_PROG_CTRL_commit st = false → i < 64 →
        exec (.nmeProgWrite role st bank i v) s = .next (s.pf F.NME_PROG_word (progIdx st bank i) v.toNat)) ∧
      (s.gf F.NME_PROG_CTRL_active st = bank % 2 →
        exec (.nmeProgWrite role st bank i v) s = .next (s.pf F.NME_STATUS_prog_write_refused st 1)) := by
  have hexec : exec (.nmeProgWrite role st bank i v) s = execNmeProgWrite role st bank i v s := rfl
  rw [hexec, execNmeProgWrite, if_neg (by simp [hmay])]
  exact ⟨fun hactive hcommit hi => by rw [if_neg (by simp [hactive, hcommit]), if_pos hi], fun hactive => if_pos (by simp [hactive])⟩

/-- Settles O39: an instruction maps its lane step over the lanes; the store refuses the active bank. -/
theorem nmeProgramsComplete : Obligations.NmeProgramsComplete := by
  unfold Obligations.NmeProgramsComplete
  refine ⟨fun s st a hin hloaded => ⟨fun hrd hsa hsb hsc i op hi => ?_, ?_, fun op hop => ?_, fun x s0 s1 hx hended hrestart => ?_⟩,
    fun s role st bank i v hmay => ⟨fun hactive hcommit hi => ?_, (exec_nmeProgWrite hmay bank i v).2, ?_⟩⟩
  · intro cs
    obtain ⟨hlo, hhi, hexec⟩ := exec_nmeInstr hi
    obtain ⟨hlanes, hmem⟩ := State.nmeExec_lanes hin hloaded hrd hsa hsb hsc op
    refine ⟨_, hexec, hmem, by rw [hlanes, List.length_map], fun k lane hlane => ?_⟩
    obtain ⟨v, f, hop⟩ := nmeOp_defined hlo hhi (s.gb F.NME_CTRL_ftz st) (laneSrc lane cs a.sa) (laneSrc lane cs a.sb) (laneSrc lane cs a.sc)
    refine ⟨v, f, hop, ?_⟩
    rw [hlanes, List.getElem?_map, hlane]
    exact congrArg some (laneStep_of_op hop)
  · rw [exec_nmeNop hin hloaded, if_pos rfl]
  · rw [exec_nmeNop hin hloaded, if_neg hop]
  · intro u q hranges hout
    refine ⟨_, exec_nmeEnd hin hloaded hx hended hrestart hranges hout, rfl, ?_, ?_⟩
    · rw [State.nmeU_setNme]
    · rw [State.nmeU_setNme]
  · exact ⟨_, (exec_nmeProgWrite hmay bank i v).1 hactive hcommit hi, rfl, State.gf_pf_same _ _ _ _ (by decide) (by decide)⟩
  · have hexec : exec (.progCommit role st) s = execProgCommit role st s := rfl
    rw [hexec, execProgCommit, if_neg (by simp [hmay])]
    exact ⟨_, rfl, State.gf_pf_flag _ _ _ (by decide) (by decide), rfl⟩

end Sys2Proof.Machine

/-! PROOF. The update sweep from phase to phase (R269 to R281, R306). -/

namespace Sys2Proof.Machine

variable {s : State} {st : Nat}

/-! ### The start (R306) -/

def NmeSweep.begin (x : NmeSweep) (u : Nme) : Nme := { u with sweep := some x, pref := [], loaded := false, blk := 0 }

/-- NME st takes part in a sweep from phase N on. -/
def State.sweepJoin (s : State) (x : NmeSweep) (st : Nat) : State :=
  (((s.setNme st x.begin).pf F.NME_STATUS_sweep_active st 1).pf
    F.NME_STATUS_phase st 1).pf F.NME_CTRL_ftz st (bN x.ftz)

/-- NME k is in phase N of the sweep. -/
def sweepJoined (x : NmeSweep) (k : Nat) (s : State) : Prop := (s.nmeU k).sweep = some x ∧ s.gf F.NME_STATUS_phase k = 1

theorem sweepJoined_same (s : State) (x : NmeSweep) {k : Nat} (hk : k < 16) : sweepJoined x k (s.sweepJoin x k) := by
  refine ⟨congrArg Nme.sweep (State.nmeU_setNme s k x.begin), ?_⟩
  unfold State.sweepJoin
  rw [State.gf_pf_elsewhere _ (Or.inl (by decide)) (by omega) (by omega), State.gf_pf_flag _ _ _ (by decide) (by decide)]

theorem sweepJoined_join {x : NmeSweep} {k : Nat} (hk : k < 16) (hst : st < 16) (h : sweepJoined x k s) : sweepJoined x k (s.sweepJoin x st) := by
  by_cases hkst : k = st
  · exact hkst ▸ sweepJoined_same s x hk
  · obtain ⟨hsweep, hphase⟩ := h
    refine ⟨(congrArg Nme.sweep (State.nmeU_setNme_ne s hkst x.begin)).trans hsweep, ?_⟩
    unfold State.sweepJoin
    rw [State.gf_pf_elsewhere _ (Or.inr hkst) (by omega) (by omega), State.gf_pf_elsewhere _ (Or.inr hkst) (by omega) (by omega),
      State.gf_pf_elsewhere _ (Or.inr hkst) (by omega) (by omega)]
    exact hphase

/-- Every participant has joined when all have been told. -/
theorem sweepJoined_each (x : NmeSweep) {l : List Nat} (hl : ∀ k ∈ l, k < 16) (s : State) :
    (∀ k < 16, sweepJoined x k s → sweepJoined x k (s.each l fun st s => s.sweepJoin x st)) ∧
      ∀ k ∈ l, sweepJoined x k (s.each l fun st s => s.sweepJoin x st) := by
  induction l generalizing s with
  | nil => exact ⟨fun _ _ h => h, fun _ hk => absurd hk List.not_mem_nil⟩
  | cons a l ih =>
    have ha : a < 16 := hl a List.mem_cons_self
    obtain ⟨hkeep, hrest⟩ := ih (fun k hk => hl k (List.mem_cons_of_mem a hk)) (s.sweepJoin x a)
    rw [State.each_cons]
    refine ⟨fun k hk h => hkeep k hk (sweepJoined_join hk ha h), fun k hk => ?_⟩
    obtain rfl | hk := List.mem_cons.mp hk
    · exact hkeep k ha (sweepJoined_same s x ha)
    · exact hrest k hk

theorem sweepParts_lt {b : Bytes} {k : Nat} (h : k ∈ sweepParts b) : k < 16 := List.mem_range.mp (List.mem_of_mem_filter h)

section Start

variable {n q : Nat} {ent : Ent} {s1 s2 s3 : State} {b r : Bytes}

theorem State.sweepStart_joins {ctx va : Nat} (hva : fieldB ent.entry 8 8 = va) (hctx : fieldB ent.entry 16 1 % 64 = ctx)
    (hdesc : s1.vread (.seq ent.die) ctx va 256 ent.die = (.ok b, s2)) (halign : fieldB b 32 8 % 64 = 0)
    (hrec : s2.vread (.seq ent.die) ctx (fieldB b 32 8) 64 ent.die = (.ok r, s3)) (hparts : sweepParts b ≠ [])
    (hstep : fieldB r 8 8 ≠ s3.stepOf (s3.domainOf ent.die)) (hnew : s3.nme.sweeps.any (fun t => t.ctx = ctx && t.desc = va) = false)
    (hfree : (sweepParts b).any (fun k => (s3.nmeU k).sweep.isSome) = false) :
    ∃ t s4, s1.sweepStart ent = some (State.each s4 (sweepParts b) fun st s => s.sweepJoin t st) ∧ t.ctx = ctx ∧ t.desc = va ∧
      t.step = s3.stepOf (s3.domainOf ent.die) := by
  subst hva hctx
  refine ⟨{ ctx := _, desc := _, bytes := b, dom := s3.domainOf ent.die, step := s3.stepOf (s3.domainOf ent.die), gear := s3.gearOf ent.die },
    { s3 with nme := { s3.nme with sweeps := s3.nme.sweeps ++
      [{ ctx := fieldB ent.entry 16 1 % 64, desc := fieldB ent.entry 8 8, dom := s3.domainOf ent.die, res := fieldB b 32 8, parts := sweepParts b }] } }, ?_,
    rfl, rfl, rfl⟩
  unfold State.sweepStart
  dsimp only
  rw [hdesc]
  dsimp only
  rw [if_neg (not_not.mpr halign), hrec]
  dsimp only
  rw [if_neg hparts, if_neg (by simp [hstep]), if_neg (Bool.eq_false_iff.mp hnew), if_neg (Bool.eq_false_iff.mp hfree)]
  rfl

end Start

/-- A SWEEP entry that passes its checks joins every participant to the sweep. -/
theorem exec_sweep_starts {n q ctx va : Nat} {ent : Ent} {s1 s2 s3 : State} {b r : Bytes} (hstart : s.starts n q 3 ((freeSlot s n).getD 0) ent s1)
    (hcmpl : cmplBad ent.entry = false) (hva : fieldB ent.entry 8 8 = va) (hctx : fieldB ent.entry 16 1 % 64 = ctx)
    (hdesc : s1.vread (.seq ent.die) ctx va 256 ent.die = (.ok b, s2)) (halign : fieldB b 32 8 % 64 = 0)
    (hrec : s2.vread (.seq ent.die) ctx (fieldB b 32 8) 64 ent.die = (.ok r, s3)) (hparts : sweepParts b ≠ [])
    (hstep : fieldB r 8 8 ≠ s3.stepOf (s3.domainOf ent.die)) (hnew : s3.nme.sweeps.any (fun t => t.ctx = ctx && t.desc = va) = false)
    (hfree : (sweepParts b).any (fun k => (s3.nmeU k).sweep.isSome) = false) :
    ∃ s', exec (.sweep n q) s = .next s' ∧ ∀ k ∈ sweepParts b, ∃ x, (s'.nmeU k).sweep = some x ∧ x.ctx = ctx ∧ x.desc = va ∧
      x.step = s3.stepOf (s3.domainOf ent.die) ∧ s'.gf F.NME_STATUS_phase k = 1 := by
  obtain ⟨t, s4, hjoin, htctx, htdesc, htstep⟩ := State.sweepStart_joins hva hctx hdesc halign hrec hparts hstep hnew hfree
  have hexec : exec (.sweep n q) s = .next (s.startEntry n q (· = 3) fun e s =>
    if cmplBad e.entry then some (s.endEnt e St.entryInvalid 0 0) else s.sweepStart e) := rfl
  refine ⟨_, hexec.trans (congrArg Host.Outcome.next (State.startEntry_starts _ (ty := 3) hstart rfl)), fun k hk => ?_⟩
  rw [if_neg (Bool.eq_false_iff.mp hcmpl), hjoin]
  obtain ⟨hsweep, hphase⟩ := (sweepJoined_each t (fun k hk => sweepParts_lt hk) s4).2 k hk
  exact ⟨t, hsweep, htctx, htdesc, htstep, hphase⟩

/-! ### From phase to phase (R271) -/

/-- What entering a phase leaves. -/
def State.phaseSet (s : State) (st ph : Nat) : State :=
  (s.pf F.NME_STATUS_phase st ph).onSweep st fun x =>
    let fin := (ph = 3 && x.curU ≥ x.count) || (ph = 5 && x.curD ≥ x.count) || (ph = 6 && !x.digest)
    { x with phase := ph, done := fin }

theorem Tx.enter_ok {x : NmeSweep} {ph : Nat} {s s1 : State} (h : Tx.nwrite st x (x.list st + 5) (leBytes 1 ph) s = (.ok (), s1)) :
    Tx.enter st x ph s = (.ok (), s1.phaseSet st ph) := Tx.andThen_ok h _

theorem State.phaseSet_phase (s : State) (st : Nat) {ph : Nat} (h : ph < 16) : (s.phaseSet st ph).gf F.NME_STATUS_phase st = ph :=
  (State.gf_pf_same s F.NME_STATUS_phase st ph (by decide) (by decide)).trans (Nat.mod_eq_of_lt h)

theorem exec_sweepPhaseN_enters {x y : NmeSweep} {t : SweepTop} {h r : Bytes} {s1 s2 s3 s4 s5 : State} {c qv u : Nat}
    (hx : (s.nmeU st).sweep = some x) (htop : topOf s x = some t) (hphase : x.phase = 1) (hended : x.ended = false) (hruns : nmeRuns s st = true)
    (hcur : nmeCurrent s st = true) (hchecks : Tx.phaseN st x s = (.ok (y, h), s1)) (hrec : Tx.nread st x x.res 64 s1 = (.ok r, s2))
    (hfresh : fieldB h 5 1 = 0) (hstep : fieldB h 16 8 ≠ x.step) (hverdict : Tx.verdictOf st y t s2 = (.ok (some (c, qv, u, false)), s3))
    (hheader : Tx.nwrite st y (y.list st + 5) ([1, 0, 0] ++ zerosB 8 ++ leBytes 8 y.step) s3 = (.ok (), s4))
    (henter : Tx.enter st y (if y.flag 0 then 2 else 3) (s4.onSweep st (fun _ => { y with c := c, used := u })) = (.ok (), s5)) :
    exec (.sweepPhaseN st) s = .next (s5.sweepSettle x) := by
  have hexec : exec (.sweepPhaseN st) s = execSweepPhaseN st s := rfl
  rw [hexec, execSweepPhaseN, hx]
  dsimp only
  rw [htop]
  dsimp only
  rw [if_neg (by simp [hphase, hended, hruns, hcur])]
  refine congrArg Host.Outcome.next ?_
  rw [Tx.andThen_ok hchecks, Tx.andThen_ok hrec, if_neg (by simp [hstep]), Tx.andThen_ok hverdict]
  dsimp only
  rw [if_pos hfresh, Tx.andThen_ok hheader, Tx.andThen_act, if_neg (by decide), if_neg (by omega), Tx.andThen_ok henter]
  rfl

theorem exec_sweepMrDone_enters {x : NmeSweep} {r : Bytes} {s1 s2 : State} (hx : (s.nmeU st).sweep = some x) (hphase : x.phase = 2)
    (hended : x.ended = false) (hruns : nmeRuns s st = true) (hrec : Tx.nread st x (fieldB x.bytes 24 8) 16 s = (.ok r, s1))
    (hdone : fieldB r 15 1 = 1) (hheader : Tx.nwrite st x (x.list st + 5) (leBytes 1 3) s1 = (.ok (), s2)) :
    exec (.sweepMrDone st) s = .next (s2.phaseSet st 3) := by
  have hexec : exec (.sweepMrDone st) s = execSweepMrDone st s := rfl
  rw [hexec, execSweepMrDone, hx]
  dsimp only
  rw [if_neg (by simp [hphase, hended, hruns])]
  refine congrArg Host.Outcome.next (State.run_ok (s' := s2.phaseSet st 3) ?_ _)
  rw [Tx.andThen_ok hrec, if_neg (by simp [hdone]), Tx.andThen_ok (Tx.enter_ok hheader)]
  rfl

/-- The barrier of a sweep of one participant that has finished phase U. -/
theorem exec_sweepBarrier_enters {d : Nat} {t : SweepTop} {y : NmeSweep} {s1 : State} (htops : s.nme.sweeps.filter (fun t => t.dom = d) = [t])
    (hparts : t.parts = [st]) (hy : (s.nmeU st).sweep = some y) (hphase : y.phase = 3) (hdone : y.done = true) (hended : y.ended = false)
    (hheader : Tx.nwrite st y (y.list st + 5) (leBytes 1 4) s = (.ok (), s1)) : exec (.sweepBarrier d) s = .next (s1.phaseSet st 4) := by
  have hexec : exec (.sweepBarrier d) s = .next (s.each (s.nme.sweeps.filter (fun t => t.dom = d)) (fun t s => s.sweepNext t)) := rfl
  have hus : t.parts.filterMap (fun st => (s.nmeU st).sweep.map (fun y => (st, y))) = [(st, y)] := by simp [hparts, hy]
  rw [hexec, htops, State.each_cons, State.sweepNext, hus]
  have hlive : [(st, y)].filter (fun p => !p.2.ended) = [(st, y)] := by simp [hended]
  have hlow : (minList ([(st, y)].map (·.2.phase))).getD 0 = 3 := by
    show y.phase = 3
    exact hphase
  dsimp only
  rw [hlive, hlow, if_neg (by simp [hended, hphase, hdone])]
  have hwork : [(st, y)].filter (fun p => decide (p.2.phase = 3)) = [(st, y)] := by simp [hphase]
  have henter : Tx.each (fun p => Tx.enter p.1 p.2 (3 + 1)) [(st, y)] s = (.ok (), s1.phaseSet st 4) :=
    (Tx.andThen_ok (Tx.enter_ok hheader) _).trans rfl
  rw [hwork, henter]
  rfl

/-! ### Phases U, P and D (R266, R278, R279) -/

theorem exec_sweepShardUpdate_advances {x : NmeSweep} {s1 s2 : State} (hx : (s.nmeU st).sweep = some x) (hphase : x.phase = 3) (hended : x.ended = false)
    (hdone : x.done = false) (hruns : nmeRuns s st = true) (hheld : (s.nmeU st).held.contains x.curU = false)
    (hupdate : Tx.update st x x.curU s = (.ok (), s1)) (hcursor : Tx.nwrite st x (x.list st + 8) (leBytes 4 (x.curU + 1)) s1 = (.ok (), s2)) :
    exec (.sweepShardUpdate st) s = .next ((s2.setNme st (fun u => { u with loaded := false, blk := 0 })).onSweep st
      (fun x => { x with curU := x.curU + 1, done := x.curU + 1 ≥ x.count })) := by
  have hexec : exec (.sweepShardUpdate st) s = execSweepShardUpdate st s := rfl
  rw [hexec, execSweepShardUpdate, hx]
  dsimp only
  rw [if_neg (by simp only [hphase, hended, hdone, hruns, hheld]; decide)]
  exact congrArg Host.Outcome.next (State.run_ok ((Tx.andThen_ok hupdate _).trans ((Tx.andThen_ok hcursor _).trans rfl)) _)

theorem exec_prefoldRequest_held {tid : Nat} (hsent : (s.nmeU st).prefNet.any (·.1 = tid) = true) (hin : nmeIn s st = true)
    (hnew : (s.nmeU st).pref.any (·.1 = tid) = false) (hroom : (s.nmeU st).pref.length < 4096) :
    exec (.prefoldRequest st tid) s = .next ((s.setNme st (fun u => { u with prefNet := u.prefNet.filter (·.1 ≠ tid) })).setNme st
      (fun u => { u with pref := u.pref ++ [(tid, false)] })) := by
  have hexec : exec (.prefoldRequest st tid) s = execPrefoldRequest st tid s := rfl
  rw [hexec, execPrefoldRequest]
  dsimp only
  rw [if_neg (by simp only [hsent, hin]; decide), if_neg (Bool.eq_false_iff.mp hnew), if_neg (by omega)]

/-- After the requests are served, each is marked so. -/
theorem exec_sweepPrefold_serves {t : SweepTop} (hruns : nmeRuns s st = true)
    (hfind : s.nme.sweeps.find? (fun t => t.parts.any (fun k => match (s.nmeU k).sweep with | some y => y.phase = 4 && !y.ended | none => false)) = some t)
    (hfree : (s.nmeU st).pref.any (fun p => !p.2 && s.entLocked t.dom p.1) = false) :
    ∃ s1, exec (.sweepPrefold st) s = .next ((State.setNme s1 st (fun u => { u with pref := u.pref.map (fun p => (p.1, true)) })).onSweep st
      (fun x => if x.phase = 4 && !x.ended then { x with done := true } else x)) := by
  have hexec : exec (.sweepPrefold st) s = execSweepPrefold st s := rfl
  rw [hexec, execSweepPrefold]
  dsimp only
  split
  next hnone => exact absurd (hnone.symm.trans hfind) (Option.some_ne_none t).symm
  next t' hsome =>
    obtain rfl : t' = t := Option.some.inj (hsome.symm.trans hfind)
    rw [if_neg (by simp [nmeIn_of_runs hruns, restart_of_runs hruns]), if_neg (Bool.eq_false_iff.mp hfree)]
    exact ⟨_, rfl⟩

theorem exec_sweepShardDerive_advances {x : NmeSweep} {s1 s2 : State} (hx : (s.nmeU st).sweep = some x) (hphase : x.phase = 5) (hended : x.ended = false)
    (hdone : x.done = false) (hruns : nmeRuns s st = true) (hheld : (s.nmeU st).held.contains x.curD = false) (hredo : (s.nmeU st).redo ≠ some x.curD)
    (hderive : Tx.derive st x x.curD (1 - x.live) (s.setNme st (fun u => { u with redo := none })) = (.ok (), s1))
    (hcursor : Tx.nwrite st x (x.list st + 12) (leBytes 4 (x.curD + 1)) s1 = (.ok (), s2)) :
    exec (.sweepShardDerive st) s = .next (s2.onSweep st (fun x => { x with curD := x.curD + 1, done := x.curD + 1 ≥ x.count })) := by
  have hexec : exec (.sweepShardDerive st) s = execSweepShardDerive st s := rfl
  rw [hexec, execSweepShardDerive, hx]
  dsimp only
  rw [if_neg (by simp only [hphase, hended, hdone, hruns, hheld]; decide), if_neg hredo]
  refine congrArg Host.Outcome.next (State.run_ok
    (s' := s2.onSweep st fun x => { x with curD := x.curD + 1, done := x.curD + 1 ≥ x.count }) ?_ _)
  rw [Tx.andThen_pure, Tx.andThen_act, Tx.andThen_ok hderive, Tx.andThen_ok hcursor]
  rfl

/-! ### Phases X and C (R271, R283 to R285) -/

/-- Outside Fixed gear the shards whose digests differ from the reference's are asked for (R284). -/
theorem exec_sweepPhaseX_asks {x : NmeSweep} {e ref own : Bytes} {d : DigestRec} {s1 s2 : State} (hx : (s.nmeU st).sweep = some x) (hphase : x.phase = 6)
    (hended : x.ended = false) (hdone : x.done = false) (hruns : nmeRuns s st = true) (hgear : x.gear ≠ gearFixed)
    (hdel : delivery s (deliveryDie s x.dom st) x.dcoll x.step = some e) (hok : fieldB e 8 1 = 0) (hdiffer : bitN (fieldB e 10 1) 2 = false)
    (hdig : s.nme.digests.at? (deliveryDie s x.dom st * 65536 + x.dcoll) = some d)
    (hown : Tx.nread st x x.dtab (16 * x.count) s = (.ok own, s1))
    (href : Tx.read (.nme st) d.ctx (d.dst + st % 2 * (d.size / 2)) (min (d.size / 2) (16 * x.count)) (stackDie st) s1 = (.ok ref, s2)) :
    exec (.sweepPhaseX st) s = .next ((s2.each ((List.range x.count).filter (fun i => fieldB own (16 * i) 8 ≠ fieldB ref (16 * i) 8))
      (fun i s => s.digestAsk st i x.step d)).onSweep st (fun x => { x with done := true })) := by
  have hexec : exec (.sweepPhaseX st) s = execSweepPhaseX st s := rfl
  rw [hexec, execSweepPhaseX, hx]
  dsimp only
  rw [if_neg (by simp only [hphase, hended, hdone, hruns]; decide), hdel]
  dsimp only
  rw [if_neg (not_not.mpr hok), hdig]
  dsimp only
  refine congrArg Host.Outcome.next (State.run_ok (s' := (s2.each ((List.range x.count).filter (fun i => fieldB own (16 * i) 8 ≠ fieldB ref (16 * i) 8))
    (fun i s => s.digestAsk st i x.step d)).onSweep st (fun x => { x with done := true })) ?_ _)
  have hblock : d.dst + 0 * d.size + st % 2 * (d.size / 2) = d.dst + st % 2 * (d.size / 2) := by rw [Nat.zero_mul, Nat.add_zero]
  rw [Tx.andThen_ok hown, if_neg (Bool.eq_false_iff.mp hdiffer), hblock, Tx.andThen_ok href, if_neg (by simp [hgear])]
  rfl

/-- What the commit leaves at the NME before repairs are served (R271). -/
def State.sweepCommitted (s : State) (st : Nat) (x : NmeSweep) : State :=
  (((s.pf F.NME_STATUS_last_status st 0).pf F.NME_STATUS_phase st 0).setNme st (fun u => { u with last := some { x with live := 1 - x.live } })).onSweep st
    (fun x => { x with ended := true })

theorem exec_sweepCommit_ends {x : NmeSweep} {s1 s2 : State} (hx : (s.nmeU st).sweep = some x) (hphase : x.phase = 7) (hended : x.ended = false)
    (hdigest : x.digest = false) (hruns : nmeRuns s st = true)
    (hflip : Tx.nwrite st x (x.list st + 4) [BitVec.ofNat 8 (1 - x.live), 0, 0] s = (.ok (), s1)) (hcount : Tx.resOp st x 24 0 1 0 s1 = (.ok (), s2))
    (hnone : (s2.nmeU st).waiting.filter (fun p => p.2.1 = x.step % 2 ^ 32) = []) :
    exec (.sweepCommit st) s = .next ((s2.sweepCommitted st x).sweepSettle x) := by
  have hexec : exec (.sweepCommit st) s = execSweepCommit st s := rfl
  have hserve : (s2.sweepCommitted st x).repairsServe st (x.step % 2 ^ 32) = s2.sweepCommitted st x := by
    have hwaiting : ((s2.sweepCommitted st x).nmeU st).waiting = (s2.nmeU st).waiting := by
      unfold State.sweepCommitted State.onSweep
      rw [State.nmeU_setNme, State.nmeU_setNme]
      rfl
    rw [State.repairsServe, hwaiting, hnone]
    rfl
  rw [hexec, execSweepCommit, hx]
  dsimp only
  rw [if_neg (by simp only [hphase, hended, hruns]; decide)]
  refine congrArg Host.Outcome.next (State.run_ok (s' := (s2.sweepCommitted st x).sweepSettle x) ?_ _)
  rw [if_neg (by simp [hdigest]), Tx.andThen_pure, Tx.andThen_ok hflip, Tx.andThen_ok hcount, Tx.andThen_act]
  exact congrArg (fun t : State => (Except.ok (t.sweepSettle x), t.sweepSettle x)) hserve

theorem State.sweepCommitted_spec (s : State) (st : Nat) (x : NmeSweep) :
    (s.sweepCommitted st x).gf F.NME_STATUS_phase st = 0 ∧ (s.sweepCommitted st x).gf F.NME_STATUS_last_status st = 0 ∧
      ((s.sweepCommitted st x).nmeU st).last = some { x with live := 1 - x.live } ∧ (s.sweepCommitted st x).mem = s.mem := by
  have hregs : ∀ f : Fld, (s.sweepCommitted st x).gf f st = ((s.pf F.NME_STATUS_last_status st 0).pf F.NME_STATUS_phase st 0).gf f st := fun f =>
    State.gf_of_regs rfl f st
  refine ⟨?_, ?_, ?_, rfl⟩
  · rw [hregs, State.gf_pf_same _ _ _ _ (by decide) (by decide), Nat.zero_mod]
  · rw [hregs, State.gf_pf_apart _ (f := F.NME_STATUS_phase) (by decide), State.gf_pf_same _ _ _ _ (by decide) (by decide), Nat.zero_mod]
  · unfold State.sweepCommitted State.onSweep
    rw [State.nmeU_setNme, State.nmeU_setNme]

/-! ### The obligation -/

/-- Settles O40: each phase's command runs its sequence of accesses through, and leaves what the phase's rule says. -/
theorem sweepsComplete : Obligations.SweepsComplete := by
  intro s st
  refine ⟨fun n q ent s1 s2 s3 b r hstart hcmpl => ?_, fun x t y h r s1 s2 s3 s4 s5 c qv u hx htop hphase hended hruns hcur hchecks hrec hfresh hstep
      hverdict hheader henter => exec_sweepPhaseN_enters hx htop hphase hended hruns hcur hchecks hrec hfresh hstep hverdict hheader henter,
    fun x r s1 s2 hx hphase hended hruns hrec hdone hheader => ⟨_, exec_sweepMrDone_enters hx hphase hended hruns hrec hdone hheader,
      State.phaseSet_phase s2 st (by decide), rfl⟩,
    fun d t y s1 htops hparts hy hphase hdone hended hheader => ⟨_, exec_sweepBarrier_enters htops hparts hy hphase hdone hended hheader,
      State.phaseSet_phase s1 st (by decide)⟩,
    fun x s1 s2 hx hphase hended hdone hruns hheld hupdate hcursor => ⟨_, exec_sweepShardUpdate_advances hx hphase hended hdone hruns hheld hupdate hcursor,
      rfl, ?_⟩,
    fun tid hsent hin hnew hroom => ⟨_, exec_prefoldRequest_held hsent hin hnew hroom, ?_, ?_, rfl⟩, fun t hfind hruns hfree => ?_,
    fun x s1 s2 hx hphase hended hdone hruns hheld hredo hderive hcursor =>
      ⟨_, exec_sweepShardDerive_advances hx hphase hended hdone hruns hheld hredo hderive hcursor, rfl, State.nmeU_onSweep s2 st _⟩,
    fun x e d ref own s1 s2 hx hphase hended hdone hruns hgear hdel hok hdiffer hdig hown href =>
      exec_sweepPhaseX_asks hx hphase hended hdone hruns hgear hdel hok hdiffer hdig hown href,
    fun x s1 s2 hx hphase hended hdigest hruns hflip hcount hnone => ?_⟩
  · intro va ctx hdesc halign hrec hparts hstep hnew hfree
    exact exec_sweep_starts hstart hcmpl rfl rfl hdesc halign hrec hparts hstep hnew hfree
  · rw [State.nmeU_onSweep, State.nmeU_setNme]
  · rw [State.nmeU_setNme, State.nmeU_setNme]
  · rw [State.nmeU_setNme, State.nmeU_setNme]
  · obtain ⟨s1, hserve⟩ := exec_sweepPrefold_serves hruns hfind hfree
    refine ⟨_, hserve, fun p hp => ?_⟩
    unfold State.onSweep at hp
    rw [State.nmeU_setNme, State.nmeU_setNme] at hp
    obtain ⟨p', -, rfl⟩ := List.mem_map.mp hp
    rfl
  · obtain ⟨hphase', hlast, hsweep, hmem⟩ := State.sweepCommitted_spec s2 st x
    exact ⟨_, hphase', hlast, hsweep, hmem, exec_sweepCommit_ends hx hphase hended hdigest hruns hflip hcount hnone⟩

end Sys2Proof.Machine

/-! PROOF. Ethernet links, flow control, MACsec associations and virtual network functions (R318 to R333). -/

namespace Sys2Proof.Machine

variable {s : State} {p l : Nat}

/-! ### Links and port registers -/

theorem State.link_setLink (s : State) (k : Nat) (f : Link → Link) : (s.setLink k f).link k = f (s.link k) := Tab.atD_put_same ..

theorem State.link_setLink_ne (s : State) {j k : Nat} (h : j ≠ k) (f : Link → Link) : (s.setLink k f).link j = s.link j := Tab.atD_put_ne _ h ..

theorem bitN_eq_testBit (v i : Nat) : bitN v i = v.testBit i := by
  rw [Nat.testBit_eq_decide_div_mod_eq, bitN]
  rfl

theorem bitN_mod_two_pow {i w : Nat} (h : i < w) (v : Nat) : bitN (v % 2 ^ w) i = bitN v i := by
  rw [bitN_eq_testBit, bitN_eq_testBit, Nat.testBit_mod_two_pow, decide_eq_true h, Bool.true_and]

theorem linkThere_lt (h : linkThere s p l = true) : p < 24 ∧ l < 8 := by
  simp only [linkThere, linksOf, Bool.and_eq_true, decide_eq_true_eq] at h
  obtain ⟨hp, hl⟩ := h
  have hmode : 2 ^ (s.gf F.PORT_CTRL_mode p % 4) ≤ 2 ^ 3 := Nat.pow_le_pow_right (by decide) (by omega)
  exact ⟨hp, lt_of_lt_of_le (of_decide_eq_true hl) hmode⟩

theorem State.setPortBit_same (s : State) {f : Fld} (hhi : f.hi < 64) (hlo : f.lo ≤ f.hi) (hl : l < f.hi + 1 - f.lo) (b : Bool) :
    bitN ((s.setPortBit f p l b).gf f p) l = b := by
  rw [State.setPortBit, State.gf_pf_same _ _ _ _ hhi hlo, bitN_mod_two_pow hl, bitN_setBitsN_same]

theorem State.gf_bump64_distinct (s : State) {f : Fld} {r : Reg} (h : f.reg.ctorIdx ≠ r.ctorIdx) {i j : Nat} (hi : i < 65536) (hj : j < 65536) (k : Nat) :
    (s.bump64 r i k).gf f j = s.gf f j := State.gf_wr_distinct s h hi hj _

theorem State.fecCount_keeps {α : Type} {π : State → α} (hwr : ∀ (s : State) r i v, π (s.wr r i v) = π s) (s : State) (k corr unc : Nat) :
    π (s.fecCount k corr unc) = π s := by
  have hbump : ∀ s : State, π (s.bump .LINK_FEC_UNCORRECTED k unc) = π s := fun s => by
    unfold State.bump
    dsimp only
    split <;> exact hwr s ..
  exact (State.when_keeps _ hbump _).trans (hwr ..)

theorem State.fecCount_gf (s : State) {f : Fld} (hcorr : f.reg.ctorIdx ≠ Reg.LINK_FEC_CORRECTED.ctorIdx)
    (hunc : f.reg.ctorIdx ≠ Reg.LINK_FEC_UNCORRECTED.ctorIdx) {k j : Nat} (hk : k < 65536) (hj : j < 65536) (corr unc : Nat) :
    (s.fecCount k corr unc).gf f j = s.gf f j :=
  (State.when_keeps (π := fun s => s.gf f j) _ (fun s => State.gf_bump_distinct s hunc hk hj unc) _).trans
    (State.gf_bump64_distinct s hcorr hk hj corr)

/-! ### Links go down and up (R319, R330, R331) -/

theorem exec_linkDown (hthere : linkThere s p l = true) (hup : linkUp s p l = true) (corr unc : Nat) :
    exec (.linkDown p l corr unc) s = .next (((((s.fecCount (linkNo p l) corr unc).setPortBit F.PORT_STATUS_link_up p l false).bump .LINK_LINK_DOWNS
      (linkNo p l)).setLink (linkNo p l) (fun x => { x with lost := true })).notice (portDie p) (portBlk p) 0) := by
  have hexec : exec (.linkDown p l corr unc) s = execLinkDown p l s corr unc := rfl
  rw [hexec, execLinkDown, if_neg (by simp [hthere, hup])]

theorem portIdx_lt (hp : p < 24) : fltIdx (portDie p) (portBlk p) < 65536 ∧ linkNo p l < 65536 := by
  refine ⟨fltIdx_lt ?_ ?_, ?_⟩
  · unfold portDie
    omega
  · unfold portBlk
    omega
  · unfold linkNo
    omega

theorem linkDown_leaves (hthere : linkThere s p l = true) (hup : linkUp s p l = true) (corr unc : Nat) :
    ∃ s', exec (.linkDown p l corr unc) s = .next s' ∧ linkUp s' p l = false ∧ (s'.link (linkNo p l)).lost = true ∧ s'.mem = s.mem := by
  obtain ⟨hp, hl⟩ := linkThere_lt hthere
  obtain ⟨hblk, hk⟩ := portIdx_lt (l := l) hp
  have hbump : ∀ {α : Type} {π : State → α} (s : State), ReportIndep π → π (s.bump .LINK_LINK_DOWNS (linkNo p l)) = π s := fun s hπ =>
    State.bump_keeps hπ s ..
  refine ⟨_, exec_linkDown hthere hup corr unc, ?_, ?_, ?_⟩
  · unfold linkUp State.notice
    rw [State.fltReport_gf _ (by decide) hblk (by omega)]
    refine (congrArg (bitN · l) (State.gf_bump_distinct _ (f := F.PORT_STATUS_link_up) (by decide) hk (by omega) 1)).trans ?_
    exact State.setPortBit_same _ (by decide) (by decide) hl false
  · rw [State.notice_keeps (π := fun s => s.link (linkNo p l)) fun _ _ _ _ _ _ _ => rfl, State.link_setLink]
  · rw [State.notice_keeps (π := State.mem) fun _ _ _ _ _ _ _ => rfl]
    refine (hbump (π := State.mem) _ fun _ _ _ _ _ _ _ => rfl).trans ?_
    exact State.fecCount_keeps (π := State.mem) (fun _ _ _ _ => rfl) ..

/-- The link as it comes up, before the port's links send what waited (R319, R331). -/
def State.linkRaised (s : State) (p l : Nat) : State :=
  let k := linkNo p l
  let s := (s.setPortBit F.PORT_STATUS_link_up p l true).setLink k (fun x => { x with lost := false })
  let s := s.when ((s.link k).rx = [] && (s.link k).tx.isNone) (fun s => s.mkaStart k)
  s.when (s.gb F.PORT_STATUS_retraining p && allUp s p) (fun s => s.retrainEnd p)

theorem exec_linkUp (hthere : linkThere s p l = true) (hin : portIn s p = true) :
    exec (.linkUp p l) s = .next ((s.linkRaised p l).each (List.range 8) (fun l s => s.drainLink p l)) := by
  have hexec : exec (.linkUp p l) s = execLinkUp p l s := rfl
  rw [hexec, execLinkUp, if_neg (by simp [hthere, hin])]
  rfl

/-- What the end of a retraining and the start of MKA leave is as the raised link has it. -/
theorem State.linkRaised_keeps {α : Type} {π : State → α} (hmka : ∀ s : State, π (s.mkaStart (linkNo p l)) = π s)
    (hend : ∀ s : State, π (s.retrainEnd p) = π s) (s : State) :
    π (s.linkRaised p l) = π ((s.setPortBit F.PORT_STATUS_link_up p l true).setLink (linkNo p l) fun x => { x with lost := false }) :=
  (State.when_keeps _ hend _).trans (State.when_keeps _ hmka _)

theorem State.linkRaised_spec (hthere : linkThere s p l = true) : linkUp (s.linkRaised p l) p l = true ∧
    ((s.linkRaised p l).link (linkNo p l)).lost = false ∧ ((s.linkRaised p l).link (linkNo p l)).txQ = (s.link (linkNo p l)).txQ := by
  obtain ⟨hp, hl⟩ := linkThere_lt hthere
  have hend : ∀ s : State, (s.retrainEnd p).gf F.PORT_STATUS_link_up p = s.gf F.PORT_STATUS_link_up p := fun s => by
    unfold State.retrainEnd
    rw [State.gf_pf_elsewhere _ (Or.inl (by decide)) (by omega) (by omega), State.gf_pf_apart _ (by decide)]
  have hmka : ∀ {α : Type} (g : Link → α) (_ : ∀ (x : Link) w, g { x with window := w } = g x) (s : State),
      g ((s.mkaStart (linkNo p l)).link (linkNo p l)) = g (s.link (linkNo p l)) := fun g hg s => by
    rw [State.mkaStart, State.link_setLink]
    exact hg ..
  have hraised : ∀ s : State, ((s.setPortBit F.PORT_STATUS_link_up p l true).setLink (linkNo p l) fun x => { x with lost := false }).link (linkNo p l) =
      { s.link (linkNo p l) with lost := false } := fun s => State.link_setLink _ _ _
  refine ⟨?_, ?_, ?_⟩
  · rw [linkUp, State.linkRaised_keeps (π := fun s => s.gf F.PORT_STATUS_link_up p) (fun _ => rfl) hend]
    exact State.setPortBit_same s (by decide) (by decide) hl true
  · rw [State.linkRaised_keeps (π := fun s => (s.link (linkNo p l)).lost) (hmka Link.lost fun _ _ => rfl) (fun _ => rfl), hraised]
  · rw [State.linkRaised_keeps (π := fun s => (s.link (linkNo p l)).txQ) (hmka Link.txQ fun _ _ => rfl) (fun _ => rfl), hraised]

theorem exec_retrainTimeout_retraining (hin : portIn s p = true) (hretrain : s.gb F.PORT_STATUS_retraining p = true) :
    let s1 := (s.pf F.PORT_STATUS_retrain_timeout p 1).retrainEnd p
    s1.gb F.PORT_STATUS_retraining p = false ∧ s1.gf F.PORT_STATUS_retrain_timeout p = 1 ∧ exec (.retrainTimeout p) s =
      .next ((((s1.each (connsOn s1 p) (fun c s => s.atFail (portDie p) c)).raise (portDie p) (portBlk p) 1 false 0).settle).drlGo) := by
  have hp : p < 24 := by
    simp only [portIn, Bool.and_eq_true, decide_eq_true_eq] at hin
    exact hin.1
  have hexec : exec (.retrainTimeout p) s = execRetrainTimeout p s := rfl
  refine ⟨?_, ?_, ?_⟩
  · unfold State.retrainEnd State.gb
    rw [State.gf_pf_elsewhere _ (Or.inl (by decide)) (by omega) (by omega), State.gf_pf_same _ _ _ _ (by decide) (by decide), Nat.zero_mod]
    rfl
  · unfold State.retrainEnd
    rw [State.gf_pf_elsewhere _ (Or.inl (by decide)) (by omega) (by omega), State.gf_pf_apart _ (by decide),
      State.gf_pf_flag _ _ _ (by decide) (by decide)]
  · rw [hexec, execRetrainTimeout, if_neg (by simp [hin]; omega), if_neg (by simp [hretrain])]

theorem exec_retrainTimeout_lost (hin : portIn s p = true) (hretrain : s.gb F.PORT_STATUS_retraining p = false) (hlost : (s.link (linkNo p l)).lost = true)
    (hl : l < 8) : exec (.retrainTimeout p) s = .next ((s.raise (portDie p) (portBlk p) 1 false 0).settle.drlGo) := by
  have hp : p < 24 := by
    simp only [portIn, Bool.and_eq_true, decide_eq_true_eq] at hin
    exact hin.1
  have hany : (List.range 8).any (fun l => (s.link (linkNo p l)).lost) = true := List.any_eq_true.mpr ⟨l, List.mem_range.mpr hl, hlost⟩
  have hexec : exec (.retrainTimeout p) s = execRetrainTimeout p s := rfl
  rw [hexec, execRetrainTimeout, if_neg (by simp [hin]; omega), if_pos (by simp [hretrain])]
  exact congrArg Host.Outcome.next (if_pos hany)

/-! ### Retraining and changes of mode (R330, R331) -/

theorem portIn_lt (h : portIn s p = true) : p < 24 := by
  simp only [portIn, Bool.and_eq_true, decide_eq_true_eq] at h
  exact h.1

/-- What the loss of the PTP slave port can change is the time base's status. -/
theorem State.ptpLost_keeps {α : Type} {π : State → α} (h : ∀ (s : State) v, π (s.pf F.TB_STATUS_holdover 0 v) = π s)
    (h' : ∀ (s : State) v, π (s.pf F.TB_STATUS_locked 0 v) = π s) (s : State) (p : Nat) : π (s.ptpLost p) = π s := by
  refine State.when_keeps s (fun s => ?_) _
  unfold State.holdover
  split
  · rfl
  · exact (h' ..).trans (h ..)

/-- The links taken down, with the port's registers of a retraining (R330). -/
def State.retrainRegs (s : State) (p : Nat) : State :=
  let up := s.gf F.PORT_STATUS_link_up p
  let s := s.each ((List.range 8).filter (fun l => bitN up l)) (fun l s => s.bump .LINK_LINK_DOWNS (linkNo p l))
  ((s.pf F.PORT_STATUS_link_up p 0).pf F.PORT_STATUS_retraining p 1).pf F.PORT_CTRL_retrain p 1

theorem State.retrain_gf (s : State) (hp : p < 24) {f : Fld} (hf : f.reg.ctorIdx ≠ Reg.TB_STATUS.ctorIdx) :
    (s.retrain p).gf f p = (s.retrainRegs p).gf f p := by
  have htb : ∀ (s : State) (g : Fld) v, g.reg = .TB_STATUS → (s.pf g 0 v).gf f p = s.gf f p := fun s g v hg =>
    State.gf_pf_elsewhere s (Or.inl (by rw [hg]; exact hf)) (by decide) (by omega) v
  refine (State.ptpLost_keeps (π := fun s => s.gf f p) (fun s v => htb s _ v rfl) (fun s v => htb s _ v rfl) _ p).trans ?_
  exact State.each_keeps (π := fun s => s.gf f p) (f := fun l s => s.setLink (linkNo p l) _) _ (fun _ _ => rfl) _

theorem State.retrainRegs_mem (s : State) (p : Nat) : (s.retrainRegs p).mem = s.mem :=
  State.each_keeps (π := State.mem) s (fun _ s => State.bump_keeps (π := State.mem) (fun _ _ _ _ _ _ _ => rfl) s ..) _

theorem State.retrain_mem (s : State) (p : Nat) : (s.retrain p).mem = s.mem := by
  refine (State.ptpLost_keeps (π := State.mem) (fun _ _ => rfl) (fun _ _ => rfl) _ p).trans ?_
  exact (State.each_keeps (π := State.mem) (f := fun l s => s.setLink (linkNo p l) _) _ (fun _ _ => rfl) _).trans (State.retrainRegs_mem s p)

theorem State.retrain_status (s : State) (hp : p < 24) :
    (s.retrain p).gb F.PORT_STATUS_retraining p = true ∧ (s.retrain p).gf F.PORT_STATUS_link_up p = 0 := by
  refine ⟨?_, ?_⟩
  · rw [State.gb, State.retrain_gf s hp (by decide), State.retrainRegs, State.gf_pf_elsewhere _ (Or.inl (by decide)) (by omega) (by omega),
      State.gf_pf_flag _ _ _ (by decide) (by decide)]
    rfl
  · rw [State.retrain_gf s hp (by decide), State.retrainRegs, State.gf_pf_elsewhere _ (Or.inl (by decide)) (by omega) (by omega),
      State.gf_pf_apart _ (f := F.PORT_STATUS_retraining) (by decide), State.gf_pf_same _ _ _ _ (by decide) (by decide), Nat.zero_mod]

theorem State.retrain_mode (s : State) (hp : p < 24) : (s.retrain p).gf F.PORT_CTRL_mode p = s.gf F.PORT_CTRL_mode p := by
  rw [State.retrain_gf s hp (by decide), State.retrainRegs, State.gf_pf_apart _ (f := F.PORT_CTRL_retrain) (by decide),
    State.gf_pf_elsewhere _ (Or.inl (by decide)) (by omega) (by omega), State.gf_pf_elsewhere _ (Or.inl (by decide)) (by omega) (by omega)]
  refine State.each_keeps (π := fun s => s.gf F.PORT_CTRL_mode p) s (fun _ s => ?_) _
  exact State.gf_bump_distinct s (by decide) (portIdx_lt hp).2 (by omega) 1

theorem exec_portRetrain {role : Role} (hrole : s.mmioRole role = true) (hin : portIn s p = true) :
    exec (.portRetrain role p) s = .next (s.retrain p) :=
  congrArg Host.Outcome.next (if_pos (by simp [hrole, hin, portIn_lt hin]))

theorem exec_portModeWrite {role : Role} (hrole : s.mmioRole role = true) (hin : portIn s p = true) {mode : Nat}
    (hmode : s.gf F.PORT_CTRL_mode p ≠ mode % 4) : exec (.portModeWrite role p mode) s = .next ((s.pf F.PORT_CTRL_mode p (mode % 4)).retrain p) := by
  have hp := portIn_lt hin
  have hexec : exec (.portModeWrite role p mode) s = execPortModeWrite role p mode s := rfl
  rw [hexec, execPortModeWrite, if_neg (by simp [hrole, hin, hmode]; omega)]

/-! ### Frames (R320, R321, R326) -/

section Receive

variable (hthere : linkThere s p l = true) (hin : portIn s p = true) (hup : linkUp s p l = true)

/-- The link's counts at a frame received. -/
def State.frameCounted (s : State) (p l corr unc : Nat) : State := (s.fecCount (linkNo p l) corr unc).bump64 .LINK_RX_FRAMES (linkNo p l)

theorem State.frameCounted_keeps {α : Type} {π : State → α} (hwr : ∀ (s : State) r i v, π (s.wr r i v) = π s) (s : State) (p l corr unc : Nat) :
    π (s.frameCounted p l corr unc) = π s := (hwr ..).trans (State.fecCount_keeps hwr ..)

include hthere hin hup

/-- A frame is counted; then the first rule that takes it decides. -/
theorem exec_frameRx (f : Frame) (corr unc : Nat) :
    let s1 := s.frameCounted p l corr unc
    (f.fcsOk = false ∨ macMax < macLen f → exec (.frameRx p l f corr unc) s = .next (s1.bump .LINK_RX_DROP (linkNo p l))) ∧
    (f.fcsOk = true → macLen f ≤ macMax →
      (isPfcFrame f = true → exec (.frameRx p l f corr unc) s =
        exec (.pfcRx p l (f.be (f.l3 + 2) 2 % 256) ((List.range 8).map (fun c => f.be (f.l3 + 4 + 2 * c) 2))) s1) ∧
      (isPfcFrame f = false → isEapol f = true → exec (.frameRx p l f corr unc) s =
        .next { s1 with eth := { s1.eth with rxd := (.rot, linkNo p l, f) :: s1.eth.rxd } })) := by
  have hexec : exec (.frameRx p l f corr unc) s = execFrameRx p l f s corr unc := rfl
  intro s1
  rw [hexec, execFrameRx, if_neg (by simp [hthere, hin, hup])]
  refine ⟨fun hbad => if_pos ?_, fun hfcs hlen => ⟨fun hpfc => ?_, fun hpfc heapol => ?_⟩⟩
  · obtain hbad | hbad := hbad <;> simp [hbad]
  · rw [if_neg (by simp [hfcs, hlen]), if_pos hpfc]
    rfl
  · rw [if_neg (by simp [hfcs, hlen]), if_neg (by simp [hpfc]), if_pos heapol]
    rfl

/-- The association of the frame goes on to its packet number (R327). -/
def State.packetSeen (s : State) (k : Nat) (f : Frame) : State :=
  s.setLink k (fun x => { x with rx := x.rx.map (fun a => if a.1 = f.an then (a.1, max a.2 (f.pn + 1)) else a) })

omit hthere hin hup in
theorem State.packetSeen_buf (s : State) (k j : Nat) (f : Frame) : ((s.packetSeen k f).link j).buf = (s.link j).buf := by
  unfold State.packetSeen
  by_cases hjk : j = k
  · rw [hjk, State.link_setLink]
  · rw [State.link_setLink_ne s hjk]

omit hthere hin hup in
theorem occupancy_of_buf {s s' : State} (h : ∀ k, (s'.link k).buf = (s.link k).buf) (k c : Nat) : occupancy s' k c = occupancy s k c := by
  unfold occupancy
  rw [h]

omit hthere hin hup in
theorem portOccupancy_of_buf {s s' : State} (h : ∀ k, (s'.link k).buf = (s.link k).buf) (p : Nat) : portOccupancy s' p = portOccupancy s p := by
  unfold portOccupancy
  simp only [h]

/-- A frame with no IP header that MACsec and the buffers let through is steered (R321, R324). -/
theorem exec_frameRx_steers {f : Frame} (corr unc : Nat) (hfcs : f.fcsOk = true) (hlen : macLen f ≤ macMax) (hpfc : isPfcFrame f = false)
    (heapol : isEapol f = false) (hptp : isPtp f = false) (hip : f.isIp = false) (hsec : macsecOk (s.frameCounted p l corr unc) (linkNo p l) f = true)
    (hclass : occupancy s (linkNo p l) (classOf f) + f.bytes.length ≤ 1024 * ((s.frameCounted p l corr unc).gf F.PORT_CLASS_xoff_kib (p * 8 + classOf f) +
      (s.frameCounted p l corr unc).gf F.PORT_CLASS_headroom_kib (p * 8 + classOf f)))
    (hport : portOccupancy s p + f.bytes.length ≤ 12 * 2 ^ 20) :
    exec (.frameRx p l f corr unc) s = .next (((s.frameCounted p l corr unc).packetSeen (linkNo p l) f).steer p l f) := by
  have hbuf : ∀ k, (((s.frameCounted p l corr unc).packetSeen (linkNo p l) f).link k).buf = (s.link k).buf := fun k =>
    (State.packetSeen_buf ..).trans (State.frameCounted_keeps (π := fun s => (s.link k).buf) (fun _ _ _ _ => rfl) s p l corr unc)
  have hocc := occupancy_of_buf hbuf (linkNo p l) (classOf f)
  have hpocc := portOccupancy_of_buf hbuf p
  have hexec : exec (.frameRx p l f corr unc) s = execFrameRx p l f s corr unc := rfl
  rw [hexec, execFrameRx, if_neg (by simp [hthere, hin, hup])]
  refine (if_neg (by simp [hfcs, hlen])).trans ((if_neg (by simp [hpfc])).trans ((if_neg (by simp [heapol])).trans ((if_neg (by simp; exact hsec)).trans ?_)))
  refine (if_neg ?_).trans ?_
  · simp only [Bool.or_eq_true, decide_eq_true_eq, not_or]
    exact ⟨by rw [Nat.not_lt]; exact hocc ▸ hclass, by rw [Nat.not_lt]; exact hpocc ▸ hport⟩
  · simp only [hip, Bool.false_and, Bool.false_eq_true, if_false]
    exact if_neg (by simp [hptp])

end Receive

/-- An MKA frame leaves at once on a link that is up, with nothing queued: it carries no protection (R320, R326). -/
theorem exec_frameTx_eapol (hthere : linkThere s p l = true) (hin : portIn s p = true) (hup : linkUp s p l = true) {cls : Nat} {f : Frame}
    (heapol : isEapol f = true) (hevent : isPtpEvent f = false) (hlen : macLen f ≤ macMax) (hretrain : s.gb F.PORT_STATUS_retraining p = false)
    (hpaused : (s.link (linkNo p l)).paused.contains (cls % 8) = false) (hq : (s.link (linkNo p l)).txQ = []) :
    ∃ s', exec (.frameTx p l cls f) s = .next s' ∧ s'.outbox = .frame p l (cls % 8) f f.bytes :: s.outbox := by
  have hexec : exec (.frameTx p l cls f) s = execFrameTx p l cls f s := rfl
  rw [hexec, execFrameTx, if_pos hthere, State.sendFrame, if_neg (by omega)]
  generalize hs1 : s.setLink (linkNo p l) (fun x => { x with txQ := x.txQ ++ [(cls % 8, f)] }) = s1
  have hlink : s1.link (linkNo p l) = { s.link (linkNo p l) with txQ := [(cls % 8, f)] } := by
    rw [← hs1, State.link_setLink, hq]
    rfl
  have hkeep : portIn s1 p = portIn s p ∧ linkUp s1 p l = linkUp s p l ∧ s1.gb F.PORT_STATUS_retraining p = s.gb F.PORT_STATUS_retraining p ∧
      s1.outbox = s.outbox := by
    rw [← hs1]
    exact ⟨rfl, rfl, rfl, rfl⟩
  obtain ⟨hin1, hup1, hretrain1, hout⟩ := hkeep
  have hmay : maySend s1 p l (cls % 8, f) = true := by
    unfold maySend
    dsimp only
    rw [hin1, hup1, hretrain1, hlink]
    simp only [hin, hup, hretrain, heapol, hpaused, Bool.not_false, Bool.true_or, Bool.and_self]
  have hsend : s1.sendOne p l (cls % 8) f = (s1.bump64 .LINK_TX_FRAMES (linkNo p l)).emit (.frame p l (cls % 8) f f.bytes) := by
    unfold State.sendOne
    simp only [heapol, hevent, if_true, Bool.not_false]
  refine ⟨_, rfl, ?_⟩
  unfold State.drainLink
  rw [hlink]
  show (State.drainQ 2 s1 p l [(cls % 8, f)] []).outbox = _
  rw [State.drainQ, if_pos (by simp [hmay]), hsend, ← hout]
  rfl

/-! ### Priority flow control (R322, R323) -/

theorem exec_pfcRepeat {c : Nat} (hp : p < 24) (hl : l < 8) (hxoff : (s.link (linkNo p l)).xoff.contains c = true)
    (hover : 1024 * s.gf F.PORT_CLASS_xon_kib (p * 8 + c) < occupancy s (linkNo p l) c) :
    exec (.pfcRepeat p l c) s = .next (s.sendPfc p l c 0xFFFF) :=
  congrArg Host.Outcome.next (if_pos (by simp only [hp, hl, hxoff, hover, decide_true, Bool.and_self]))

theorem State.sendPfc_pause (s : State) (p l c : Nat) : (s.sendPfc p l c 0xFFFF).mem = s.mem ∧
    (s.sendPfc p l c 0xFFFF).outbox = .pfc p l (2 ^ c) ((List.range 8).map (fun i => if i = c then 0xFFFF else 0)) :: s.outbox :=
  ⟨State.bump_keeps (π := State.mem) (fun _ _ _ _ _ _ _ => rfl) _ .., State.bump_outbox _ ..⟩

/-- The classes of a PFC frame that may pause here, and the pauses as it leaves them. -/
def pfcClasses (s : State) (k mask : Nat) : List Nat := (List.range 8).filter (fun c => bitN mask c && !(s.link k).deaf.contains c)

def pfcPauses (paused cs quanta : List Nat) : List Nat :=
  (paused.filter (fun c => !(cs.filter (fun c => quanta.getD c 0 = 0)).contains c)) ++
    (cs.filter (fun c => quanta.getD c 0 ≠ 0)).filter (fun c => !paused.contains c)

theorem mem_pfcPauses {paused cs quanta : List Nat} {c : Nat} (hc : c ∈ cs) : c ∈ pfcPauses paused cs quanta ↔ quanta.getD c 0 ≠ 0 := by
  by_cases hpaused : c ∈ paused <;> simp [pfcPauses, hc, hpaused]

theorem exec_pfcRx (hthere : linkThere s p l = true) (hin : portIn s p = true) (hup : linkUp s p l = true) (mask : Nat) (quanta : List Nat) :
    exec (.pfcRx p l mask quanta) s = .next (((s.when ((pfcClasses s (linkNo p l) mask).filter (fun c => quanta.getD c 0 ≠ 0) ≠ [])
      (fun s => s.bump .LINK_PFC_XOFF_RX (linkNo p l))).setLink (linkNo p l)
        (fun x => { x with paused := pfcPauses x.paused (pfcClasses s (linkNo p l) mask) quanta })).drainLink p l) := by
  have hexec : exec (.pfcRx p l mask quanta) s = execPfcRx p l mask quanta s := rfl
  rw [hexec, execPfcRx, if_neg (by simp [hthere, hin, hup])]
  rfl

theorem exec_pfcWatchdog {c : Nat} (hthere : linkThere s p l = true) (hpaused : (s.link (linkNo p l)).paused.contains c = true)
    (hms : s.gf F.PORT_PFC_WD_wd_ms p ≠ 0) : exec (.pfcWatchdog p l c) s =
      .next (((((s.setLink (linkNo p l) (fun x => { x with deaf := c :: x.deaf.filter (· != c) })).pf F.PORT_STATUS_pfc_wd p 1).notice (portDie p)
        (portBlk p) 2)).unpause p l c) := by
  have hexec : exec (.pfcWatchdog p l c) s = execPfcWatchdog p l c s := rfl
  rw [hexec, execPfcWatchdog]
  exact if_neg (by simp only [hthere, hpaused, hms]; decide)

/-! ### Associations (R326, R327) -/

theorem exec_sakInstall {an : Nat} (hthere : linkThere s p l = true) (han : an < 4) (hnew : (s.link (linkNo p l)).rx.any (·.1 = an) = false)
    (herr : s.gb F.ROT_STATUS_error = false) : exec (.sakInstall p l an) s =
      .next ((s.setLink (linkNo p l) (fun x => { x with rx := x.rx ++ [(an, 1)], tx := some (an, 1), asked := false
                                                        saks := x.saks + 1, sak := x.sak.put an x.saks })).secureBit p l) := by
  have hexec : exec (.sakInstall p l an) s = execSakInstall p l an s := rfl
  have hfits : decide (an ≥ 4) = false := decide_eq_false (by omega)
  rw [hexec, execSakInstall]
  exact if_neg (by simp only [hthere, hfits, hnew, herr]; decide)

/-- A link with no association an: it neither receives nor transmits with it. -/
theorem sakRetired_spec (s : State) (k an : Nat) :
    let s0 := s.setLink k (fun x => { x with rx := x.rx.filter (·.1 != an), tx := x.tx.filter (·.1 != an) })
    (s0.link k).rx.any (·.1 = an) = false ∧ ∀ pn, (s0.link k).tx ≠ some (an, pn) := by
  intro s0
  have hlink : s0.link k = { s.link k with rx := (s.link k).rx.filter (·.1 != an), tx := (s.link k).tx.filter (·.1 != an) } := State.link_setLink s k _
  rw [hlink]
  refine ⟨by simp, fun pn htx => ?_⟩
  obtain ⟨-, hne⟩ := Option.filter_eq_some_iff.mp htx
  simp at hne

theorem exec_mkaLifetimeExpiry (hthere : linkThere s p l = true) (hrx : (s.link (linkNo p l)).rx ≠ []) :
    exec (.mkaLifetimeExpiry p l) s = .next ((((s.setLink (linkNo p l) (fun x => { x with rx := [], tx := none })).secureBit p l).mkaStart
      (linkNo p l)).notice (portDie p) (portBlk p) 3) := by
  have hexec : exec (.mkaLifetimeExpiry p l) s = execMkaLifetimeExpiry p l s := rfl
  rw [hexec, execMkaLifetimeExpiry, if_neg (by simp [hthere, hrx])]

/-! ### Virtual network functions (R332, R333) -/

theorem State.vnf_setVnf (s : State) (v : Nat) (f : Vnf → Vnf) : (s.setVnf v f).vnf v = f (s.vnf v) := Tab.atD_put_same ..

theorem exec_vnfEnable {role : Role} {v : Nat} (hv : v < 256) (hrole : privRole role = true) (hoff : (s.vnf v).on = false)
    (hmac : (List.range 256).any (fun w => w ≠ v && (s.vnf w).on && vnfLink s w = vnfLink s v && vnfMac s w = vnfMac s v) = false) :
    ∃ s', exec (.vnfEnable role v) s = .next s' ∧ (s'.vnf v).on = true ∧ (s'.vnf v).quiet = false := by
  have hexec : exec (.vnfEnable role v) s = execVnfEnable role v s := rfl
  rw [hexec, execVnfEnable]
  dsimp only
  rw [if_neg (by simp [hrole, hoff]; omega), if_neg (Bool.eq_false_iff.mp hmac)]
  refine ⟨_, rfl, ?_, ?_⟩
  · rw [State.vnf_setVnf]
  · rw [State.vnf_setVnf]

theorem exec_vnfTxPoll {v h : Nat} {b : Bytes} {s1 s2 : State} (hup : vnfUp s v = true) (hretrain : s.gb F.PORT_STATUS_retraining (vnfLink s v / 8) = false)
    (hread : s.vread (vnfX v) (vnfCtx s v) (vnfCtl s v 8) 8 (vnfNode v) = (.ok b, s1)) (hhead : (s1.vnf v).txHead ≤ fieldB b 0 8)
    (hslots : fieldB b 0 8 - (s1.vnf v).txHead ≤ max 1 (vnfCfg s1 v 5))
    (hsend : vnfSend (fieldB b 0 8 - (s1.vnf v).txHead) s1 v (s1.vnf v).txHead (fieldB b 0 8) = (.ok h, s2)) :
    let s3 := s2.setVnf v (fun x => { x with txHead := h })
    exec (.vnfTxPoll v) s = .next (s3.vwrite (vnfX v) (vnfCtx s3 v) (vnfCtl s3 v 8 + 8) (leBytes 8 h) (vnfNode v)).2 := by
  have hexec : exec (.vnfTxPoll v) s = execVnfTxPoll v s := rfl
  rw [hexec, execVnfTxPoll, if_neg (by simp [hup, hretrain]), hread]
  dsimp only
  rw [if_neg (by simp only [Bool.or_eq_true, decide_eq_true_eq]; omega), hsend]

theorem exec_vnfItrExpiry (s : State) (v : Nat) : exec (.vnfItrExpiry v) s =
    .next (if (s.vnf v).due then
      ((s.setVnf v (fun x => { x with quiet := false, due := false })).msiOut (vnfNode v) (vnfCfg s v 12) (vnfCfg s v 13 % 2 ^ 32)).setVnf v
        (fun x => { x with quiet := true, due := false })
      else s.setVnf v (fun x => { x with quiet := false, due := false })) := by
  have hquiet : ¬ ((s.setVnf v (fun x => { x with quiet := false, due := false })).vnf v).quiet = true := by
    rw [State.vnf_setVnf]
    exact Bool.false_ne_true
  have hexec : exec (.vnfItrExpiry v) s = execVnfItrExpiry v s := rfl
  rw [hexec, execVnfItrExpiry, State.vnfMsi, if_neg hquiet]
  rfl

/-! ### The obligation -/

/-- Settles O43: every command of a port, a link or a virtual network function, by the rule that takes it. -/
theorem ethernetCompletes : Obligations.EthernetCompletes := by
  unfold Obligations.EthernetCompletes
  refine ⟨fun s p l role hthere => ?_, fun s p l c hthere hc hl => ?_, fun s p l an => ?_, fun s v role => ?_⟩
  · refine ⟨fun corr unc hup => linkDown_leaves hthere hup corr unc, fun hin => ?_, fun hin hretrain => ⟨_, exec_retrainTimeout_retraining hin hretrain⟩,
      fun hin hretrain hlost hl => exec_retrainTimeout_lost hin hretrain hlost hl, fun hrole hin => ⟨?_, fun mode hmode => ?_⟩,
      fun corr unc f hin hup => ?_,
      fun cls f heapol hevent hlen hin hup hretrain hpaused hq => exec_frameTx_eapol hthere hin hup heapol hevent hlen hretrain hpaused hq⟩
    · obtain ⟨hup, hlost, hq⟩ := State.linkRaised_spec hthere
      exact ⟨_, hup, hlost, hq, exec_linkUp hthere hin⟩
    · obtain ⟨hretraining, hdown⟩ := State.retrain_status s (portIn_lt hin)
      exact ⟨_, exec_portRetrain hrole hin, hretraining, hdown, State.retrain_mem s p⟩
    · refine ⟨_, exec_portModeWrite hrole hin hmode, ?_, (State.retrain_status _ (portIn_lt hin)).1⟩
      rw [State.retrain_mode _ (portIn_lt hin), State.gf_pf_same _ _ _ _ (by decide) (by decide)]
      exact Nat.mod_eq_of_lt (Nat.mod_lt _ (by decide))
    · intro s1
      obtain ⟨hdrop, htaken⟩ := exec_frameRx hthere hin hup f corr unc
      refine ⟨hdrop, fun hfcs hlen => ?_⟩
      obtain ⟨hpfc, heapol⟩ := htaken hfcs hlen
      refine ⟨hpfc, fun hnot hmka => ⟨_, heapol hnot hmka, ?_⟩, fun hnot hmka hptp hip hsec hclass hport =>
        ⟨_, ?_, exec_frameRx_steers hthere hin hup corr unc hfcs hlen hnot hmka hptp hip hsec hclass hport⟩⟩
      · exact congrArg (_ :: ·) (State.frameCounted_keeps (π := fun s => s.eth.rxd) (fun _ _ _ _ => rfl) s p l corr unc)
      · exact State.frameCounted_keeps (π := State.mem) (fun _ _ _ _ => rfl) s p l corr unc
  · obtain ⟨hp, -⟩ := linkThere_lt hthere
    intro k
    refine ⟨fun hxoff hover => ?_, fun mask quanta hin hup hbit hdeaf => ?_, fun hpaused => congrArg Host.Outcome.next (if_pos hpaused),
      fun hpaused hms => ⟨_, ?_, ?_, exec_pfcWatchdog hthere hpaused hms⟩, ⟨_, rfl, ?_, rfl⟩⟩
    · obtain ⟨hmem, hout⟩ := State.sendPfc_pause s p l c
      exact ⟨_, exec_pfcRepeat hp hl hxoff hover, hmem, hout⟩
    · have hmem : c ∈ pfcClasses s (linkNo p l) mask := List.mem_filter.mpr ⟨List.mem_range.mpr hc, by simp only [hbit, k, hdeaf]; rfl⟩
      refine ⟨_, ?_, exec_pfcRx hthere hin hup mask quanta⟩
      rw [State.link_setLink]
      exact ⟨fun hq => (mem_pfcPauses hmem).mpr hq, fun hq hin => (mem_pfcPauses hmem).mp hin hq⟩
    · rw [State.notice_keeps (π := fun s => s.link k) fun _ _ _ _ _ _ _ => rfl]
      exact (congrArg Link.deaf (State.link_setLink s k fun x => { x with deaf := c :: x.deaf.filter (· != c) })).symm ▸ List.mem_cons_self
    · rw [State.notice, State.fltReport_gf _ (by decide) (portIdx_lt (l := l) hp).1 (by omega), State.gf_pf_flag _ _ _ (by decide) (by decide)]
    · rw [State.link_setLink]
      simp
  · intro k
    refine ⟨fun hthere han hnew herr => exec_sakInstall hthere han hnew herr, ?_, fun hthere hrx => exec_mkaLifetimeExpiry hthere hrx⟩
    obtain ⟨hrx, htx⟩ := sakRetired_spec s k an
    exact ⟨_, hrx, htx, rfl⟩
  · refine ⟨fun hv hrole hoff hmac => exec_vnfEnable hv hrole hoff hmac, fun b s1 h s2 hup hretrain hread hhead hslots hsend =>
      ⟨_, ?_, exec_vnfTxPoll hup hretrain hread hhead hslots hsend⟩, fun hdue => ?_, fun hdue => ?_⟩
    · rw [State.vnf_setVnf]
    · rw [exec_vnfItrExpiry, hdue]
      exact ⟨_, rfl, by rw [if_neg (by decide), State.vnf_setVnf], rfl⟩
    · rw [exec_vnfItrExpiry, if_pos hdue]

end Sys2Proof.Machine

/-! PROOF. Aedian Transport: what sending leaves of a connection, the life of a connection (R338, R343, R344, R347), and an atomic
answered through a full connection cache (R337). -/

namespace Sys2Proof.Machine

/-! ### What a frame sent leaves (R320, R321, R326) -/

/-- A reading of the state that neither the bus's bookkeeping nor a link's state can change. -/
structure EthIndep {α : Type} (π : State → α) : Prop where
  bus : BusIndep π
  eth : ∀ (s : State) eth, π { s with eth := eth } = π s

/-- The timestamp of an event message as it leaves a port (R328). -/
def State.frameStamped (s : State) (p l : Nat) (f : Frame) : State :=
  if !isPtpEvent f then s
  else
    let t := s.ptpStamp p
    let q := t.2.eth.ptpQ.atD p []
    if q.length ≥ 64 then t.2.bump .LINK_PTP_TS_LOST (linkNo p l)
    else { t.2 with eth := { t.2.eth with ptpQ := t.2.eth.ptpQ.put p (q ++ [(l, t.1.1, t.1.2)]) } }

theorem State.bump64_keeps {α : Type} {π : State → α} (h : ReportIndep π) (s : State) (r : Reg) (i k : Nat) : π (s.bump64 r i k) = π s := by
  unfold State.bump64
  exact h s _ s.outbox s.bmp s.flt.quiet s.flt.quietAt s.flt.records

section Frames

variable {α : Type} {π : State → α} (h : EthIndep π) (s : State)
include h

theorem State.setLink_keeps (k : Nat) (f : Link → Link) : π (s.setLink k f) = π s := h.eth s _

theorem State.ptpStamp_keeps (p : Nat) : π (s.ptpStamp p).2 = π s := (State.free_keeps h.bus _).trans (State.free_keeps h.bus s)

theorem State.frameStamped_keeps (p l : Nat) (f : Frame) : π (s.frameStamped p l f) = π s := by
  unfold State.frameStamped
  split
  · rfl
  · dsimp only
    split
    · exact (State.bump_keeps h.bus.report _ ..).trans (State.ptpStamp_keeps h s p)
    · exact (h.eth _ _).trans (State.ptpStamp_keeps h s p)

theorem State.sendOne_keeps (p l cls : Nat) (f : Frame) : π (s.sendOne p l cls f) = π s := by
  have hbump := State.bump64_keeps h.bus.report s .LINK_TX_FRAMES (linkNo p l) 1
  have hsent : ∀ (t : State) f wire, π ((t.frameStamped p l f).emit (.frame p l cls f wire)) = π t := fun t f wire =>
    (State.emit_keeps h.bus.report _ _).trans (State.frameStamped_keeps h t p l f)
  unfold State.sendOne
  by_cases heapol : isEapol f = true
  · simp only [heapol, if_true]
    exact (hsent _ _ _).trans hbump
  · simp only [heapol]
    cases (s.link (linkNo p l)).tx with
    | none => exact (hsent _ _ _).trans hbump
    | some a =>
      exact (hsent _ _ _).trans ((State.when_keeps _ (fun s => State.bump_keeps h.bus.report s ..) _).trans ((State.setLink_keeps h _ _ _).trans hbump))

theorem State.drainQ_keeps (p l : Nat) : ∀ (fuel : Nat) (s : State) (q keep : List (Nat × Frame)), π (s.drainQ fuel p l q keep) = π s
  | 0, s, _, _ => State.setLink_keeps h s ..
  | _ + 1, s, [], _ => State.setLink_keeps h s ..
  | fuel + 1, s, e :: q, keep => by
    unfold State.drainQ
    split
    · exact (State.drainQ_keeps p l fuel ..).trans (State.sendOne_keeps h s ..)
    · exact State.drainQ_keeps p l fuel ..

theorem State.sendFrame_keeps (p l cls : Nat) (f : Frame) : π (s.sendFrame p l cls f) = π s := by
  unfold State.sendFrame
  split
  · rfl
  · exact (State.drainQ_keeps h p l _ _ _ _).trans (State.setLink_keeps h s ..)

/-- A packet on a path: a frame, and a free choice of the path. -/
theorem State.atPut_keeps (n c type flags psn : Nat) (body : Bytes) : π (s.atPut n c type flags psn body) = π s := by
  have hpick : ∀ cand : List Nat, π (if cand.length ≤ 1 then (cand.headD 0, s) else (cand.getD (s.free.1.toNat % cand.length) 0, s.free.2)).2 = π s := by
    intro cand
    split
    · rfl
    · exact State.free_keeps h.bus s
  unfold State.atPut
  exact (State.sendFrame_keeps h _ ..).trans (hpick _)

end Frames

theorem atEthIndep : EthIndep State.at' := ⟨fun _ _ _ _ _ _ _ _ _ _ _ _ => rfl, fun _ _ => rfl⟩

/-! ### Connections (R337, R338) -/

theorem atConnsIndep : WriteIndep (fun s : State => s.at'.conns) := ⟨fun _ _ _ _ _ _ _ _ _ _ _ _ => rfl, fun _ _ => rfl, fun _ _ _ _ _ => rfl⟩

theorem State.physWriteN_keeps {α : Type} {π : State → α} (h : WriteIndep π) : ∀ (fuel : Nat) (s : State) (pa : Nat) (bs : Bytes),
    π (s.physWriteN fuel pa bs) = π s
  | 0, _, _, _ => rfl
  | fuel + 1, s, pa, bs => by
    unfold State.physWriteN
    split
    · rfl
    · exact (State.physWriteN_keeps h fuel ..).trans (State.writeAt_keeps h s ..)

theorem State.physWrite_keeps {α : Type} {π : State → α} (h : WriteIndep π) (s : State) (pa : Nat) (bs : Bytes) : π (s.physWrite pa bs) = π s :=
  State.physWriteN_keeps h ..

/-- The cache holds keys; the connections themselves stay. -/
theorem State.connCache_conns (s : State) (n key : Nat) : (s.connCache n key).at'.conns = s.at'.conns := by
  unfold State.connCache
  dsimp only
  split
  · rfl
  · exact State.physWrite_keeps atConnsIndep _ ..

theorem State.conn_setConn (s : State) (n c : Nat) (f : Conn → Conn) : (s.setConn n c f).conn n c = f (s.conn n c) := by
  unfold State.setConn State.conn
  dsimp only
  rw [Tab.atD_put_same]
  split
  · rfl
  · rw [State.connCache_conns]

/-- Sending changes none of it: what is on its way and what is to come are other fields. -/
structure SendIndep {β : Type} (g : Conn → β) : Prop where
  sent : ∀ (x : Conn) txNext owed unacked, g { x with txNext := txNext, owed := owed, unacked := unacked } = g x
  next : ∀ (x : Conn) queue sending nextReq reads atomics,
    g { x with queue := queue, sending := sending, nextReq := nextReq, reads := reads, atomics := atomics } = g x

section Sending

variable {β : Type} {g : Conn → β} (h : SendIndep g)

theorem State.atPut_conn (s : State) (n c type flags psn : Nat) (body : Bytes) (n' c' : Nat) : (s.atPut n c type flags psn body).conn n' c' = s.conn n' c' :=
  congrArg (fun a : AtSt => a.conns.atD (ck n' c') {}) (State.atPut_keeps atEthIndep s ..)

include h

theorem State.atSeq_conn (s : State) (n c issuer type flags : Nat) (body : Bytes) (last : Bool) :
    g ((s.atSeq n c issuer type flags body last).conn n c) = g (s.conn n c) := by
  unfold State.atSeq
  dsimp only
  rw [State.conn_setConn, h.sent, State.atPut_conn]

theorem State.atNext_conn (s : State) (n c : Nat) : g ((s.atNext n c).1.conn n c) = g (s.conn n c) := by
  have hnext := h.next (s.conn n c)
  unfold State.atNext
  dsimp only
  split
  · rw [State.conn_setConn]
    exact hnext (s.conn n c).queue _ (s.conn n c).nextReq (s.conn n c).reads (s.conn n c).atomics
  · rw [State.conn_setConn, hnext]
  · rfl

theorem State.atPump_conn (n c : Nat) : ∀ (fuel : Nat) (s : State), g ((s.atPump fuel n c).conn n c) = g (s.conn n c)
  | 0, _ => rfl
  | fuel + 1, s => by
    have hnext := State.atNext_conn h s n c
    unfold State.atPump
    dsimp only
    split
    · rfl
    · split
      · rfl
      · next heq =>
        rw [heq] at hnext
        split
        · rfl
        · exact (State.atPump_conn n c fuel _).trans ((State.atSeq_conn h ..).trans hnext)

theorem State.atGo_conn (s : State) (n c : Nat) : g ((s.atGo n c).conn n c) = g (s.conn n c) := State.atPump_conn h n c _ s

end Sending

/-- A connection that is not established sends nothing. -/
theorem State.atGo_idle (s : State) {n c : Nat} (hst : (s.conn n c).state ≠ 2) : s.atGo n c = s := by
  unfold State.atGo State.atPump
  exact if_pos (by simp [hst])

/-! ### The life of a connection (R338, R343, R344, R347) -/

variable {s : State} {n c : Nat}

theorem establishedIndep : SendIndep (fun x : Conn => (x.state, x.ver, x.rxNext, x.window)) := ⟨fun _ _ _ _ => rfl, fun _ _ _ _ _ _ => rfl⟩

theorem State.setClosed_conn (s : State) (n c : Nat) :
    ((s.setClosed n c).conn n c).state = 0 ∧ ((s.setClosed n c).conn n c).queue = [] ∧ ((s.setClosed n c).conn n c).unacked = [] := by
  have hkeep : ∀ s : State, ∀ b, (s.when b (fun s => s.pf F.AT_CONN_CMD_busy n 0)).conn n c = s.conn n c :=
    fun s b => State.when_keeps (π := fun s : State => s.conn n c) (f := fun s => s.pf F.AT_CONN_CMD_busy n 0) s (fun _ => rfl) b
  unfold State.setClosed
  rw [hkeep, State.conn_setConn]
  exact ⟨rfl, rfl, rfl⟩

theorem State.establish_conn (s : State) (n c ver payload window npaths features inc : Nat) :
    let x := (s.establish n c ver payload window npaths features inc).conn n c
    x.state = 2 ∧ x.ver = ver ∧ x.rxNext = 0 ∧ x.window = window := by
  have hkeep := State.atGo_conn establishedIndep (s.setConn n c (fun x => { x with
    state := 2, ver := ver, payload := payload, window := window, npaths := npaths, features := features, inc := inc
    failed := false, txNext := 0, txUna := 0, rxNext := 0, unacked := [], held := [], owed := 0, timeouts := 0
    srtt := none, rttvar := 0, rto := 100000, alpha := { m := 1 }, rate := atLine s n x, target := atLine s n x, cut := none, periods := 0 })) n c
  rw [State.conn_setConn] at hkeep
  obtain ⟨hstate, hver, hrx, hwindow⟩ := by simpa only [Prod.mk.injEq] using hkeep
  exact ⟨hstate, hver, hrx, hwindow⟩

theorem exec_atEnable {role : Role} (hn : n < 8) (hrole : s.mmioRole role = true) (hoff : s.gb F.AT_CTRL_enable n = false) :
    ∃ s', exec (.atEnable role n) s = .next s' ∧ s'.gb F.AT_CTRL_enable n = true ∧ s'.at'.conns = s.at'.conns ∧ s'.mem = s.mem := by
  refine ⟨_, if_neg (by simp [hn, hrole, hoff]), ?_, rfl, rfl⟩
  exact State.gb_pf_one s F.AT_CTRL_enable n (by decide) (by decide)

theorem atOn_iff : atOn s n = true ↔ n < 8 ∧ s.gb F.AT_CTRL_enable n = true ∧ s.blkIn n 5 = true := by
  simp [atOn, and_assoc]

/-- The connection that a table entry opens, at the rate of its first path (R337, R338). -/
def openConn (s : State) (n c : Nat) (e : Bytes) : Conn :=
  let mv := fieldB e 1 1
  let x : Conn := { state := 1, entry := e, maxVer := if mv = 2 || mv = 3 then mv else s.odN 0x7010 2, npaths := fieldB e 10 1
                    rtoMin := s.odN 0x7010 3, retryMax := s.odN 0x7010 4, inc := (s.conn n c).inc }
  { x with rate := atLine s n x, target := atLine s n x }

/-- A connection of a host context whose entry names paths of its own engine opens with the entry's bytes (R338). -/
theorem exec_connOpen {role : Role} (hrole : s.mmioRole role = true) (hbusy : s.gb F.AT_CONN_CMD_busy n = false) (hon : atOn s n = true)
    {s1 : State} (hs1 : s1 = (s.pf F.AT_CONN_CMD_conn n c).pf F.AT_CONN_CMD_op n 1) {e : Bytes}
    (he : e = s1.physRead (s1.gf F.AT_CONN_BASE_pa n + 128 * c) 64) (hc : c < s1.gf F.AT_CONN_COUNT_count n) (hst : (s.conn n c).state = 0)
    (hpart : s1.gf F.TRANS_ATTR_part_id (fieldB e 2 1 % 64) = 0) (hpos : 0 < fieldB e 10 1) (hmax : fieldB e 10 1 ≤ 4)
    (hlinks : (List.range (min (fieldB e 10 1) 4)).any (fun i => fieldB e (32 + 8 * i) 1 / 24 ≠ n) = false) :
    ∃ s2 : State, (s2.conn n c).state = 1 ∧ (s2.conn n c).entry = e ∧ (s2.conn n c).npaths = fieldB e 10 1 ∧
      exec (.connOpen role n c) s = .next (if (s2.conn n c).perm 3 then s2.sendHello n c else s2) := by
  obtain ⟨hn, -⟩ := atOn_iff.mp hon
  have hst1 : (s1.conn n c).state = 0 := by rw [hs1]; exact hst
  refine ⟨s1.setConn n c (fun _ => openConn s1 n c e), ?_, ?_, ?_, ?_⟩
  · rw [State.conn_setConn]; rfl
  · rw [State.conn_setConn]; rfl
  · rw [State.conn_setConn]; rfl
  · have hexec : exec (.connOpen role n c) s = execConnOpen role n c s := rfl
    rw [hexec, execConnOpen, if_neg (by simp [hn, hrole, hbusy, hon]), ← hs1]
    dsimp only
    rw [← he, if_neg (by simp [hc, hst1]), if_neg (by simp only [hpart, hlinks]; simp; omega), State.conn_setConn]
    rfl

/-- Closes a connection with nothing unacknowledged (R347). -/
theorem State.atClose_conn (s : State) {n c : Nat} (hun : (s.conn n c).unacked = []) :
    ((s.atClose n c).conn n c).state = 0 ∧ ((s.atClose n c).conn n c).queue = [] := by
  unfold State.atClose
  dsimp only
  rw [if_pos (by simp [hun])]
  obtain ⟨hstate, hqueue, -⟩ := State.setClosed_conn _ n c
  exact ⟨hstate, hqueue⟩

theorem exec_connClose {role : Role} {s1 : State} (hs1 : connCmd s role n c 2 = some s1) (hc : c < s1.gf F.AT_CONN_COUNT_count n)
    (hst : (s1.conn n c).state ≠ 0) : exec (.connClose role n c) s = .next (s1.atClose n c).drlGo := by
  have hexec : exec (.connClose role n c) s = execConnClose role n c s := rfl
  rw [hexec, execConnClose, hs1]
  exact congrArg Host.Outcome.next (if_neg (by simp [hc, hst]))

theorem exec_connReset {role : Role} {s1 : State} (hs1 : connCmd s role n c 3 = some s1) (hc : c < s1.gf F.AT_CONN_COUNT_count n)
    (hst : (s1.conn n c).state ≠ 0) : exec (.connReset role n c) s = .next (s1.atReset n c).drlGo := by
  have hexec : exec (.connReset role n c) s = execConnReset role n c s := rfl
  rw [hexec, execConnReset, hs1]
  exact congrArg Host.Outcome.next (if_neg (by simp [hc, hst]))

section Negotiation

variable {b : HelloBody} {v p w np ft inc : Nat} (hon : atOn (s.atTake n) n = true) (hpkg : b.senderPkg = ((s.atTake n).conn n c).remotePkg)
  (href : ((s.atTake n).conn n c).refused = false) (hagree : agree ((s.atTake n).conn n c) b = some (v, p, w, np, ft, inc))
include hon

theorem exec_helloNak (hst : ((s.atTake n).conn n c).state = 1) : exec (.helloNak n c 8) s =
    .next (((s.atTake n).atFailOps n c).setConn n c (fun x => { x with state := 3, failed := true, refused := true })).drlGo := by
  have hexec : exec (.helloNak n c 8) s = execHelloNak n c 8 s := rfl
  rw [hexec, execHelloNak, if_neg (by simp [hon]), if_neg (by simp [hst])]

include hpkg href hagree

/-- A HELLO of a connection in negotiation is answered, and the agreed values stand (R343, R344). -/
theorem exec_hello (hst : ((s.atTake n).conn n c).state = 1) (hperm : ((s.atTake n).conn n c).perm 3 = false) : exec (.hello n c b) s =
    .next ((((s.atTake n).setConn n c (fun x => { x with inc := inc })).hello n c 11 ((s.atTake n).conn n c) v p w np inc ft).establish
      n c v p w np ft inc).drlGo := by
  have hexec : exec (.hello n c b) s = thenDrl (helloIn n c b s) := rfl
  rw [hexec, helloIn, if_neg (by simp [hon]), if_neg (by simp [hst, href]), if_neg (by simp [hpkg]), if_neg (by simp [hst]),
    if_neg (by simp [hperm]), hagree, if_neg (by simp [hst])]
  rfl

theorem exec_helloAck (hst : ((s.atTake n).conn n c).state = 1) : exec (.helloAck n c b) s =
    .next ((s.atTake n).establish n c v p w np ft inc).drlGo := by
  have hexec : exec (.helloAck n c b) s = thenDrl (helloAckIn n c b s) := rfl
  rw [hexec, helloAckIn, if_neg (by simp [hon]), if_neg (by simp [hst]), if_neg (by simp [hst, href, hpkg]), hagree]
  rfl

end Negotiation

theorem exec_helloTimer (hon : atOn s n = true)
    (hst : ((s.conn n c).state = 1 ∧ (s.conn n c).perm 3 = true) ∨ (s.conn n c).state = 3) (href : (s.conn n c).refused = false) :
    exec (.helloTimer n c) s = .next (s.sendHello n c) :=
  congrArg Host.Outcome.next (if_pos (by simp [hon, hst, href]))

/-- Settles O44: a command or a message of negotiation writes the connection's state last, and what is sent then leaves it. -/
theorem connectionsComplete : Obligations.ConnectionsComplete := by
  unfold Obligations.ConnectionsComplete
  intro s n c role
  refine ⟨exec_atEnable, ?_, ?_, ?_, ?_, ?_, ?_⟩
  · intro s1 e hrole hbusy hon hc hst hpart hpos hmax hlinks
    exact exec_connOpen hrole hbusy hon rfl rfl hc hst hpart hpos hmax hlinks
  · intro s1 hs1 hc hst hun
    obtain ⟨hstate, hqueue⟩ := State.atClose_conn s1 hun
    exact ⟨_, hstate, hqueue, exec_connClose hs1 hc hst⟩
  · intro s1 hs1 hc hst
    obtain ⟨hstate, -, hun⟩ := State.setClosed_conn (s1.atFailOps n c) n c
    exact ⟨_, hstate, hun, exec_connReset hs1 hc hst⟩
  · intro b v p w np ft inc s1 hon hpkg href hagree
    refine ⟨fun hst hperm => ?_, fun hst => ?_⟩
    · obtain ⟨hstate, hver, hrx, -⟩ := State.establish_conn ((s1.setConn n c (fun x => { x with inc := inc })).hello n c 11 (s1.conn n c) v p w np inc ft) n c v p w np ft inc
      exact ⟨_, hstate, hver, hrx, exec_hello hon hpkg href hagree hst hperm⟩
    · obtain ⟨hstate, hver, -, hwindow⟩ := State.establish_conn s1 n c v p w np ft inc
      exact ⟨_, hstate, hver, hwindow, exec_helloAck hon hpkg href hagree hst⟩
  · intro s1 hon hst
    refine ⟨(s1.atFailOps n c).setConn n c (fun x => { x with state := 3, failed := true, refused := true }), ?_, ?_, exec_helloNak hon hst⟩
    · rw [State.conn_setConn]
    · rw [State.conn_setConn]
  · intro hon hst href
    exact exec_helloTimer hon hst href

/-! ### A connection that enters a full cache -/

/-- The state with connection key k replaced in the cache by another, before k's saved state is written back. -/
def State.evicting (s : State) (key : Nat) : State :=
  { s with freeCtr := s.freeCtr + 1, at' := { s.at' with cached := [key] } }
theorem State.setConn_mem_uncached (hc : ¬ s.at'.cached.contains (ck n c) = true) (f : Conn → Conn) :
    (s.setConn n c f).mem = (s.connCache n (ck n c)).mem := by
  unfold State.setConn
  rw [if_neg hc]
theorem getD_replicate_mod {k m : Nat} (i : Nat) (h : 0 < m) : (List.replicate m k).getD (i % m) 0 = k := by
  rw [List.getD_eq_getElem _ _ (by rw [List.length_replicate]; exact Nat.mod_lt i h), List.getElem_replicate]
/-- A cache full of one key evicts it and writes its state back (R337). -/
theorem State.connCache_full (s : State) {n k : Nat} (key : Nat) (hc : s.at'.cached = List.replicate 4096 k) (hk : k / 65536 = n) :
    s.connCache n key =
      (s.evicting key).physWrite (s.gf F.AT_CONN_BASE_pa n + 128 * (k % 65536) + 64) (s.conn n (k % 65536)).saved := by
  have hmine : s.at'.cached.filter (fun k => k / 65536 = n) = List.replicate 4096 k := by
    rw [hc]; exact List.filter_replicate_of_pos (decide_eq_true hk)
  have hold (i : Nat) : (List.replicate 4096 k).getD (i % 4096) 0 = k := getD_replicate_mod i (by decide)
  unfold State.connCache
  simp only [hmine, List.length_replicate, Nat.lt_irrefl, if_false, hold, State.free]
  rw [hc, List.filter_replicate_of_neg (by simp)]
  rfl

/-- An atomic on a word in memory acts on it, and the old value goes out as its answer (R336). -/
theorem State.atPerform_atomic {s s1 : State} {n c va pa e ty key : Nat} (psn aop opnd nv : Nat) (hp : (s.conn n c).perm 2 = true)
    (hx : s.xlate (.at n) (s.conn n c).ctx va accStore n = (.ok pa e ty key, s1)) (hva : va % 4 = 0)
    (hreg : s1.region pa ≠ .mmio) (hbar : s1.region pa ≠ .bar) (hbad : s1.lineBad (lineOf pa) = false) :
    s.atPerform n c psn (.atomic va aop 2 opnd nv) = some ((s1.atomicMem key pa 4 aop opnd nv).2.atAnswer n c 4
      (beBytes 4 psn ++ beBytes 1 0 ++ zerosB 3 ++ beBytes 8 (s1.atomicMem key pa 4 aop opnd nv).1)) := by
  have hsz : (va % if 2 = 3 then 8 else 4) = 0 := hva
  simp only [State.atPerform, hp, hx, hsz, hreg, hbar, hbad]
  rfl

/-! ### The counterexample -/

/-- Connection 0 of engine 0 may perform atomics (R337), and the engine's cache is full of the key of connection 1. -/
def cacheFull : State :=
  { State.reset with
    xl := { State.reset.xl with tlb := [⟨.at 0, 0, 0, 30, 14⟩] }
    at' := { State.reset.at' with conns := { rows := [(ck 0 0, { entry := [0, 0, 0, 4] })] }
                                  cached := List.replicate 4096 (ck 0 1) } }
theorem cacheFull_xlate : cacheFull.xlate (.at 0) 0 0x2000 accStore 0 = (.ok 0x2000 14 0 0, cacheFull) := rfl
/-- The machine once the atomic's word is written and before its answer goes out. -/
def atomicDone : State := (cacheFull.atomicMem 0 0x2000 4 0 0 0).2
theorem atomicDone_at : atomicDone.at' = cacheFull.at' := rfl
/-- The answer takes connection 0 into the cache: connection 1 leaves it, and its state is written to its table entry. -/
theorem atomicDone_answer_mem (type : Nat) (body : Bytes) :
    (atomicDone.atAnswer 0 0 type body).mem = ((atomicDone.evicting 0).physWrite 192 ({} : Conn).saved).mem := by
  have hfull : (atomicDone.connCache 0 0) = (atomicDone.evicting 0).physWrite 192 ({} : Conn).saved :=
    State.connCache_full atomicDone (k := ck 0 1) 0 rfl rfl
  have hother : ∀ m, ¬ (List.replicate m (ck 0 1)).contains (ck 0 0) = true := fun m => by simp [ck]
  have hmissing : ¬ atomicDone.at'.cached.contains (ck 0 0) = true := by
    rw [atomicDone_at, show cacheFull.at'.cached = List.replicate 4096 (ck 0 1) from rfl]
    exact hother 4096
  have hidle : ((atomicDone.setConn 0 0 (fun x => { x with sending := x.sending ++ [(agentNone, type, 0, body, true)] })).conn 0 0).state ≠ 2 := by
    rw [State.conn_setConn]
    exact (by decide : (0 : Nat) ≠ 2)
  unfold State.atAnswer
  rw [State.atGo_idle _ hidle, State.setConn_mem_uncached hmissing, ← hfull]
  rfl
set_option maxRecDepth 65536 in
theorem evicted_mem : ((atomicDone.evicting 0).physWrite 192 ({} : Conn).saved).mem ≠ atomicDone.mem := by
  have hafter : Mem.get 193 ((atomicDone.evicting 0).physWrite 192 ({} : Conn).saved).mem = 3 := rfl
  have hbefore : Mem.get 193 atomicDone.mem = 0 := rfl
  intro h
  rw [h, hbefore] at hafter
  exact absurd hafter (by decide)

/-- Refutes O45: the answer of an atomic takes its connection into the engine's cache, and a full cache writes another connection's
state to its table entry (R337), so memory changes in more than the atomic's word. -/
theorem not_transportPacketsComplete : ¬ Obligations.TransportPacketsComplete := by
  unfold Obligations.TransportPacketsComplete
  intro h
  obtain ⟨_, _, _, _, hatomic, _⟩ := h.2 cacheFull 0 0 0 0x2000
  obtain ⟨s2, hs2, hmem⟩ := hatomic 0 0 0 0x2000 14 0 0 cacheFull (by decide) cacheFull_xlate (by decide) (by decide) (by decide) (by decide)
  have hrun := State.atPerform_atomic (c := 0) 0 0 0 0 (by decide) cacheFull_xlate (by decide) (by decide) (by decide) (by decide)
  have hanswer := congrArg State.mem (Option.some.inj (hs2.symm.trans hrun))
  exact evicted_mem ((atomicDone_answer_mem 4 _).symm.trans (hanswer.symm.trans hmem))

end Sys2Proof.Machine

/-! PROOF. What every local instruction keeps: ended threads stay out of the active masks, and the memory list stays canonical
(R156, R158, R180). -/

namespace Sys2Proof.Machine

/-! ### The relation -/

/-- The memory list stays canonical, and no thread of a group that has ended becomes active. -/
def Kept (s s' : State) : Prop :=
  (Mem.wf s.mem = true → Mem.wf s'.mem = true) ∧
    ((∀ t g, (s.group t g).threadsOk = true) → ∀ t g, (s'.group t g).threadsOk = true)

theorem Kept.refl (s : State) : Kept s s := ⟨id, id⟩
theorem Kept.trans {s s' s'' : State} (h : Kept s s') (h' : Kept s' s'') : Kept s s'' := ⟨h'.1 ∘ h.1, h'.2 ∘ h.2⟩

/-- Memory and the groups. -/
def State.memTiles (s : State) : Mem × Tab Tile := (s.mem, s.tiles)

theorem memTilesIndep : BusIndep State.memTiles := fun _ _ _ _ _ _ _ _ _ _ _ _ => rfl

theorem tilesMemIndep : MemIndep State.tiles := ⟨fun _ _ _ _ _ _ _ => rfl, fun _ _ _ _ => rfl⟩

theorem Kept.of_same {s s' : State} (h : s'.memTiles = s.memTiles) : Kept s s' := by
  obtain ⟨hmem, htiles⟩ : s'.mem = s.mem ∧ s'.tiles = s.tiles := by simpa [State.memTiles] using h
  exact ⟨fun hwf => hmem ▸ hwf, fun hok t g => by rw [State.group, State.tile, htiles]; exact hok t g⟩

theorem Kept.when {f : State → State} (hf : ∀ s, Kept s (f s)) (s : State) (c : Bool) : Kept s (s.when c f) := by
  unfold State.when
  split
  · exact hf s
  · exact Kept.refl s

theorem Kept.each {β : Type} {f : β → State → State} (hf : ∀ x s, Kept s (f x s)) : ∀ (l : List β) (s : State), Kept s (s.each l f)
  | [], s => Kept.refl s
  | x :: l, s => (hf x s).trans (Kept.each hf l (f x s))

/-! ### Groups -/

theorem Kept.setTile (s : State) (t : Nat) {f : Tile → Tile}
    (hf : ∀ tl : Tile, (∀ g, (tl.groups.atD g {}).threadsOk = true) → ∀ g, ((f tl).groups.atD g {}).threadsOk = true) : Kept s (s.setTile t f) := by
  refine ⟨id, fun hok t' g => ?_⟩
  by_cases ht : t' = t
  · subst ht
    rw [State.group, State.tile_setTile]
    exact hf _ (hok t') g
  · rw [State.group, State.tile_setTile_ne s ht]
    exact hok t' g

/-- A change of a tile that leaves its groups. -/
theorem Kept.setTile_rest (s : State) (t : Nat) {f : Tile → Tile} (hf : ∀ tl, (f tl).groups = tl.groups) : Kept s (s.setTile t f) :=
  Kept.setTile s t fun tl hok g => by rw [hf]; exact hok g

theorem Kept.setGroup (s : State) (t g : Nat) {f : Group → Group} (hf : ∀ x : Group, x.threadsOk = true → (f x).threadsOk = true) :
    Kept s (s.setGroup t g f) := by
  refine Kept.setTile s t fun tl hok g' => ?_
  by_cases hg : g' = g
  · subst hg
    rw [Tab.atD_put_same]
    exact hf _ (hok g')
  · rw [Tab.atD_put_ne _ hg]
    exact hok g'

/-- A mask less another holds the bits of the one that are not in the other. -/
theorem testBit_maskSub (m d i : Nat) : (maskSub m d).testBit i = (m.testBit i && !d.testBit i) := by
  have hle : m &&& d ≤ m := Nat.and_le_left
  have hlow := Nat.and_mod_two_eq_one (a := m) (b := d)
  change (m - (m &&& d)).testBit i = _
  induction i generalizing m d with
  | zero =>
    have hbit : (m - (m &&& d)) % 2 = 1 ↔ m % 2 = 1 ∧ ¬ d % 2 = 1 := by omega
    simp only [Nat.testBit_zero, hbit, Bool.decide_and, decide_not]
  | succ i ih =>
    have hhalf : (m - (m &&& d)) / 2 = m / 2 - (m / 2 &&& d / 2) := by
      rw [← Nat.and_div_two]
      omega
    rw [Nat.testBit_add_one, hhalf, ih _ _ Nat.and_le_left Nat.and_mod_two_eq_one, Nat.testBit_add_one, Nat.testBit_add_one]

theorem Group.threadsOk_iff {x : Group} : x.threadsOk = true ↔ ∀ i, (x.active.testBit i && x.exited.testBit i) = false := by
  rw [Group.threadsOk, beq_iff_eq]
  change x.active &&& x.exited = 0 ↔ _
  refine ⟨fun h i => by rw [← Nat.testBit_and, h, Nat.zero_testBit], fun h => Nat.eq_of_testBit_eq fun i => ?_⟩
  rw [Nat.testBit_and, h, Nat.zero_testBit]

/-- Threads less the ended ones are no ended ones. -/
theorem Group.threadsOk_maskSub {x : Group} {m : Nat} (h : x.active = maskSub m x.exited) : x.threadsOk = true := by
  rw [Group.threadsOk_iff]
  intro i
  rw [h, testBit_maskSub]
  cases x.exited.testBit i <;> simp

/-- Fewer active threads. -/
theorem Group.threadsOk_fewer {x y : Group} (h : x.threadsOk = true) {m : Nat} (hactive : y.active = maskSub x.active m)
    (hexited : y.exited = x.exited ∨ y.exited = maskOr x.exited m) : y.threadsOk = true := by
  rw [Group.threadsOk_iff] at h ⊢
  intro i
  have hi := h i
  rw [hactive, testBit_maskSub]
  rcases hexited with he | he
  · rw [he]
    cases hx : x.active.testBit i <;> simp_all
  · rw [he, show maskOr x.exited m = x.exited ||| m from rfl, Nat.testBit_or]
    cases hx : x.active.testBit i <;> cases hm : m.testBit i <;> simp_all

theorem Group.settle_threadsOk : ∀ (fuel : Nat) (x : Group), x.threadsOk = true → (Group.settle fuel x).threadsOk = true
  | 0, _, h => h
  | fuel + 1, x, h => by
    unfold Group.settle
    split
    · split <;> exact h
    · split
      · exact h
      · split
        · exact Group.settle_threadsOk fuel _ (Group.threadsOk_maskSub rfl)
        · split
          · exact Group.settle_threadsOk fuel _ (Group.threadsOk_maskSub rfl)
          · exact Group.settle_threadsOk fuel _ (Group.threadsOk_iff.mpr fun i => by simp)

theorem Group.jump_threadsOk {x : Group} (h : x.threadsOk = true) (pc : Nat) : (x.jump pc).threadsOk = true := Group.settle_threadsOk _ _ h
theorem Group.next_threadsOk {x : Group} (h : x.threadsOk = true) : x.next.threadsOk = true := Group.jump_threadsOk h _

theorem Group.threadsOk_of_flow {x y : Group} (h : x.flow = y.flow) : x.threadsOk = y.threadsOk := by
  obtain ⟨-, hactive, hexited, -⟩ : x.pc = y.pc ∧ x.active = y.active ∧ x.exited = y.exited ∧ x.stack = y.stack := by
    simpa [Group.flow] using h
  rw [Group.threadsOk, Group.threadsOk, hactive, hexited]

theorem Kept.advance (s : State) (t g : Nat) : Kept s (s.advance t g) := Kept.setGroup s t g fun _ => Group.next_threadsOk

theorem Kept.setWait (s : State) (t g : Nat) (wait : GWait) : Kept s (s.setGroup t g (fun x => { x with wait := wait })) :=
  Kept.setGroup s t g fun _ hx => (Group.threadsOk_of_flow rfl).trans hx

/-- The group goes on after what was kept so far. -/
theorem Kept.advanced {s s' : State} (h : Kept s s') (t g : Nat) : Kept s (s'.advance t g) := h.trans (Kept.advance s' t g)

/-- Thread instructions that write registers and predicates alone. -/
theorem Kept.vec (s : State) (t g pred : Nat) (pneg : Bool) {f : Group → Nat → Group × Nat} (hf : ∀ x th, (f x th).1.flow = x.flow) :
    Kept s (s.vec t g pred pneg f) := by
  refine ⟨id, fun hok t' g' => ?_⟩
  by_cases hne : t' ≠ t ∨ g' ≠ g
  · rw [State.vec_other _ _ _ _ _ _ hne]
    exact hok t' g'
  · obtain ⟨rfl, rfl⟩ : t' = t ∧ g' = g := by omega
    rw [State.vec_group]
    refine Group.next_threadsOk ?_
    refine (Group.threadsOk_of_flow ?_).trans (hok t' g')
    exact vecFold_keeps Group.flow hf _ _

theorem Group.wwaitReturn_threadsOk {x : Group} (h : x.threadsOk = true) (v : Nat) : (x.wwaitReturn v).threadsOk = true := by
  have hregs : ∀ (l : List Nat) (vd : Nat) (y : Group), (l.foldl (fun y th => y.setReg th vd v) y).flow = y.flow := by
    intro l vd
    induction l with
    | nil => exact fun _ => rfl
    | cons th l ih => exact fun y => (ih _).trans (Group.setReg_flow ..)
  unfold Group.wwaitReturn
  split
  · exact Group.next_threadsOk ((Group.threadsOk_of_flow (hregs _ _ x)).trans h)
  · exact h

theorem Group.branch_threadsOk {x y : Group} {taken target : Nat} {rpc : Option Nat} (h : x.threadsOk = true)
    (hy : x.branch taken rpc target = some y) : y.threadsOk = true := by
  have hrest : ∀ stack, ({ x with active := maskSub x.active taken, stack := stack } : Group).threadsOk = true := fun _ =>
    Group.threadsOk_fewer h rfl (Or.inl rfl)
  unfold Group.branch at hy
  dsimp only at hy
  split at hy
  · obtain rfl := Option.some.inj hy
    exact Group.next_threadsOk h
  · split at hy
    · obtain rfl := Option.some.inj hy
      exact Group.jump_threadsOk h _
    · split at hy
      · split at hy
        · obtain rfl := Option.some.inj hy
          exact Group.next_threadsOk (hrest _)
        · split at hy
          · cases hy
          · obtain rfl := Option.some.inj hy
            exact Group.next_threadsOk (hrest _)
      · obtain rfl := Option.some.inj hy
        exact Group.next_threadsOk (hrest _)

/-! ### Issue and fetch (R147, R159) -/

theorem Kept.lapStop (s : State) (t status g th unit pc addr : Nat) : Kept s (s.lapStop t status g th unit pc addr) :=
  ⟨fun hwf => by rwa [State.lapStop_mem], fun hok t' g' => by rw [State.lapStop_group]; exact hok t' g'⟩

theorem Kept.barCheck (s : State) (t : Nat) : Kept s (s.barCheck t) := by
  unfold State.barCheck
  dsimp only
  split
  · exact Kept.refl s
  · split
    · exact Kept.lapStop s ..
    · exact Kept.refl s

theorem Kept.pf (s : State) (f : Fld) (i v : Nat) : Kept s (s.pf f i v) := Kept.of_same rfl
theorem Kept.tileRes (s : State) (t : Nat) (c : Bool) : Kept s (s.tileRes t c) := Kept.when (fun s => Kept.pf s ..) s c
theorem Kept.vecRes (s : State) (t g pred : Nat) (pneg c : Bool) : Kept s (s.vecRes t g pred pneg c) := Kept.tileRes ..
theorem Kept.rmRes (s : State) (t g : Nat) (w : FmtV) : Kept s (s.rmRes t g w) := Kept.vecRes ..

/-- What a translation can touch besides the bus's bookkeeping: the translation caches (R60 to R64). -/
structure XlIndep {α : Type} (π : State → α) : Prop where
  bus : BusIndep π
  xl : ∀ (s : State) xl, π { s with xl := xl } = π s

section Translation

variable {α : Type} {π : State → α} (h : XlIndep π) (s : State)
include h

theorem State.xlFault_keeps (ctx va status : Nat) : π (s.xlFault ctx va status) = π s := by
  unfold State.xlFault
  split
  · rfl
  · simp only [State.pf_keeps h.bus.report]

theorem State.xlCheck_keeps (ctx va acc node entry lg : Nat) : π (s.xlCheck ctx va acc node entry lg).2 = π s := by
  have hres : ∀ c, π (s.when c (fun s => s.pf F.TRANS_STATUS_reserved_encoding 0 1)) = π s :=
    State.when_keeps s (fun s => State.pf_keeps h.bus.report s ..)
  unfold State.xlCheck
  dsimp only
  generalize (if acc = accLoad then peRead entry else if acc = accStore then peWrite entry else peExec entry) = perm
  split
  · exact State.xlFault_keeps h s ..
  · split
    · exact State.xlFault_keeps h s ..
    · split
      · exact State.xlFault_keeps h s ..
      · split
        · exact (State.hole_keeps h.bus.report _ ..).trans ((State.xlFault_keeps h _ ..).trans (hres _))
        · exact hres _

theorem State.xlate_keeps (u : XUnit) (ctx va acc node : Nat) : π (s.xlate u ctx va acc node).2 = π s := by
  unfold State.xlate
  split
  · exact State.xlCheck_keeps h s ..
  · split
    · exact (State.xlFault_keeps h _ ..).trans (State.when_keeps s (fun s => State.memErrAt_keeps h.bus s ..) _)
    · split
      · rfl
      · exact (State.xlCheck_keeps h _ ..).trans (h.xl s _)

theorem State.lockWaitFor_keeps (u : XUnit) (ctx va acc : Nat) : π (s.lockWaitFor u ctx va acc) = π s := by
  unfold State.lockWaitFor
  dsimp only
  split
  · rfl
  · exact h.xl s _

end Translation

theorem memTilesXl : XlIndep State.memTiles := ⟨memTilesIndep, fun _ _ => rfl⟩

theorem Kept.icacheFill (s : State) (t line : Nat) : Kept s (s.icacheFill t line) := by
  unfold State.icacheFill
  split
  · exact Kept.setTile_rest s t fun _ => rfl
  · exact (Kept.of_same (State.free_keeps memTilesIndep s)).trans (Kept.setTile_rest _ t fun _ => rfl)

theorem Kept.fetch (s : State) (t g : Nat) : Kept s (s.fetch t g).2 := by
  have hxl := Kept.of_same (State.xlate_keeps memTilesXl s (.tile t) (s.lapOf t).ctx (s.group t g).pc accFetch (tileDie t))
  unfold State.fetch
  dsimp only
  split
  · exact Kept.refl s
  · split
    · next heq =>
      rw [heq] at hxl
      split
      · exact hxl.trans ((Kept.of_same (State.memErrAt_keeps memTilesIndep _ ..)).trans (Kept.lapStop ..))
      · exact hxl.trans (Kept.icacheFill ..)
    · next heq =>
      rw [heq] at hxl
      exact hxl.trans (Kept.lapStop ..)
    · next heq =>
      rw [heq] at hxl
      exact hxl.trans ((Kept.of_same (State.lockWaitFor_keeps memTilesXl _ ..)).trans (Kept.setWait _ t g .lock))

/-- An instruction that its group issues is fetched and acts, and one that it does not issue leaves the state. -/
theorem Kept.issue (s : State) (t g : Nat) {body : State → State} (hbody : ∀ s, Kept s (body s)) : Kept s (s.issue t g body) := by
  have hfetch := Kept.fetch s t g
  unfold State.issue
  split
  · split
    · next heq => rw [heq] at hfetch; exact hfetch.trans (hbody _)
    · next heq => rw [heq] at hfetch; exact hfetch
  · exact Kept.refl s

/-! ### Thread instructions -/

section Forms

variable (s : State) (t g : Nat) (w : FmtV)

theorem Kept.vecV {f : Group → Nat → Group × Nat} (hf : ∀ x th, (f x th).1.flow = x.flow) : Kept s (s.vecV t g w f) :=
  Kept.issue s t g fun s => (Kept.rmRes s t g w).trans (Kept.vec _ t g w.pred w.pneg hf)

theorem Kept.v1 (f : Nat → Nat × Nat) : Kept s (s.vecV t g w (v1 w f)) := Kept.vecV s t g w fun _ _ => rfl
theorem Kept.v2 (f : Nat → Nat → Nat × Nat) : Kept s (s.vecV t g w (v2 w f)) := Kept.vecV s t g w fun _ _ => rfl
theorem Kept.v3 (f : Nat → Nat → Nat → Nat × Nat) : Kept s (s.vecV t g w (v3 w f)) := Kept.vecV s t g w fun _ _ => rfl

/-- A compare: rm is its condition, so its reserved types alone are noted. -/
theorem Kept.compare (f : State → Nat → Nat → Bool × Nat) :
    Kept s (s.issue t g fun s => (s.vecRes t g w.pred w.pneg (typeRes w)).vec t g w.pred w.pneg (vp w (f s))) :=
  Kept.issue s t g fun s => (Kept.vecRes s ..).trans (Kept.vec _ t g w.pred w.pneg fun x th => Group.setPred_flow x th ..)

theorem Kept.setSlot (k : Nat) (f : Slot → Slot) : Kept s (s.setSlot t k f) := Kept.setTile_rest s t fun _ => rfl

theorem Kept.laneWord (lane : Nat) (fixed : Bool) (ctr word : Nat) : Kept s (s.laneWord t lane fixed ctr word).2 := by
  unfold State.laneWord
  dsimp only
  split
  · exact Kept.refl s
  · exact Kept.setTile_rest s t fun _ => rfl

theorem Kept.drawAll {f : State → Nat → Nat × State} (hf : ∀ s th, Kept s (f s th).2) (ths : List Nat) : Kept s (s.drawAll ths f).2 := by
  suffices ∀ acc : Tab Nat × State, Kept acc.2 (ths.foldl (fun acc th => let r := f acc.2 th; (acc.1.put th r.1, r.2)) acc).2 from this ({}, s)
  induction ths with
  | nil => exact fun acc => Kept.refl acc.2
  | cons th l ih => exact fun acc => (hf acc.2 th).trans (ih (acc.1.put th (f acc.2 th).1, (f acc.2 th).2))

end Forms

/-- Every next state that a command answers stands in the relation. -/
def KeptNext (s : State) (i : Instr) : Prop := ∀ s', exec i s = .next s' → Kept s s'

theorem keptNext_of {s s' : State} {i : Instr} (hexec : exec i s = .next s') (h : Kept s s') : KeptNext s i := by
  intro s'' hs''
  obtain rfl := Host.Outcome.next.inj (hexec.symm.trans hs'')
  exact h

section Instructions

variable (s : State) (t g : Nat)

theorem keptNext_exit (w : FmtI) : KeptNext s (.exit t g w) := by
  refine keptNext_of rfl (Kept.issue s t g fun s => ?_)
  refine (Kept.trans ?_ (Kept.pf _ ..)).trans (Kept.barCheck _ t)
  refine ⟨id, fun hok t' g' => ?_⟩
  by_cases hne : t' ≠ t ∨ g' ≠ g
  · rw [State.group_setGroup_ne s hne]
    exact hok t' g'
  · obtain ⟨rfl, rfl⟩ : t' = t ∧ g' = g := by omega
    rw [State.group_setGroup]
    exact Group.next_threadsOk (Group.threadsOk_fewer (hok t' g') rfl (Or.inr rfl))

theorem keptNext_bra (b : FmtB) : KeptNext s (.bra t g b) := by
  refine keptNext_of rfl (Kept.issue s t g fun s => ?_)
  dsimp only
  split
  · next y hy =>
    refine ⟨id, fun hok t' g' => ?_⟩
    by_cases hne : t' ≠ t ∨ g' ≠ g
    · rw [State.group_setGroup_ne s hne]
      exact hok t' g'
    · obtain ⟨rfl, rfl⟩ : t' = t ∧ g' = g := by omega
      rw [State.group_setGroup]
      exact Group.branch_threadsOk (hok t' g') hy
  · exact Kept.lapStop s ..

theorem keptNext_s2r (w : FmtI) : KeptNext s (.s2r t g w) := by
  refine keptNext_of rfl (Kept.issue s t g fun s => (Kept.vecRes s ..).trans (Kept.vec _ t g w.pred w.pneg fun x th => ?_))
  dsimp only
  split <;> rfl

theorem keptNext_flgclr (w : FmtI) : KeptNext s (.flgclr t g w) := by
  refine keptNext_of rfl (Kept.issue s t g fun s => (Kept.setGroup s t g fun x hx => ?_).trans (Kept.advance _ t g))
  split <;> exact hx

theorem keptNext_movi (w : FmtI) : KeptNext s (.movi t g w) :=
  keptNext_of rfl (Kept.issue s t g fun s => Kept.vec s t g w.pred w.pneg fun _ _ => rfl)

theorem Kept.cvtRandom (th : Nat) (w : FmtV) : Kept s (s.cvtRandom t g th w).2 := by
  unfold State.cvtRandom
  dsimp only
  split
  · exact Kept.laneWord s t ..
  · exact Kept.refl s

theorem Kept.cvtRun (w : FmtV) (scaled : Bool) : Kept s (s.cvtRun t g w scaled) := by
  unfold State.cvtRun
  refine Kept.issue s t g fun s => ?_
  dsimp only
  generalize (_ || slotBad w.slot (slotBits (typeNo w.td)) : Bool) = res
  have hdraw := Kept.drawAll (s.vecRes t g w.pred w.pneg res) (fun s th => Kept.cvtRandom s t g th w)
    (threadsOf (((s.vecRes t g w.pred w.pneg res).group t g).execMask w.pred w.pneg))
  exact (Kept.vecRes s ..).trans (hdraw.trans (Kept.vec _ t g w.pred w.pneg fun _ _ => rfl))

theorem keptNext_xlut (w : FmtV) : KeptNext s (.xlut t g w) := by
  have hexec : exec (.xlut t g w) s = execXlut t g w s := rfl
  intro s' hs'
  rw [hexec, execXlut] at hs'
  dsimp only at hs'
  split at hs'
  · obtain rfl := Host.Outcome.next.inj hs'
    exact Kept.refl s
  · obtain rfl := Host.Outcome.next.inj hs'
    exact Kept.issue s t g fun s => (Kept.rmRes s t g w).trans ((Kept.vecRes _ ..).trans (Kept.vec _ t g w.pred w.pneg fun _ _ => rfl))

theorem keptNext_xszp (w : FmtV) : KeptNext s (.xszp t g w) :=
  keptNext_of rfl (Kept.issue s t g fun s => (Kept.rmRes s t g w).trans ((Kept.vecRes _ ..).trans (Kept.vec _ t g w.pred w.pneg fun _ _ => rfl)))

theorem keptNext_sget (w : FmtV) : KeptNext s (.sget t g w) := by
  have hexec : exec (.sget t g w) s = execSget t g w s := rfl
  intro s' hs'
  rw [hexec, execSget] at hs'
  dsimp only at hs'
  split at hs'
  · obtain rfl := Host.Outcome.next.inj hs'
    exact Kept.refl s
  · obtain rfl := Host.Outcome.next.inj hs'
    refine Kept.issue s t g fun s => (Kept.rmRes s t g w).trans ((Kept.vecRes _ ..).trans (Kept.vec _ t g w.pred w.pneg fun x th => ?_))
    split <;> rfl

theorem Kept.amaxSlot (k m : Nat) (ths : List Nat) (bad : Bool) : Kept s (s.amaxSlot t k m ths bad) := by
  refine Kept.trans ?_ (Kept.when (fun s => Kept.setSlot s t ..) _ bad)
  split
  · exact Kept.refl s
  · exact Kept.setSlot s t ..

theorem keptNext_amax (w : FmtV) : KeptNext s (.amax t g w) := by
  have hexec : exec (.amax t g w) s = execAmax t g w s := rfl
  intro s' hs'
  rw [hexec, execAmax] at hs'
  split at hs'
  · obtain rfl := Host.Outcome.next.inj hs'
    exact Kept.refl s
  · obtain rfl := Host.Outcome.next.inj hs'
    exact Kept.issue s t g fun s => (Kept.rmRes s t g w).trans ((Kept.amaxSlot _ t ..).trans (Kept.vec _ t g w.pred w.pneg fun _ _ => rfl))

theorem keptNext_bscale (w : FmtV) : KeptNext s (.bscale t g w) :=
  keptNext_of rfl (Kept.issue s t g fun s => (Kept.rmRes s t g w).trans ((Kept.vecRes _ ..).trans (Kept.vec _ t g w.pred w.pneg fun _ _ => rfl)))

theorem keptNext_rand (w : FmtV) : KeptNext s (.rand t g w) := by
  refine keptNext_of rfl (Kept.issue s t g fun s => ?_)
  dsimp only
  have hdraw := Kept.drawAll (s.rmRes t g w) (fun u th => Kept.laneWord u t (laneOf g th) (u.lapFixed t)
    (fixedCtr (intA w ((s.group t g).reg th w.va) + 2 ^ 32 * (intB w ((s.group t g).reg th w.vb) / 2 ^ 24)) ((s.group t g).reg th w.vc % 256)
      (intB w ((s.group t g).reg th w.vb) % 2 ^ 24) (u.lapOf t).step) (w.slot % 4)) (threadsOf ((s.group t g).execMask w.pred w.pneg))
  exact (Kept.rmRes s t g w).trans (hdraw.trans (Kept.vec _ t g w.pred w.pneg fun _ _ => rfl))

theorem keptNext_srctx (w : FmtV) : KeptNext s (.srctx t g w) := by
  refine keptNext_of rfl (Kept.issue s t g fun s => (Kept.rmRes s t g w).trans ?_)
  dsimp only
  split
  · refine Kept.advanced (Kept.setGroup _ t g ?_) t g
    exact fun _ hx => (Group.threadsOk_of_flow rfl).trans hx
  · exact Kept.advance _ t g

theorem Kept.handover (k : Nat) : Kept s (s.handover t k) := by
  unfold State.handover
  dsimp only
  split
  · exact Kept.refl s
  · split
    · exact Kept.of_same (State.when_keeps s (fun s => State.localNf_keeps memTilesIndep.report s ..) _)
    · refine Kept.of_same ?_
      unfold State.onJob
      split <;> rfl

theorem keptNext_sbind (w : FmtV) : KeptNext s (.sbind t g w) := by
  have hexec : exec (.sbind t g w) s = execSbind t g w s := rfl
  intro s' hs'
  rw [hexec, execSbind] at hs'
  dsimp only at hs'
  split at hs'
  · obtain rfl := Host.Outcome.next.inj hs'
    exact Kept.refl s
  · obtain rfl := Host.Outcome.next.inj hs'
    refine Kept.issue s t g fun s => (Kept.rmRes s t g w).trans ?_
    split
    · exact Kept.advance _ t g
    · refine (Kept.handover _ t (w.slot % 16)).trans (Kept.trans ?_ (Kept.advance _ t g))
      split
      · exact Kept.setSlot _ t ..
      · split
        · exact (Kept.setSlot _ t ..).trans (Kept.pf _ ..)
        · exact Kept.setSlot _ t ..

/-! ### Tile-level instructions (R160) -/

theorem Kept.arrIssue (k : ArrKind) (w : FmtT) : Kept s (s.arrIssue t g k w) := by
  refine Kept.issue s t g fun s => ?_
  split
  · exact Kept.advance s t g
  · split
    · exact Kept.refl s
    · refine (Kept.tileRes s t (fmtTRes w true (k = .mdrain))).trans ?_
      dsimp only
      split
      · exact Kept.lapStop ..
      · refine Kept.advanced (Kept.setTile_rest _ t ?_) t g
        exact fun _ => rfl

theorem keptNext_of_slot {i : Instr} {k : ArrKind} {w : FmtT} (hexec : exec i s = if s.arrSlotOk t w then .next (s.arrIssue t g k w) else .next s) :
    KeptNext s i := by
  split at hexec
  · exact keptNext_of hexec (Kept.arrIssue s t g k w)
  · exact keptNext_of hexec (Kept.refl s)

theorem Kept.panIssue (push : Bool) (w : FmtT) : Kept s (s.panIssue t g push w) := by
  refine Kept.issue s t g fun s => ?_
  split
  · exact Kept.advance s t g
  · split
    · exact Kept.refl s
    · refine (Kept.tileRes s t (fmtTRes w false false)).trans ?_
      dsimp only
      generalize (if w.f1 ≤ 11 then w.f1 else 0) = fmt
      split
      · exact Kept.lapStop ..
      · split
        · exact Kept.lapStop ..
        · refine Kept.advanced (Kept.setTile_rest _ t ?_) t g
          exact fun _ => rfl

/-! ### Fences, barriers and waits (R173, R180 to R182) -/

theorem Kept.memLine (key line : Nat) (data : Bytes) : Kept s (s.memLine key line data) :=
  ⟨fun hwf => State.memLine_wf hwf key line data, (Kept.of_same (s := s) (s' := { s.memLine key line data with mem := s.mem })
    (by rw [State.memTiles, State.memTiles, show (s.memLine key line data).tiles = s.tiles from State.memLine_keeps tilesMemIndep s ..])).2⟩

theorem Kept.lineToMem (line : Nat) : Kept s (s.lineToMem line) := by
  unfold State.lineToMem
  split
  · exact Kept.refl s
  · exact (Kept.memLine s ..).trans (Kept.of_same rfl)

theorem Kept.tileRelease (scope : Nat) : Kept s (s.tileRelease t scope) :=
  (Kept.each (fun (r : Nat × Bool) s => Kept.lineToMem s r.1) _ s).trans (Kept.setTile_rest _ t fun _ => rfl)

theorem keptNext_fence (w : FmtM) : KeptNext s (.fence t g w) :=
  keptNext_of rfl (Kept.issue s t g fun s =>
    Kept.advanced ((Kept.vecRes s t g w.pred w.pneg (fmtMRes w)).trans (Kept.when (fun s => Kept.tileRelease s t w.scope) _ _)) t g)

theorem keptNext_bar (w : FmtI) : KeptNext s (.bar t g w) := by
  refine keptNext_of rfl (Kept.issue s t g fun s => ?_)
  dsimp only
  split
  · exact Kept.advance s t g
  · split
    · exact Kept.lapStop s ..
    · refine (Kept.tileRelease s t 0).trans ((Kept.setWait _ t g (.bar (w.imm % 16) (bitsN w.imm 9 4 + 1))).trans ?_)
      split
      · refine Kept.setTile _ t fun tl hok g' => ?_
        rw [Tab.atD, Tab.at_mapVals]
        have hg := hok g'
        rw [Tab.atD] at hg
        cases hrow : tl.groups.at? g' with
        | none => exact Group.threadsOk_iff.mpr fun i => by simp
        | some y =>
          rw [hrow] at hg
          simp only [Option.map_some, Option.getD_some]
          split
          · exact Group.next_threadsOk hg
          · exact hg
      · exact Kept.barCheck _ t

theorem keptNext_waitq (w : FmtI) : KeptNext s (.waitq t g w) := by
  refine keptNext_of rfl (Kept.issue s t g fun s => ?_)
  dsimp only
  split
  · exact Kept.advance s t g
  · refine (Kept.tileRes s t (w.imm % 8 > 5)).trans ?_
    generalize (if w.imm % 8 > 5 then 0 else w.imm % 8) = u
    split
    · exact Kept.advance _ t g
    · exact Kept.setWait _ t g (.queue u (bitsN w.imm 15 8))

theorem keptNext_wwait (w : FmtI) : KeptNext s (.wwait t g w) := by
  refine keptNext_of rfl (Kept.issue s t g fun s => ?_)
  dsimp only
  split
  · exact Kept.advance s t g
  · refine Kept.setGroup s t g fun x hx => ?_
    split
    · exact Group.wwaitReturn_threadsOk (x := { x with wait := .watch w.vd (w.imm % 65536 != 0) ((s.group t g).execMask w.pred w.pneg) }) hx _
    · exact hx

end Instructions

/-! ### The statements -/

theorem not_isLocalOp {i : Instr} {t g w : Nat} (henc : encodeTile i = some (t, g, w))
    (hop : w % 256 = 0x40 ∨ w % 256 = 0x41 ∨ w % 256 = 0x42 ∨ w % 256 = 0x43 ∨ w % 256 = 0x60) : isLocalOp i = false := by
  rw [isLocalOp, henc]
  rcases hop with h | h | h | h | h <;> simp [h]

/-- A local instruction is one of the tile's own, and each is a case above. -/
theorem keptNext_of_local {i : Instr} (hlocal : isLocalOp i = true) (s : State) : KeptNext s i := by
  have henc : (encodeTile i).isSome = true := by
    unfold isLocalOp at hlocal
    split at hlocal <;> simp_all
  cases i
  all_goals cases henc
  case nop t g w => exact keptNext_of rfl (Kept.issue s t g fun s => Kept.advance s t g)
  case reservedOpcode t g op w => exact keptNext_of rfl (Kept.issue s t g fun s => Kept.advanced (Kept.tileRes s t true) t g)
  case bra t g w => exact keptNext_bra s t g w
  case exit t g w => exact keptNext_exit s t g w
  case s2r t g w => exact keptNext_s2r s t g w
  case flgclr t g w => exact keptNext_flgclr s t g w
  case vote t g w | sel t g w | shfl t g w => exact keptNext_of rfl (Kept.vecV s t g w fun _ _ => rfl)
  case fsqrt t g w | frcp t g w | frsq t g w | fexp2 t g w | flog2 t g w | ftanh t g w => exact keptNext_of rfl (Kept.v1 s t g w _)
  case fadd t g w | fsub t g w | fmul t g w | fmin t g w | fmax t g w | fdiv t g w | iadd t g w | isub t g w | imul t g w | and t g w
    | or t g w | xor t g w | shl t g w | shr t g w | sar t g w | imin t g w | imax t g w => exact keptNext_of rfl (Kept.v2 s t g w _)
  case ffma t g w | imad t g w => exact keptNext_of rfl (Kept.v3 s t g w _)
  case fcmp t g w => exact keptNext_of rfl (Kept.compare s t g w fun s => fpCmp w (s.vecDaz t))
  case icmp t g w => exact keptNext_of rfl (Kept.compare s t g w fun _ a b => (icmpCond w.rm (intA w a) (intB w b), 0))
  case movi t g w => exact keptNext_movi s t g w
  case cvt t g w => exact keptNext_of rfl (Kept.cvtRun s t g w false)
  case cvts t g w => exact keptNext_of rfl (Kept.cvtRun s t g w true)
  case xlut t g w => exact keptNext_xlut s t g w
  case xszp t g w => exact keptNext_xszp s t g w
  case sbind t g w => exact keptNext_sbind s t g w
  case sget t g w => exact keptNext_sget s t g w
  case amax t g w => exact keptNext_amax s t g w
  case bscale t g w => exact keptNext_bscale s t g w
  case rand t g w => exact keptNext_rand s t g w
  case srctx t g w => exact keptNext_srctx s t g w
  case mload t g w => exact keptNext_of_slot s t g (k := .mload) (w := w) rfl
  case mstream t g w => exact keptNext_of_slot s t g (k := .mstream) (w := w) rfl
  case mdrain t g w => exact keptNext_of_slot s t g (k := .mdrain) (w := w) rfl
  case mswap t g w => exact keptNext_of rfl (Kept.arrIssue s t g .mswap w)
  case mzero t g w => exact keptNext_of rfl (Kept.arrIssue s t g .mzero w)
  case ppush t g w => exact keptNext_of rfl (Kept.panIssue s t g true w)
  case ppop t g w => exact keptNext_of rfl (Kept.panIssue s t g false w)
  case fence t g w => exact keptNext_fence s t g w
  case bar t g w => exact keptNext_bar s t g w
  case waitq t g w => exact keptNext_waitq s t g w
  case wwait t g w => exact keptNext_wwait s t g w
  case ld | st | atom | watch =>
    rw [not_isLocalOp rfl (by rw [encFmtM, packW_op (by decide)]; decide)] at hlocal
    cases hlocal
  case dma =>
    rw [not_isLocalOp rfl (by rw [encFmtT, packW_op (by decide)]; decide)] at hlocal
    cases hlocal

/-- Settles O15: a local instruction writes active masks less the ended threads alone. -/
theorem endedThreadsStayOut : Obligations.EndedThreadsStayOut :=
  fun s s' _ hlocal hok hexec => (keptNext_of_local hlocal s s' hexec).2 hok

/-- Settles O16: a local instruction writes memory line by line, in the release of a FENCE or BAR. -/
theorem localInstructionsKeepMemoryCanonical : Obligations.LocalInstructionsKeepMemoryCanonical :=
  fun s s' _ hlocal hwf hexec => (keptNext_of_local hlocal s s' hexec).1 hwf

end Sys2Proof.Machine

/-! PROOF. Waits, fences, barriers and watches (R109, R173, R180 to R182). -/

namespace Sys2Proof.Machine

/-! ### WWAIT (R173) -/

/-- WWAIT returns: every register of a waiting thread that vd names takes the value. -/
theorem Group.wwaitReturn_reg {x : Group} {vd m : Nat} {limit : Bool} (hwait : x.wait = .watch vd limit m) (v : Nat) :
    (x.wwaitReturn v).woken = 0 ∧ ∀ th ∈ threadsOf m, (x.wwaitReturn v).reg th vd = v % 2 ^ 32 := by
  have hfold : ∀ (l : List Nat) (y : Group) (th : Nat), th ∈ l ∨ y.reg th vd = v % 2 ^ 32 →
      (l.foldl (fun y th => y.setReg th vd v) y).reg th vd = v % 2 ^ 32 := by
    intro l
    induction l with
    | nil => intro y th h; simpa using h
    | cons a l ih =>
      intro y th h
      refine ih _ th ?_
      by_cases hth : th = a
      · subst hth
        exact Or.inr (by simp [Group.reg_setReg])
      · rcases h with h | h
        · exact Or.inl (by simpa [hth] using h)
        · exact Or.inr (by simpa [Group.reg_setReg, hth] using h)
  unfold Group.wwaitReturn
  rw [hwait]
  refine ⟨by simp, fun th hth => ?_⟩
  simp only [Group.next_reg]
  exact hfold _ x th (Or.inl hth)

theorem State.setGroup_congr {s : State} {t g : Nat} {f f' : Group → Group} (h : f (s.group t g) = f' (s.group t g)) :
    s.setGroup t g f = s.setGroup t g f' := by
  unfold State.group at h
  unfold State.setGroup State.setTile
  dsimp only
  rw [h]

section Waits

variable {s : State} {t g : Nat} {w : FmtI}

theorem exec_wwait_woken (hruns : s.runs t g = true) (hmask : (s.group t g).execMask w.pred w.pneg ≠ 0) (hwoken : (s.group t g).woken ≠ 0) :
    ∃ s', exec (.wwait t g w) s = .next s' ∧ (s'.group t g).woken = 0 ∧
      ∀ th, th < 32 → s.executes t g w.pred w.pneg th = true → (s'.group t g).reg th w.vd = (s.group t g).woken % 2 ^ 32 := by
  have hexec : exec (.wwait t g w) s = execWwait t g w s := rfl
  rw [hexec, execWwait, State.issue_runs s hruns]
  dsimp only
  rw [if_neg hmask]
  obtain ⟨hzero, hreg⟩ := Group.wwaitReturn_reg
    (x := { s.group t g with wait := .watch w.vd (w.imm % 65536 != 0) ((s.group t g).execMask w.pred w.pneg) }) rfl (s.group t g).woken
  refine ⟨_, rfl, ?_, fun th _ hth => ?_⟩
  · rw [State.group_setGroup, if_pos hwoken]
    exact hzero
  · rw [State.group_setGroup, if_pos hwoken]
    exact hreg th (by simpa [State.executes] using hth)

theorem exec_wwait_sleeps (hruns : s.runs t g = true) (hmask : (s.group t g).execMask w.pred w.pneg ≠ 0) (hwoken : (s.group t g).woken = 0) :
    exec (.wwait t g w) s =
      .next (s.setGroup t g (fun x => { x with wait := .watch w.vd (w.imm % 65536 != 0) ((s.group t g).execMask w.pred w.pneg) })) := by
  have hexec : exec (.wwait t g w) s = execWwait t g w s := rfl
  rw [hexec, execWwait, State.issue_runs s hruns]
  dsimp only
  rw [if_neg hmask]
  refine congrArg Host.Outcome.next (State.setGroup_congr ?_)
  rw [if_neg (by simp [hwoken])]

theorem exec_wwaitTimeout {vd m : Nat} (hwait : (s.group t g).wait = .watch vd true m) (hgoing : (s.tile t).stopped = false) :
    ∃ s', exec (.wwaitTimeout t g) s = .next s' ∧ (s'.group t g).woken = 0 ∧ ∀ th, th ∈ threadsOf m → (s'.group t g).reg th vd = 0 := by
  obtain ⟨hzero, hreg⟩ := Group.wwaitReturn_reg hwait 0
  have hexec : exec (.wwaitTimeout t g) s = execWwaitTimeout t g s := rfl
  refine ⟨s.setGroup t g (fun x => x.wwaitReturn 0), ?_, ?_, fun th hth => ?_⟩
  · rw [hexec, execWwaitTimeout, hwait]
    exact congrArg Host.Outcome.next (if_neg (by simp [hgoing]))
  · rw [State.group_setGroup]; exact hzero
  · rw [State.group_setGroup]; exact hreg th hth

end Waits

/-! ### FENCE and BAR (R180, R181) -/

theorem exec_fence {s : State} {t g : Nat} (hruns : s.runs t g = true) (m : FmtM) :
    exec (.fence t g m) s = .next (((s.vecRes t g m.pred m.pneg (fmtMRes m)).when
      ((s.group t g).execMask m.pred m.pneg ≠ 0 && (m.order = 0 || m.order ≥ 2)) (fun s => s.tileRelease t m.scope)).setGroup t g Group.next) :=
  congrArg Host.Outcome.next (State.issue_runs s hruns _)

theorem tilesIndep : BusIndep State.tiles := fun _ _ _ _ _ _ _ _ _ _ _ _ => rfl

theorem lineToMem_tiles (r : Nat × Bool) (s : State) : (s.lineToMem r.1).tiles = s.tiles := by
  unfold State.lineToMem
  split
  · rfl
  · exact State.memLine_keeps tilesMemIndep s ..

/-- A release writes lines to memory; the tile forgets which lines it wrote. -/
theorem State.tileRelease_tile (s : State) (t scope : Nat) : ∃ written, (s.tileRelease t scope).tile t = { s.tile t with written := written } := by
  have htile : ∀ l : List (Nat × Bool), (s.each l (fun r s => s.lineToMem r.1)).tile t = s.tile t := fun l =>
    congrArg (fun tiles : Tab Tile => tiles.atD t {}) (State.each_keeps (π := State.tiles) s lineToMem_tiles l)
  unfold State.tileRelease
  dsimp only
  rw [State.tile_setTile, htile]
  exact ⟨_, rfl⟩

theorem State.tileRelease_group (s : State) (t scope g : Nat) : (s.tileRelease t scope).group t g = s.group t g := by
  obtain ⟨written, h⟩ := s.tileRelease_tile t scope
  rw [State.group, h, State.group]

theorem State.tileRelease_lapOf (s : State) (t scope : Nat) : (s.tileRelease t scope).lapOf t = s.lapOf t := by
  obtain ⟨written, h⟩ := s.tileRelease_tile t scope
  rw [State.lapOf, h, State.lapOf]

theorem Group.settle_wait : ∀ (fuel : Nat) (x : Group), (Group.settle fuel x).wait = x.wait ∨ (Group.settle fuel x).wait = .ended
  | 0, _ => Or.inl rfl
  | fuel + 1, x => by
    unfold Group.settle
    split
    · split
      · exact Or.inr rfl
      · exact Or.inl rfl
    · split
      · exact Or.inl rfl
      · split
        · exact Group.settle_wait fuel _
        · split
          · exact Group.settle_wait fuel _
          · exact Group.settle_wait fuel _

theorem Group.next_wait (x : Group) : x.next.wait = x.wait ∨ x.next.wait = .ended := Group.settle_wait _ _

section Barriers

variable {s : State} {t g th : Nat} {w : FmtI}

/-- A BAR of one group opens its barrier at once: every group at it goes on. -/
theorem exec_bar_opens (hruns : s.runs t g = true) (hleader : s.leader t g w.pred w.pneg = some th)
    (hwhole : (s.group t g).active = maskSub allMask (s.group t g).exited) (hcount : bitsN w.imm 9 4 = 0) (hg : g < (s.lapOf t).groups) :
    ∃ s', exec (.bar t g w) s = .next s' ∧ (s'.group t g).wait ≠ .bar (w.imm % 16) 1 ∧ (s'.group t g).pc = ((s.group t g).next).pc := by
  have hexec : exec (.bar t g w) s = execBar t g w s := rfl
  rw [hexec, execBar, State.issue_runs s hruns]
  dsimp only
  rw [hleader]
  dsimp only
  rw [if_neg (by simp [hwhole]), hcount]
  generalize hs1 : (s.tileRelease t 0).setGroup t g (fun x => { x with wait := .bar (w.imm % 16) (0 + 1) }) = s1
  have hgroup : s1.group t g = { s.group t g with wait := .bar (w.imm % 16) (0 + 1) } := by
    rw [← hs1, State.group_setGroup, State.tileRelease_group]
  have hlap : s1.lapOf t = s.lapOf t := by
    rw [← hs1, State.lapOf, State.setGroup, State.tile_setTile]
    exact State.tileRelease_lapOf s t 0
  have hhere : 1 ≤ ((List.range (s1.lapOf t).groups).filter (fun k => atBarrier (w.imm % 16) (s1.group t k))).length := by
    refine List.length_pos_of_mem (a := g) (List.mem_filter.mpr ⟨?_, ?_⟩)
    · rw [hlap]; exact List.mem_range.mpr hg
    · rw [hgroup]; simp [atBarrier]
  have hat : (s1.tile t).groups.at? g = some { s.group t g with wait := .bar (w.imm % 16) (0 + 1) } := by
    rw [← hs1, State.setGroup, State.tile_setTile]
    dsimp only
    rw [Tab.at_put_same, ← State.tileRelease_group s t 0 g, State.group]
  generalize hopen : s1.setTile t _ = s2
  have hopened : s2.group t g = ({ s.group t g with wait := .ready } : Group).next := by
    rw [← hopen, State.group, State.tile_setTile, Tab.atD]
    simp only [Tab.at_mapVals, hat, Option.map_some, Option.getD_some]
    exact if_pos (by simp [atBarrier])
  refine ⟨s2, congrArg Host.Outcome.next (if_pos hhere), ?_, ?_⟩
  · rw [hopened]
    rcases Group.next_wait { s.group t g with wait := .ready } with h | h <;> simp [h]
  · rw [hopened]
    exact Group.next_pc_of_flow rfl

theorem exec_bar_diverged (hruns : s.runs t g = true) (hleader : s.leader t g w.pred w.pneg = some th)
    (hsplit : (s.group t g).active ≠ maskSub allMask (s.group t g).exited) (hlap : (s.tile t).lap.isSome = true) :
    ∃ s', exec (.bar t g w) s = .next s' ∧ (s'.tile t).stopped = true ∧ s'.gf F.TILE_ERR_INFO_status t = St.barDiverged := by
  have hexec : exec (.bar t g w) s = execBar t g w s := rfl
  rw [hexec, execBar, State.issue_runs s hruns]
  dsimp only
  rw [hleader]
  dsimp only
  rw [if_pos hsplit]
  have hgoing := State.not_stopped_of_runs hruns
  exact ⟨_, rfl, State.lapStop_stopped hgoing hlap .., State.lapStop_gf_status hgoing hlap ..⟩

theorem State.barCheck_deadlock (hlap : (s.tile t).lap.isSome = true) (hgoing : (s.tile t).stopped = false) (hg : g < (s.lapOf t).groups)
    (hlive : (s.group t g).wait ≠ .ended)
    (hall : ∀ g', g' < (s.lapOf t).groups → (s.group t g').wait = .ended ∨ ∃ b c, (s.group t g').wait = .bar b c) :
    ((s.barCheck t).tile t).stopped = true ∧ (s.barCheck t).gf F.TILE_ERR_INFO_status t = St.barDeadlock := by
  have hmem : g ∈ (List.range (s.lapOf t).groups).filter (fun g => (s.group t g).wait != .ended) :=
    List.mem_filter.mpr ⟨List.mem_range.mpr hg, by simpa using hlive⟩
  unfold State.barCheck
  dsimp only
  generalize hl : (List.range (s.lapOf t).groups).filter (fun g => (s.group t g).wait != .ended) = live at hmem
  cases live with
  | nil => cases hmem
  | cons k rest =>
    dsimp only
    rw [if_pos (List.all_eq_true.mpr fun k' hk' => ?bar)]
    · exact ⟨State.lapStop_stopped hgoing hlap .., State.lapStop_gf_status hgoing hlap ..⟩
    case bar =>
      rw [← hl, List.mem_filter, List.mem_range] at hk'
      obtain ⟨hlt, hne⟩ := hk'
      rcases hall k' hlt with h | ⟨b, c, h⟩
      · rw [h] at hne; cases hne
      · rw [h]

end Barriers

/-! ### One thread's access (R171, R173) -/

/-- The state as the accesses of an instruction find it: its reserved fields are noted, and its release is done (R73, R74). -/
def State.released (s : State) (t : Nat) (w : FmtM) (res : Bool) : State :=
  (s.tileRes t res).when (w.order ≥ 2) (fun s => s.tileRelease t w.scope)

theorem State.released_group (s : State) (t : Nat) (w : FmtM) (res : Bool) (t' g : Nat) : (s.released t w res).group t' g = s.group t' g := by
  unfold State.released State.when
  split
  · by_cases ht : t' = t
    · rw [ht, State.tileRelease_group, State.tileRes_group]
    · unfold State.tileRelease State.group
      rw [State.tile_setTile_ne _ ht]
      have htiles := State.each_keeps (π := State.tiles) (s.tileRes t res) lineToMem_tiles
        (((s.tileRes t res).tile t).written.rows.filter (fun r => w.scope = 3 || r.2))
      exact (congrArg (fun tiles : Tab Tile => (tiles.atD t' {}).groups.atD g {}) htiles).trans (State.tileRes_group s t res t' g)
  · exact State.tileRes_group ..

theorem State.released_lapOf (s : State) (t : Nat) (w : FmtM) (res : Bool) : (s.released t w res).lapOf t = s.lapOf t := by
  have hres : (s.tileRes t res).lapOf t = s.lapOf t := by cases res <;> rfl
  unfold State.released State.when
  split
  · rw [State.tileRelease_lapOf, hres]
  · exact hres

theorem State.lapStop_flt (s : State) (t status g th unit pc addr : Nat) : (s.lapStop t status g th unit pc addr).flt = s.flt := by
  unfold State.lapStop
  split <;> rfl

section Access

variable {s : State} {t g th : Nat} {w : FmtM} {acc n : Nat} {res : Bool} {check : State → MemPiece → Option Nat} {early : Nat → Option Nat}
  {act : State → MemAcc → MemOut} (hruns : s.runs t g = true) (hth : threadsOf ((s.group t g).execMask w.pred w.pneg) = [th])
include hruns hth

/-- The only thread's access is planned and performed, and the group goes on. -/
theorem State.memOp_done (hearly : early (memAddr (s.group t g) th w) = none) {ps : List MemPiece} {s2 s3 : State}
    (hpieces : (s.released t w res).memPieces t acc (memSpace w) (memAddr (s.group t g) th w) n = (.ok ps, s2))
    (hcheck : ps.findSome? (check s2) = none) (hact : act s2 ⟨th, memAddr (s.group t g) th w, ps⟩ = .done s3) (hdue : s3.flt.due = []) :
    s.memOp t g w acc n res check early act = s3.advance t g := by
  unfold State.memOp
  rw [State.issue_runs s hruns]
  simp only [hth, List.map_cons, List.map_nil, State.memPlan, hearly]
  unfold State.released at hpieces
  simp only [hpieces, hcheck, State.memRun, List.reverse_cons, List.reverse_nil, List.nil_append, hact]
  exact State.settle_of_done hdue

/-- An access that its instruction refuses ends the job before anything is performed. -/
theorem State.memOp_refused {st : Nat} (hearly : early (memAddr (s.group t g) th w) = some st) (hst : st ≠ 0) (hdue : s.flt.due = [])
    (horder : w.order ≤ 1) :
    s.memOp t g w acc n res check early act =
      (s.tileRes t res).lapStop t st g th uThread (s.group t g).pc (memAddr (s.group t g) th w) := by
  obtain ⟨k, rfl⟩ : ∃ k, st = k + 1 := ⟨st - 1, by omega⟩
  have hfar : ¬ w.order ≥ 2 := by omega
  unfold State.memOp
  rw [State.issue_runs s hruns]
  simp only [hth, List.map_cons, List.map_nil, State.memPlan, hearly, State.memRun, List.reverse_nil, hfar, decide_false, State.when, List.cons_ne_nil,
    Bool.false_eq_true, if_false]
  refine State.settle_of_done ?_
  rw [State.lapStop_flt]
  cases res <;> exact hdue

end Access

/-- The machine once a thread's WATCH of a word has shared its line: the watch is armed, and the word and its place are loaded. -/
def State.watchDone (s : State) (t g th i : Nat) (w : FmtM) (key pa : Nat) : State :=
  (s.setTile t (fun tl => { tl with watches := tl.watches.put i { line := lineOf pa } })).setGroup t g
    (fun x => (x.setReg th w.vd (s.cohVal key pa 4)).setReg th (w.vd + 1) (setBitsN (x.reg th (w.vd + 1)) 2 0 i))

/-- WATCH of a word of a COH or STREAM page, as its line can be shared (R109, R173). -/
theorem exec_watch {s s1 s2 : State} {t g th i : Nat} {w : FmtM} {pa e key : Nat} (hruns : s.runs t g = true) (hspace : w.space = 1)
    (hva : w.va % 2 = 0) (hth : threadsOf ((s.group t g).execMask w.pred w.pneg) = [th])
    (halign : memAddr (s.group t g) th w % 4 = 0)
    (hxl : (s.released t w (fmtMRes w)).xlate (.tile t) (s.lapOf t).ctx (memAddr (s.group t g) th w) accLoad (tileDie t) = (.ok pa e 0 key, s1))
    (htier : inTiers s1 pa = true) (hopen : s1.lineOpen (lineOf pa) = false) (hbad : s1.lineBad (lineOf pa) = false)
    (hplace : watchPlace (s1.tile t) (lineOf pa) = some i) (hi : i < 8) (hshare : s1.shareNow t (lineOf pa) key true = (true, s2))
    (hdue : s2.flt.due = []) :
    ∃ s', exec (.watch t g w) s = .next s' ∧ (s'.group t g).reg th w.vd = s2.cohVal key pa 4 % 2 ^ 32 ∧
      (s'.group t g).reg th (w.vd + 1) % 8 = i ∧ (s'.tile t).watches.at? i = some { line := lineOf pa } := by
  have hspace' : memSpace w = 1 := by simp [memSpace, hspace]
  have hwhole : min 4 (64 - memAddr (s.group t g) th w % 64) = 4 := by omega
  have hres : memRes w false = fmtMRes w := by simp [memRes, hva]
  have hpieces : (s.released t { w with size := 2 } (memRes w false)).memPieces t accLoad (memSpace { w with size := 2 })
      (memAddr (s.group t g) th { w with size := 2 }) 4 = (.ok [⟨pa, 4, 0, key, peVis e == 3⟩], s1) := by
    change (s.released t w (memRes w false)).memPieces t accLoad (memSpace w) (memAddr (s.group t g) th w) 4 = _
    rw [hres, hspace']
    simp only [State.memPieces, hwhole, State.released_lapOf, hxl]
    rfl
  have hcheck : (⟨pa, 4, 0, key, peVis e == 3⟩ :: ([] : List MemPiece)).findSome?
      (fun p => if inTiers s1 p.pa && p.ty ≤ 1 then none else some St.watchType) = none := by
    simp [htier]
  have hgroup : (s2.watchDone t g th i w key pa).group t g = ((s2.group t g).setReg th w.vd (s2.cohVal key pa 4)).setReg th (w.vd + 1)
      (setBitsN ((s2.group t g).reg th (w.vd + 1)) 2 0 i) := by
    have htile : (s2.setTile t (fun tl => { tl with watches := tl.watches.put i { line := lineOf pa } })).group t g = s2.group t g := by
      rw [State.group, State.tile_setTile, State.group]
    rw [State.watchDone, State.group_setGroup, htile]
  refine ⟨(s2.watchDone t g th i w key pa).advance t g, congrArg Host.Outcome.next (State.memOp_done (w := { w with size := 2 }) hruns hth ?_
    hpieces hcheck ?_ hdue), ?_, ?_, ?_⟩
  · exact (if_neg (by simp [hspace'])).trans (if_pos halign)
  · simp only [hopen, hplace, hbad, hshare]
    rfl
  · rw [State.group_advance, Group.next_reg, hgroup, Group.reg_setReg, if_neg (by omega), Group.reg_setReg, if_pos (by omega)]
  · rw [State.group_advance, Group.next_reg, hgroup, Group.reg_setReg, if_pos (by omega)]
    have hbits := bitsN_setBitsN ((s2.group t g).reg th (w.vd + 1)) 2 0 i
    simp only [bitsN, Nat.pow_zero, Nat.div_one] at hbits
    omega
  · rw [State.advance, State.setGroup, State.tile_setTile, State.watchDone, State.setGroup, State.tile_setTile, State.tile_setTile]
    exact Tab.at_put_same ..

/-- Settles O21: each instruction is its function of the group that issues it, once the fetch leaves the state. -/
theorem waitsFencesAndWatchesComplete : Obligations.WaitsFencesAndWatchesComplete := by
  unfold Obligations.WaitsFencesAndWatchesComplete
  refine ⟨fun s t g w hruns hmask => ⟨?at_once, ?waits, ?woken, ?sleeps, ?timeout⟩, fun s t g m w hruns => ⟨⟨?released, ?acquire⟩, ?opens, ?diverged⟩,
    fun s t g hlap hgoing hg hlive hall => State.barCheck_deadlock hlap hgoing hg hlive hall, ?watch⟩
  case at_once =>
    intro hunit hle
    rw [exec_waitq_of_unit hruns hmask hunit, State.waitOn_of_le hle]
  case waits =>
    intro hunit hlt
    rw [exec_waitq_of_unit hruns hmask hunit, State.waitOn_of_lt hlt]
  case woken => exact exec_wwait_woken hruns hmask
  case sleeps => exact exec_wwait_sleeps hruns hmask
  case timeout => exact fun s1 vd m hwait hgoing => exec_wwaitTimeout hwait hgoing
  case released =>
    intro hm horder
    rw [exec_fence hruns, State.when, if_pos (by simpa [hm] using horder)]
  case acquire =>
    intro horder
    rw [exec_fence hruns, State.when, if_neg (by simp [horder])]
  case opens => exact fun th hleader hwhole hcount hg => exec_bar_opens hruns hleader hwhole hcount hg
  case diverged => exact fun th hleader hsplit hlap => exec_bar_diverged hruns hleader hsplit hlap
  case watch =>
    intro s s1 s2 t g th i w pa e key hruns _ hspace hva _ hth x a line halign hxl htier hopen hbad hplace hi hshare hdue2
    exact exec_watch hruns hspace hva hth halign hxl htier hopen hbad hplace hi hshare hdue2

end Sys2Proof.Machine

/-! PROOF. Tile-level instructions join their queues, stall at full ones, and are worked through in order (R149, R160, R174, R176). -/

namespace Sys2Proof.Machine

/-! ### What the note of a reserved field leaves -/

theorem State.tileRes_tile (s : State) (t : Nat) (c : Bool) (t' : Nat) : (s.tileRes t c).tile t' = s.tile t' := by cases c <;> rfl
theorem State.tileRes_flt (s : State) (t : Nat) (c : Bool) : (s.tileRes t c).flt = s.flt := by cases c <;> rfl

theorem tstoreBytes_eq : tstoreBytes = 0x200000 := rfl

/-- A tile store holds its bytes as they are (R58, R69). -/
theorem encrypted_tstore (t a : Nat) : encrypted (tstoreBase t + a) = false := by
  unfold encrypted tstoreBase
  exact decide_eq_false (by omega)

theorem State.rangeBad_tstore (s : State) (t a n : Nat) : s.rangeBad (tstoreBase t + a) n = s.wordBad (tstoreBase t + a) n :=
  if_neg (by simp [encrypted_tstore])

theorem State.rangeBad_tileRes (s : State) (t : Nat) (c : Bool) (a n : Nat) :
    (s.tileRes t c).rangeBad (tstoreBase t + a) n = s.rangeBad (tstoreBase t + a) n := by
  rw [State.rangeBad_tstore, State.rangeBad_tstore]
  cases c <;> rfl

theorem State.sramRead_tileRes (s : State) (t : Nat) (c : Bool) (pa n : Nat) : (s.tileRes t c).sramRead pa n = s.sramRead pa n := by
  cases c <;> rfl

/-- The operation that an array instruction queues (R149, R160). -/
def arrOpOf (x : Group) (g th : Nat) (k : ArrKind) (w : FmtT) : ArrOp :=
  { kind := k, w := w, a := x.reg th w.va, stride := x.reg th (w.va + 1), b := x.reg th w.vb, b1 := x.reg th (w.vb + 1)
    group := g, leader := th, pc := x.pc }

theorem arrCheck_tileRes (s : State) (t : Nat) (c : Bool) (o : ArrOp) : arrCheck (s.tileRes t c) t o = arrCheck s t o := by cases c <;> rfl

/-- The state when an instruction has changed its tile's queues and the group goes on. -/
theorem State.queued_group (s : State) (t g : Nat) {f : Tile → Tile} (hf : ∀ tl, (f tl).groups = tl.groups) :
    ((s.setTile t f).advance t g).group t g = (s.group t g).next := by
  rw [State.group_advance, State.group, State.tile_setTile, hf, State.group]

section Queues

variable {s : State} {t g th : Nat} {w : FmtT} (hruns : s.runs t g = true) (hleader : s.leader t g w.pred w.pneg = some th)
include hruns hleader

theorem State.arrIssue_room (k : ArrKind) (hroom : (s.tile t).arrQ.length < 16) (hcheck : arrCheck s t (arrOpOf (s.group t g) g th k w) = none) :
    s.arrIssue t g k w = ((s.tileRes t (fmtTRes w true (k = .mdrain))).setTile t
      (fun tl => { tl with arrQ := tl.arrQ ++ [arrOpOf (s.group t g) g th k w] })).advance t g := by
  unfold State.arrIssue
  rw [State.issue_runs s hruns]
  dsimp only
  rw [hleader]
  dsimp only
  rw [if_neg (by omega), State.tileRes_group]
  rw [← arrCheck_tileRes s t (fmtTRes w true (k = .mdrain))] at hcheck
  unfold arrOpOf at hcheck ⊢
  rw [hcheck]

/-- A full queue stalls the group that issues to it. -/
theorem State.arrIssue_full (k : ArrKind) (hfull : 16 ≤ (s.tile t).arrQ.length) : s.arrIssue t g k w = s := by
  unfold State.arrIssue
  rw [State.issue_runs s hruns]
  dsimp only
  rw [hleader]
  exact if_pos hfull

theorem State.panIssue_full (push : Bool) (hfull : 8 ≤ (s.tile t).panQ.length) : s.panIssue t g push w = s := by
  unfold State.panIssue
  rw [State.issue_runs s hruns]
  dsimp only
  rw [hleader]
  exact if_pos hfull

theorem exec_dma_full (hdue : s.flt.due = []) (hfull : 16 ≤ ((s.tile t).dmaQ.atD (w.src % 4) []).length) : exec (.dma t g w) s = .next s := by
  refine congrArg Host.Outcome.next ?_
  rw [State.issue_runs s hruns]
  dsimp only
  rw [hleader]
  dsimp only
  rw [if_pos hfull]
  exact State.settle_of_done hdue

/-- An array instruction whose checks pass joins the array's queue. -/
theorem arrQueued (k : ArrKind) (hroom : (s.tile t).arrQ.length < 16) (hcheck : arrCheck s t (arrOpOf (s.group t g) g th k w) = none) :
    let s' := s.arrIssue t g k w
    (s'.tile t).arrQ = (s.tile t).arrQ ++ [arrOpOf (s.group t g) g th k w] ∧ s'.group t g = (s.group t g).next ∧ s'.mem = s.mem ∧
      (fmtTRes w true (decide (k = .mdrain)) = false → s'.regs = s.regs) := by
  rw [State.arrIssue_room hruns hleader k hroom hcheck]
  refine ⟨?_, ?_, ?_, fun hres => ?_⟩
  · rw [State.advance, State.setGroup, State.tile_setTile, State.tile_setTile, State.tileRes_tile]
  · refine (State.queued_group (s.tileRes t _) t g ?_).trans (congrArg Group.next (State.tileRes_group ..))
    exact fun _ => rfl
  · exact State.tileRes_mem ..
  · rw [hres]; rfl

/-- A push or pop whose checks pass joins the Pannier's queue of the tile. -/
theorem panQueued (push : Bool) (hroom : (s.tile t).panQ.length < 8)
    (hpush : push = true → (s.group t g).reg th (w.va + 1) % 64 = 0 ∧ 64 ≤ (s.group t g).reg th (w.va + 1))
    (hrange : (s.group t g).reg th w.va + (s.group t g).reg th (w.va + 1) ≤ 2 ^ 21)
    (hpop : push = false → w.axis = true → (s.group t g).reg th (w.va + 1) % (4096 * typeBits (if w.f1 ≤ 11 then w.f1 else 0) / 8) = 0) :
    let s' := s.panIssue t g push w
    s'.group t g = (s.group t g).next ∧ s'.mem = s.mem ∧ (s'.tile t).panQ.map (fun o => (o.push, o.addr, o.len, o.tag)) =
      (s.tile t).panQ.map (fun o => (o.push, o.addr, o.len, o.tag)) ++
        [(push, (s.group t g).reg th w.va, (s.group t g).reg th (w.va + 1), w.accRow)] := by
  have hissue : ∃ o : PanOp, (o.push, o.addr, o.len, o.tag) = (push, (s.group t g).reg th w.va, (s.group t g).reg th (w.va + 1), w.accRow) ∧
      s.panIssue t g push w = ((s.tileRes t (fmtTRes w false false)).setTile t (fun tl => { tl with panQ := tl.panQ ++ [o] })).advance t g := by
    unfold State.panIssue
    rw [State.issue_runs s hruns]
    dsimp only
    rw [hleader]
    dsimp only
    rw [if_neg (by omega), if_neg ?_, if_neg (by rw [tstoreBytes_eq]; omega)]
    · exact ⟨_, rfl, rfl⟩
    · cases push with
      | true => obtain ⟨h64, hmin⟩ := hpush rfl; simp [h64]; omega
      | false => cases haxis : w.axis with
        | true => simp [hpop rfl haxis]
        | false => simp
  obtain ⟨o, ho, hissue⟩ := hissue
  rw [hissue]
  refine ⟨?_, State.tileRes_mem .., ?_⟩
  · refine (State.queued_group (s.tileRes t _) t g ?_).trans (congrArg Group.next (State.tileRes_group ..))
    exact fun _ => rfl
  · rw [State.advance, State.setGroup, State.tile_setTile, State.tile_setTile, State.tileRes_tile, List.map_append, ← ho]
    rfl

/-- A DMA instruction whose descriptor passes its checks joins its channel's queue. -/
theorem exec_dma_queued {a : Nat} {bs : Bytes} (ha : a = (s.group t g).reg th w.va) (hbs : bs = s.sramRead (tstoreBase t + a) 64)
    (hroom : ((s.tile t).dmaQ.atD (w.src % 4) []).length < 16) (halign : a % 64 = 0) (hrange : a + 64 ≤ 0x200000)
    (hbad : s.rangeBad (tstoreBase t + a) 64 = none) (hcheck : dmaCheck (dmaFields bs) = none) (hdue : s.flt.due = []) :
    ∃ s', exec (.dma t g w) s = .next s' ∧ s'.group t g = (s.group t g).next ∧ s'.mem = s.mem ∧
      ((s'.tile t).dmaQ.atD (w.src % 4) []).map (fun d => d.bytes) = ((s.tile t).dmaQ.atD (w.src % 4) []).map (fun d => d.bytes) ++ [bs] := by
  have hexec : exec (.dma t g w) s = execDma t g w s := rfl
  rw [hexec, execDma, State.issue_runs s hruns]
  dsimp only
  rw [hleader]
  dsimp only
  rw [if_neg (by omega), State.tileRes_group, ← ha, if_neg (by omega), if_neg (by rw [tstoreBytes_eq]; omega), State.rangeBad_tileRes, State.sramRead_tileRes,
    if_neg (by simp [hbad]), ← hbs, hcheck]
  refine ⟨_, congrArg Host.Outcome.next (State.settle_of_done ?_), ?_, ?_, ?_⟩
  · exact ((State.tileRes_flt _ t _).trans (State.tileRes_flt s t _)).symm ▸ hdue
  · refine (State.queued_group ((s.tileRes t _).tileRes t _) t g ?_).trans ?_
    · exact fun _ => rfl
    · rw [State.tileRes_group, State.tileRes_group]
  · exact (State.tileRes_mem _ t _).trans (State.tileRes_mem s t _)
  · rw [State.advance, State.setGroup, State.tile_setTile, State.tile_setTile, Tab.atD_put_same, List.map_append]
    rfl

end Queues

/-! ### The units work through their queues (R160) -/

section Units

variable {s : State} {t ch : Nat} (hin : s.tileIn t = true)
include hin

theorem exec_arrayQueueStart {o : ArrOp} (hhead : (s.tile t).arrQ.head? = some o) (hidle : (s.tile t).arrBusy = false)
    (hrange : o.kind = .mstream → arrRange s t o = none) :
    exec (.arrayQueueStart t) s = .next (s.setTile t (fun tl => { tl with arrBusy := true })) := by
  have hcheck : (if o.kind = .mstream then arrRange s t o else none) = none := by
    split
    · next h => exact hrange h
    · rfl
  have hexec : exec (.arrayQueueStart t) s = execArrayQueueStart t s := rfl
  rw [hexec, execArrayQueueStart, hhead]
  dsimp only
  rw [if_neg (by simp [hidle, hin]), hcheck]

/-- The oldest operation, a swap, completes: the two blocks change places (R162). -/
theorem exec_arrayOpDone_mswap {o : ArrOp} {rest : List ArrOp} (hq : (s.tile t).arrQ = o :: rest) (hbusy : (s.tile t).arrBusy = true)
    (hkind : o.kind = .mswap) (hdue : s.flt.due = []) :
    ∃ s', exec (.arrayOpDone t) s = .next s' ∧ (s'.tile t).arrQ = rest ∧ (s'.tile t).arrBusy = false ∧
      (s'.tile t).active = (s.tile t).shadow ∧ (s'.tile t).shadow = (s.tile t).active := by
  have hgood : s.arrBad t o = none := by rw [State.arrBad, hkind]
  have hexec : exec (.arrayOpDone t) s = execArrayOpDone t s := rfl
  have hdone : s.arrDone t = ((s.setTile t (fun tl => { tl with shadow := tl.active, active := tl.shadow })).setTile t
      (fun tl => { tl with arrQ := rest, arrBusy := false })).settleQueues t := by
    rw [State.arrDone, hq, hbusy]
    dsimp only
    rw [hkind]
  rw [hexec, execArrayOpDone, hq, hbusy]
  dsimp only
  rw [if_neg (by simp [hin]), hgood, hdone]
  refine ⟨_, congrArg Host.Outcome.next (State.settle_of_done hdue), ?_, ?_, ?_, ?_⟩ <;>
    simp only [State.settleQueues, State.tile_setTile] <;> rfl

theorem exec_dmaDescStart {d : DmaDesc} (hhead : dmaHead s t ch = some d) (hbehind : d.behind = 0) (hidle : (s.tile t).dmaBusy.contains ch = false) :
    exec (.dmaDescStart t ch) s = .next ((s.setTile t (fun tl => { tl with dmaBusy := ch :: tl.dmaBusy })).dmaRun t ch false).settle := by
  have hexec : exec (.dmaDescStart t ch) s = execDmaDescStart t ch s := rfl
  rw [hexec, execDmaDescStart, hhead]
  exact congrArg Host.Outcome.next (if_neg (by simp only [hidle, hbehind, hin]; decide))

theorem exec_dmaDescDone (hbusy : (s.tile t).dmaBusy.contains ch = true) : exec (.dmaDescDone t ch) s = .next (s.dmaRun t ch true).settle :=
  congrArg Host.Outcome.next (if_pos (by simp only [hbusy, hin]; decide))

end Units

/-- Settles O19: an instruction that its unit's checks let pass appends its operation, a full queue leaves the state, and a unit takes
the head of its queue. -/
theorem tileLevelInstructionsQueue : Obligations.TileLevelInstructionsQueue := by
  unfold Obligations.TileLevelInstructionsQueue
  refine ⟨fun s t g th w hruns hleader => ⟨?array, ?pannier, ?dma⟩, fun s t g th w hruns hleader hdue => ⟨?arrayFull, ?dmaFull, ?pannierFull⟩,
    fun s t ch hin hdue => ⟨?start, ?swap, ?descriptor, ?descriptorDone⟩⟩
  case array =>
    intro i k hi o hslot hroom hcheck
    have hq := arrQueued hruns hleader k hroom hcheck
    simp only [List.mem_cons, Prod.mk.injEq, List.not_mem_nil, or_false] at hi
    obtain ⟨rfl, rfl⟩ | ⟨rfl, rfl⟩ | ⟨rfl, rfl⟩ | ⟨rfl, rfl⟩ | ⟨rfl, rfl⟩ := hi
    · exact ⟨_, if_pos hslot, hq⟩
    · exact ⟨_, rfl, hq⟩
    · exact ⟨_, if_pos hslot, hq⟩
    · exact ⟨_, if_pos hslot, hq⟩
    · exact ⟨_, rfl, hq⟩
  case pannier =>
    intro i push hi len hroom hpush hrange hpop
    have hq := panQueued hruns hleader push hroom hpush hrange hpop
    simp only [List.mem_cons, Prod.mk.injEq, List.not_mem_nil, or_false] at hi
    obtain ⟨rfl, rfl⟩ | ⟨rfl, rfl⟩ := hi <;> exact ⟨_, rfl, hq⟩
  case dma =>
    intro a bs q hroom halign hrange hbad hcheck hdue
    exact exec_dma_queued hruns hleader rfl rfl hroom halign hrange hbad hcheck hdue
  case arrayFull =>
    intro hfull hslot
    exact ⟨(if_pos hslot).trans (congrArg Host.Outcome.next (State.arrIssue_full hruns hleader .mload hfull)),
      congrArg Host.Outcome.next (State.arrIssue_full hruns hleader .mzero hfull)⟩
  case dmaFull => exact exec_dma_full hruns hleader hdue
  case pannierFull =>
    intro hfull
    exact ⟨congrArg Host.Outcome.next (State.panIssue_full hruns hleader true hfull),
      congrArg Host.Outcome.next (State.panIssue_full hruns hleader false hfull)⟩
  case start => exact fun o hhead hidle hrange => exec_arrayQueueStart hin hhead hidle hrange
  case swap => exact fun o rest hq hbusy hkind => exec_arrayOpDone_mswap hin hq hbusy hkind hdue
  case descriptor => exact fun d hhead hbehind hidle => exec_dmaDescStart hin hhead hbehind hidle
  case descriptorDone => exact exec_dmaDescDone hin

end Sys2Proof.Machine

/-! PROOF. One thread's loads, stores and atomics of its own tile store, and the access that is not aligned (R104, R171, R172, R185). -/

namespace Sys2Proof.Machine

/-! ### The tile store at its window (R58, R145) -/

/-- The state as an access without release finds it. -/
theorem State.released_relaxed (s : State) (t : Nat) {w : FmtM} (res : Bool) (h : w.order ≤ 1) : s.released t w res = s.tileRes t res :=
  if_neg (by simp; omega)

theorem State.windowUp_tileRes (s : State) {t : Nat} (ht : t < 1152) (c : Bool) {a : Nat} (ha : a < 0x200000) :
    (s.tileRes t c).windowUp (tstoreBase t + a) = s.windowUp (tstoreBase t + a) := by
  cases c with
  | false => rfl
  | true =>
    rw [State.windowUp, State.windowUp, windowTile_tstore ha]
    exact congrArg (s.enabled t && ·) (State.blkIn_pf s (f := F.TILE_STATUS_reserved_encoding) (by decide) (by omega)
      (by unfold tileDie; omega) (by unfold tileBlk tileNo; omega) 1)

theorem State.wordBad_none {s : State} (h : s.badWords = []) (pa n : Nat) : s.wordBad pa n = none := by
  rw [State.wordBad, h]
  split <;> rfl

/-- What an access of a window touches besides memory: wakes and counts. -/
theorem State.ioTouch_same (s : State) (pa : Nat) : (s.ioTouch pa).mem = s.mem ∧ (s.ioTouch pa).tiles = s.tiles ∧ (s.ioTouch pa).flt.due = s.flt.due ∧
    (s.ioTouch pa).badWords = s.badWords := by
  have hkeep := State.ioTouch_keeps (π := fun s : State => (s.mem, s.tiles, s.flt.due, s.badWords)) (fun _ _ _ _ _ _ _ _ _ _ _ _ => rfl) s pa
  simpa only [Prod.mk.injEq] using hkeep

theorem State.ioTouch_group (s : State) (pa t g : Nat) : (s.ioTouch pa).group t g = s.group t g :=
  congrArg (fun tiles : Tab Tile => (tiles.atD t {}).groups.atD g {}) (State.ioTouch_same s pa).2.1

/-- A piece of a window: no type of page decides about it. -/
def windowPiece (pa n : Nat) : MemPiece := ⟨pa, n, 3, 0, false⟩

section Pieces

variable {s : State} {t pa n : Nat} (hregion : s.region pa = .tstore) (hup : s.windowUp pa = true)
include hregion

theorem State.inTiers_tstore : inTiers s pa = false := by
  rw [inTiers, hregion]
  rfl

theorem State.pieceBad_tstore (ty : Nat) : s.pieceBad pa n ty = s.rangeBad pa n := by
  refine if_neg ?_
  rw [directRead, hregion]
  simp

include hup

theorem State.loadPieces_tstore (hgood : s.rangeBad pa n = none) : s.loadPieces t [windowPiece pa n] = .ok (s.sramRead pa n, s.ioTouch pa) := by
  have hpiece : s.loadPiece t (windowPiece pa n) = .ok (s.sramRead pa n, s.ioTouch pa) := by
    unfold State.loadPiece windowPiece
    simp only [hregion, State.inTiers_tstore hregion, State.pieceBad_tstore hregion, hgood, State.readPiece, State.readAt, hup,
      Bool.false_and, Bool.false_eq_true, reduceCtorEq, if_true, if_false]
  simp only [State.loadPieces, hpiece, List.append_nil]

theorem State.storePieces_tstore {bs : Bytes} (hgood : s.badWords = []) (hbs : bs.length = n) :
    s.storePieces t [windowPiece pa n] bs = .done ((s.ioTouch pa).sramPut pa bs) := by
  have hwrite : s.writeAt 0 pa bs = (s.ioTouch pa).sramPut pa bs := by
    obtain ⟨-, -, -, hwords⟩ := State.ioTouch_same s pa
    simp only [State.writeAt, hregion, hup, if_true]
    exact State.sramWrite_good _ (hwords.trans hgood) pa bs
  have hpiece : s.storePiece t (windowPiece pa n) bs = .done ((s.ioTouch pa).sramPut pa bs) := by
    unfold State.storePiece windowPiece
    simp only [hregion, State.inTiers_tstore hregion, hwrite, Bool.false_and, Bool.false_eq_true, reduceCtorEq, if_false]
  have htake : bs.take (windowPiece pa n).n = bs := List.take_of_length_le (by simp [windowPiece, hbs])
  simp only [State.storePieces, htake, hpiece]

/-- An atomic acts on the word at the controller, whatever its hint (R104, R172). -/
theorem State.atomPiece_tstore (hgood : s.badWords = []) (henc : encrypted pa = false) (near : Bool) (aop opnd nv : Nat) :
    s.atomPiece t near (windowPiece pa n) aop opnd nv = .ok (leVal (s.sramRead pa n),
      (s.ioTouch pa).sramPut pa (leBytes n (atomicNew aop n (leVal (s.sramRead pa n)) opnd nv))) := by
  obtain ⟨hmem, -, -, hwords⟩ := State.ioTouch_same s pa
  have hread : (s.ioTouch pa).sramRead pa n = s.sramRead pa n := by rw [State.sramRead, hmem, State.sramRead]
  have hbad : s.rangeBad pa n = none := by rw [State.rangeBad, henc]; exact State.wordBad_none hgood ..
  unfold State.atomPiece windowPiece
  simp only [hregion, hup, State.inTiers_tstore hregion, State.pieceBad_tstore hregion, hbad, State.atomicMem, henc, hread, Bool.false_and,
    Bool.and_false, Bool.not_true, Bool.false_eq_true, if_false]
  rw [State.sramWrite_good _ (hwords.trans hgood)]

end Pieces

theorem State.memPieces_tile (s : State) {t a n : Nat} (acc : Nat) (hrange : a + n ≤ 0x200000) :
    s.memPieces t acc 0 a n = (.ok [windowPiece (tstoreBase t + a) n], s) := by
  have hin : ¬ a + n > tstoreBytes := by rw [tstoreBytes_eq]; omega
  simp only [State.memPieces, if_true, hin, if_false]
  rfl

/-! ### A loaded value (R171) -/

/-- A thread's registers once a load of 8 to 64 bits returned v, with the free bits f above a short value (R171, log entry 21). -/
def Group.loaded (x : Group) (th vd size v f : Nat) : Group :=
  if size = 3 then x.setReg64 th vd v
  else if size = 2 then x.setReg th vd v
  else x.setReg th vd (v % 2 ^ (8 * sizeBytes size) + 2 ^ (8 * sizeBytes size) * (f % 2 ^ (32 - 8 * sizeBytes size)))

/-- The open value of a register's upper bits comes from nothing that a program sees. -/
theorem State.openValue_same (s : State) (fixed : Bool) (tag key : Nat) :
    (s.openValue fixed tag key).2.tiles = s.tiles ∧ (s.openValue fixed tag key).2.mem = s.mem ∧ (s.openValue fixed tag key).2.flt = s.flt := by
  cases fixed <;> exact ⟨rfl, rfl, rfl⟩

theorem State.loadReg_eq (s : State) (t g th vd v : Nat) {size : Nat} (hsize : size ≤ 3) :
    ∃ (s1 : State) (f : Nat), s1.tiles = s.tiles ∧ s1.mem = s.mem ∧ s1.flt = s.flt ∧
      s.loadReg t g th vd size v = s1.setGroup t g (fun x => x.loaded th vd size v f) := by
  unfold State.loadReg Group.loaded
  by_cases h3 : size = 3
  · simp only [if_pos h3]
    exact ⟨s, 0, rfl, rfl, rfl, rfl⟩
  · by_cases h2 : size = 2
    · have h4 : ¬ size = 4 := by omega
      simp only [if_neg h3, if_neg h4, if_pos h2]
      exact ⟨s, 0, rfl, rfl, rfl, rfl⟩
    · have h4 : ¬ size = 4 := by omega
      obtain ⟨htiles, hmem, hflt⟩ := s.openValue_same ((s.lapOf t).gear = gearFixed) (0x140 + size)
        (v + 2 ^ (8 * sizeBytes size) * (th + 32 * (g + 64 * (s.group t g).pc)))
      simp only [if_neg h3, if_neg h4, if_neg h2]
      exact ⟨_, _, htiles, hmem, hflt, rfl⟩

section Loaded

variable (x : Group) (th vd v f : Nat) {size : Nat}

theorem Group.loaded_flow (size : Nat) : (x.loaded th vd size v f).flow = x.flow := by
  unfold Group.loaded
  split
  · rfl
  · split <;> rfl

theorem Group.loaded_reg_ne (size : Nat) {th' : Nat} (hth : th' ≠ th) (r : Nat) : (x.loaded th vd size v f).reg th' r = x.reg th' r := by
  have hkeep : ∀ (y : Group) r' u, (y.setReg th r' u).reg th' r = y.reg th' r := fun y r' u => (y.setReg_threadSame hth r' u).1 r
  unfold Group.loaded Group.setReg64
  split
  · rw [hkeep, hkeep]
  · split <;> rw [hkeep]

/-- A double word stands in its register pair. -/
theorem Group.loaded_reg64 (hv : v < 2 ^ 64) : (x.loaded th vd 3 v f).reg64 th vd = v := by
  have hpair : ¬ (vd / 2 * 2) % 64 = (vd / 2 * 2 + 1) % 64 := by omega
  simp only [Group.loaded, if_true, Group.reg64, Group.setReg64, Group.reg_setReg, hpair, true_and, if_false]
  omega

theorem Group.next_reg64 (r : Nat) : x.next.reg64 th r = x.reg64 th r := by rw [Group.reg64, Group.next_reg, Group.next_reg, Group.reg64]

theorem Group.loaded_reg_word : (x.loaded th vd 2 v f).reg th vd = v % 2 ^ 32 := by
  simp [Group.loaded, Group.reg_setReg]

/-- A value of up to a word stands in the low bits of its register. -/
theorem Group.loaded_reg (hsize : size < 3) (hv : v < 256 ^ sizeBytes size) : (x.loaded th vd size v f).reg th vd % 2 ^ (8 * sizeBytes size) = v := by
  obtain rfl | rfl | rfl : size = 0 ∨ size = 1 ∨ size = 2 := by omega
  · simp [sizeBytes, Group.loaded, Group.reg_setReg] at hv ⊢
    omega
  · simp [sizeBytes, Group.loaded, Group.reg_setReg] at hv ⊢
    omega
  · rw [Group.loaded_reg_word]
    simp only [sizeBytes, List.getD_cons_zero, List.getD_cons_succ] at hv ⊢
    omega

end Loaded

/-! ### The number of a byte string -/

theorem leVal_lt : ∀ bs : Bytes, leVal bs < 256 ^ bs.length
  | [] => by simp [leVal]
  | b :: bs => by
    have hb := b.isLt
    have hbs := leVal_lt bs
    have hpow : 256 ^ (bs.length + 1) = 256 * 256 ^ bs.length := Nat.pow_succ'
    rw [leVal, List.length_cons, hpow]
    omega

theorem Mem.getBytes_length : ∀ (n : Nat) (m : Mem) (a : Nat), (Mem.getBytes m a n).length = n
  | 0, _, _ => rfl
  | n + 1, m, a => congrArg (· + 1) (Mem.getBytes_length n m (a + 1))

theorem State.leVal_sramRead_lt (s : State) (pa n : Nat) : leVal (s.sramRead pa n) < 256 ^ n := by
  have h := leVal_lt (s.sramRead pa n)
  rwa [show (s.sramRead pa n).length = n from Mem.getBytes_length ..] at h

theorem memSize_of_le {w : FmtM} (h : w.size ≤ 3) : memSize w = w.size := if_neg (by omega)

theorem alignCheck_of_le {z : Nat} (hz : z ≤ 3) (a : Nat) : alignCheck z a = if a % sizeBytes z = 0 then none else some St.misaligned := by
  have h4 : ¬ z = 4 := by omega
  rw [alignCheck, sizeAlign, if_neg h4]

theorem sizeBytes_pos {z : Nat} (hz : z ≤ 3) : 0 < sizeBytes z := by
  obtain rfl | rfl | rfl | rfl : z = 0 ∨ z = 1 ∨ z = 2 ∨ z = 3 := by omega
  all_goals decide

theorem storeBytes_length (x : Group) (th vd : Nat) {size : Nat} (h : size ≤ 3) : (storeBytes x th vd size).length = sizeBytes size := by
  have h4 : ¬ size = 4 := by omega
  unfold storeBytes
  by_cases h3 : size = 3
  · rw [if_pos h3, leBytes_length, h3]; rfl
  · rw [if_neg h3, if_neg h4, leBytes_length]

theorem State.loadPieces_tile (s : State) {t a n : Nat} (ht : t < 1152) (res : Bool) (hn : 0 < n) (hrange : a + n ≤ 0x200000)
    (hup : s.windowUp (tstoreBase t + a) = true) (hgood : s.rangeBad (tstoreBase t + a) n = none) :
    (s.tileRes t res).loadPieces t [windowPiece (tstoreBase t + a) n] =
      .ok (s.sramRead (tstoreBase t + a) n, (s.tileRes t res).ioTouch (tstoreBase t + a)) := by
  have h := State.loadPieces_tstore (s := s.tileRes t res) (t := t) (State.region_tstore _ ht (a := a) (by omega))
    ((State.windowUp_tileRes s ht res (by omega)).trans hup) ((State.rangeBad_tileRes s t res a n).trans hgood)
  rwa [State.sramRead_tileRes] at h

theorem State.storePieces_tile {s : State} (hgood : s.badWords = []) {t a n : Nat} (ht : t < 1152) (res : Bool) (hn : 0 < n)
    (hrange : a + n ≤ 0x200000) (hup : s.windowUp (tstoreBase t + a) = true) {bs : Bytes} (hbs : bs.length = n) :
    (s.tileRes t res).storePieces t [windowPiece (tstoreBase t + a) n] bs =
      .done (((s.tileRes t res).ioTouch (tstoreBase t + a)).sramPut (tstoreBase t + a) bs) :=
  State.storePieces_tstore (State.region_tstore _ ht (a := a) (by omega)) ((State.windowUp_tileRes s ht res (by omega)).trans hup)
    ((by cases res <;> rfl : (s.tileRes t res).badWords = s.badWords).trans hgood) hbs

theorem State.atomPiece_tile {s : State} (hgood : s.badWords = []) {t a n : Nat} (ht : t < 1152) (res : Bool) (hn : 0 < n)
    (hrange : a + n ≤ 0x200000) (hup : s.windowUp (tstoreBase t + a) = true) (near : Bool) (aop opnd nv : Nat) :
    (s.tileRes t res).atomPiece t near (windowPiece (tstoreBase t + a) n) aop opnd nv = .ok (leVal (s.sramRead (tstoreBase t + a) n),
      ((s.tileRes t res).ioTouch (tstoreBase t + a)).sramPut (tstoreBase t + a)
        (leBytes n (atomicNew aop n (leVal (s.sramRead (tstoreBase t + a) n)) opnd nv))) := by
  have h := State.atomPiece_tstore (s := s.tileRes t res) (t := t) (n := n) (State.region_tstore _ ht (a := a) (by omega))
    ((State.windowUp_tileRes s ht res (by omega)).trans hup) ((by cases res <;> rfl : (s.tileRes t res).badWords = s.badWords).trans hgood)
    (encrypted_tstore t a) near aop opnd nv
  rwa [State.sramRead_tileRes] at h

/-- What the touch of a window after the note of a reserved field leaves. -/
theorem State.ioTouch_tileRes (s : State) (t : Nat) (res : Bool) (pa : Nat) : ((s.tileRes t res).ioTouch pa).mem = s.mem ∧
    ((s.tileRes t res).ioTouch pa).tiles = s.tiles ∧ ((s.tileRes t res).ioTouch pa).flt.due = s.flt.due := by
  obtain ⟨hmem, htiles, hflt, -⟩ := State.ioTouch_same (s.tileRes t res) pa
  exact ⟨hmem.trans (State.tileRes_mem ..), htiles.trans (by cases res <;> rfl), hflt.trans (congrArg FltSt.due (State.tileRes_flt s t res))⟩

section Piece

variable {s s0 : State} {t g th n pa : Nat} {w : FmtM} (hruns : s.runs t g = true)
  (hth : threadsOf ((s.group t g).execMask w.pred w.pneg) = [th]) (htiles : s0.tiles = s.tiles) (hdue : s0.flt.due = [])
include hruns hth htiles hdue

/-- A load of one piece, as the piece is read. -/
theorem exec_ld_piece (hsize : w.size ≤ 3) (halign : memAddr (s.group t g) th w % sizeBytes w.size = 0) {bs : Bytes}
    (hplan : ∀ res, (s.released t w res).memPieces t accLoad (memSpace w) (memAddr (s.group t g) th w) (sizeBytes w.size) =
      (.ok [windowPiece pa n], s.tileRes t res))
    (hload : (s.tileRes t (memRes w (w.size = 3 && w.vd % 2 = 1))).loadPieces t [windowPiece pa n] = .ok (bs, s0)) :
    ∃ s' f, exec (.ld t g w) s = .next s' ∧ s'.mem = s0.mem ∧ s'.group t g = ((s.group t g).loaded th w.vd w.size (leVal bs) f).next := by
  obtain ⟨s1, f, htiles1, hmem1, hflt1, hreg⟩ := s0.loadReg_eq t g th w.vd (leVal bs) hsize
  have hgroup : s1.group t g = s.group t g :=
    congrArg (fun tiles : Tab Tile => (tiles.atD t {}).groups.atD g {}) (htiles1.trans htiles)
  have hexec : exec (.ld t g w) s = execLd t g w s := rfl
  rw [hexec, execLd, memSize_of_le hsize]
  refine ⟨(s1.setGroup t g (fun x => x.loaded th w.vd w.size (leVal bs) f)).advance t g, f,
    congrArg Host.Outcome.next (State.memOp_done hruns hth ?early (hplan _) rfl ?act ?due), ?mem, ?group⟩
  case early => rw [alignCheck_of_le hsize, if_pos halign]
  case act => simp only [hload, hreg]
  case due =>
    rw [State.setGroup_flt, hflt1]
    exact hdue
  case mem => rw [State.advance, State.setGroup_mem, State.setGroup_mem, hmem1]
  case group => rw [State.group_advance, State.group_setGroup, hgroup]

/-- An atomic of one word in one piece of a window, as it is performed there. -/
theorem exec_atom_piece (hsize : w.size = 2) (haop : w.aop ≤ 8) (halign : memAddr (s.group t g) th w % 4 = 0) {old : Nat}
    (hregion : ∀ s : State, s.region pa = .tstore)
    (hplan : ∀ res, (s.released t w res).memPieces t accStore (memSpace w) (memAddr (s.group t g) th w) 4 =
      (.ok [windowPiece pa n], s.tileRes t res))
    (hatom : (s.tileRes t (memRes w false)).atomPiece t (!w.far) (windowPiece pa n) w.aop ((s.group t g).reg th w.vb) ((s.group t g).reg th w.vb) =
      .ok (old, s0)) :
    ∃ s' f, exec (.atom t g w) s = .next s' ∧ s'.mem = s0.mem ∧ s'.group t g = ((s.group t g).loaded th w.vd 2 old f).next := by
  obtain ⟨s1, f, htiles1, hmem1, hflt1, hreg⟩ := s0.loadReg_eq t g th w.vd old (size := 2) (by omega)
  have hgroup : s1.group t g = s.group t g :=
    congrArg (fun tiles : Tab Tile => (tiles.atD t {}).groups.atD g {}) (htiles1.trans htiles)
  have h9 : ¬ w.aop > 9 := by omega
  have hcas : ¬ w.aop = 9 := by omega
  have hz : memSize w = 2 := (memSize_of_le (by omega)).trans hsize
  have hexec : exec (.atom t g w) s = execAtom t g w s := rfl
  have hpair : (decide (2 = 3) && (decide (w.vd % 2 = 1) || decide (w.vb % 2 = 1))) = false := rfl
  rw [hexec, execAtom, hz, if_neg h9, hpair]
  refine ⟨(s1.setGroup t g (fun x => x.loaded th w.vd 2 old f)).advance t g, f,
    congrArg Host.Outcome.next (State.memOp_done hruns hth ?early (hplan _) ?check ?act ?due), ?mem, ?group⟩
  case early => rw [alignCheck_of_le (by omega)]; exact if_pos halign
  case check =>
    rw [List.findSome?_cons, if_neg (by simp [windowPiece, hregion])]
    rfl
  case act => simp only [State.tileRes_group, if_neg hcas, show ¬ (2 = 3) by decide, if_false, hatom, hreg]
  case due =>
    rw [State.setGroup_flt, hflt1]
    exact hdue
  case mem => rw [State.advance, State.setGroup_mem, State.setGroup_mem, hmem1]
  case group => rw [State.group_advance, State.group_setGroup, hgroup]

end Piece

/-! ### One thread's access of its tile store -/

section TileAccess

variable {s : State} {t g th : Nat} {w : FmtM} (hruns : s.runs t g = true) (hspace : w.space = 0) (horder : w.order ≤ 1) (hdue : s.flt.due = [])
  (hth : threadsOf ((s.group t g).execMask w.pred w.pneg) = [th])

include hspace in
theorem memSpace_tile : memSpace w = 0 := by simp [memSpace, hspace]

include hspace horder in
theorem State.memPieces_released (acc n : Nat) (res : Bool) {a : Nat} (hrange : a + n ≤ 0x200000) :
    (s.released t w res).memPieces t acc (memSpace w) a n = (.ok [windowPiece (tstoreBase t + a) n], s.tileRes t res) := by
  rw [memSpace_tile hspace, State.released_relaxed s t res horder, State.memPieces_tile _ acc hrange]

include hruns hspace horder hdue hth

theorem exec_ld_tile (ht : t < 1152) (hsize : w.size ≤ 3) (halign : memAddr (s.group t g) th w % sizeBytes w.size = 0)
    (hrange : memAddr (s.group t g) th w + sizeBytes w.size ≤ 0x200000) (hup : s.windowUp (tstoreBase t + memAddr (s.group t g) th w) = true)
    (hgood : s.rangeBad (tstoreBase t + memAddr (s.group t g) th w) (sizeBytes w.size) = none) :
    ∃ s' f, exec (.ld t g w) s = .next s' ∧ s'.mem = s.mem ∧
      s'.group t g = ((s.group t g).loaded th w.vd w.size (leVal (s.sramRead (tstoreBase t + memAddr (s.group t g) th w) (sizeBytes w.size))) f).next := by
  obtain ⟨hmem, htiles, hflt⟩ := s.ioTouch_tileRes t (memRes w (w.size = 3 && w.vd % 2 = 1)) (tstoreBase t + memAddr (s.group t g) th w)
  obtain ⟨s', f, hexec, hmem', hgroup⟩ := exec_ld_piece hruns hth htiles (hflt.trans hdue) hsize halign
    (fun res => State.memPieces_released hspace horder _ _ res hrange) (s.loadPieces_tile ht _ (sizeBytes_pos hsize) hrange hup hgood)
  exact ⟨s', f, hexec, hmem'.trans hmem, hgroup⟩

theorem exec_st_tile (hgood : s.badWords = []) (ht : t < 1152) (hsize : w.size ≤ 3) (halign : memAddr (s.group t g) th w % sizeBytes w.size = 0)
    (hrange : memAddr (s.group t g) th w + sizeBytes w.size ≤ 0x200000) (hup : s.windowUp (tstoreBase t + memAddr (s.group t g) th w) = true) :
    ∃ s0 : State, s0.mem = s.mem ∧ s0.group t g = s.group t g ∧
      exec (.st t g w) s = .next ((s0.sramPut (tstoreBase t + memAddr (s.group t g) th w) (storeBytes (s.group t g) th w.vd w.size)).advance t g) := by
  generalize hres : memRes w (w.size = 3 && w.vd % 2 = 1) = res
  obtain ⟨hmem, htiles, hflt⟩ := s.ioTouch_tileRes t res (tstoreBase t + memAddr (s.group t g) th w)
  have hstore := State.storePieces_tile hgood ht res (sizeBytes_pos hsize) hrange hup (storeBytes_length (s.group t g) th w.vd hsize)
  have hexec : exec (.st t g w) s = execSt t g w s := rfl
  rw [hexec, execSt, memSize_of_le hsize, hres]
  refine ⟨(s.tileRes t res).ioTouch (tstoreBase t + memAddr (s.group t g) th w), hmem,
    congrArg (fun tiles : Tab Tile => (tiles.atD t {}).groups.atD g {}) htiles,
    congrArg Host.Outcome.next (State.memOp_done hruns hth ?early (State.memPieces_released hspace horder _ _ res hrange) rfl ?act (hflt.trans hdue))⟩
  case early => rw [alignCheck_of_le hsize, if_pos halign]
  case act => simp only [State.tileRes_group, hstore]

theorem exec_atom_tile (hgood : s.badWords = []) (ht : t < 1152) (hsize : w.size = 2) (haop : w.aop ≤ 8)
    (halign : memAddr (s.group t g) th w % 4 = 0)
    (hrange : memAddr (s.group t g) th w + 4 ≤ 0x200000) (hup : s.windowUp (tstoreBase t + memAddr (s.group t g) th w) = true) :
    let old := leVal (s.sramRead (tstoreBase t + memAddr (s.group t g) th w) 4)
    ∃ (s0 s' : State) (f : Nat), s0.mem = s.mem ∧ exec (.atom t g w) s = .next s' ∧
      s'.group t g = ((s.group t g).loaded th w.vd 2 old f).next ∧
      s'.mem = (s0.sramPut (tstoreBase t + memAddr (s.group t g) th w)
        (leBytes 4 (atomicNew w.aop 4 old ((s.group t g).reg th w.vb) ((s.group t g).reg th w.vb)))).mem := by
  intro old
  obtain ⟨hmem, htiles, hflt⟩ := s.ioTouch_tileRes t (memRes w false) (tstoreBase t + memAddr (s.group t g) th w)
  have hatom := State.atomPiece_tile hgood ht (memRes w false) (n := 4) (by omega) hrange hup (!w.far) w.aop ((s.group t g).reg th w.vb) ((s.group t g).reg th w.vb)
  generalize hput : State.sramPut _ (tstoreBase t + memAddr (s.group t g) th w) _ = s0 at hatom
  have hkeep : s0.tiles = s.tiles ∧ s0.flt.due = [] := hput ▸ ⟨htiles, hflt.trans hdue⟩
  obtain ⟨s', f, hexec, hmem', hgroup⟩ := exec_atom_piece hruns hth hkeep.1 hkeep.2 hsize haop halign
    (fun s => State.region_tstore s ht (by omega)) (fun res => State.memPieces_released hspace horder _ _ res hrange) hatom
  exact ⟨_, s', f, hmem, hexec, hgroup, hmem'.trans (congrArg State.mem hput.symm)⟩

end TileAccess

/-! ### An access that is not aligned (R171, R185) -/

theorem State.lapStop_gf_addr {s : State} {t : Nat} (hgoing : (s.tile t).stopped = false) (hlap : (s.tile t).lap.isSome = true)
    (status g th unit pc addr : Nat) : (s.lapStop t status g th unit pc addr).gf F.TILE_ERR_ADDR_addr t = addr % 2 ^ 64 := by
  obtain ⟨f, -, heq⟩ := State.lapStop_first hgoing hlap status g th unit pc addr
  rw [heq]
  exact State.gf_pf_same _ F.TILE_ERR_ADDR_addr t addr (by decide) (by decide)

theorem memAddr_lt (x : Group) (th : Nat) (w : FmtM) : memAddr x th w < 2 ^ 64 := by
  unfold memAddr uN
  omega

/-- A load or store whose address is not aligned to its size stops its lap, and performs nothing. -/
theorem exec_misaligned {s : State} {t g th : Nat} {w : FmtM} {i : Instr} (hi : i = .ld t g w ∨ i = .st t g w) (hruns : s.runs t g = true)
    (hsize : w.size ≤ 3) (horder : w.order ≤ 1) (hdue : s.flt.due = []) (hth : threadsOf ((s.group t g).execMask w.pred w.pneg) = [th])
    (hodd : memAddr (s.group t g) th w % sizeBytes w.size ≠ 0) :
    ∃ res, exec i s = .next ((s.tileRes t res).lapStop t St.misaligned g th uThread (s.group t g).pc (memAddr (s.group t g) th w)) := by
  have hearly : alignCheck w.size (memAddr (s.group t g) th w) = some St.misaligned := by
    rw [alignCheck_of_le hsize, if_neg hodd]
  refine ⟨memRes w (w.size = 3 && w.vd % 2 = 1), ?_⟩
  rcases hi with rfl | rfl
  · have hexec : exec (.ld t g w) s = execLd t g w s := rfl
    rw [hexec, execLd, memSize_of_le hsize]
    exact congrArg Host.Outcome.next (State.memOp_refused hruns hth hearly (by decide) hdue horder)
  · have hexec : exec (.st t g w) s = execSt t g w s := rfl
    rw [hexec, execSt, memSize_of_le hsize]
    exact congrArg Host.Outcome.next (State.memOp_refused hruns hth hearly (by decide) hdue horder)

/-- Settles O18: an access of one thread is planned as one piece of its tile's window, which is read or written there. -/
theorem tileLocalAccessesComplete : Obligations.TileLocalAccessesComplete := by
  unfold Obligations.TileLocalAccessesComplete
  refine ⟨?load, ?store, ?misaligned, ?atomic⟩
  case load =>
    intro s t g th w hruns _ ht hspace hsize horder _ _ hdue hth a n halign hrange hup hgood
    obtain ⟨s', f, hexec, hmem, hgroup⟩ := exec_ld_tile hruns hspace horder hdue hth ht hsize halign hrange hup hgood
    have hv := s.leVal_sramRead_lt (tstoreBase t + a) (sizeBytes w.size)
    refine ⟨s', hexec, hmem, ?_, fun h3 => ?_, fun hlt => ?_, fun th' r _ _ hne => ?_⟩
    · rw [hgroup]
      exact Group.next_pc_of_flow (Group.loaded_flow ..)
    · rw [hgroup, h3, Group.next_reg64]
      rw [h3] at hv
      exact Group.loaded_reg64 _ _ _ _ _ hv
    · rw [hgroup, Group.next_reg]
      exact Group.loaded_reg _ _ _ _ _ hlt hv
    · rw [hgroup, Group.next_reg]
      exact Group.loaded_reg_ne _ _ _ _ _ _ hne r
  case store =>
    intro s t g th w hruns _ ht hwf hspace hsize horder _ _ hdue hgood hth a n halign hrange hup
    obtain ⟨s0, hmem, hgroup, hexec⟩ := exec_st_tile hruns hspace horder hdue hth hgood ht hsize halign hrange hup
    have hlen := storeBytes_length (s.group t g) th w.vd hsize
    have hwf0 : Mem.wf s0.mem = true := hmem ▸ hwf
    have hread := State.sramRead_sramPut hwf0 (tstoreBase t + a) (storeBytes (s.group t g) th w.vd w.size)
    have hout := State.sameMemOutside_sramPut hwf0 (tstoreBase t + a) (storeBytes (s.group t g) th w.vd w.size)
    have hnext : ((s0.sramPut (tstoreBase t + a) (storeBytes (s.group t g) th w.vd w.size)).advance t g).group t g = (s.group t g).next :=
      (State.group_advance ..).trans (congrArg Group.next hgroup)
    rw [hlen] at hread hout
    refine ⟨_, hexec, Mem.wf_putBytes _ _ _ hwf0, hread, fun b hb => (hout b hb).trans (by rw [hmem]), congrArg Group.pc hnext, fun th' r => ?_⟩
    exact (congrArg (fun x : Group => x.reg th' r) hnext).trans (Group.next_reg ..)
  case misaligned =>
    intro s t g th w i hi hruns hlap hsize horder hdue _ hth hodd
    obtain ⟨res, hexec⟩ := exec_misaligned hi hruns hsize horder hdue hth hodd
    have hgoing := State.not_stopped_of_runs hruns
    rw [← State.tileRes_tile s t res t] at hgoing hlap
    exact ⟨_, hexec, State.lapStop_gf_status hgoing hlap .., State.lapStop_stopped hgoing hlap ..,
      (State.lapStop_mem ..).trans (State.tileRes_mem ..), (State.lapStop_gf_addr hgoing hlap ..).trans (Nat.mod_eq_of_lt (memAddr_lt ..))⟩
  case atomic =>
    intro s t g th w hruns _ ht hwf hspace hsize horder _ haop hdue hgood _ hth x pa halign hrange hup
    obtain ⟨s0, s', f, hmem, hexec, hgroup, hput⟩ := exec_atom_tile hruns hspace horder hdue hth hgood ht hsize haop halign hrange hup
    generalize hnew : atomicNew w.aop 4 (leVal (s.sramRead pa 4)) (x.reg th w.vb) (x.reg th w.vb) = new at hput
    have hlt : new < 2 ^ 32 := hnew ▸ atomicNew_lt ..
    have hwf0 : Mem.wf s0.mem = true := hmem ▸ hwf
    have hread := State.sramRead_sramPut hwf0 pa (leBytes 4 new)
    have hout := State.sameMemOutside_sramPut hwf0 pa (leBytes 4 new)
    rw [leBytes_length] at hread hout
    refine ⟨s', hexec, ?_, ?_, fun b hb => ?_⟩
    · rw [hgroup, Group.next_reg, Group.loaded_reg_word]
      exact Nat.mod_eq_of_lt (s.leVal_sramRead_lt pa 4)
    · have hpow : (256 : Nat) ^ 4 = 2 ^ 32 := by norm_num
      have hsame : s'.sramRead pa 4 = leBytes 4 new := (congrArg (fun m => Mem.getBytes m pa 4) hput).trans hread
      rw [hsame, leVal_leBytes, hpow]
    · exact (congrArg (Mem.get b) hput).trans ((hout b hb).trans (by rw [hmem]))

end Sys2Proof.Machine

/-! PROOF. Every command answers a next state (R29, R44, R153): a rule that turns a command away is a branch of its meaning, and every branch
ends in a next state. The meanings that do not begin with it are gone through by the chapter of their command. -/

namespace Sys2Proof.Machine

/-- A meaning that answers a next state. -/
def Answers (r : Res) : Prop := ∃ t, r = .next t

theorem answers_next (s : State) : Answers (.next s) := ⟨s, rfl⟩

theorem answers_ite {c : Prop} [Decidable c] {a b : Res} (ha : Answers a) (hb : Answers b) : Answers (if c then a else b) := by
  split
  · exact ha
  · exact hb

/-! ### Meanings that pass on the answer of another -/

theorem thenDrl_answers {r : Res} (h : Answers r) : Answers (thenDrl r) := by
  obtain ⟨t, rfl⟩ := h
  exact answers_next _

theorem execHello_answers (s : State) (n conn : Nat) (b : HelloBody) : Answers (execHello n conn b s) := by
  refine thenDrl_answers ?_
  dsimp only [helloIn]
  repeat' split
  all_goals exact answers_next _

theorem execHelloAck_answers (s : State) (n conn : Nat) (b : HelloBody) : Answers (execHelloAck n conn b s) := by
  refine thenDrl_answers ?_
  dsimp only [helloAckIn]
  repeat' split
  all_goals exact answers_next _

theorem execStreamDisable_answers (s : State) (role : Role) (n st : Nat) : Answers (execStreamDisable role n st s) := by
  unfold execStreamDisable
  split <;> exact answers_next _

theorem execStreamEnable_answers (s : State) (role : Role) (n st : Nat) (v : Word32) : Answers (execStreamEnable role n st v s) := by
  unfold execStreamEnable
  dsimp only
  split
  · exact answers_next _
  · split
    · split
      · exact answers_next _
      · exact execStreamDisable_answers ..
    · exact answers_next _

theorem execPfcRx_answers (s : State) (p l mask : Nat) (times : List Nat) : Answers (execPfcRx p l mask times s) := by
  unfold execPfcRx
  dsimp only
  split <;> exact answers_next _

theorem execFrameRx_answers (s : State) (p l : Nat) (f : Frame) (corr unc : Nat) : Answers (execFrameRx p l f s corr unc) := by
  unfold execFrameRx
  refine answers_ite (answers_next _) (answers_ite (answers_next _) (answers_ite (execPfcRx_answers ..) (answers_ite (answers_next _)
    (answers_ite (answers_next _) (answers_ite (answers_next _) (answers_ite ?ptp (answers_next _)))))))
  case ptp =>
    split
    exact answers_next _

/-- The frame is written as the Pannier lets it, or the tile is told what stops it. -/
theorem execPpushDone_answers (s : State) (t : Nat) : Answers (execPpushDone t s) := by
  unfold execPpushDone
  split
  · refine answers_ite (answers_next _) (answers_ite (answers_next _) ?_)
    split
    · exact answers_next _
    · generalize tstoreBase t + _ = pa
      dsimp only
      split
      · exact answers_ite (answers_next _) (answers_next _)
      · exact answers_ite (answers_next _) (answers_next _)
  · exact answers_next _

/-! ### Time, tandem, translation and core resets -/

theorem timeAndTranslation_answer (s : State) :
    (∀ t off write, Answers (execAbsentTileAccess t off write s)) ∧ (∀ node disagreeNs, Answers (execReplicaRealign node disagreeNs s)) ∧
    (∀ rising, Answers (execPpsInEdge rising s)) ∧ Answers (execPpsMissing s) ∧ Answers (execPpsOutPulse s) ∧
    Answers (execPpsOutEnd s) ∧ (∀ n, Answers (execSendReady n s)) ∧ (∀ n, Answers (execReady n s)) ∧
    (∀ n, Answers (execTBBroadcast n s)) ∧ (∀ n, Answers (execStepBoundary n s)) ∧ (∀ role v, Answers (execTandemCtrlWrite role v s)) ∧
    (∀ u imageOk, Answers (execUnitReinit u imageOk s)) ∧ (∀ role attr c v, Answers (execTransCtxWrite role attr c v s)) ∧
    (∀ role v, Answers (execTransInval role v s)) ∧ Answers (execTransInvalDone s) ∧ (∀ role v, Answers (execCatRootWrite role v s)) ∧
    (∀ ix, Answers (execLockedAccessRetry ix s)) ∧ Answers (execCoreFlushDone s) := by
  and_intros
  all_goals intros
  all_goals dsimp only [execAbsentTileAccess, execReplicaRealign, execPpsInEdge, execPpsMissing, execPpsOutPulse, execPpsOutEnd,
    execSendReady, execReady, execTBBroadcast, execStepBoundary, execTandemCtrlWrite, execUnitReinit, execTransCtxWrite, execTransInval,
    execTransInvalDone, execCatRootWrite, execLockedAccessRetry, execCoreFlushDone]
  all_goals repeat' split
  all_goals exact answers_next _

/-! ### Coherence and thread groups -/

theorem coherenceAndThreads_answer (s : State) :
    (∀ agent pa size aop operand newVal tag, Answers (execAtomicReq agent pa size aop operand newVal s tag)) ∧
    (∀ agent line tag, Answers (execWatchReq agent line s tag)) ∧ (∀ agent line, Answers (execDataMsg agent line s)) ∧
    (∀ line outcome, Answers (execMemReadDone line outcome s)) ∧ (∀ role t key, Answers (execTileRngKeyWrite role t key s)) ∧
    (∀ t g w, Answers (execXlut t g w s)) ∧ (∀ t g w, Answers (execXszp t g w s)) ∧ (∀ t g w, Answers (execLd t g w s)) ∧
    (∀ t g w, Answers (execSt t g w s)) ∧ (∀ t g w, Answers (execAtom t g w s)) ∧ (∀ t g w, Answers (execMload t g w s)) ∧
    (∀ t g w, Answers (execMstream t g w s)) ∧ (∀ t g w, Answers (execMdrain t g w s)) ∧ (∀ t g w, Answers (execSbind t g w s)) ∧
    (∀ t g w, Answers (execSget t g w s)) ∧ (∀ t g w, Answers (execAmax t g w s)) ∧ (∀ t g w, Answers (execBscale t g w s)) := by
  and_intros
  all_goals intros
  all_goals dsimp only [execAtomicReq, execWatchReq, execDataMsg, execMemReadDone, execTileRngKeyWrite, execXlut, execXszp, execLd, execSt,
    execAtom, execMload, execMstream, execMdrain, execSbind, execSget, execAmax, execBscale]
  all_goals repeat' split
  all_goals exact answers_next _

/-! ### Laps, jobs and folds -/

theorem laps_answer (s : State) :
    (∀ t, Answers (execArrayQueueStart t s)) ∧ (∀ t, Answers (execArrayOpDone t s)) ∧ (∀ t, Answers (execLapDispatch t s)) ∧
    (∀ t, Answers (execLapStart t s)) ∧ (∀ t, Answers (execLapEnd t s)) ∧ (∀ t slot, Answers (execSbindComplete t slot s)) ∧
    (∀ n j, Answers (execJobLastLapEnd n j s)) ∧ (∀ n j, Answers (execReconversionDone n j s)) ∧ (∀ n j, Answers (execJobComplete n j s)) ∧
    (∀ role d, Answers (execValidationFold role d s)) ∧ (∀ unit d, Answers (execFold unit d s)) := by
  and_intros
  all_goals intros
  all_goals dsimp only [execArrayQueueStart, execArrayOpDone, execLapDispatch, execLapStart, execLapEnd, execSbindComplete,
    execJobLastLapEnd, execReconversionDone, execJobComplete, execValidationFold, execFold]
  all_goals repeat' split
  all_goals exact answers_next _

/-! ### The Pannier -/

theorem pannier_answer (s : State) :
    (∀ t, Answers (execPpushStart t s)) ∧ (∀ t, Answers (execPpushDone t s)) ∧ (∀ t, Answers (execPpopDone t s)) ∧
    (∀ n unit, Answers (execSpillStart n unit s)) ∧ (∀ n unit, Answers (execPrefetchFillStart n unit s)) ∧
    (∀ n unit, Answers (execDemandFillStart n unit s)) ∧ (∀ n unit, Answers (execMoveDone n unit s)) ∧
    (∀ role n v, Answers (execPanClear role n v s)) ∧ (∀ role n v, Answers (execPanSizesWrite role n v s)) ∧
    (∀ role n v, Answers (execPanEnable role n v s)) := by
  refine ⟨?_, execPpushDone_answers s, ?_, ?_, ?_, ?_, ?_, ?_, ?_, ?_⟩
  all_goals intros
  all_goals dsimp only [execPpushStart, execPpopDone, execSpillStart, execPrefetchFillStart, execDemandFillStart, execMoveDone,
    execPanClear, execPanSizesWrite, execPanEnable]
  all_goals repeat' split
  all_goals exact answers_next _

/-! ### The NME and re-encryption -/

theorem nme_answer (s : State) :
    (∀ role unit bank ix v, Answers (execNmeProgWrite role unit bank ix v s)) ∧ (∀ role unit, Answers (execProgCommit role unit s)) ∧
    (∀ unit, Answers (execSweepPhaseN unit s)) ∧ (∀ unit, Answers (execSweepMrDone unit s)) ∧
    (∀ unit, Answers (execSweepShardUpdate unit s)) ∧ (∀ unit tid, Answers (execPrefoldRequest unit tid s)) ∧
    (∀ unit, Answers (execSweepPrefold unit s)) ∧ (∀ unit, Answers (execSweepShardDerive unit s)) ∧
    (∀ unit, Answers (execSweepPhaseX unit s)) ∧ (∀ unit, Answers (execSweepCommit unit s)) ∧
    (∀ unit shard, Answers (execRepairRetry unit shard s)) ∧ (∀ unit, Answers (execNmeEnd unit s)) ∧
    (∀ role unit v, Answers (execRekeyGo role unit v s)) ∧ (∀ mc unit, Answers (execRekeyChunkDone mc unit s)) ∧
    (∀ mc unit, Answers (execRekeyPageDone mc unit s)) ∧ (∀ role m v, Answers (execMcRekeyGo role m v s)) := by
  and_intros
  all_goals intros
  all_goals dsimp only [execNmeProgWrite, execProgCommit, execSweepPhaseN, execSweepMrDone, execSweepShardUpdate, execPrefoldRequest,
    execSweepPrefold, execSweepShardDerive, execSweepPhaseX, execSweepCommit, execRepairRetry, execNmeEnd, execRekeyGo, execRekeyChunkDone,
    execRekeyPageDone, execMcRekeyGo]
  all_goals repeat' split
  all_goals exact answers_next _

/-! ### Streams -/

theorem streams_answer (s : State) :
    (∀ role n sq v, Answers (execStreamEnable role n sq v s)) ∧ (∀ role n sq, Answers (execStreamDisable role n sq s)) ∧
    (∀ role n sq, Answers (execHaltClear role n sq s)) ∧ (∀ n sq, Answers (execEntryFetch n sq s)) ∧
    (∀ n m, Answers (execMbRoundStart n m s)) ∧ (∀ n w, Answers (execWaitTimeout n w s)) := by
  refine ⟨execStreamEnable_answers s, ?_, ?_, ?_, ?_, ?_⟩
  all_goals intros
  all_goals dsimp only [execStreamDisable, execHaltClear, execEntryFetch, execMbRoundStart, execWaitTimeout]
  all_goals repeat' split
  all_goals exact answers_next _

/-! ### Ethernet -/

theorem ethernet_answer (s : State) :
    (∀ p l corr unc, Answers (execLinkDown p l s corr unc)) ∧ (∀ p l, Answers (execLinkUp p l s)) ∧
    (∀ p, Answers (execRetrainTimeout p s)) ∧ (∀ role p mode, Answers (execPortModeWrite role p mode s)) ∧
    (∀ p l f corr unc, Answers (execFrameRx p l f s corr unc)) ∧ (∀ p l c, Answers (execPfcRepeat p l c s)) ∧
    (∀ p l mask quanta, Answers (execPfcRx p l mask quanta s)) ∧ (∀ p l c, Answers (execPfcWatchdog p l c s)) ∧
    (∀ p l an, Answers (execSakInstall p l an s)) ∧ (∀ p l an, Answers (execSakRetire p l an s)) ∧
    (∀ p l, Answers (execMkaLifetimeExpiry p l s)) ∧ (∀ role v, Answers (execVnfEnable role v s)) ∧ (∀ v, Answers (execVnfTxPoll v s)) ∧
    (∀ v, Answers (execVnfItrExpiry v s)) := by
  refine ⟨?_, ?_, ?_, ?_, execFrameRx_answers s, ?_, ?_, ?_, ?_, ?_, ?_, ?_, ?_, ?_⟩
  all_goals intros
  all_goals dsimp only [execLinkDown, execLinkUp, execRetrainTimeout, execPortModeWrite, execPfcRepeat, execPfcRx, execPfcWatchdog,
    execSakInstall, execSakRetire, execMkaLifetimeExpiry, execVnfEnable, execVnfTxPoll, execVnfItrExpiry]
  all_goals repeat' split
  all_goals exact answers_next _

/-! ### Aedian Transport -/

theorem transport_answer (s : State) :
    (∀ role n, Answers (execAtEnable role n s)) ∧ (∀ role n conn, Answers (execConnOpen role n conn s)) ∧
    (∀ role n conn, Answers (execConnClose role n conn s)) ∧ (∀ role n conn, Answers (execConnReset role n conn s)) ∧
    (∀ n h, Answers (execCnp n h s)) ∧ (∀ n conn, Answers (execRateIncreaseTimer n conn s)) ∧ (∀ n conn, Answers (execAckTimer n conn s)) ∧
    (∀ n conn b, Answers (execHello n conn b s)) ∧ (∀ n conn b, Answers (execHelloAck n conn b s)) ∧
    (∀ n conn code, Answers (execHelloNak n conn code s)) ∧ (∀ n conn, Answers (execHelloTimer n conn s)) := by
  refine ⟨?_, ?_, ?_, ?_, ?_, ?_, ?_, execHello_answers s, execHelloAck_answers s, ?_, ?_⟩
  all_goals intros
  all_goals dsimp only [execAtEnable, execConnOpen, execConnClose, execConnReset, execCnp, execRateIncreaseTimer, execAckTimer,
    execHelloNak, execHelloTimer]
  all_goals repeat' split
  all_goals exact answers_next _

/-! ### The Derailleur -/

theorem derailleur_answer (s : State) :
    (∀ role n v, Answers (execDrlEnable role n v s)) ∧
    (∀ role n slotWin ix off width v, Answers (execRouteWindowWrite role n slotWin ix off width v s)) ∧
    (∀ n, Answers (execRouteSaveDone n s)) ∧ (∀ n coll, Answers (execCollStartInstant n coll s)) ∧
    (∀ n coll, Answers (execStageReserve n coll s)) ∧ (∀ n fromDie, Answers (execVerdictTerm n fromDie s)) ∧
    (∀ n, Answers (execVerdictResult n s)) ∧ (∀ n coll, Answers (execDrlTimeout n coll s)) := by
  and_intros
  all_goals intros
  all_goals dsimp only [execDrlEnable, execRouteWindowWrite, execRouteSaveDone, execCollStartInstant, execStageReserve, execVerdictTerm,
    execVerdictResult, execDrlTimeout]
  all_goals repeat' split
  all_goals exact answers_next _

/-! ### PCIe, the mailbox and the Chainring -/

theorem pcieAndSecurity_answer (s : State) :
    (∀ role m v, Answers (execIommuDtInval role m v s)) ∧ (∀ m, Answers (execIommuDtInvalDone m s)) ∧
    (∀ r l, Answers (execPcieRecoveryEnter r l s)) ∧ (∀ r l, Answers (execPcieRecoveryExit r l s)) ∧
    (∀ r l speed width flit cxl, Answers (execPcieLinkUp r l speed width flit cxl s)) ∧
    (∀ ix seq p m harts va len, Answers (execBindHart ix seq p m harts va len s)) ∧
    (∀ ix seq p slot ctx header chunks, Answers (execHuskLoad ix seq p slot ctx header chunks s)) ∧
    (∀ ix, Answers (execMboxResponse ix s)) ∧ (∀ node k tagOk cell, Answers (execCrCellRx node k tagOk cell s)) ∧
    (∀ node k, Answers (execCrLinkRekey node k s)) := by
  and_intros
  all_goals intros
  all_goals dsimp only [execIommuDtInval, execIommuDtInvalDone, execPcieRecoveryEnter, execPcieRecoveryExit, execPcieLinkUp, execBindHart,
    execHuskLoad, execMboxResponse, execCrCellRx, execCrLinkRekey]
  all_goals repeat' split
  all_goals exact answers_next _

/-! ### Faults and repair -/

theorem faults_answer (s : State) :
    (∀ node b src detail, Answers (execFaultEvent node b src detail s)) ∧ (∀ role node b mask, Answers (execFltForce role node b mask s)) ∧
    (∀ role node b, Answers (execFltIsolate role node b s)) ∧ (∀ role node b pass, Answers (execFltRestore role node b pass s)) ∧
    (∀ role node b pass, Answers (execFltReset role node b pass s)) ∧ (∀ node b pass, Answers (execQuietPeriodEnd node b pass s)) ∧
    (∀ role node b v, Answers (execFltRecoveryClear role node b v s)) ∧ (∀ node b, Answers (execRecentWindowExpiry node b s)) ∧
    (∀ pa found pch bank row, Answers (execPatrolScrub pa found pch bank row s)) ∧ (∀ role c v, Answers (execRowRepair role c v s)) ∧
    (∀ c, Answers (execRowRepairDone c s)) := by
  and_intros
  all_goals intros
  all_goals dsimp only [execFaultEvent, execFltForce, execFltIsolate, execFltRestore, execFltReset, execQuietPeriodEnd,
    execFltRecoveryClear, execRecentWindowExpiry, execPatrolScrub, execRowRepair, execRowRepairDone]
  all_goals repeat' split
  all_goals exact answers_next _

/-! ### Supply, management and power -/

theorem supply_answer (s : State) :
    Answers (execPowerfailAssert s) ∧ Answers (execSagSaveDone s) ∧ Answers (execPowerfailRelease s) ∧
    (∀ h, Answers (execBadMessage h s)) ∧ (∀ pskId finishedOk rateOk, Answers (execDtlsHandshake pskId finishedOk rateOk s)) ∧
    (∀ session, Answers (execSessionIdleTimeout session s)) ∧ (∀ bytes crc, Answers (execI3cPrivateWrite bytes crc s)) ∧
    Answers (execI3cPrivateRead s) ∧ (∀ addr, Answers (execEntdaa addr s)) ∧ (∀ hart c, Answers (execOdcGo hart c s)) ∧
    (∀ mw mainMv auxMv, Answers (execPowerSample mw mainMv auxMv s)) ∧ (∀ unit centiC, Answers (execTempSample unit centiC s)) ∧
    (∀ role gear, Answers (execGearRequest role gear s)) ∧ Answers (execMainInputLoss s) ∧ Answers (execMainInputRestore s) ∧
    (∀ c, Answers (execRefclkLoss c s)) ∧ (∀ c trueNs, Answers (execRefclkReturn c trueNs s)) ∧ Answers (execPackageReset s) ∧
    (∀ ok info, Answers (execStartupStepDone ok info s)) ∧ (∀ role pa width v node, Answers (execRegWrite role pa width v s node)) ∧
    (∀ u, Answers (execIslandSleep u s)) ∧ Answers (execCoreBootDone s) ∧
    (∀ agent pa write len data, Answers (execWindowAccess agent pa write len data s)) ∧ Answers (execAuxInputLoss s) ∧
    Answers (execAuxInputApply s) ∧ (∀ ok, Answers (execNvCommitDone ok s)) := by
  and_intros
  all_goals intros
  all_goals dsimp only [execPowerfailAssert, execSagSaveDone, execPowerfailRelease, execBadMessage, execDtlsHandshake,
    execSessionIdleTimeout, execI3cPrivateWrite, execI3cPrivateRead, execEntdaa, execOdcGo, execPowerSample, execTempSample,
    execGearRequest, execMainInputLoss, execMainInputRestore, execRefclkLoss, execRefclkReturn, execPackageReset, execStartupStepDone,
    execRegWrite, execIslandSleep, execCoreBootDone, execWindowAccess, execAuxInputLoss, execAuxInputApply, execNvCommitDone]
  all_goals repeat' split
  all_goals exact answers_next _

/-- Settles O3, by the chapters of the commands; the other meanings are a next state as they stand. -/
theorem noCommandStops : Obligations.NoCommandStops := by
  intro i s
  change Answers (exec i s)
  cases i with
  | absentTileAccess | replicaRealign | ppsInEdge | ppsMissing | ppsOutPulse | ppsOutEnd | sendReady | ready | tBBroadcast | stepBoundary
  | tandemCtrlWrite | unitReinit | transCtxWrite | transInval | transInvalDone | catRootWrite | lockedAccessRetry
  | coreFlushDone =>
    simp only [exec, timeAndTranslation_answer s]
  | atomicReq | watchReq | dataMsg | memReadDone | tileRngKeyWrite | xlut | xszp | ld | st | atom | mload | mstream | mdrain | sbind
  | sget | amax | bscale =>
    simp only [exec, coherenceAndThreads_answer s]
  | arrayQueueStart | arrayOpDone | lapDispatch | lapStart | lapEnd | sbindComplete | jobLastLapEnd | reconversionDone | jobComplete
  | validationFold | fold =>
    simp only [exec, laps_answer s]
  | ppushStart | ppushDone | ppopDone | spillStart | prefetchFillStart | demandFillStart | moveDone | panClear | panSizesWrite
  | panEnable =>
    simp only [exec, pannier_answer s]
  | nmeProgWrite | progCommit | sweepPhaseN | sweepMrDone | sweepShardUpdate | prefoldRequest | sweepPrefold | sweepShardDerive
  | sweepPhaseX | sweepCommit | repairRetry | nmeEnd | rekeyGo | rekeyChunkDone | rekeyPageDone
  | mcRekeyGo =>
    simp only [exec, nme_answer s]
  | streamEnable | streamDisable | haltClear | entryFetch | mbRoundStart | waitTimeout =>
    simp only [exec, streams_answer s]
  | linkDown | linkUp | retrainTimeout | portModeWrite | frameRx | pfcRepeat | pfcRx | pfcWatchdog | sakInstall | sakRetire
  | mkaLifetimeExpiry | vnfEnable | vnfTxPoll | vnfItrExpiry =>
    simp only [exec, ethernet_answer s]
  | atEnable | connOpen | connClose | connReset | cnp | rateIncreaseTimer | ackTimer | hello | helloAck | helloNak
  | helloTimer =>
    simp only [exec, transport_answer s]
  | drlEnable | routeWindowWrite | routeSaveDone | collStartInstant | stageReserve | verdictTerm | verdictResult
  | drlTimeout =>
    simp only [exec, derailleur_answer s]
  | iommuDtInval | iommuDtInvalDone | pcieRecoveryEnter | pcieRecoveryExit | pcieLinkUp | bindHart | huskLoad | mboxResponse | crCellRx
  | crLinkRekey =>
    simp only [exec, pcieAndSecurity_answer s]
  | faultEvent | fltForce | fltIsolate | fltRestore | fltReset | quietPeriodEnd | fltRecoveryClear | recentWindowExpiry | patrolScrub
  | rowRepair | rowRepairDone =>
    simp only [exec, faults_answer s]
  | powerfailAssert | sagSaveDone | powerfailRelease | badMessage | dtlsHandshake | sessionIdleTimeout | i3cPrivateWrite | i3cPrivateRead
  | entdaa | odcGo | powerSample | tempSample | gearRequest | mainInputLoss | mainInputRestore | refclkLoss | refclkReturn | packageReset
  | startupStepDone | regWrite | islandSleep | coreBootDone | windowAccess | auxInputLoss | auxInputApply
  | nvCommitDone =>
    simp only [exec, supply_answer s]
  | _ => exact answers_next _

end Sys2Proof.Machine
